-- ==== Sys2Proof/Word.lean ====
section
/-! DEFINITION. Word types and byte order (R9, R10): bytes, words and little-endian byte lists. -/

namespace Sys2Proof

abbrev Byte := BitVec 8
abbrev Half := BitVec 16
abbrev Word := BitVec 32
abbrev Dword := BitVec 64

/-- Byte `i` of a value, byte 0 least significant (R10). -/
def byteOf {w : Nat} (v : BitVec w) (i : Nat) : Byte := (v >>> (8 * i)).setWidth 8

/-- The first `n` bytes of a value, little-endian (R10). -/
def leBytes {w : Nat} (n : Nat) (v : BitVec w) : List Byte := (List.range n).map (byteOf v)

/-- The first `n` bytes of a natural number, little-endian (R10). -/
def natBytes (n : Nat) (v : Nat) : List Byte :=
  (List.range n).map fun i => BitVec.ofNat 8 (v / 2 ^ (8 * i))

/-- The number a little-endian byte list holds (R10). -/
def bytesNat : List Byte → Nat
  | [] => 0
  | b :: bs => b.toNat + 256 * bytesNat bs

/-- `n` bytes of a list from offset `o` on; bytes past the end read 0. -/
def byteField (bs : List Byte) (o n : Nat) : Nat :=
  bytesNat ((List.range n).map fun i => bs.getD (o + i) 0)

/-- Bits `[lo + n - 1 : lo]` of a natural number. -/
def natBits (v lo n : Nat) : Nat := v / 2 ^ lo % 2 ^ n

/-- Bits `[lo + n - 1 : lo]` of a word, as a number. -/
def fieldOf {w : Nat} (v : BitVec w) (lo n : Nat) : Nat := natBits v.toNat lo n

/-- Bit `i` of a word. -/
def bitOf {w : Nat} (v : BitVec w) (i : Nat) : Bool := v.getLsbD i

/-- The word whose only set bit is `i`. -/
def bit32 (i : Nat) : Word := BitVec.ofNat 32 (2 ^ i)

/-- 1 for true, 0 for false. -/
def flag (b : Bool) : Nat := if b then 1 else 0

/-- The element of a list at an index, replaced. -/
def updAt {α : Type} (l : List α) (i : Nat) (f : α → α) : List α := l.modify i f

end Sys2Proof
end

