-- ==== Sys2Proof/Syntax.lean ====
section
/-! DEFINITION. The commands of the block: one constructor per row of the operation and event table, with the
operands that the rule of the row names. An operand is what the outside (a host, a partner, a wire, a timer, a die's
own physics) brings; everything else a step needs stands in the state. -/

namespace Sys2Proof

/-- The two host ports (R321). -/
inductive Port where
  | a | b
  deriving DecidableEq, Repr

/-- The four owners of R7. -/
inductive Owner where
  | portA | portB | harbourmaster | debug
  deriving DecidableEq, Repr

/-- Owner numbers of R7. -/
def Owner.number : Owner → Nat
  | .portA => 1
  | .portB => 2
  | .harbourmaster => 3
  | .debug => 4

def Port.owner : Port → Owner
  | .a => .portA
  | .b => .portB

def Port.other : Port → Port
  | .a => .b
  | .b => .a

/-- A mailbox: its set and its number (R326). -/
structure MbxId where
  set : Port
  n : Fin 16
  deriving DecidableEq, Repr

/-- A Quay: its port and its number (R348). -/
structure QuayId where
  port : Port
  q : Fin 64
  deriving DecidableEq, Repr

/-- The way a Salsia command came in: a mailbox, a Quay, or a vendor-defined request of a secured session (R464). -/
inductive Via where
  | mbx (m : MbxId)
  | quay (q : QuayId)
  | doe (p : Port)
  deriving DecidableEq, Repr

/-- An outstanding command: its path and its tag (R347). -/
structure CmdId where
  via : Via
  tag : Half
  deriving DecidableEq, Repr

/-- One element of a data list (R344). -/
structure DataElem where
  addr : Dword
  len : Nat
  reservedZero : Bool
  deriving DecidableEq, Repr

/-- The host memory that a command reads: whether the access failed, the data list when FLAGS.LIST is set, and the
bytes of the data buffer (R344). -/
structure HostData where
  fault : Bool
  list : List DataElem
  bytes : List Byte
  deriving DecidableEq, Repr

/-- A request: stream, batch sequence number and slot index (R25, R68). -/
structure ReqKey where
  stream : Fin 64
  batch : Nat
  slot : Nat
  deriving DecidableEq, Repr

/-- The stages of R44. -/
inductive Stage where
  | lookup | issue | flash | decode | transform | pack | egress
  deriving DecidableEq, Repr

/-- The four traffic classes of R16. -/
inductive TrafficClass where
  | management | control | request | data
  deriving DecidableEq, Repr

/-- A Slipway flit: idle, the PARK and UNPARK of R440, or traffic of a class from one die to another (SPDs 0 to 7, I/O
dies 8 and 9, media dies 10 and 11), with its place among the flits of that class and pair (R16). -/
inductive FlitKind where
  | idle | park | unpark
  | traffic (cls : TrafficClass) (src dst : Fin 12) (place : Nat)
  deriving DecidableEq, Repr

/-- The engine kinds of reason 0x06 (R480). -/
inductive EngineKind where
  | de | te | pe | ke | ce | pu | cvu
  deriving DecidableEq, Repr

/-- A Check-Value Unit: one of the window's eight, one of an SPD, or one of a media die (R13, R416). -/
inductive CheckUnit where
  | window (n : Fin 8)
  | spd (die : Fin 8) (unit : Fin 8)
  | media (die : Fin 2) (unit : Fin 4)
  deriving DecidableEq, Repr

/-- The places a memory error can fall (R123). -/
inductive MemPlace where
  | berth (spd : Fin 8) (req : Option ReqKey)
  /-- a Berth that a serve Mooring presents to a peer, at an address of that Mooring (R292) -/
  | serveBerth (spd : Fin 8) (mooring va : Nat)
  | cacheExtent (spd : Fin 8) (decoded : Bool) (dsSlot : Nat) (index : Nat) (remote : Bool)
  | mapSegment (spd : Fin 8) (segment : Nat) (bothCopies : Bool)
  | firmware (spd : Fin 8)
  | writeBuffer (spd : Fin 8) (bothCopies : Bool)
  | textTables (spd : Fin 8)
  /-- an address of the job address space (R276) -/
  | jobSpace (va : Nat)
  deriving DecidableEq, Repr

/-- An HBM row: stack and row number (R123). -/
structure HbmRow where
  stack : Fin 24
  row : Nat
  deriving DecidableEq, Repr

/-! Decode inputs. The model reads wrappers, headers and frame indexes out of the stored bytes, and decodes JPEG, PNG, FLAC
and WAV from them; what the decoders of JPEG XL, AV1, HEVC and Opus find, whose standards the manual only names, is an
operand, and every check and every sum that the manual states is done on it. -/

/-- An output frame of a video sample: its number, its element values plane by plane, and those with film grain synthesised
where the bitstream carries grain parameters for it. -/
structure ShownFrame where
  num : Nat
  values : List Int
  grained : Option (List Int)
  deriving DecidableEq, Repr

/-- What the decoder of a payload finds in step 8 of R156. -/
inductive PayloadData where
  /-- the decoder's output elements before pre-skip: Opus -/
  | values (vals : List Int)
  /-- JPEG XL: binary32 samples, all channels of a pixel together; those of XYB as the codestream holds them, others scaled to the
  integer range -/
  | reals (vals : List Word)
  | frames (fs : List ShownFrame)
  /-- the payload is decoded from its bytes: JPEG, PNG, FLAC and WAV -/
  | plain
  deriving DecidableEq, Repr

/-- The coding tree units or superblocks of one frame of the decoded span (R166): columns, rows and size in luma pixels, the
units of the same frame that each unit's intra prediction, intra block copy and OBMC need, and those of earlier frames
whose filtered pixels it reads, by their place in the span. -/
structure FrameUnits where
  cols : Nat
  rows : Nat
  size : Nat
  intra : List (Nat × List Nat)
  refs : List (Nat × List (Nat × Nat))
  deriving DecidableEq, Repr

/-- What one Decode Engine pass meets (R156). -/
structure DecodeInput where
  /-- a JPEG XL codestream holds a frame beyond frame 0 -/
  moreFrames : Bool
  /-- what step 8 finds of JPEG XL, video and Opus: the bitstream keeps to its standard, and reaches its end -/
  syntaxOk : Bool
  truncated : Bool
  content : PayloadData
  /-- bytes of the working buffers that step 7 draws -/
  working : List Nat
  units : List FrameUnits
  deriving DecidableEq, Repr

/-- How one codeword of a read ended: the step of R104 that decoded it (1 to 4), or none, and its bit errors. -/
structure CodewordResult where
  step : Option Nat
  errors : Nat
  /-- reads at the package's retry levels that it took -/
  retries : Nat
  deriving DecidableEq, Repr

/-- What a program writes: a unit of the write buffer, a copy of the unit in a slot, or a filler unit (R92, R100). -/
inductive ProgramSource where
  | unit (lua : Nat)
  | copy (pua : Nat)
  | filler
  deriving DecidableEq, Repr

/-- A step mark as it arrives (R35). -/
structure MarkDatagram where
  port : Fin 8
  destPort : Nat
  /-- source address, 16 bytes -/
  source : BitVec 128
  payload : List Byte
  /-- hardware receive timestamp -/
  rx : Dword
  deriving DecidableEq, Repr

/-- One element of what a channel, an edge, a codec or a sensor reports at a link-test target (R485). -/
inductive LtKind where
  | ethernet | pcie | slipway | flash | hbm
  deriving DecidableEq, Repr

/-- The package's parameter page (R86, R87): blocks and native unit slots per block of a die, QLC, array-read planes
and page size, rated endurance. -/
structure Geometry where
  part : Nat
  luns : Nat
  /-- bits a cell stores in native mode -/
  cell : Nat
  blocks : Nat
  unitsPerBlock : Nat
  /-- rated program/erase cycles -/
  rated : Nat
  planes : Nat
  /-- KiB of data in a page, and bytes of spare area for each 16 KiB of them -/
  pageKib : Nat
  spare : Nat
  retryLevels : Nat
  lpddr4 : Bool
  suspend : Bool
  slcMode : Bool
  deriving DecidableEq, Repr

/-- The native mode is QLC. -/
def Geometry.qlc (g : Geometry) : Bool := g.cell == 4

/-- The checks of R85 to R87 that a mount makes. -/
inductive MountCheck where
  | targets | luns | samePart | interface | planes | suspend | readRetry | slcMode | cellMode | pageSize | spareArea
  deriving DecidableEq, Repr

/-- A sample of QS media: its index, its bytes and the unit slots that hold it (R103). -/
structure QsSample where
  index : Nat
  bytes : List Byte
  puas : List Nat
  deriving DecidableEq, Repr

/-- A partition that QS media carry (R103). -/
structure QsPartition where
  dataset : Dword
  n : Nat
  parts : Nat
  p : Nat
  cls : Nat
  keyCheck : Dword
  wrappedKey : List Byte
  samples : List QsSample
  deriving DecidableEq, Repr

/-- The units of R496 and whether each passed bring-up. -/
structure Bringup where
  spdOk : List Bool
  stackOk : List Bool
  edgeOk : List Bool
  iod1Ok : Bool
  med0Ok : Bool
  med1Ok : Bool
  /-- engines that fail alone: die by the numbers of R491, kind, number; on an I/O or media die a Check-Value Unit -/
  badEngines : List (Fin 12 × EngineKind × Nat)
  /-- the targets that answer on each channel, the parameter page of the first die, and the dies whose page differs (R85) -/
  targets : List (BitVec 16)
  page : Geometry
  odd : List (Nat × Geometry)
  /-- dies that fail training at mount (R102) -/
  untrained : List Nat
  /-- LAYOUT of the volume label, and what QS media carry (R103) -/
  layout : Nat
  qs : List QsPartition
  deriving DecidableEq, Repr

/-- The sensor readings of R445, in degrees; none where a sensor is invalid. -/
abbrev Sensors := List (Option Int)

/-- The SPDM requests carry an opaque transcript; what matters here is the transport and the session (R462). -/
inductive SpdmTransport where
  | doe (p : Port) | mctp
  deriving DecidableEq, Repr

/-- The classes of JTAG access (R467). -/
inductive DebugClass where
  | b | w | c | m
  deriving DecidableEq, Repr

/-- Where a C or M access goes (R467, R473): an I/O die with the SRAM outside the Keel, an SPD, HBM, or flash pages. -/
inductive DebugTarget where
  | iod | spd (n : Fin 8) | hbm | flash
  deriving DecidableEq, Repr

/-- RESET_N (R497): a pulse that has ended, held low for at least 10 µs, or released; the straps are sampled at its rise. -/
inductive ResetPin where
  | pulse (lowNs : Nat) (testEn : Bool)
  | held
  | released (testEn : Bool)
  deriving DecidableEq, Repr

/-- What a JTAG access does: BYPASS, IDCODE and SAMPLE/PRELOAD, EXTEST and CLAMP, with the word shifted in; the debug register's
challenge (R469); the window; the cores; memory. -/
inductive JtagOp where
  | bypass (tdi : Word)
  | idcode
  | sample (tdi : Word)
  | extest (tdi : Word)
  | clamp (tdi : Word)
  | challenge
  | read (offset : Nat)
  | write (offset : Nat) (value : Word)
  | halt (core : Nat)
  | resume (core : Nat)
  | stepCore (core : Nat)
  | memRead (target : DebugTarget) (addr : Nat)
  | memWrite (target : DebugTarget) (addr : Nat) (value : Byte)
  deriving DecidableEq, Repr

/-- A packet arriving on a connection that the device refuses (R269). -/
inductive RefusedKind where
  | otherTransport | atomic | writeImm | sendImmOrInv | memWindow | sendTooLong | qp1Mad
  deriving DecidableEq, Repr

/-- What every data packet brings: its PSN, whether its tag authenticates on a protected connection (R281, R282),
whether it is marked CE, and whether its frame has an 802.1Q tag (R269). -/
structure Wire where
  psn : BitVec 24
  tagOk : Bool
  ce : Bool
  vlan : Bool
  deriving DecidableEq, Repr

/-- A register of a port's configuration space that the spec names (R322), by its word of PCI Express: class code; command; the
words of BAR0 and BAR2; device control; the MSI-X control word; power management control; the AER status words and control. -/
inductive CfgReg where
  | classCode | command | bar (i : Fin 4) | deviceControl | msixControl | powerControl | aerUncorrectable | aerCorrectable
  | aerControl
  deriving DecidableEq, Repr

/-- What a request of a host addresses (R322): BAR0, the Host Window; BAR2, the MSI-X table and its pending bits; or a register
of the configuration space. -/
inductive HostSpace where
  | window | vectors | config (r : CfgReg)
  deriving DecidableEq, Repr

/-- A write request: its address in its space, and its bytes, each with its byte enable (R371). -/
structure HostWrite where
  space : HostSpace
  addr : Nat
  bytes : List (Byte × Bool)
  deriving DecidableEq, Repr

/-- A read request: its address in its space and its length. -/
structure HostRead where
  space : HostSpace
  addr : Nat
  len : Nat
  deriving DecidableEq, Repr

/-- A request of a host port as it arrives. -/
inductive HostAccess where
  | read (r : HostRead)
  | write (w : HostWrite)
  deriving DecidableEq, Repr

/-- A clock input of R516. -/
inductive ClockInput where
  | pcieRef (p : Port) | ethRef | slow | sys
  deriving DecidableEq, Repr

/-- The reset triggers of a port (R322). -/
inductive PortResetCause where
  | perst | hot | flr | linkDown
  deriving DecidableEq, Repr

/-- A supply of R510. -/
inductive Rail where
  | vin48 | v1p8 | v3p3
  deriving DecidableEq, Repr

/-- What the planner of a batch brings as the batch is formed: its deadline (R42), which the manual assigns nowhere. -/
structure Plan where
  dlStep : Nat
  dlPhase : Nat
  deriving DecidableEq, Repr

/-- A Sync message on an Ethernet port (R33): its domain, whether the path delay behind its offset was measured peer to
peer, whether it is valid, and the servo offset it gives against the port's source. -/
structure PtpSync where
  domain : Byte
  peerDelay : Bool
  valid : Bool
  offset : Int
  deriving DecidableEq, Repr

inductive Instr where
  -- The module and its data path
  | slipwayFlitRx (edge : Fin 42) (fromLow : Bool) (kind : FlitKind) (crcOk : Bool)
  | idleFlitTimer (edge : Fin 42) (fromLow : Bool)
  | edgeSilenceTimeout (edges : List (Fin 42))
  | homeMapApply
  | requestIssue (req : ReqKey)
  | latestStartReached (req : ReqKey) (stage : Stage)
  -- Tide
  | ptpSyncRx (port : Fin 8) (msg : PtpSync)
  | timeSourceLost
  | ptpFailback
  | ppsEdge (captured : Dword)
  | stepMarkDatagram (d : MarkDatagram)
  | syncInEdge (captured : Dword) (rising : Bool)
  | markPairWindowExpiry
  | deadlineRecomputeDone
  | stepLost
  | stepBoundaryApply
  | tideSnap (owner : Owner)
  | tideCancel (owner : Owner)
  | tideArm (owner : Owner)
  | tideRestartEst (owner : Owner)
  | barrierReady
  | heartbeatSend (conn : Nat)
  -- Datasets and the permutation
  | permPositionAdmit (req : ReqKey) (spd : Fin 8) (plan : Plan)
  | permPassDone (req : ReqKey) (agree : Bool)
  | defectEntryDurable (dsSlot : Nat) (index : Nat) (global : Bool)
  | peerRoundRetry (req : ReqKey)
  | peerReadGiveUp (req : ReqKey)
  -- Flash media
  | flashTrainingTimer (channel : Fin 64) (failed : List (Fin 16))
  | flashReadDone (req : ReqKey) (results : List CodewordResult)
  | programDone (die : Nat) (block : Nat) (page : Nat) (src : ProgramSource) (ok : Bool)
  | eraseDone (die : Nat) (block : Nat) (ok : Bool)
  | stripeVerifyDone (group : Nat) (stripe : Nat) (badBlocks : List Nat)
  | stagingResize
  | foldStart
  | gcStart (die : Nat)
  | staticRelocation (die : Nat)
  | blockRewriteStart (die : Nat) (block : Nat)
  | flashDieFailed (die : Nat) (noReset : Bool)
  | writeBufferAdmit (cmd : CmdId)
  | flushComplete (cmd : CmdId)
  | journalProgram
  | checkpointStart
  | checkpointRootDone (med0 med1 : Bool)
  | mapSegmentReloadDone (segment : Nat)
  | mapMirrorRecopyDone (spd : Fin 8)
  | recoveryDone (badRoots torn : List Nat) (wiped : List (Nat × Nat))
  | mediaTempSample (temp0 temp1 : Int)
  -- Memory, caches and Berths
  | memoryCe (spd : Fin 8) (row : Option HbmRow)
  | memoryUe (place : MemPlace) (row : Option HbmRow)
  | patrolScrub (hbm : Bool) (start : Nat)
  | jobClearDone
  | keySweepDone (spd : Fin 8)
  | cacheSplitDone (spd : Fin 8)
  | hbmStackLost (stack : Fin 24)
  | stackRebuildDone (stack : Fin 24)
  -- Decode, transform, text and pack
  | decodeDone (req : ReqKey) (inp : DecodeInput)
  | decodeEngineFault (spd : Fin 8) (engine : Fin 48)
  | engineResetDone (spd : Fin 8) (kind : EngineKind) (engine : Nat) (passed : Bool)
  | transformDone (req : ReqKey)
  | residueMismatch (spd : Fin 8) (engine : Fin 32)
  | transformRestart (req : ReqKey) (engine : Fin 32)
  | xfEngineFault (spd : Fin 8) (engine : Fin 32)
  | tokeniseChunk (req : ReqKey)
  | vocabLineFill (spd : Fin 8) (engine : Fin 8) (line : Nat)
  | tokeniseDone (req : ReqKey)
  | txtEngineFault (spd : Fin 8) (engine : Fin 8)
  | textPlacement (req : ReqKey)
  | packDone (req : ReqKey)
  | packEngineFault (spd : Fin 8) (engine : Fin 16)
  | trailerHeaderSend (stream : Fin 64) (batch : Nat)
  | timelockHoldExpiry (stream : Fin 64) (batch : Nat)
  -- Egress
  | linkDown (link : Fin 16) (ownSerdes : Bool)
  | linkUp (link : Fin 16)
  | pathMigrateBack (conn : Nat)
  | quietPeriodEnd (conn : Nat)
  | rxRdmaWrite (conn : Nat) (wire : Wire) (key : Word) (va : Nat) (length : Nat) (first last : Bool)
      (payload : List Byte)
  | rxRdmaRead (conn : Nat) (wire : Wire) (key : Word) (va : Nat) (length : Nat)
  | rxAck (conn : Nat) (wire : Wire)
  | rxNak (conn : Nat) (wire : Wire) (code : Nat)
  | rxRnrNak (conn : Nat) (wire : Wire)
  | rxReadResponse (conn : Nat) (wire : Wire) (last : Bool) (payload : List Byte)
  | rxCnp (conn : Nat) (ce : Bool)
  | rxRefusedPacket (conn : Option Nat) (kind : RefusedKind) (ce : Bool)
  | ackTimeout (conn : Nat)
  | rnrRetryTimer (conn : Nat)
  | waitSatisfied (conn : Nat)
  | revokeComplete (key : Word)
  | revokeTimeout (key : Word)
  | releaseTokenSend (stream : Fin 64) (batch : Nat) (member : Nat)
  | returnRx (conn : Nat) (wire : Wire) (payload : List Byte)
  | peerReqRx (conn : Nat) (wire : Wire) (payload : List Byte)
  | peerServeReady (conn : Nat) (tag : Half) (mediaFailed : Bool)
  | peerRspRx (conn : Nat) (wire : Wire) (payload : List Byte)
  | peerReadDone (conn : Nat) (tag : Half) (complete : Bool)
  | peerDoneRx (conn : Nat) (wire : Wire) (payload : List Byte)
  | peerHoldExpiry (conn : Nat) (tag : Half)
  -- Breakwater and Sluice
  | frameTxDone (link : Fin 16)
  | pfcRx (link : Fin 16) (priority : Fin 8) (pause : Bool)
  | ccRateRecover (conn : Nat)
  | sluiceEntryChange (list : Fin 4)
  | sluiceListTakeover (list : Fin 4)
  | contextLoadDone (conn : Nat)
  | sliceBoundary
  -- Mailboxes and semaphores
  | mbxLockRead (readers : List Owner) (m : MbxId)
  | mbxLockRelease (writer : Owner) (m : MbxId) (value : Word)
  | mbxBufWrite (writer : Owner) (m : MbxId) (word : Fin 16) (value : Word)
  | mbxDoorbell (writer : Owner) (m : MbxId)
  | mbxAck (writer : Owner) (m : MbxId)
  | mbxTake (m : MbxId)
  | mbxReply (m : MbxId)
  | semRead (readers : List Owner) (k : Fin 64)
  | semRelease (writer : Owner) (k : Fin 64) (value : Word)
  | portReset (port : Port) (cause : PortResetCause)
  | perstRelease (port : Port)
  -- Quays
  | quaySqDoorbell (q : QuayId) (value : Word)
  | quayCqDoorbell (q : QuayId) (value : Word)
  | quayFetch (q : QuayId) (entry : Option (BitVec 512))
  | completionWrite (q : QuayId) (linkOk : Bool)
  | cqCoalesceTimer (q : QuayId)
  -- Salsia commands
  | invalidOpcode (cmd : CmdId)
  | identify (cmd : CmdId)
  | createQuay (cmd : CmdId)
  | deleteQuay (cmd : CmdId)
  | abort (cmd : CmdId)
  | getEvent (cmd : CmdId)
  | getEventComplete (port : Port)
  | selfTest (cmd : CmdId)
  | selfTestItemDone (passed : Bool) (item : Nat) (lastOfStep : Bool) (reads : List (Nat × List CodewordResult))
  | selfTestResume
  | fwStage (cmd : CmdId) (data : HostData)
  | fwActivate (cmd : CmdId)
  | fwNorWriteDone (cmd : CmdId) (matched : Bool)
  | fwActivateRestart
  | portConfig (cmd : CmdId)
  | format (cmd : CmdId)
  | jobSetup (cmd : CmdId) (data : HostData)
  | jobEnd (cmd : CmdId)
  | stepMark (cmd : CmdId)
  | datasetCreate (cmd : CmdId) (data : HostData)
  | write (cmd : CmdId) (data : HostData)
  | flush (cmd : CmdId)
  | sealPartition (cmd : CmdId)
  | datasetDelete (cmd : CmdId)
  | defectList (cmd : CmdId) (data : HostData)
  | mediaStatus (cmd : CmdId) (data : HostData)
  | mediaHealth (cmd : CmdId) (data : HostData)
  | copyFromPeer (cmd : CmdId) (plan : List (Nat × Nat × List Nat))
  | streamSetup (cmd : CmdId) (data : HostData)
  | streamStart (cmd : CmdId)
  | streamStop (cmd : CmdId)
  | streamStopComplete (cmd : CmdId)
  | seek (cmd : CmdId)
  | streamStatus (cmd : CmdId)
  | tableLoad (cmd : CmdId) (data : HostData)
  | detokenise (cmd : CmdId) (data : HostData)
  | connect (cmd : CmdId) (data : HostData)
  | disconnect (cmd : CmdId)
  | mooringCreate (cmd : CmdId)
  | mooringRevoke (cmd : CmdId)
  | mooringGrant (cmd : CmdId)
  | queueStats (cmd : CmdId) (data : HostData)
  | secStatus (cmd : CmdId)
  | slotProgram (cmd : CmdId) (data : HostData)
  | svnCommit (cmd : CmdId)
  | lifecycleSecure (cmd : CmdId)
  | keyLoad (cmd : CmdId) (data : HostData)
  | keyClear (cmd : CmdId)
  | keyRevoke (cmd : CmdId) (data : HostData)
  | debugChallenge (cmd : CmdId)
  | debugResponse (cmd : CmdId) (data : HostData)
  | debugExit (cmd : CmdId)
  | debugGrantExpiry
  | zeroise (cmd : CmdId)
  | debugOpen (cmd : CmdId)
  -- Registers
  | regWrite (writer : Owner) (w : HostWrite)
  | evClear (writer : Owner) (offset : Nat) (value : Word)
  | irqEnableWrite (writer : Owner) (port : Port) (value : Word)
  | windowAccessReject (port : Port) (a : HostAccess)
  | aliasWrite (writer : Owner) (offset : Nat) (value : Word)
  | cfgArm (writer : Owner) (groups : BitVec 11)
  | cfgCancel (writer : Owner) (groups : BitVec 11)
  | groupApply (groups : BitVec 11)
  | guardComputeStart
  | guardComputeDone
  | guardCommit (writer : Owner)
  | aonWrite (writer : Owner) (offset : Nat) (value : Word)
  | aonWriteTaken
  | slowclkLost
  -- Check-value units
  | cvuStart (unit : Fin 8)
  | cvuTail (unit : Fin 8) (tail : Fin 4)
  | cvuFinish (unit : Fin 8)
  | cvuDataWrite (unit : Fin 8) (value : Word)
  | cvuParityError (unit : CheckUnit) (req : Option ReqKey)
  -- Power and thermal
  | duskEntryStart
  | entryCommit
  | duskEntryDone
  | nightEntryStart
  | nightEntryDone
  | wakeNEdge (low : Bool)
  | tideWakeTimer
  | duskExitDone
  | nightExitDone
  | opStepDone (spd : Fin 8) (freqStep : Bool)
  | thermalSample (readings : Sensors)
  | throttleStep
  | thermalTrip (readings : Sensors)
  | tripCooled (readings : Sensors)
  -- Boot, attestation and debug
  | bootImageVerified (strapRecovery : Bool)
  | attestReady
  | getVersion (t : SpdmTransport)
  | getCapabilities (t : SpdmTransport)
  | negotiateAlgorithms (t : SpdmTransport)
  | getDigests (t : SpdmTransport)
  | getCertificate (t : SpdmTransport) (slot : Nat) (offset : Nat) (length : Nat)
  | challenge (t : SpdmTransport) (slot : Nat) (nonce : BitVec 256)
  | getMeasurements (t : SpdmTransport) (index : Nat)
  | keyExchange (t : SpdmTransport) (slot : Nat)
  | finish (t : SpdmTransport) (session : Nat) (verifyOk : Bool)
  | heartbeat (t : SpdmTransport) (session : Nat)
  | keyUpdate (t : SpdmTransport) (session : Nat)
  | endSession (t : SpdmTransport) (session : Nat)
  | vendorDefinedRequest (t : SpdmTransport) (session : Option Nat) (entry : BitVec 512)
  | jtagAccess (cls : DebugClass) (op : JtagOp)
  -- Health, link tests and counters
  | smbusHealthRead
  | smbusAlertClear
  | smbusAra
  | healthReasonTimer (code : Nat) (location : Nat)
  | ltStart (writer : Owner)
  | ltStop (writer : Owner)
  | ltInject (writer : Owner)
  | ltLaneLock (lane : Fin 32)
  | pmcFreeze
  | pmcUnfreeze
  | pmcSnap (answering : BitVec 12)
  | pmcClear
  | pmcSnapDone
  | pmcBwWinWrite (value : Word)
  | pmcBwWindowEnd (bytes : List (Nat × Nat))
  -- Resets and supplies
  | coldReset
  | warmReset (pin : ResetPin)
  | lockstepMismatch (pair : Fin 2)
  | hmWatchdogExpiry (pair : Fin 2)
  | bringupDone (b : Bringup)
  | powerGood (testEn : Bool)
  | railLost (rail : Rail)
  | clockFault (c : ClockInput)
  -- Further rows
  | cacheReadDone (req : ReqKey)
  | ltLockLost (lane : Fin 32)
  | harbourmasterRestartDone
  | textTableReloadDone (spd : Fin 8)
  | connContextRecopyDone (spd : Fin 8)
  | pcieLinkUp (port : Port)
  | pciePmStateChange (port : Port) (d3 : Bool)
  | shaperCreditRestored (link : Fin 16) (cls : Fin 8)
  | keelFault
  deriving DecidableEq, Repr

end Sys2Proof
end

