-- ==== Sys2Proof/Decode.lean ====
section
/-! DEFINITION. The command a table word spells. No row of the table gives bits, so no word spells one. -/

namespace Sys2Proof

/-- No row of the operation and event table has an encoding: none for every word. (DESIGN CHOICE 145; assumption log) -/
def decodeTableWord (_nbits _w : Nat) : Option Instr := none

end Sys2Proof
end

