-- ==== Sys2Proof/Config.lean ====
section
/-! DEFINITION. What the manual leaves open, as constants without a body: nothing in Lean can evaluate one, so a proof
holds for every value. A value is applied to the operands it depends on, or to the counter `free` of the state. -/

namespace Sys2Proof

/-- A fresh value of 64 bits, applied to the state's counter: DRBG output, hardware entropy, contents that come back
undefined (R407, R442, R450). UNVERIFIED by nature. (DESIGN CHOICE 87; assumption log) -/
opaque Config.fresh : Nat → Dword

/-- When a step of Night exit comes, in ns from the wake: R443 gives its latest time only.
(DESIGN CHOICE 195; assumption log) -/
opaque Config.exitStepNs : Nat → Nat

/-- The UDP source port of a connection's packets and the identification of an IPv4 packet, which the spec gives nowhere.
(DESIGN CHOICE 192; assumption log) -/
opaque Config.udpSource : Nat → BitVec 16

/-- (DESIGN CHOICE 192; assumption log) -/
opaque Config.ipv4Id : Nat → Nat → BitVec 16

/-- The correction a PTP or PPS servo makes to the local time, in ns: R33 gives no servo law.
(DEDUCED 18; assumption log) -/
opaque Config.servo : Nat → Int

/-- A pulse of 1 µs to 10 µs on RESET_N may act or not (R497). (DESIGN CHOICE 118; assumption log) -/
opaque Config.shortPulseActs : Nat → Bool

/-- The bytes of an SPDM response whose content is a cryptographic value (R462), applied to the request's code and to
the counter of free values. (DESIGN CHOICE 6; assumption log) -/
opaque Config.spdmBytes : Nat → Nat → List Byte

/-- SHA-256 of the Keel ROM, whose bytes the manual does not give (R463). (DESIGN CHOICE 6; assumption log) -/
opaque Config.romHash : BitVec 256

/-- The device-unique seed written at manufacture (R451). (DESIGN CHOICE 180; assumption log) -/
opaque Config.deviceSeed : BitVec 256

/-- The certificate chain written at manufacture (R461). (DESIGN CHOICE 180; assumption log) -/
opaque Config.makerCert : List Byte

/-- The IDCODE register of the JTAG port, which the manual does not give (R467). (DESIGN CHOICE 10; assumption log) -/
opaque Config.idcode : Word

/-- Which byte of the job address space, or of an SPD's caches (SPD, whether the decoded cache, entry, place in its form),
stands at an address of HBM: R122 gives the regions their sizes, not their addresses.
(DESIGN CHOICE 10; assumption log) -/
opaque Config.hbmJobVa : Nat → Option Nat

/-- (DESIGN CHOICE 10; assumption log) -/
opaque Config.hbmCacheByte : Nat → Option (Nat × Bool × Nat × Nat)

/-- DMTF's value type of a measurement block, in 7 bits: R463 names the form and no types.
(PRESUMED 132; assumption log) -/
opaque Config.measureType : Nat → BitVec 7

/-- The KEY_HASH0 fuses and the NOR content that a device leaves manufacture with (R451, R452).
(DESIGN CHOICE 180; assumption log) -/
opaque Config.makerKeyHash : BitVec 256

/-- (DESIGN CHOICE 180; assumption log) -/
opaque Config.makerNor : List Byte

/-- A byte of memory that debug class M reads and the manual places nowhere (R467).
(DESIGN CHOICE 10; assumption log) -/
opaque Config.rawByte : Nat → Byte

/-- Firmware's p99.9 figure at OP0, in ns, of a stage of a request: of the sample class, of the encoded size where it is
known, of the stage (0 lookup, 1 issue, 2 flash, 3 decode, 4 transform or tokenise, 5 pack, 6 egress, 7 cache read) and of the
engines in service that run it (R484). R44 names the figures and gives none. (DESIGN CHOICE 154; assumption log) -/
opaque Config.budget : Nat → Option Nat → Nat → Nat → Nat

/-- The LDPC parity of a codeword's data and the short code over a spare record: R87 gives their sizes, no construction.
(DESIGN CHOICE 162; assumption log) -/
opaque Config.ldpcParity : List Byte → List Byte

/-- (DESIGN CHOICE 162; assumption log) -/
opaque Config.spareCode : List Byte → List Byte

/-- The key that a wrapped key of QS media holds, with the check value of the job key that wrapped it (R465).
(DESIGN CHOICE 6; assumption log) -/
opaque Config.unwrapKey : Dword → List Byte → List Byte

/-- A metadata unit's bytes, of its kind and of the fields it holds: R91 and R113 give no layout of a volume label, a root, a
descriptor or a defect list (DESIGN CHOICE 157; assumption log) -/
opaque Config.metaUnit : Nat → List Nat → List Byte

/-- A journal record's bytes, of its fields: R114 gives no layout. (DESIGN CHOICE 157; assumption log) -/
opaque Config.journalRecord : List Nat → List Byte

/-- Channel of the colour that an XYB pixel of JPEG XL has in a signalled colour encoding, given by its fields, or in sRGB
where there are none (R153), by the formulas of ISO/IEC 18181-1, which the manual names and does not restate, in samples
scaled to the integer range. (DESIGN CHOICE 188; assumption log) -/
opaque Config.jxlFromXyb : List Nat → List Word → Nat → Word

/-- The integer that a NaN sample of JPEG XL rounds to (R153), before it is clamped.
(DESIGN CHOICE 166; assumption log) -/
opaque Config.jxlNan : Int

/-- Spare rows of an HBM stack (R123). (DESIGN CHOICE 88; assumption log) -/
opaque Config.spareRows : Nat → Nat

/-- The fused values of one module: serial number, MAC base address (R451). (DESIGN CHOICE 141; assumption log) -/
opaque Config.serial : Dword

/-- (DESIGN CHOICE 141; assumption log) -/
opaque Config.macBase : BitVec 48

/-- The straps SMB_ADDR1 and SMB_ADDR0 of a board (R518). (DESIGN CHOICE 141; assumption log) -/
opaque Config.smbStraps : BitVec 2

/-- Which of several records that decompose to the same pair is its primary composite: R208 allows such a table and
names none of them. (DESIGN CHOICE 146; assumption log) -/
opaque Config.compositeChoice : Nat → Nat → Nat

end Sys2Proof
end

