-- ==== Sys2Proof/Machine/State.lean ====
section
/-! DEFINITION. The state of the block as plain data: every register, queue, table, engine and mode the manual gives
it, the state after reset, and the reasons a step can stop. -/

namespace Sys2Proof.Machine

/-! ### Staged configuration (R378, R385) -/

/-- The six class parameters of one link and class (R303, R318). -/
structure ClassRegs where
  class0 : Word
  class1 : Word
  rate : Word
  burst : Word
  qRate : Word
  qBurst : Word
  deriving DecidableEq, Repr

/-- One Sluice entry (R308). -/
structure SluEntry where
  gate : Word
  dur : Word
  deriving DecidableEq, Repr

/-- One Sluice list with its 256 entries (R308, R318). -/
structure SluList where
  list : Word
  baseLo : Word
  baseHi : Word
  entries : List SluEntry
  deriving DecidableEq, Repr

/-- Every ST register, in the order of R385: the 32 direct words, the class parameters, the Sluice lists. -/
structure StRegs where
  cfgDet : Word
  tideCfg : Word
  tidePeriodInit : Word
  tideGuard : Word
  tideLostMult : Word
  tideMinInterval : Word
  tideSyncDelay : Word
  tideHbInterval : Word
  tideLease : Word
  tideMarkPort : Word
  tideJobId : Word
  tideStartLo : Word
  tideStartHi : Word
  cfgCache : Word
  cfgSpillLimit : Word
  cfgDec : Word
  cfgXf : Word
  cfgTxt : Word
  cfgPack : Word
  egrPort : Word
  egr : Word
  egrQuiet : Word
  egrPeerHold : Word
  egrRevokeMax : Word
  bw : Word
  bwCc : Word
  bwHist : Word
  sluMap : Word
  pwrCfg : Word
  pwrDuskIdle : Word
  pwrLookahead : Word
  pwrTherm : Word
  classes : List ClassRegs
  slu : List SluList
  deriving DecidableEq, Repr

/-- The RW registers of the window that no group stages. -/
structure RwRegs where
  irqEnA : Word
  irqEnB : Word
  irqVecA : Word
  irqVecB : Word
  grpBnd : Word
  applyStream : Word
  applyBatchLo : Word
  applyBatchHi : Word
  tideApplyStepLo : Word
  tideApplyStepHi : Word
  tideApplyPhase : Word
  bwIdx : Word
  sluSel : Word
  grdRef : Word
  alertEn : Word
  pmcSel : Word
  pmcBwWin : Word
  ltCfg : Word
  ltLane : Word
  deriving DecidableEq, Repr

/-- The interrupt sources of R376, bit 0 to bit 13. -/
inductive Source where
  | tide | mem | dec | xf | txt | pack | egr | bw | cfg | grd | pwr | sec | win | hlth
  deriving DecidableEq, Repr

/-- The event registers: the fourteen sources, then PMC_EVT and HW_LT_EVT (R376, R494). -/
structure Events where
  tide : Word
  mem : Word
  dec : Word
  xf : Word
  txt : Word
  pack : Word
  egr : Word
  bw : Word
  cfg : Word
  grd : Word
  pwr : Word
  sec : Word
  win : Word
  hlth : Word
  pmc : Word
  lt : Word
  deriving DecidableEq, Repr

/-- The LAST and count registers of the stages. -/
structure Counts where
  decLast : Word
  xfLast : Word
  xfResCnt : Word
  txtLast : Word
  txtMiss : Word
  packLast : Word
  packSatCnt : Word
  egrLastErr : Word
  egrRetxCnt : Word
  egrAccerrCnt : Word
  bwOcLast : Word
  bwSwapCnt : Word
  deriving DecidableEq, Repr

/-- An armed group with its boundary code and latched targets (R379). -/
structure Arm where
  group : Nat
  boundary : Nat
  stream : Nat
  batch : Nat
  step : Nat
  phase : Nat
  /-- batches of the target stream that had begun to issue before the arm (R380) -/
  begun : List Nat
  /-- accepted step starts before the arm (R49) -/
  since : Nat
  deriving DecidableEq, Repr

/-- The configuration guard (R385 to R389): `busy` from an apply until a computation begun after it completes,
`computing` while one runs, `done` once one has completed after the last apply. -/
structure Guard where
  crc : Word
  committed : Word
  refValid : Bool
  pending : Bool
  mismatch : Bool
  computing : Bool
  busy : Bool
  done : Bool
  deriving DecidableEq, Repr

/-! ### Tide (chapter 2) -/

inductive StepState where
  | none | seeded | tracking | lost
  deriving DecidableEq, Repr

inductive TimeState where
  | free | acquiring | locked | holdover
  deriving DecidableEq, Repr

inductive Barrier where
  | idle | armed | ready
  deriving DecidableEq, Repr

/-- One owner's snapshot (R57). -/
structure TideSnap where
  step : Nat
  phase : Nat
  time : Nat
  period : Nat
  start : Nat
  deriving DecidableEq, Repr

/-- A mark waiting for its edge (R37). -/
structure PendMark where
  step : Nat
  restart : Bool
  t : Int
  seq : Nat
  arrived : Nat
  deriving DecidableEq, Repr

structure Tide where
  /-- local time of R31, ns, modulo 2^64 -/
  time : Nat
  /-- ns since the last cold reset, trip or warm reset (HW_UPTIME) -/
  uptime : Nat
  stepState : StepState
  step : Nat
  /-- T_L -/
  startTime : Int
  /-- the last intervals, oldest first (R38) -/
  window : List Nat
  /-- the seed of R38; none until the first accepted start of the job or a restart of the estimator, when the applied
  `TIDE_PERIOD_INIT` stands -/
  seed : Option Nat
  lastSeq : Option Nat
  afterRelease : Bool
  /-- the last accepted steps, newest first, at most 16 (R131) -/
  recent : List Nat
  timeState : TimeState
  onAlt : Bool
  lockPrimary : Nat
  lockAlt : Nat
  /-- uptimes of the last valid Sync message on each port, and since which the primary port has met the lock criterion
  without a break -/
  lastSyncPrimary : Option Nat
  lastSyncAlt : Option Nat
  primarySince : Option Nat
  ppsGood : Nat
  /-- the last PPS edge, in the local time as corrected by it, and its uptime -/
  lastPps : Option Nat
  ppsHeard : Nat
  /-- uptime at which the source in use was taken (R32) -/
  sourceSince : Nat
  offset : Int
  barrier : Barrier
  syncOut : Bool
  syncIn : Bool
  missCnt : Nat
  /-- unpaired edges: start-time candidate and arrival (R37) -/
  edges : List (Int × Nat)
  marks : List PendMark
  /-- a step start, and a change of operating point or of the engines in service, not yet recomputed (R45, R484) -/
  recomputeDue : Bool
  recomputeOp : Bool
  /-- discarded messages (R35), and starts accepted since reset (R49) -/
  markRejects : Nat
  accepts : Nat
  snapA : TideSnap
  snapB : TideSnap
  snapHm : TideSnap
  snapDbg : TideSnap
  deriving DecidableEq, Repr

/-! ### The job (R356, R357) -/

structure Reserve where
  owner : Nat
  part : Nat
  stream : Nat
  firstGroup : Nat
  lastGroup : Nat
  minimum : Nat
  deriving DecidableEq, Repr

structure Job where
  id : Word
  node : Nat
  seed : Dword
  textSpace : Nat
  jobSpace : Nat
  seconds : Nat
  coords : List (BitVec 128)
  pools : List Nat
  reserves : List Reserve
  /-- the accepted descriptor, for measurement 7 of R463 -/
  descriptor : List Byte
  deriving DecidableEq, Repr

/-! ### Dies, edges, engines and Berths (R5, R13 to R15, R21, R137, R142) -/

structure Edge where
  up : Bool
  parked : Bool
  /-- uptime from which it has carried flits since it was last down (R480) -/
  since : Nat
  /-- uptime at which its lower-numbered and its higher-numbered die last received a flit (R17) -/
  lowHeard : Nat
  highHeard : Nat
  /-- a link test holds it out of service (R486) -/
  tested : Bool
  deriving DecidableEq, Repr

inductive EngineState where
  | free
  | held (req : ReqKey)
  | resetting
  | out
  deriving DecidableEq, Repr

/-- One engine: what it does, and the uptimes of its faults and residue mismatches (R161, R195). -/
structure Engine where
  state : EngineState
  faults : List Nat
  mismatches : List Nat
  deriving DecidableEq, Repr

/-- Buffers held by one owner for one request, if any (R141, R142). -/
structure Hold where
  owner : Nat
  part : Nat
  count : Nat
  req : Option ReqKey
  deriving DecidableEq, Repr

/-- A next-use key of R131: a finite predicted use, INFINITE, or stale and unswept (R133). -/
inductive CacheKey where
  | finite (n : Nat)
  | infinite
  | stale
  deriving DecidableEq, Repr

/-- A decoded or tokenised form: its descriptor bytes and its data bytes (R149, R220). -/
structure Form where
  desc : List Byte
  data : List Byte
  deriving DecidableEq, Repr

/-- The decode parameters of a stream (R146). -/
structure DecodeParams where
  format : Nat
  wrap : List Nat
  member : List Byte
  clipLen : Nat
  clipStride : Nat
  videoDe : Nat
  grain : Nat
  deriving DecidableEq, Repr

/-- The wrappers of R146. -/
inductive WrapKind where
  | tar | gzip | zlib | deflate | zstd
  deriving DecidableEq, Repr

/-- The extra channels of a JPEG XL image (R153). -/
inductive JxlExtra where
  | alpha | black | other
  deriving DecidableEq, Repr

/-- What the headers of a JPEG XL image give (R150, R153): `animation` is one beyond frame 0, and `encoding` holds the
fields of the signalled colour encoding, none where none is signalled. -/
structure JxlHdr where
  w : Nat
  h : Nat
  bits : Nat
  grey : Bool
  extras : List JxlExtra
  floats : Bool
  animation : Bool
  xyb : Bool
  encoding : List Nat
  codestream : Nat
  deriving DecidableEq, Repr

/-- A frame of a video sample, in decode order (R164): an AV1 key frame or an HEVC IRAP picture, whether a sequence header
stands before it in its temporal unit, the output frame it gives, an HEVC RASL picture, and its bytes. -/
structure VideoFrame where
  key : Bool
  seqBefore : Bool
  shows : Option Nat
  rasl : Bool
  bytes : Nat
  deriving DecidableEq, Repr

/-- What the frame index and the parameter sets of a video sample give (R154, R164). -/
structure VideoHdr where
  hevc : Bool
  w : Nat
  h : Nat
  bits : Nat
  /-- seq_profile, or general_profile_idc; level_idc of HEVC is 30 times the level -/
  profile : Nat
  level : Nat
  /-- 0 monochrome, 1 4:2:0, 2 4:2:2, 3 4:4:4 -/
  chroma : Nat
  largeScale : Bool
  /-- AV1 OBUs stand outside operating point 0 -/
  otherPoint : Bool
  matrix : Nat
  full : Bool
  frames : List VideoFrame
  deriving DecidableEq, Repr

/-- A cached sample (R126 to R128). -/
structure CacheEntry where
  dsSlot : Nat
  index : Nat
  remote : Bool
  units : Nat
  key : CacheKey
  order : Nat
  pins : Nat
  form : Form
  digest : Dword
  /-- the decode parameters of the stream that made a decoded form: none for text and for encoded bytes -/
  made : Option DecodeParams
  /-- the frame index of a video sample, with its encoded bytes (R164) -/
  frames : List VideoFrame
  /-- the sweep under way recomputes its key (R133) -/
  due : Bool
  /-- the units that hold it in the spill stream (R135) -/
  luas : List Nat
  deriving DecidableEq, Repr

/-- The source of an SPD's core clock (R427, R440). -/
inductive AclkSource where
  | off
  | gated
  | oscillator
  | pll
  deriving DecidableEq, Repr

/-- The supply of a bank of Berth SRAM (R442). -/
inductive BankSupply where
  | off
  | on
  | retained
  deriving DecidableEq, Repr

/-- The power mode of an HBM3E stack (R427, R440). -/
inductive StackMode where
  | off
  | active
  | powerDown
  | selfRefresh
  deriving DecidableEq, Repr

/-- Supplies, clocks and clamps of an SPD (R427, R440 to R442). -/
structure SpdPower where
  /-- the power switches are closed -/
  rail : Bool
  inReset : Bool
  isolated : Bool
  aclk : AclkSource
  bank0 : BankSupply
  /-- banks 1 to 15 -/
  banks : BankSupply
  /-- bank 0 holds the fixed region, for the exit -/
  saved : Bool
  /-- bank 0 has been scrubbed, and banks 1 to 15 written with zero, since the banks came back -/
  scrubbed : Bool
  zeroed : Bool
  hbm : List StackMode
  deriving DecidableEq, Repr

structure Spd where
  serving : Bool
  de : List Engine
  te : List Engine
  pe : List Engine
  ke : List Engine
  ce : List Engine
  puOut : Bool
  /-- Check-Value Units of the SPD out of service -/
  cvuOut : List Nat
  /-- buffers per pool part, 1S to 5S then 1H to 8H -/
  pools : List Nat
  holds : List Hold
  drawFails : List Nat
  decCache : List CacheEntry
  rawCache : List CacheEntry
  spill : List CacheEntry
  /-- cache extents C of R129 -/
  extents : Nat
  sweep : Bool
  splitting : Bool
  admitOrder : Nat
  /-- tokenise requests wait for the text tables (R123) -/
  textReload : Bool
  /-- lines held in the vocabulary caches: Tokeniser Engine and line (R218) -/
  vocab : List (Nat × Nat)
  /-- operating point of ACLK and of the core voltage, and the point being moved to (R431) -/
  freqPt : Nat
  voltPt : Nat
  /-- a frequency switch, or a voltage step, held by the order rule of R431 -/
  freqHeld : Bool
  voltHeld : Bool
  power : SpdPower
  deriving DecidableEq, Repr

/-! ### Datasets and media (chapters 3 and 4) -/

structure Defect where
  index : Nat
  global : Bool
  cause : Nat
  epoch : Nat
  detail : Nat
  durable : Bool
  /-- uptime at which it was made (R84): none once power has been lost since -/
  made : Option Nat
  deriving DecidableEq, Repr

/-- One written sample of a partition: the WSEQ of its write, its bytes and the LUAs that hold them. -/
structure Sample where
  index : Nat
  wseq : Nat
  bytes : List Byte
  luas : List Nat
  deriving DecidableEq, Repr

structure Partition where
  dsSlot : Nat
  dataset : Dword
  n : Nat
  parts : Nat
  p : Nat
  cls : Nat
  replicas : List Nat
  sealed : Bool
  sealWseq : Nat
  nextWseq : Nat
  /-- greatest WSEQ completed, durable WSEQ, and the first write lost with the write buffer (R108, R124) -/
  completed : Nat
  durable : Nat
  lostFrom : Option Nat
  /-- shards written: number, first local index, samples (R361) -/
  shards : List (Nat × Nat × Nat)
  samples : List Sample
  defects : List Defect
  keyCheck : Dword
  wrappedKey : List Byte
  /-- the 512-bit key of AES-256-XTS that `wrappedKey` wraps under the job key (R465) -/
  xtsKey : List Byte
  deriving DecidableEq, Repr

/-- A programmed unit slot: its spare record (R91), whether it still decodes, and its data area as stored, zeros beyond what is
listed (R87, R465). -/
structure Slot where
  pua : Nat
  lua : Nat
  stream : Nat
  kind : Nat
  dsSlot : Nat
  seq : Nat
  origSeq : Nat
  wseq : Nat
  ok : Bool
  data : List Byte
  deriving DecidableEq, Repr

inductive BlockState where
  | free | opened | closed | retired
  deriving DecidableEq, Repr

/-- Why the units of a block are being copied out: garbage collection, static relocation, a rewrite, its retirement, or the
failure of its die (R98, R102, R105). -/
inductive Drain where
  | gc | relocate | rewrite | retire | dieFailed
  deriving DecidableEq, Repr

/-- A block of a die (R94, R98, R105). Blocks not listed are free with no erase. -/
structure Block where
  die : Nat
  block : Nat
  stream : Nat
  state : BlockState
  slc : Bool
  erases : Nat
  rewrite : Bool
  /-- its erase count at its last rewrite -/
  lastRewrite : Option Nat
  drain : Option Drain
  /-- erased before the journal records of the copies out of it were programmed (R117) -/
  waitJournal : Bool
  /-- uptime of its opening -/
  since : Nat
  deriving DecidableEq, Repr

inductive StripeState where
  | opened | closing | verified
  deriving DecidableEq, Repr

/-- A group stripe (R99 to R101). -/
structure Stripe where
  group : Nat
  number : Nat
  stream : Nat
  members : List (Nat × Nat)
  parity : Nat
  state : StripeState
  /-- rows whose parity page is programmed (R100), and the blocks whose copies its release waits for (R101) -/
  parityRows : List Nat
  waiting : List (Nat × Nat)
  deriving DecidableEq, Repr

/-- A unit in the write buffer (R107), with the SPD whose share holds it. -/
structure BufUnit where
  lua : Nat
  dsSlot : Nat
  wseq : Nat
  spd : Nat
  deriving DecidableEq, Repr

/-- A journal record (R114). -/
inductive JournalRec where
  | map (lua pua seq origSeq wseq dsSlot : Nat)
  | trim (lo hi seq : Nat)
  | block (die block stream event seq : Nat)
  | stripe (group number stream : Nat) (members : List (Nat × Nat)) (parity seq : Nat)
  | flush (dsSlot wseq seq : Nat)
  | sealed (dsSlot seq : Nat)
  deriving DecidableEq, Repr

/-- A programmed journal page: the unit that holds it, and its records. -/
structure JournalPage where
  pua : Nat
  recs : List JournalRec
  deriving DecidableEq, Repr

/-- A checkpoint (R113): the SEQ at which it began, the units of every segment with the map they hold, the block table, and
the journal pages before the position from which replay starts. -/
structure Checkpoint where
  seq : Nat
  segments : List (Nat × List Nat)
  map : List (Nat × Nat)
  blocks : List Block
  pages : Nat
  deriving DecidableEq, Repr

structure Media where
  mounted : Bool
  /-- the die and check that failed, once the mount is refused, and as bring-up found them (R88) -/
  unsupported : Option (Nat × MountCheck)
  mountFail : Option (Nat × MountCheck)
  /-- dies that failed training at this mount (R102) -/
  untrained : List Nat
  /-- LAYOUT of the volume label (R103) -/
  label : Nat
  qsLayout : Bool
  targets : Nat
  geom : Geometry
  seq : Nat
  nextLua : Nat
  /-- LUAs that a trim set free, and the next metadata and spill units -/
  freeLuas : List Nat
  nextMeta : Nat
  nextSpill : Nat
  /-- LUA to PUA, ascending (R90) -/
  map : List (Nat × Nat)
  slots : List Slot
  blocks : List Block
  stripes : List Stripe
  stripesOpened : List Nat
  partitions : List Partition
  buffer : List BufUnit
  /-- journal records not yet programmed, the pages programmed since format, and how many of them are freed -/
  journal : List JournalRec
  journalDone : List JournalPage
  pagesFreed : Nat
  /-- ranges of LUAs trimmed, each with its sequence number (R92) -/
  trims : List (Nat × Nat × Nat)
  sinceCheckpoint : Nat
  /-- the roots programmed, newest first: media die, unit slot, and what it lists (R113, R115) -/
  roots : List (Nat × Nat × Checkpoint)
  pendingCheckpoint : Option Checkpoint
  sinceStaging : Nat
  /-- staging-region size S, in millionths of raw (R95) -/
  staging : Nat
  /-- the region's blocks: those up to a number on every die, but for the blocks that have since joined or left (R95) -/
  regionBase : Nat
  regionMoved : List (Nat × Nat)
  /-- unit slots that garbage collection has freed on a die for limited ingest (R98) -/
  ingestCredit : List (Nat × Nat)
  folding : Bool
  stagingFull : Bool
  exhausted : Bool
  fullScan : Bool
  full : Bool
  spares : List Nat
  failedDies : List Nat
  /-- blocks whose program or erase failed: die, block, uptime (R102) -/
  blockFails : List (Nat × Nat × Nat)
  /-- die and uptime of its last static relocation (R98) -/
  relocAt : List (Nat × Nat)
  lostLuas : List Nat
  /-- units of a failed die that a replica peer has supplied and that are not yet written anew (R102) -/
  fetched : List Nat
  reloadSegments : List Nat
  retired : Nat
  corrCw : Nat
  uncorrCw : Nat
  retryReads : Nat
  rewrites : Nat
  hostWritten : Nat
  mediaWritten : Nat
  tempBins : List Nat
  deriving DecidableEq, Repr

/-! ### Text tables (R207 to R210) -/

structure NormRec where
  cp : Nat
  ccc : Nat
  cls : Nat
  flags : Nat
  decomp : List Nat
  fold : List Nat
  deriving DecidableEq, Repr

inductive TableBody where
  | norm (recs : List NormRec)
  | vocab (byteMap : List Nat) (strings : List (List Byte)) (merges : List (Nat × Nat × Nat)) (fallback : Option Nat)
  | grammar (classes : List Nat) (c z : Nat) (trans : List Word) (accept : List Bool)
  deriving DecidableEq, Repr

structure TextTable where
  id : Nat
  header : List Byte
  charge : Nat
  body : TableBody
  deriving DecidableEq, Repr

/-! ### Streams, batches and requests (chapters 3, 6 to 10) -/

structure XfParams where
  crop : Nat
  cropW : Nat
  cropH : Nat
  scaleMin : Nat
  scaleMax : Nat
  aspectMax : Nat
  kernel : Nat
  outW : Nat
  outH : Nat
  qrot : Nat
  rotMax : Nat
  fill : Nat
  flipH : Nat
  flipV : Nat
  jitB : Nat
  jitC : Nat
  jitS : Nat
  luma : Nat
  vmatrix : Nat
  alpha : Nat
  mean : List Nat
  gain : List Nat
  deriving DecidableEq, Repr

structure TextParams where
  mode : Nat
  byteBase : Nat
  vocab : Nat
  norm : Nat
  form : Nat
  fold : Nat
  ws : Nat
  trim : Nat
  invalid : Nat
  digitGroup : Nat
  grammar : Nat
  bos : Nat
  eos : Nat
  pad : Nat
  sampleMax : Nat
  rowLen : Nat
  rows : Nat
  packMode : Nat
  posOut : Nat
  deriving DecidableEq, Repr

/-- One tensor's number format (R235). -/
structure TensorFmt where
  fmt : Nat
  mxElem : Nat
  round : Nat
  sat : Nat
  deriving DecidableEq, Repr

structure PackParams where
  tensors : List TensorFmt
  packExp : Int
  layout : Nat
  packC : Nat
  audioLen : Nat
  audioPos : Nat
  audioCh : Nat
  audioRate : Nat
  deriving DecidableEq, Repr

/-- A member of a rank group (R283, R284). -/
structure Member where
  lanes : List Nat
  d : Nat
  slotBase : Nat
  tokenBase : Nat
  stride : Nat
  slotRkey : Word
  tokenRkey : Word
  lost : Bool
  /-- returns accepted or held: slot and the batch named (R288) -/
  returns : List (Nat × Nat)
  deriving DecidableEq, Repr

structure Group where
  group : Nat
  replicate : Bool
  members : List Member
  deriving DecidableEq, Repr

inductive RunState where
  | stopped | running | ended
  deriving DecidableEq, Repr

structure Stream where
  num : Nat
  dataset : Dword
  dsSlot : Nat
  cls : Nat
  order : Nat
  salt : Nat
  b : Nat
  tailPad : Bool
  epochs : Nat
  dec : DecodeParams
  xf : XfParams
  txt : TextParams
  pack : PackParams
  partTable : List Nat
  groups : List Group
  peers : List (Nat × List Nat)
  state : RunState
  /-- next batch to form, and the batch b0 the stream started or last sought to -/
  next : Nat
  b0 : Nat
  /-- issue pointer of R130 -/
  issued : Option Int
  /-- deadline steps of the batches formed, newest first (R131) -/
  dlSteps : List Nat
  deriving DecidableEq, Repr

/-- Where a request stands. -/
inductive Phase where
  /-- the own position, or candidate `k` of its reserve chain, waits for a Permutation Unit (R71, R79) -/
  | waitUnit (k : Option Nat)
  /-- its walk: the input of the next pass, passes done, and whether the pipelines have disagreed on it (R425) -/
  | walking (k : Option Nat) (x : Nat) (passes : Nat) (retried : Bool)
  | ready
  | flash
  | peerWait
  | cacheRead
  | decode
  | transform
  | waitXf
  | tokenise
  | waitPlace
  | pack
  | done
  deriving DecidableEq, Repr

/-- A unit of text: a code point, or a fallback unit's byte (R212). -/
inductive TextUnit where
  | cp (n : Nat)
  | raw (b : Byte)
  deriving DecidableEq, Repr

/-- What a Tokeniser Engine carries over a chunk boundary (R211): the bytes of an incomplete UTF-8 sequence, the units read
with the subparts replaced among them, the normaliser's pending segment, the pending piece, and the grammar state and stack. -/
structure TokCtx where
  carry : List Byte
  units : List TextUnit
  replaced : Nat
  segment : List Nat
  piece : List Byte
  gram : Nat
  stack : List Nat
  /-- the text before has failed its grammar -/
  failed : Bool
  deriving DecidableEq, Repr

def TokCtx.start : TokCtx := ⟨[], [], 0, [], [], 0, [], false⟩

structure Request where
  key : ReqKey
  spd : Nat
  /-- the try index when the reserve chain serves the slot (R79) -/
  tryIdx : Option Nat
  fillPos : Bool
  sample : Nat
  remote : Bool
  /-- place of the peer asked in the list -/
  peerIdx : Nat
  /-- tag of the request sent to it -/
  peerTag : Nat
  /-- an earlier peer of this round failed in a way that depends on timing (R74) -/
  peerSoft : Bool
  /-- uptime of the last failure of a whole round -/
  peerSince : Nat
  /-- CRC-32 of the bytes the peer holds ready (R292) -/
  peerCrc : Word
  phase : Phase
  des : List Nat
  te : Option Nat
  pe : Option Nat
  ke : Option Nat
  /-- the second engine that a divided transform or pack stage runs on (R201, R264) -/
  te2 : Option Nat
  pe2 : Option Nat
  arrived : List Stage
  latest : List Int
  budgets : List Nat
  /-- the budgets are those of a decoded-cache hit (R44) -/
  cacheHit : Bool
  atRisk : Bool
  cause : Nat
  lateSub : Bool
  sub : Bool
  newDefect : Bool
  berthFails : Nat
  /-- engine faults in decode or tokenise, transform and pack (R161, R196, R224, R261) -/
  deFaults : Nat
  xfFaults : Nat
  packFaults : Nat
  resMism : Nat
  /-- the engine that failed, which a restart leaves out: decode or tokenise, transform, pack -/
  avoid : Option Nat
  avoidTe : Option Nat
  avoidPe : Option Nat
  chunks : Nat
  /-- what the Tokeniser Engine carries to the next chunk (R211) -/
  tok : TokCtx
  masked : Bool
  /-- a recorded decision names its candidate (R29) -/
  given : Bool
  encoded : List Byte
  /-- the crop window of a video sample, drawn before its decode (R179) -/
  window : Option (Nat × Nat × Nat × Nat)
  form : Option Form
  /-- the spilled form the request reads from flash (R135) -/
  spill : Option CacheEntry
  /-- the form came from the decoded cache, where the sample is pinned until it is copied (R128) -/
  pinned : Bool
  decDigest : Dword
  xfForm : Option Form
  xfDigest : Dword
  firstRow : Nat
  firstPlace : Nat
  deriving DecidableEq, Repr

/-- A slot entry of the trailer (R257). -/
structure Entry where
  flags : Nat
  events : Nat
  sample : Nat
  firstRow : Nat
  firstPlace : Nat
  count : Nat
  start : Nat
  decDigest : Dword
  xfDigest : Dword
  packDigest : Dword
  deriving DecidableEq, Repr

/-- A LATE_SUB decision reported to the Harbourmaster: slot, try index and cause (R29), with the flags that go with it. -/
structure Decision where
  slot : Nat
  tryIdx : Nat
  cause : Nat
  sub : Bool
  masked : Bool
  deriving DecidableEq, Repr

structure Batch where
  stream : Nat
  num : Nat
  dlStep : Nat
  dlPhase : Nat
  strict : Bool
  timelock : Bool
  begun : Bool
  atRisk : Bool
  missed : Bool
  home : Nat
  entries : List (Nat × Entry)
  /-- placed segments of a text batch: slot, first row and place, tokens, dropped (R226) -/
  placed : List (Nat × Nat × Nat × Nat)
  point : Nat × Nat
  decisions : List Decision
  /-- slots whose delivery made a defect entry: a re-run shows it again (R83, R262) -/
  newDefects : List Nat
  rerun : Bool
  headerHeld : Bool
  /-- members whose header has been posted, and whether every receiver's has been -/
  headers : List Nat
  headerSent : Bool
  headerAcked : Bool
  tokens : List Nat
  ocReported : Bool
  deriving DecidableEq, Repr

/-! ### Egress (chapters 10 and 11) -/

inductive WrKind where
  | write | send | read | response
  deriving DecidableEq, Repr

/-- What a range read from a peer is for: a unit of a failed die, or a shard of a COPY_FROM_PEER (R102, R292). -/
inductive FetchId where
  | unit (lua : Nat)
  | shard (cmd : CmdId)
  deriving DecidableEq, Repr

inductive FetchState where
  | queued | asked | complete | failed
  deriving DecidableEq, Repr

/-- A shard range read from peers (R292, R293): the peers not yet tried, the one asked first, the tag of its PEER_REQ, the
range, the bytes of the parts read before and of the part being read, and the CRC that the PEER_RSP gives. -/
structure Fetch where
  id : FetchId
  peers : List Nat
  tag : Nat
  dataset : Dword
  shard : Nat
  offset : Nat
  length : Nat
  state : FetchState
  bytes : List Byte
  part : List Byte
  crc : Word
  deriving DecidableEq, Repr

/-- Whose bytes a work request carries. -/
inductive WrFor where
  | data (stream batch slot : Nat)
  | entry (stream batch slot : Nat)
  | header (stream batch : Nat)
  | token (stream batch member : Nat)
  | heartbeat
  | peerReq (req : ReqKey)
  | peerRsp (tag : Nat)
  | peerRead (req : ReqKey)
  | fetchReq (tag : Nat)
  | fetchRead (tag : Nat)
  | peerDone
  | response
  deriving DecidableEq, Repr

/-- A work request in a connection's queue (R270, R280). `left` counts packets not yet sent, `total` all of them. -/
structure Wr where
  kind : WrKind
  owner : WrFor
  addr : Nat
  rkey : Word
  bytes : List Byte
  total : Nat
  left : Nat
  /-- PSN of the first packet, once sent -/
  psn : Option Nat
  wait : Option (Nat × Nat)
  /-- the egress budget of the sample it carries, ns: 0 where it carries none (R44) -/
  budget : Nat
  /-- uptime at which its frames were ready (R317) -/
  posted : Nat
  /-- the length its RETH names: of a READ, the bytes still asked for (R270, R292) -/
  dmaLen : Nat
  deriving DecidableEq, Repr

/-- A request a peer asked this device to serve (R292). -/
structure Serve where
  tag : Nat
  dataset : Dword
  kind : Nat
  index : Nat
  offset : Nat
  length : Nat
  ready : Bool
  key : Nat
  bytes : List Byte
  /-- uptime of the PEER_RSP -/
  sentAt : Nat
  /-- SPD whose Berth holds the bytes -/
  spd : Nat
  deriving DecidableEq, Repr

/-- A packet as it arrives on a connection (R269, R271, R277, R288, R292). -/
inductive RxPacket where
  | write (w : Wire) (key : Word) (va length : Nat) (first last : Bool) (payload : List Byte)
  | read (w : Wire) (key : Word) (va length : Nat)
  | ack (w : Wire)
  | nak (w : Wire) (code : Nat)
  | rnr (w : Wire)
  | readRsp (w : Wire) (last : Bool) (payload : List Byte)
  | cnp (ce : Bool)
  | bad (kind : RefusedKind) (ce : Bool)
  | message (w : Wire) (payload : List Byte)
  deriving DecidableEq, Repr

structure Conn where
  idx : Nat
  peer : Bool
  pd : Nat
  link : Nat
  alt : Option Nat
  cls : Nat
  gid : BitVec 128
  qpn : Nat
  pmtu : Nat
  hbVa : Nat
  hbRkey : Word
  encKey : Nat
  node : Nat
  onAlt : Bool
  error : Option Nat
  /-- next PSN, oldest unacknowledged PSN, and expected PSN, as extended 48-bit counts (R281) -/
  sqPsn : Nat
  sqUna : Nat
  rqPsn : Nat
  queue : List Wr
  retries : Nat
  rnrRetries : Nat
  rnrWait : Bool
  count : Nat
  quiet : Bool
  hbSeq : Nat
  credits : Nat
  tagFails : Nat
  lastCnpSent : Option Nat
  ccRate : Nat
  ccCut : Option Nat
  ccBucket : Int
  /-- uptimes: of the credits of the rate bucket, of its last cut or increment, of the token credit (R302, R305) -/
  ccSince : Nat
  ccTimer : Nat
  tokenCredit : Int
  tokenSince : Nat
  /-- uptimes: the acknowledgement timer's start, the quiet period's start, and the next heartbeat due -/
  ackAt : Nat
  quietAt : Nat
  hbAt : Nat
  /-- the RDMA WRITE being received: key, next address, bytes left (R277) -/
  rxMsg : Option (Word × Nat × Nat)
  /-- packets that arrived while the context was not resident, in the receive buffer, oldest first (R315) -/
  rxWait : List RxPacket
  vtag : Nat
  resident : Bool
  /-- swapped in, to send from the next slice boundary (R315) -/
  loading : Bool
  timerMissed : Bool
  serves : List Serve
  sampleTick : Nat
  soj : List Nat
  depth : List Nat
  /-- messages of the partner completed, as an AETH numbers them -/
  msn : Nat
  /-- SPDs that hold a copy of its context, the primary first (R273) -/
  copies : List Nat
  deriving DecidableEq, Repr

inductive MooringState where
  | valid | revoking | free
  deriving DecidableEq, Repr

/-- A Mooring or an address-space key (R276): `inflight` names the connection of every message in flight. -/
structure Mooring where
  idx : Nat
  gen : Nat
  pd : Nat
  base : Nat
  len : Nat
  rights : Nat
  state : MooringState
  inflight : List Nat
  serve : Bool
  /-- uptime of the revocation under way -/
  since : Nat
  deriving DecidableEq, Repr

/-- Run-time state of one class of one link (R302 to R305). -/
structure ClassRun where
  credit : Int
  deficit : Int
  vtime : Nat
  last : Nat
  paused : Bool
  /-- uptime of `credit` -/
  since : Nat
  deriving DecidableEq, Repr

/-- Run-time state of one Sluice list (R309 to R312). -/
structure SluRun where
  list : Word
  base : Nat
  entries : List SluEntry
  idx : Nat
  hold : Bool
  /-- local time at which the list that waits for its first cycle start was applied (R312) -/
  pending : Option Int
  /-- local time at which the entry in force began, and the duration of the stretched entry of this cycle (R310) -/
  since : Int
  stretch : Nat
  deriving DecidableEq, Repr

/-! ### Host ports, mailboxes, semaphores, Quays, commands (chapters 12 and 13) -/

inductive MbxState where
  | idle | posted | taken | reply | aborted
  deriving DecidableEq, Repr

structure Mailbox where
  buf : BitVec 512
  state : MbxState
  tag : Half
  abortStage : Bool
  lock : Option Owner
  lastContest : Option Owner
  evt : Word
  int : Word
  deriving DecidableEq, Repr

structure Sem where
  owner : Option Owner
  lastContest : Option Owner
  deriving DecidableEq, Repr

/-- An asynchronous event (R366): its code and detail, with LOST and RISE. -/
structure AsyncEvent where
  code : Nat
  lost : Bool
  rise : Bool
  detail : List Byte
  deriving DecidableEq, Repr

/-- The configuration space of a port as far as the spec names it (R322): the memory and bus-master enables, the BARs, the codes
of the maximum payload and read request sizes (128 bytes doubled as often), the MSI-X enable and function mask, and AER. -/
structure PciConfig where
  memSpace : Bool
  busMaster : Bool
  bar0 : Dword
  bar2 : Dword
  maxPayload : Nat
  maxRead : Nat
  msixOn : Bool
  msixMask : Bool
  aerUnc : Word
  aerCor : Word
  ecrcGen : Bool
  ecrcCheck : Bool
  deriving DecidableEq, Repr

structure HostPort where
  linkUp : Bool
  d3 : Bool
  perst : Bool
  events : List AsyncEvent
  lostNext : Bool
  /-- the mask and pending bits of the MSI-X table (R322, R377) -/
  vecMask : BitVec 256
  vecPend : BitVec 256
  /-- its entries: the address and the data of each vector's message -/
  vectors : List (Dword × Word)
  /-- the configuration space (R322, R325) -/
  cfg : PciConfig
  deriving DecidableEq, Repr

structure Completion where
  id : CmdId
  /-- place of the command among the commands taken -/
  order : Nat
  status : Nat
  result : List Byte
  /-- the command of a mailbox that a port reset overtook (R335) -/
  orphan : Bool
  deriving DecidableEq, Repr

structure Quay where
  id : QuayId
  sqBase : Nat
  cqBase : Nat
  sqN : Nat
  cqN : Nat
  vec : Nat
  coalCount : Nat
  coalTime : Nat
  sqTail : Nat
  sqHead : Nat
  cqHead : Nat
  cqTail : Nat
  phase : Bool
  error : Option Nat
  /-- completions written since the last message, and the uptime of the first of them (R352) -/
  sinceMsg : Nat
  msgSince : Nat
  waiting : List Completion
  deriving DecidableEq, Repr

/-- What a started command is waiting for. -/
inductive CmdRun where
  | queued
  | writeHeld (dsSlot shard firstIdx : Nat) (samples : List (List Byte))
  /-- a FLUSH, or the flush of a SEAL, to a WSEQ; once a covered write is lost, the durable WSEQ to return (R108, R124) -/
  | flush (dsSlot wseq : Nat) (sealing : Bool) (lost : Option Nat)
  /-- a COPY_FROM_PEER: the greatest WSEQ taken, the shards to come with their first index and sample lengths, the one being
  copied first, and whether an ABORT has caught it -/
  | copying (greatest : Nat) (plan : List (Nat × Nat × List Nat)) (aborted : Bool)
  | jobEnd
  | streamStop (stream : Nat)
  | revoke (key : Word)
  | getEvent
  | selfTest
  | fwActivate (retried : Bool)
  | zeroise
  | deleteQuay (q : QuayId)
  /-- an ABORT that has caught its target, named by its place (R354) -/
  | abortWait (target : Nat)
  deriving DecidableEq, Repr

structure Cmd where
  id : CmdId
  entry : BitVec 512
  /-- stamp of the doorbell that brought the command, then its place among the commands taken (R352) -/
  stamp : Nat
  order : Nat
  run : CmdRun
  /-- the port was reset: the completion is discarded (R335, R370) -/
  orphan : Bool
  /-- its TAG was that of a command outstanding on its Quay (R347) -/
  dup : Bool
  deriving DecidableEq, Repr

structure SelfTest where
  cmd : CmdId
  extended : Bool
  step : Nat
  paused : Bool
  failed : Nat
  firstFail : Nat
  /-- uptime since which no host command has been pending (R368) -/
  quietSince : Option Nat
  /-- caught by an ABORT: it ends at the next step boundary (R354) -/
  aborted : Bool
  deriving DecidableEq, Repr

/-! ### Power, security, health, counters (chapters 14 to 19) -/

inductive PowerState where
  | noon | dusk | night | dawn
  deriving DecidableEq, Repr

/-- The phases of R436 of an entry under way. -/
inductive EntryPhase where
  | drain | closing | completing
  deriving DecidableEq, Repr

structure Power where
  state : PowerState
  entry : Option (Bool × EntryPhase)
  exiting : Bool
  heldWake : Bool
  op : Nat
  opTarget : Nat
  thermal : Nat
  throttle : Bool
  therm : Bool
  hot : Int
  hotSensor : Nat
  /-- a junction or stack at its THERM_C, at the last sample (R447, R448) -/
  crit : Bool
  hotSince : Option Nat
  coolSince : Option Nat
  idleSince : Option Nat
  duskSince : Nat
  /-- uptime of the commit point of the entry under way (R436) -/
  commitAt : Nat
  tideTimer : Option Nat
  wakeN : Bool
  /-- the trip comparator or a lost rail holds the core rails open (R449, R512) -/
  off : Bool
  tripped : Bool
  vin48 : Bool
  v1p8 : Bool
  v3p3 : Bool
  /-- a warm reset follows the return of power (R512) -/
  warmDue : Bool
  /-- TEST_EN as sampled: every die but the always-on domain stays in reset (R519) -/
  testEn : Bool
  /-- uptime of the wake that began the exit under way, and the steps of R440 it has taken -/
  exitFrom : Nat
  exitStep : Nat
  /-- thresholds at or below the hottest junction, then each stack, at the last sample; whether one was crossed then (R435) -/
  zones : List Nat
  crossed : Bool
  /-- RESET_N is held low (R497) -/
  resetLow : Bool
  deriving DecidableEq, Repr

/-- The always-on registers, their copies and the posting register (R391 to R393). -/
structure AonRegs where
  stat : Word
  cause : Word
  wake : Word
  bootCnt : Word
  scratch : List Word
  deriving DecidableEq, Repr

structure Aon where
  live : AonRegs
  copy : AonRegs
  posted : List (Nat × Word)
  slowLost : Bool
  /-- ns since the cold reset -/
  clock : Nat
  deriving DecidableEq, Repr

inductive Lifecycle where
  | provisioning | secured | zeroised
  deriving DecidableEq, Repr

inductive DebugState where
  | locked
  | auth (w c z : Bool) (expiry : Option Nat)
  | openAll
  deriving DecidableEq, Repr

/-- A staged image (R456). -/
structure Staged where
  total : Nat
  bytes : List Byte
  verified : Bool
  deriving DecidableEq, Repr

structure Session where
  transport : SpdmTransport
  id : Nat
  finished : Bool
  deriving DecidableEq, Repr

structure Security where
  keyHash : List (BitVec 256)
  revoke : BitVec 4
  svnMin : Nat
  lifecycle : Lifecycle
  deviceSeed : BitVec 256
  /-- the chain in the last 64 KiB of the NOR, where it is present (R452, R461) -/
  cert : Option (List Byte)
  verified : Bool
  recovery : Bool
  slotUsed : Nat
  fwVer : Word
  svn : Nat
  attest : Bool
  /-- the NOR from its first byte on, erased beyond; the last 64 KiB apart (R452) -/
  nor : List Byte
  /-- what the ROM measured when the running image started (R463): the fuses and the image -/
  bootFuses : List Byte
  bootImage : Option (List Byte)
  /-- the boot buffer on stack H00 (R454) -/
  bootBuffer : List Byte
  debug : DebugState
  nonce : Option Nat
  debugFails : Nat
  jobKey : Option (BitVec 256)
  connKeys : List (Nat × BitVec 256 × Word)
  spillKey : Option (List Byte)
  staged : Option Staged
  /-- the image that an activation programs; the restart that is due, from which uptime and of which image (R457) -/
  activated : Option (List Byte)
  restart : Option (Nat × List Byte)
  /-- steps that a ZEROISE under way has taken (R471) -/
  zeroising : Option Nat
  sessions : List Session
  nextSession : Nat
  halted : List Nat
  rawMem : List (Nat × Byte)
  /-- instructions that debug has stepped cores by, and times it let them run on (R467) -/
  steps : Nat
  /-- the boundary register as SAMPLE/PRELOAD has loaded it -/
  preload : Word
  deriving DecidableEq, Repr

inductive HmState where
  | boot | running | restarting
  deriving DecidableEq, Repr

structure Reason where
  code : Nat
  conf : Nat
  loc : Nat
  deriving DecidableEq, Repr

structure Health where
  reasons : List Reason
  seq : Word
  replace : Bool
  degraded : Bool
  grade : Nat
  alertPend : Bool
  errCorr : Nat
  errDeferred : Nat
  errContained : Nat
  errFatal : Nat
  /-- CORRECTED errors, each with its die, and lockstep mismatches of the last 24 h, and the trips of the last 7 days, at times of the
  always-on domain (R480) -/
  corrections : List (Nat × Nat)
  mismatches : List Nat
  trips : List Nat
  deriving DecidableEq, Repr

/-- The counters of one die (R487): live and snapshot values, event selects with OVF, fixed OVF. -/
structure DieCounters where
  cnt : List Nat
  evsel : List Word
  fixOvf : BitVec 16
  snap : List Nat
  snapOvf : List Bool
  deriving DecidableEq, Repr

structure Pmc where
  dies : List DieCounters
  frozen : Bool
  snapBusy : Bool
  snapValid : Bool
  partialSnap : Bool
  stale : BitVec 12
  bwSeq : Word
  /-- uptime at which the bandwidth window under way began (R491) -/
  bwSince : Nat
  bw : List (Nat × Nat)
  bwSnap : List (Nat × Nat)
  deriving DecidableEq, Repr

inductive LtState where
  | idle | sync | running | stopped | refused
  deriving DecidableEq, Repr

structure LinkTest where
  /-- what `HW_LT_STAT.STATE` shows, and whether a test is under way: a START refused for a running test shows REFUSED -/
  state : LtState
  active : Bool
  refuse : Nat
  cfg : Word
  lock : Word
  errs : List Nat
  bits : Nat
  deriving DecidableEq, Repr

/-- A check-value unit of the window (R417 to R423). -/
structure Cvu where
  cfg : Word
  active : Bool
  tail : Nat
  matched : Bool
  evt : Word
  count : Nat
  poly : Dword
  init : Dword
  xorout : Dword
  expect : Dword
  state : Dword
  deriving DecidableEq, Repr

/-- What a frame of a class shows on its link (R267, R270, R281, R299, R307): the link's MAC address, the DSCP with ECT(0), the
PCP and VID of its 802.1Q tag, the connection, the PSN, AckReq, its length without overhead, and the nonce of a protected
payload. -/
structure FrameHdr where
  link : Nat
  mac : BitVec 48
  dscp : Nat
  ect0 : Bool
  tag : Option (Nat × Nat)
  conn : Nat
  psn : Nat
  ackReq : Bool
  len : Nat
  nonce : Option (List Byte)
  /-- the BTH, with any RETH or AETH behind it, and the invariant CRC -/
  transport : List Byte
  icrc : Word
  deriving DecidableEq, Repr

/-- A bypass frame on a connection's link (R300): 0 ACK, 1 NAK Sequence Error, 2 NAK Invalid Request, 3 NAK Remote Access
Error, 4 RNR NAK with the time of its timer code in ns, 5 CNP. -/
structure BypassHdr where
  link : Nat
  mac : BitVec 48
  conn : Nat
  what : Nat
  psn : Nat
  timer : Nat
  deriving DecidableEq, Repr

/-- What the block puts out: messages, frames, bytes, pins. The model's own record, newest first. -/
inductive Output where
  | msix (port : Port) (vec : Nat) (entry : Dword × Word)
  | value (owner : Owner) (v : Word)
  | flit (edge : Nat) (fromLow : Bool) (kind : FlitKind)
  | frame (h : FrameHdr)
  | bypass (h : BypassHdr)
  | rdma (conn : Nat) (addr : Nat) (bytes : List Byte)
  | hostWrite (port : Port) (addr : Nat) (bytes : List Byte)
  | jtag (ok : Bool) (v : Word)
  | smbus (bytes : List Byte)
  | spdm (ok : Bool) (bytes : List Byte)
  | doe (c : Completion)
  | pfc (link : Nat) (mac : BitVec 48) (priority : Nat)
  | abortTlp (port : Port)
  | readData (owner : Owner) (bytes : List Byte)
  | lands (v : Word)
  deriving DecidableEq, Repr

/-- The module: dies, maps and what runs on them. -/
structure Fabric where
  spds : List Spd
  stackLost : BitVec 24
  stackRebuild : BitVec 24
  edges : List Edge
  iod0 : Bool
  iod1 : Bool
  med0 : Bool
  med1 : Bool
  homeMap : List Nat
  /-- lost SPDs whose rewrite of R28 is not yet applied, oldest first, each with the SPDs that served as it was lost -/
  rewrites : List (Nat × List Nat)
  /-- the serving list in force for batch homes (R20) -/
  homes : List Nat
  /-- corrections in HBM rows over the last 24 h, with their uptimes, and the rows retired (R123) -/
  rowCe : List (HbmRow × Nat)
  rowsRetired : List HbmRow
  contextRecopy : List Nat
  mapRecopy : List Nat
  /-- map segments with one copy left: the segment, the SPD that holds it, and the SPD whose copy is lost (R90) -/
  oneCopy : List (Nat × Nat × Nat)
  /-- Check-Value Units of the I/O and media dies out of service: die and unit (R13) -/
  checkOut : List (Nat × Nat)
  /-- flits of a class that have arrived from one die at another (R16) -/
  flits : List ((TrafficClass × Nat × Nat) × Nat)
  /-- the reserves of the Berth pools, which change at job setup alone (R143) -/
  reserves : List Reserve
  /-- where the last patrol scrub pass of Berth SRAM and of HBM started (R123, R407) -/
  scrubSram : Nat
  scrubHbm : Nat
  deriving DecidableEq, Repr

structure Egress where
  linksUp : BitVec 16
  /-- link, IPv6, address with its first byte most significant, and prefix length (R267, R365) -/
  linkAddr : List (Nat × Bool × BitVec 128 × Nat)
  conns : List Conn
  moorings : List Mooring
  txOff : Bool
  refused : Nat
  /-- uptime of the last LINK_UP of each link (R274) -/
  upSince : List Nat
  /-- uptime before which no link comes up, 100 ms after FW_READY (R506) -/
  linksFrom : Nat
  jobMem : List (Nat × Byte)
  /-- shard ranges being read from peers, oldest first (R292) -/
  fetches : List Fetch
  deriving DecidableEq, Repr

structure Breakwater where
  classes : List ClassRun
  lists : List SluRun
  /-- the list each link runs (R312) -/
  linkList : List Nat
  overcommit : Bool
  overSlices : Bool
  /-- the DRR class being served, per link (R303) -/
  drr : List Nat
  /-- the slice under way, counted in 2,000 ns of uptime (R315) -/
  slice : Nat
  deriving DecidableEq, Repr

structure Hosts where
  portA : HostPort
  portB : HostPort
  mbxA : List Mailbox
  mbxB : List Mailbox
  orphanRunA : Half
  orphanRunB : Half
  orphanDoneA : Half
  orphanDoneB : Half
  sems : List Sem
  semAbn : Dword
  quays : List Quay
  /-- doorbells not yet served, oldest first: way, stamp, and the tail a Quay doorbell wrote (R331, R352) -/
  bells : List (Via × Nat × Nat)
  stamp : Nat
  cmds : List Cmd
  cmdOrder : Nat
  replies : List Completion
  selfTest : Option SelfTest
  hm : HmState
  fwReady : Bool
  /-- the bring-up of R496 has run since the last reset -/
  broughtUp : Bool
  deriving DecidableEq, Repr

structure JobRun where
  job : Option Job
  clearing : Bool
  ending : Bool
  endedId : Word
  streams : List Stream
  batches : List Batch
  requests : List Request
  tables : List TextTable
  /-- a step start has been accepted in the job (R378) -/
  accepted : Bool
  deriving DecidableEq, Repr

end Sys2Proof.Machine

namespace Sys2Proof.Machine

/-- The state of the block, with the queue of commands that wait. `free` is the model's own counter for free values. -/
structure State where
  pending : List Instr
  free : Nat
  out : List Output
  shadow : StRegs
  applied : StRegs
  rw : RwRegs
  ev : Events
  cnt : Counts
  arms : List Arm
  guard : Guard
  tide : Tide
  fab : Fabric
  media : Media
  run : JobRun
  egr : Egress
  bw : Breakwater
  host : Hosts
  cvu : List Cvu
  pwr : Power
  aon : Aon
  sec : Security
  hlth : Health
  pmc : Pmc
  lt : LinkTest
  deriving DecidableEq, Repr

/-- No command of this block stops the machine with a fault: an error of the device is a change of its state
(R475 to R477), so the type has no constructor. -/
inductive Fault where
  deriving DecidableEq, Repr

/-- Why a step has no meaning. -/
inductive Refusal where
  /-- raised by an arm of the dispatch whose command has no meaning yet; safe, the model stops -/
  | notModelled (mnemonic : String)
  deriving DecidableEq, Repr

/-! ### Reset values -/

def ClassRegs.reset : ClassRegs := ⟨0x5, 0, 0, 0x10000, 0, 0x10000⟩

def SluEntry.reset : SluEntry := ⟨0xFF, 0x3E8⟩

def SluList.reset : SluList := ⟨0x3FC00, 0, 0, List.replicate 256 SluEntry.reset⟩

/-- The reset column of R59, R144, R170, R202, R233, R265, R297, R318, R383 and R398. -/
def StRegs.reset : StRegs where
  cfgDet := 0
  tideCfg := 0x601
  tidePeriodInit := 0x186A0
  tideGuard := 0x1388
  tideLostMult := 4
  tideMinInterval := 0x64
  tideSyncDelay := 0
  tideHbInterval := 0x2710
  tideLease := 0xC350
  tideMarkPort := 0x5000
  tideJobId := 0
  tideStartLo := 0
  tideStartHi := 0
  cfgCache := 0x830
  cfgSpillLimit := 0x200
  cfgDec := 0x4B01
  cfgXf := 0x301
  cfgTxt := 1
  cfgPack := 1
  egrPort := 0xFF00
  egr := 0x3F3
  egrQuiet := 0x1F4
  egrPeerHold := 0x3E8
  egrRevokeMax := 0x186A0
  bw := 0x10014
  bwCc := 0x37028F
  bwHist := 1
  sluMap := 0
  pwrCfg := 4
  pwrDuskIdle := 0x1388
  pwrLookahead := 0x3E8
  pwrTherm := 0x6964
  classes := List.replicate 128 ClassRegs.reset
  slu := List.replicate 4 SluList.reset

def RwRegs.reset : RwRegs := ⟨0, 0, 0, 0, 0, 0, 0, 0, 0, 0, 0, 0, 0, 0, 0, 0, 0, 0, 0⟩

def Events.reset : Events := ⟨0, 0, 0, 0, 0, 0, 0, 0, 0, 0, 0, 0, 0, 0, 0, 0⟩

def Counts.reset : Counts := ⟨0, 0, 0, 0, 0, 0, 0, 0, 0, 0, 0, 0⟩

def Guard.reset : Guard := ⟨0, 0, false, false, false, false, false, false⟩

def TideSnap.reset : TideSnap := ⟨0, 0, 0, 0, 0⟩

def Tide.reset : Tide where
  time := 0
  uptime := 0
  stepState := .none
  step := 0
  startTime := 0
  window := []
  seed := none
  lastSeq := none
  afterRelease := false
  recent := []
  timeState := .free
  onAlt := false
  lockPrimary := 0
  lockAlt := 0
  lastSyncPrimary := none
  lastSyncAlt := none
  primarySince := none
  ppsGood := 0
  lastPps := none
  ppsHeard := 0
  sourceSince := 0
  offset := 0
  barrier := .idle
  syncOut := false
  syncIn := false
  missCnt := 0
  edges := []
  marks := []
  recomputeDue := false
  recomputeOp := false
  markRejects := 0
  accepts := 0
  snapA := .reset
  snapB := .reset
  snapHm := .reset
  snapDbg := .reset

def Engine.reset : Engine := ⟨.free, [], []⟩

/-- Default pool counts of R137: 1S to 5S, then 1H to 8H. -/
def poolDefaults : List Nat :=
  [16384, 8192, 4096, 1024, 256, 65536, 16384, 8192, 4096, 2048, 512, 128, 128]

/-- An SPD without power, isolated (R440, R441). -/
def SpdPower.reset : SpdPower where
  rail := false
  inReset := true
  isolated := true
  aclk := .off
  bank0 := .off
  banks := .off
  saved := false
  scrubbed := false
  zeroed := false
  hbm := [.off, .off, .off]

/-- An SPD in Noon (R427). -/
def SpdPower.noon : SpdPower where
  rail := true
  inReset := false
  isolated := false
  aclk := .pll
  bank0 := .on
  banks := .on
  saved := false
  scrubbed := true
  zeroed := true
  hbm := [.active, .active, .active]

/-- An SPD before bring-up: not serving, its engines free (R5, R496). -/
def Spd.reset : Spd where
  serving := false
  de := List.replicate 48 Engine.reset
  te := List.replicate 32 Engine.reset
  pe := List.replicate 16 Engine.reset
  ke := List.replicate 8 Engine.reset
  ce := List.replicate 4 Engine.reset
  puOut := false
  cvuOut := []
  pools := poolDefaults
  holds := []
  drawFails := List.replicate 13 0
  decCache := []
  rawCache := []
  spill := []
  extents := 0
  sweep := false
  splitting := false
  admitOrder := 0
  textReload := false
  vocab := []
  freqPt := 0
  voltPt := 0
  freqHeld := false
  voltHeld := false
  power := SpdPower.reset

def Fabric.reset : Fabric where
  spds := List.replicate 8 Spd.reset
  stackLost := 0
  stackRebuild := 0
  edges := List.replicate 42 ⟨false, false, 0, 0, 0, false⟩
  iod0 := true
  iod1 := false
  med0 := false
  med1 := false
  homeMap := (List.range 4096).map (· % 8)
  rewrites := []
  homes := []
  rowCe := []
  rowsRetired := []
  contextRecopy := []
  mapRecopy := []
  oneCopy := []
  checkOut := []
  flits := []
  reserves := []
  scrubSram := 0
  scrubHbm := 0

/-- Media as formatted and empty; the parameter page is read at mount (R86, R92). (DESIGN CHOICE 144; assumption log) -/
def Media.reset : Media where
  mounted := false
  unsupported := none
  mountFail := none
  label := 0
  qsLayout := false
  targets := 0
  untrained := []
  geom := ⟨0, 0, 0, 0, 0, 0, 0, 0, 0, 0, false, false, false⟩
  seq := 1
  nextLua := 0
  freeLuas := []
  nextMeta := 0
  nextSpill := 0
  map := []
  slots := []
  blocks := []
  stripes := []
  stripesOpened := []
  partitions := []
  buffer := []
  journal := []
  journalDone := []
  pagesFreed := 0
  trims := []
  sinceCheckpoint := 0
  roots := []
  pendingCheckpoint := none
  sinceStaging := 0
  staging := 60000
  regionBase := 0
  regionMoved := []
  ingestCredit := []
  folding := false
  stagingFull := false
  exhausted := false
  fullScan := false
  full := false
  spares := []
  failedDies := []
  blockFails := []
  relocAt := []
  lostLuas := []
  fetched := []
  reloadSegments := []
  retired := 0
  corrCw := 0
  uncorrCw := 0
  retryReads := 0
  rewrites := 0
  hostWritten := 0
  mediaWritten := 0
  tempBins := List.replicate 24 0

def JobRun.reset : JobRun := ⟨none, false, false, 0, [], [], [], [], false⟩

def Egress.reset : Egress := ⟨0, [], [], [], false, 0, List.replicate 16 0, 0, [], []⟩

def SluRun.reset : SluRun := ⟨0x3FC00, 0, List.replicate 256 SluEntry.reset, 0, false, none, 0, 0⟩

def Breakwater.reset : Breakwater :=
  ⟨List.replicate 128 ⟨0, 0, 0, 0, false, 0⟩, List.replicate 4 SluRun.reset, List.replicate 16 0, false, false,
    List.replicate 16 7, 0⟩

/-- A mailbox while the Harbourmaster starts: its lock reads 3 (R328). -/
def Mailbox.reset : Mailbox := ⟨0, .idle, 0, false, some .harbourmaster, none, 0, 0x700⟩

/-- PCI Express's own reset values: enables off, BARs unassigned, 128 and 512 bytes. (PRESUMED 194; assumption log) -/
def PciConfig.reset : PciConfig := ⟨false, false, 0, 0, 0, 2, false, false, 0, 0, false, false⟩

/-- Every vector masked, no entry written. (PRESUMED 12, PRESUMED 194; assumption log) -/
def HostPort.reset : HostPort :=
  ⟨false, false, true, [], false, BitVec.allOnes 256, 0, List.replicate 256 (0, 0), PciConfig.reset⟩

def Hosts.reset : Hosts where
  portA := .reset
  portB := .reset
  mbxA := List.replicate 16 Mailbox.reset
  mbxB := List.replicate 16 Mailbox.reset
  orphanRunA := 0
  orphanRunB := 0
  orphanDoneA := 0
  orphanDoneB := 0
  sems := List.replicate 64 ⟨none, none⟩
  semAbn := 0
  quays := []
  bells := []
  stamp := 0
  cmds := []
  cmdOrder := 0
  replies := []
  selfTest := none
  hm := .boot
  fwReady := false
  broughtUp := false

/-- The reset column of R422: each unit computes the CRC-64 of R413. -/
def Cvu.reset : Cvu where
  cfg := 0x340
  active := false
  tail := 0
  matched := false
  evt := 0
  count := 0
  poly := 0x42F0E1EBA9EA3693
  init := 0xFFFFFFFFFFFFFFFF
  xorout := 0xFFFFFFFFFFFFFFFF
  expect := 0
  state := 0xFFFFFFFFFFFFFFFF

/-- Dawn, with the rails not yet good: AON_STAT resets to 3 (R393, R398). (DESIGN CHOICE 144; assumption log) -/
def Power.reset : Power where
  state := .dawn
  entry := none
  exiting := false
  heldWake := false
  op := 0
  opTarget := 0
  thermal := 0
  throttle := false
  therm := false
  hot := 0
  hotSensor := 0
  crit := false
  hotSince := none
  coolSince := none
  idleSince := none
  duskSince := 0
  commitAt := 0
  tideTimer := none
  wakeN := true
  off := true
  tripped := false
  vin48 := false
  v1p8 := false
  v3p3 := true
  warmDue := false
  testEn := false
  exitFrom := 0
  exitStep := 0
  zones := []
  crossed := false
  resetLow := false

def AonRegs.reset : AonRegs := ⟨0x3, 0x1, 0, 0, [0, 0, 0, 0]⟩

def Aon.reset : Aon := ⟨.reset, .reset, [], false, 0⟩

/-- The fuses of a module not yet provisioned; the debug state of R468. (DESIGN CHOICE 144; assumption log) -/
def Security.reset : Security where
  keyHash := [Config.makerKeyHash, 0, 0, 0]
  revoke := 0
  svnMin := 0
  lifecycle := .provisioning
  deviceSeed := Config.deviceSeed
  cert := some Config.makerCert
  verified := false
  recovery := false
  slotUsed := 0
  fwVer := 0
  svn := 0
  attest := false
  nor := Config.makerNor
  bootFuses := []
  bootImage := none
  bootBuffer := []
  debug := .auth true true false none
  nonce := none
  debugFails := 0
  jobKey := none
  connKeys := []
  spillKey := none
  staged := none
  activated := none
  restart := none
  zeroising := none
  sessions := []
  nextSession := 0
  halted := []
  rawMem := []
  steps := 0
  preload := 0

def Health.reset : Health :=
  ⟨[], 0, false, false, 0, false, 0, 0, 0, 0, [], [], []⟩

/-- The counters of a die: `n` in all, `p` of them programmable (R487). -/
def DieCounters.reset (n p : Nat) : DieCounters :=
  ⟨List.replicate n 0, List.replicate p 0, 0, List.replicate n 0, List.replicate n false⟩

def Pmc.reset : Pmc where
  dies := List.replicate 8 (.reset 272 256) ++ List.replicate 2 (.reset 128 128) ++ List.replicate 2 (.reset 64 64)
  frozen := false
  snapBusy := false
  snapValid := false
  partialSnap := false
  stale := 0
  bwSeq := 0
  bwSince := 0
  bw := List.replicate 148 (0, 0)
  bwSnap := List.replicate 148 (0, 0)

def LinkTest.reset : LinkTest := ⟨.idle, false, 0, 0, 0, List.replicate 32 0, 0⟩

/-- The block right after a cold reset, before power good: every register at its reset column, nothing queued.
(DESIGN CHOICE 8, DESIGN CHOICE 142, DESIGN CHOICE 144; assumption log) -/
def State.reset : State where
  pending := []
  free := 0
  out := []
  shadow := .reset
  applied := .reset
  rw := .reset
  ev := .reset
  cnt := .reset
  arms := []
  guard := .reset
  tide := .reset
  fab := .reset
  media := .reset
  run := .reset
  egr := .reset
  bw := .reset
  host := .reset
  cvu := List.replicate 8 Cvu.reset
  pwr := .reset
  aon := .reset
  sec := .reset
  hlth := .reset
  pmc := .reset
  lt := .reset

end Sys2Proof.Machine
end

