-- ==== Sys2Proof/Machine/Slipway.lean ====
section
/-! DEFINITION. The Slipway (R13 to R18): its edges, the route of traffic between two dies with the detours of R17, and the
relay of Port B. Dies are numbered as R491 numbers them: SPDs 0 to 7, I/O dies 8 and 9, media dies 10 and 11. -/

namespace Sys2Proof.Machine

/-! ### Edges (R15) -/

/-- The dies of an edge, the lower number first. -/
def edgeEnds (e : Nat) : Nat × Nat :=
  if e < 10 then
    [(0, 1), (1, 2), (2, 3), (4, 5), (5, 6), (6, 7), (0, 4), (1, 5), (2, 6), (3, 7)].getD e (0, 0)
  else if e < 26 then ((e - 10) / 2, 8 + (e - 10) % 2)
  else ((e - 26) / 2, 10 + (e - 26) % 2)

def edgesOf (die : Nat) : List Nat := (List.range 42).filter fun e => (edgeEnds e).1 == die || (edgeEnds e).2 == die

/-- The edge between two dies, if R15 has one. -/
def edgeBetween (a b : Nat) : Option Nat := (List.range 42).find? fun e => edgeEnds e == (min a b, max a b)

/-- A die is in service. -/
def Fabric.dieUp (f : Fabric) (d : Nat) : Bool :=
  if d < 8 then ((f.spds[d]?).map (·.serving)).getD false
  else if d = 8 then f.iod0 else if d = 9 then f.iod1 else if d = 10 then f.med0 else f.med1

/-- An edge carries traffic: it is up, and no link test holds it (R486). -/
def Fabric.edgeUp (f : Fabric) (e : Nat) : Bool := ((f.edges[e]?).map fun x => x.up && !x.tested).getD false

/-- Two neighbouring dies whose edge is up. -/
def Fabric.hop (f : Fabric) (a b : Nat) : Bool := ((edgeBetween a b).map f.edgeUp).getD false

/-! ### Routes (R17) -/

/-- The row and column of an SPD (R13). -/
def spdRow (n : Nat) : Nat := n / 4
def spdCol (n : Nat) : Nat := n % 4

/-- The SPDs of a row from one column to another. -/
def rowWalk (row c d : Nat) : List Nat :=
  (if c ≤ d then (List.range (d - c + 1)).map (c + ·) else (List.range (c - d + 1)).map (c - ·)).map (4 * row + ·)

/-- Dimension order: along the source row, then across. -/
def rowFirst (a b : Nat) : List Nat := rowWalk (spdRow a) (spdCol a) (spdCol b) ++ if spdRow a = spdRow b then [] else [b]

/-- The first detour: across, then along the destination row. In one row there is nothing to cross. -/
def crossFirst (a b : Nat) : List Nat := (if spdRow a = spdRow b then [] else [a]) ++ rowWalk (spdRow b) (spdCol a) (spdCol b)

/-- Every hop of a path is up, and the dies between its ends serve. -/
def Fabric.pathUp (f : Fabric) : List Nat → Bool
  | a :: b :: rest => f.hop a b && (rest.isEmpty || f.dieUp b) && f.pathUp (b :: rest)
  | _ => true

/-- Paths one hop longer, through serving SPDs not yet reached; each path stands last die first. -/
def Fabric.grow (f : Fabric) (paths : List (List Nat)) (seen : List Nat) : List (List Nat) :=
  paths.foldl (fun acc p =>
    match p with
    | [] => acc
    | a :: _ =>
      acc ++ ((List.range 8).filter fun b =>
        f.hop a b && f.dieUp b && !seen.contains b && !acc.any fun q => q.head? == some b).map fun b => b :: p) []

/-- The last detour: through any serving SPDs that serving edges reach, the fewest hops and then the lowest numbers
(R17 says any). (DESIGN CHOICE 151; assumption log) -/
def Fabric.anyPath (f : Fabric) (b : Nat) : Nat → List (List Nat) → List Nat → Option (List Nat)
  | 0, _, _ => none
  | fuel + 1, paths, seen =>
    match paths.find? fun p => p.head? == some b with
    | some p => some p.reverse
    | none =>
      let next := f.grow paths seen
      f.anyPath b fuel next (seen ++ next.filterMap List.head?)

/-- The route between two SPDs (R17). -/
def Fabric.spdRoute (f : Fabric) (a b : Nat) : Option (List Nat) :=
  if f.pathUp (rowFirst a b) then some (rowFirst a b)
  else if f.pathUp (crossFirst a b) then some (crossFirst a b)
  else f.anyPath b 8 [[a]] [a]

/-- The route from an SPD to an I/O or media die: its own edge, or through the lowest-numbered serving neighbour that still
has its own edge to that die (R17). -/
def Fabric.outRoute (f : Fabric) (n d : Nat) : Option (List Nat) :=
  if f.hop n d then some [n, d]
  else
    ((List.range 8).find? fun m => (edgeBetween n m).isSome && f.dieUp m && f.hop m d).bind fun m =>
      (f.spdRoute n m).map (· ++ [d])

/-- The SPD that relays management traffic between the I/O dies (R18). (DESIGN CHOICE 150; assumption log) -/
def Fabric.relay (f : Fabric) : Option Nat := (List.range 8).find? fun k => f.dieUp k && f.hop k 8 && f.hop k 9

/-- The route of traffic between two dies; none where no path of R17 or R18 stands. -/
def Fabric.route (f : Fabric) (a b : Nat) : Option (List Nat) :=
  if a = b then some [a]
  else if a < 8 ∧ b < 8 then f.spdRoute a b
  else if a < 8 then f.outRoute a b
  else if b < 8 then (f.outRoute b a).map List.reverse
  else if a < 10 ∧ b < 10 then f.relay.map fun k => [a, k, b]
  else none

end Sys2Proof.Machine
end

