-- ==== Sys2Proof/Machine/Ops.lean ====
section
/-! DEFINITION. The operations every command shares: updates of one part of the state, event latches and their
interrupt messages (R376, R377), asynchronous events (R366), health reasons (R478 to R481), error classes (R475,
R476) and performance counts (R487 to R489). -/

namespace Sys2Proof.Machine

/-- The answer of a command: the next state. -/
abbrev Answer := Host.Outcome State Fault Refusal

/-! ### One part of the state -/

def State.modEv (f : Events → Events) (s : State) : State := { s with ev := f s.ev }
def State.modCnt (f : Counts → Counts) (s : State) : State := { s with cnt := f s.cnt }
def State.modRw (f : RwRegs → RwRegs) (s : State) : State := { s with rw := f s.rw }
def State.modGuard (f : Guard → Guard) (s : State) : State := { s with guard := f s.guard }
def State.modTide (f : Tide → Tide) (s : State) : State := { s with tide := f s.tide }
def State.modFab (f : Fabric → Fabric) (s : State) : State := { s with fab := f s.fab }
def State.modMedia (f : Media → Media) (s : State) : State := { s with media := f s.media }
def State.modRun (f : JobRun → JobRun) (s : State) : State := { s with run := f s.run }
def State.modEgr (f : Egress → Egress) (s : State) : State := { s with egr := f s.egr }
def State.modBw (f : Breakwater → Breakwater) (s : State) : State := { s with bw := f s.bw }
def State.modHost (f : Hosts → Hosts) (s : State) : State := { s with host := f s.host }
def State.modPwr (f : Power → Power) (s : State) : State := { s with pwr := f s.pwr }
def State.modAon (f : Aon → Aon) (s : State) : State := { s with aon := f s.aon }
def State.modSec (f : Security → Security) (s : State) : State := { s with sec := f s.sec }
def State.modHlth (f : Health → Health) (s : State) : State := { s with hlth := f s.hlth }
def State.modPmc (f : Pmc → Pmc) (s : State) : State := { s with pmc := f s.pmc }
def State.modLt (f : LinkTest → LinkTest) (s : State) : State := { s with lt := f s.lt }

/-- Record what the block puts out. (DESIGN CHOICE 7, DESIGN CHOICE 143; assumption log) -/
def State.emit (o : Output) (s : State) : State := { s with out := o :: s.out }

/-- The next free value and the state whose counter has moved past it. (DESIGN CHOICE 142; assumption log) -/
def State.draw (s : State) : Dword × State := (Config.fresh s.free, { s with free := s.free + 1 })

/-- Apply an operation once for each element of a list, in order. -/
def State.each {α : Type} (l : List α) (f : α → State → State) (s : State) : State := l.foldl (fun t a => f a t) s

/-- Apply an operation when a condition holds. -/
def State.onlyIf (c : Bool) (f : State → State) (s : State) : State := if c then f s else s

/-- A list in order, equal elements in their old order. -/
def insertBy {α : Type} (le : α → α → Bool) (x : α) : List α → List α
  | [] => [x]
  | y :: ys => if le x y then x :: y :: ys else y :: insertBy le x ys

def sortBy {α : Type} (le : α → α → Bool) (l : List α) : List α := l.foldr (insertBy le) []

/-! ### Ports, owners, interrupt messages -/

def Hosts.port (h : Hosts) : Port → HostPort
  | .a => h.portA
  | .b => h.portB

def State.modPort (p : Port) (f : HostPort → HostPort) (s : State) : State :=
  s.modHost fun h =>
    match p with
    | .a => { h with portA := f h.portA }
    | .b => { h with portB := f h.portB }

/-- Management traffic passes between a port and the Harbourmaster: Port B's through the relay of R18, once bring-up has
found the SPDs that may relay. (DESIGN CHOICE 150; assumption log) -/
def State.portReached (p : Port) (s : State) : Bool :=
  s.fab.iod0 && (p == .a || !s.host.broughtUp || (s.fab.iod1 && s.fab.relay.isSome))

/-- Memory requests arrive on a port: its link is up and its memory space enabled (R322, R325). -/
def HostPort.mapped (h : HostPort) : Bool := h.linkUp && h.cfg.memSpace

/-- A port issues no DMA: in D3hot, or without the bus-master enable (R322). -/
def HostPort.dmaOff (h : HostPort) : Bool := h.d3 || !h.cfg.busMaster

/-- Rights of the debug state (R469, R472): W, C and M. -/
def debugRight (d : DebugState) (cls : DebugClass) : Bool :=
  match d, cls with
  | _, .b => true
  | .locked, _ => false
  | .auth w _ _ _, .w => w
  | .auth _ r _ _, .c => r
  | .auth .., .m => false
  | .openAll, _ => true

/-- The Harbourmaster runs its ROM's image or the recovery path. -/
def hmRuns (s : State) : Bool := s.sec.verified || s.sec.recovery

/-- Debug reaches the Host Window: class W is open (R326, R467, R473). -/
def debugHeard (s : State) : Bool :=
  debugRight s.sec.debug .w && (hmRuns s || !(s.pwr.state == .dawn))

/-- An owner's access reaches the units of IOD0: with IOD0 lost no owner's does (R27, R477), a port's arrives on its link, and
debug's where its state allows it. (DESIGN CHOICE 150; assumption log) -/
def State.heard (o : Owner) (s : State) : Bool :=
  match o with
  | .portA => (s.host.port .a).mapped && s.portReached .a
  | .portB => (s.host.port .b).mapped && s.portReached .b
  | .harbourmaster => s.fab.iod0
  | .debug => s.fab.iod0 && debugHeard s

/-- What an owner's access does, where it reaches. -/
def State.byOwner (o : Owner) (f : State → State) (s : State) : State := s.onlyIf (s.heard o) f

/-- The port sends MSI-X messages (R322, R377): link up, D0, bus master, MSI-X enabled, and a way to the port. -/
def sendsMsix (p : Port) (s : State) : Bool :=
  let h := s.host.port p
  h.linkUp && !h.dmaOff && h.cfg.msixOn && s.portReached p

/-- The mask of a vector, its own or the function's. -/
def HostPort.masked (h : HostPort) (vec : Nat) : Bool := h.cfg.msixMask || bitOf h.vecMask vec

/-- One MSI-X message, of the vector's entry: none where the port sends none, and the vector's mask holds it pending (R377).
(PRESUMED 12; assumption log) -/
def sendMsix (p : Port) (vec : Nat) (s : State) : State :=
  let h := s.host.port p
  if !sendsMsix p s then s
  else if h.masked vec then s.modPort p fun h => { h with vecPend := h.vecPend ||| (1 <<< vec) }
  else s.emit (.msix p vec (h.vectors.getD vec (0, 0)))

/-- Messages held by a mask go out once it no longer holds them, lowest vector first. (PRESUMED 194; assumption log) -/
def flushMsix (p : Port) (s : State) : State :=
  s.each ((List.range 256).filter fun v => bitOf (s.host.port p).vecPend v && !(s.host.port p).masked v) fun v t =>
    if sendsMsix p t then
      sendMsix p v (t.modPort p fun h => { h with vecPend := h.vecPend &&& ~~~((1 : BitVec 256) <<< v) })
    else t

def Source.index : Source → Nat
  | .tide => 0 | .mem => 1 | .dec => 2 | .xf => 3 | .txt => 4 | .pack => 5 | .egr => 6 | .bw => 7
  | .cfg => 8 | .grd => 9 | .pwr => 10 | .sec => 11 | .win => 12 | .hlth => 13

def Source.all : List Source :=
  [.tide, .mem, .dec, .xf, .txt, .pack, .egr, .bw, .cfg, .grd, .pwr, .sec, .win, .hlth]

/-- The EV register of a source (R376). -/
def Events.get (e : Events) : Source → Word
  | .tide => e.tide | .mem => e.mem | .dec => e.dec | .xf => e.xf | .txt => e.txt | .pack => e.pack
  | .egr => e.egr | .bw => e.bw | .cfg => e.cfg | .grd => e.grd | .pwr => e.pwr | .sec => e.sec
  | .win => e.win | .hlth => e.hlth

def Events.set (e : Events) (v : Word) : Source → Events
  | .tide => { e with tide := v } | .mem => { e with mem := v } | .dec => { e with dec := v }
  | .xf => { e with xf := v } | .txt => { e with txt := v } | .pack => { e with pack := v }
  | .egr => { e with egr := v } | .bw => { e with bw := v } | .cfg => { e with cfg := v }
  | .grd => { e with grd := v } | .pwr => { e with pwr := v } | .sec => { e with sec := v }
  | .win => { e with win := v } | .hlth => { e with hlth := v }

def RwRegs.irqEn (r : RwRegs) : Port → Word
  | .a => r.irqEnA
  | .b => r.irqEnB

def RwRegs.irqVec (r : RwRegs) : Port → Nat
  | .a => fieldOf r.irqVecA 0 8
  | .b => fieldOf r.irqVecB 0 8

/-- The message of source `i` on one port, when that port enables it (R377). -/
def irqMessage (p : Port) (i : Nat) (s : State) : State :=
  if bitOf (s.rw.irqEn p) i then sendMsix p (s.rw.irqVec p) s else s

def irqMessages (i : Nat) (s : State) : State := irqMessage .b i (irqMessage .a i s)

/-- Set event bits of a source; a message goes out when its pending bit rises (R377, first condition). -/
def setEv (src : Source) (bits : Word) (s : State) : State :=
  let old := s.ev.get src
  let t := s.modEv (·.set (old ||| bits) src)
  if old = 0 ∧ bits ≠ 0 then irqMessages src.index t else t

/-- Write 1s to a source: they clear, and a message goes out when a set bit was written and a bit stays set
(R377, third condition). -/
def clearEv (src : Source) (v : Word) (s : State) : State :=
  let old := s.ev.get src
  let t := s.modEv (·.set (old &&& ~~~v) src)
  if old &&& v ≠ 0 ∧ old &&& ~~~v ≠ 0 then irqMessages src.index t else t

/-- The bits of `HW_IRQ_PEND` (R376). -/
def irqPend (e : Events) : Word :=
  BitVec.ofNat 32 (Source.all.foldl (fun n src => n + flag (e.get src ≠ 0) * 2 ^ src.index) 0)

/-! ### Asynchronous events (R366) -/

/-- One event into one port's queue of 256; an event that finds it full is dropped, and the next carries LOST.
(DEDUCED 148; assumption log) -/
def HostPort.post (code : Nat) (rise : Bool) (detail : List Byte) (h : HostPort) : HostPort :=
  if 256 ≤ h.events.length then { h with lostNext := true }
  else { h with events := h.events ++ [⟨code, h.lostNext, rise, detail⟩], lostNext := false }

/-- An event is placed in both ports' queues (R366). -/
def postEvent (code : Nat) (rise : Bool) (detail : List Byte) (s : State) : State :=
  s.modHost fun h => { h with portA := h.portA.post code rise detail, portB := h.portB.post code rise detail }

/-! ### Health (R478 to R481) -/

/-- The rank of a reason's kind: FATAL 2, CAPACITY 1, CONDITION 0 (R479, R480). -/
def reasonRank (code : Nat) : Nat :=
  if code = 0x14 ∨ (0x20 ≤ code ∧ code ≤ 0x23) then 2
  else if (1 ≤ code ∧ code ≤ 5) ∨ code = 0x0A ∨ code = 0x13 then 1
  else 0

/-- Reasons of which one cause each location holds; every other reason is one whatever its location (R480).
(DEDUCED 28; assumption log) -/
def reasonPerLocation (code : Nat) : Bool :=
  [0x01, 0x02, 0x03, 0x05, 0x07, 0x13, 0x15, 0x21].contains code

/-- (DEDUCED 28; assumption log) -/
def Reason.isFor (code loc : Nat) (r : Reason) : Bool :=
  r.code == code && (!reasonPerLocation code || r.loc == loc)

def replaceRequested (rs : List Reason) : Bool := rs.any (50 ≤ ·.conf)

def isDegraded (rs : List Reason) : Bool := rs.any (reasonRank ·.code == 1)

/-- The health grade (R478). -/
def gradeOf (rs : List Reason) : Nat :=
  if rs.any (reasonRank ·.code == 2) then 3
  else if isDegraded rs then 1
  else if replaceRequested rs then 2
  else 0

/-- One health change, in the order of R481; `up` for a raise or a confidence change, `fatal` when it raises a FATAL
reason. -/
def healthChange (rs : List Reason) (code conf loc : Nat) (up fatal : Bool) (s : State) : State :=
  let old := s.hlth
  let replace := replaceRequested rs
  let degraded := isDegraded rs
  let grade := gradeOf rs
  let evt := BitVec.ofNat 32 (flag (grade ≠ old.grade) + 2 * flag up + 4 * flag (!up)
    + 8 * flag (replace && !old.replace) + 16 * flag fatal)
  let t := s.modHlth fun h =>
    { h with reasons := rs, seq := h.seq + 1, replace := replace, degraded := degraded, grade := grade,
             alertPend := h.alertPend || (evt &&& s.rw.alertEn) ≠ 0 }
  postEvent 3 false
    ([BitVec.ofNat 8 (grade + 4 * flag replace + 8 * flag degraded), BitVec.ofNat 8 code, BitVec.ofNat 8 conf,
      BitVec.ofNat 8 (flag up)] ++ natBytes 2 loc ++ leBytes 4 (old.seq + 1))
    (setEv .hlth evt t)

/-- Raise a reason, or change the confidence of an active one; the same cause at the same confidence is no change. -/
def raiseReason (code conf loc : Nat) (s : State) : State :=
  let rs := s.hlth.reasons
  match rs.find? (·.isFor code loc) with
  | none => healthChange (rs ++ [⟨code, conf, loc⟩]) code conf loc true (reasonRank code == 2) s
  | some r =>
    let rs' := rs.map fun q => if q.isFor code loc then ⟨code, conf, loc⟩ else q
    if r.conf = conf then s.modHlth fun h => { h with reasons := rs' }
    else healthChange rs' code conf loc true false s

/-- Clear a reason that is active. -/
def clearReason (code loc : Nat) (s : State) : State :=
  match s.hlth.reasons.find? (·.isFor code loc) with
  | none => s
  | some r =>
    healthChange (s.hlth.reasons.filter fun q => !q.isFor code loc) code r.conf r.loc false false s

/-- A reason whose confidence depends on a count: raised when the confidence first reaches 50, followed while it is
active, and cleared below 50 where `fall` says so (R480). (DEDUCED 131; assumption log) -/
def countReason (code conf loc : Nat) (fall : Bool) (s : State) : State :=
  if s.hlth.reasons.any (·.isFor code loc) then
    if fall && decide (conf < 50) then clearReason code loc s else raiseReason code conf loc s
  else if 50 ≤ conf then raiseReason code conf loc s
  else s

/-- The reason that ranks highest (R479). -/
def topReason (rs : List Reason) : Option Reason :=
  rs.foldl (fun best r =>
    match best with
    | none => some r
    | some b =>
      let key (x : Reason) := (reasonRank x.code * 101 + x.conf) * 256 + (255 - x.code)
      if key b < key r then some r else best) none

/-! ### Performance counts (R487 to R489) -/

def evHit (code : Nat) (sel : Word) : Bool := fieldOf sel 0 12 == code && !bitOf sel 12 && bitOf sel 13

/-- One count of a 48-bit counter, which wraps (R489). -/
def count48 (v : Nat) : Nat := (v + 1) % 2 ^ 48

/-- -/
def DieCounters.countEvent (code : Nat) (d : DieCounters) : DieCounters :=
  { d with
    cnt := List.zipWith (fun v e => if evHit code e then count48 v else v) d.cnt d.evsel ++ d.cnt.drop d.evsel.length
    evsel := List.zipWith (fun v e => if evHit code e && v + 1 == 2 ^ 48 then e ||| 0x4000 else e) d.cnt d.evsel }

def DieCounters.countFixed (i : Nat) (d : DieCounters) : DieCounters :=
  { d with
    cnt := updAt d.cnt (256 + i) count48
    fixOvf := if d.cnt.getD (256 + i) 0 + 1 = 2 ^ 48 then d.fixOvf ||| (1 <<< i) else d.fixOvf }

def DieCounters.anyOvf (d : DieCounters) : Bool := d.evsel.any (bitOf · 14) || d.fixOvf ≠ 0

/-- Replace one die's counters; a new OVF bit sets `PMC_EVT.OVF` (R489). Frozen counters count nothing (R490). -/
def State.modDieCounters (die : Nat) (f : DieCounters → DieCounters) (s : State) : State :=
  match s.pmc.dies[die]? with
  | none => s
  | some d =>
    if s.pmc.frozen then s
    else
      let d' := f d
      let wrapped := d'.evsel.map (bitOf · 14) ≠ d.evsel.map (bitOf · 14) || d'.fixOvf ≠ d.fixOvf
      (s.modPmc fun p => { p with dies := p.dies.set die d' }).onlyIf wrapped
        (·.modEv fun e => { e with pmc := e.pmc ||| 2 })

/-- An occurrence of a performance event on a die (R488). -/
def countPerf (die code : Nat) (s : State) : State :=
  if ((s.pmc.dies[die]?).map fun d => d.evsel.any (evHit code)) = some true then
    s.modDieCounters die (·.countEvent code)
  else s

/-- A count of fixed counter 256 + `i` of an SPD (R488). (DEDUCED 30; assumption log) -/
def countFixed (spd i : Nat) (s : State) : State :=
  if spd < 8 then s.modDieCounters spd (·.countFixed i) else s

/-! ### Error classes (R475, R476) -/

def sat48 (v : Nat) : Nat := min v (2 ^ 48 - 1)

/-- A day, and a week, in ns. -/
def dayNs : Nat := 86400000000000
def weekNs : Nat := 7 * dayNs

/-- The times of a list that lie in the window of `len` ns that ends now. (DEDUCED 131; assumption log) -/
def windowed (len now : Nat) (ts : List Nat) : List Nat := ts.filter fun t => decide (now < t + len)

/-- CORRECTED errors of each die in the last 24 h (R480). -/
def corrCounts (now : Nat) (l : List (Nat × Nat)) : List Nat :=
  (List.range 12).map fun d => (windowed dayNs now ((l.filter (·.1 == d)).map (·.2))).length

/-- The confidence of CORR_RATE from the counts per die (R480). -/
def corrConf (counts : List Nat) : Nat := min 100 (50 * counts.foldl max 0 / 1000000)

/-- The die with the greatest count of CORRECTED errors. -/
def corrWorst (counts : List Nat) : Nat := counts.findIdx (· == counts.foldl max 0)

/-- CORR_RATE follows the counts of the window that ends now. -/
def corrReason (s : State) : State :=
  let counts := corrCounts s.aon.clock s.hlth.corrections
  countReason 0x08 (corrConf counts) (corrWorst counts) true s

/-- A CORRECTED error on a die: dies 0 to 7 are SPDs, 8 and 9 I/O dies, 10 and 11 media dies. -/
def countCorrected (die : Nat) (s : State) : State :=
  corrReason (countFixed die 15 (s.modHlth fun h =>
    { h with errCorr := sat48 (h.errCorr + 1)
             corrections := (h.corrections.filter fun x => decide (s.aon.clock < x.2 + dayNs)) ++ [(die, s.aon.clock)] }))

/-- LOCKSTEP follows the mismatches of the last 24 h: it is raised at 50, and cleared when none is left (R480). -/
def lockstepReason (pair : Nat) (s : State) : State :=
  let n := (windowed dayNs s.aon.clock s.hlth.mismatches).length
  if n = 0 then clearReason 0x09 pair s else countReason 0x09 (min 100 (40 * n)) pair false s

/-- THERMAL_TRIP follows the trips of the last 7 days, in the same way (R480). -/
def tripReason (s : State) : State :=
  let n := (windowed weekNs s.aon.clock s.hlth.trips).length
  if n = 0 then clearReason 0x0B 0 s else countReason 0x0B (min 100 (25 * n)) 0 false s

def countDeferred (s : State) : State := s.modHlth fun h => { h with errDeferred := sat48 (h.errDeferred + 1) }

def countContained (s : State) : State := s.modHlth fun h => { h with errContained := sat48 (h.errContained + 1) }

/-- A FATAL error: the device grades itself failed and its transmitters go off (R477); its heartbeats stop with the
grade (R56). -/
def fatalError (code loc : Nat) (s : State) : State :=
  raiseReason code 100 loc
    ((s.modHlth fun h => { h with errFatal := sat48 (h.errFatal + 1) }).modEgr fun e => { e with txOff := true })

/-! ### Time, job, dies -/

/-- The local time of R31. -/
def State.now (s : State) : Nat := s.tide.time

/-- Time since the last reset, ns: what measures every duration, whatever sets the time of day.
(DEDUCED 92; assumption log) -/
def State.mono (s : State) : Nat := s.tide.uptime

/-- A job is active from JOB_SETUP until the clear of R125 completes (R397). -/
def State.jobActive (s : State) : Bool := s.run.job.isSome

/-- Job-scoped commands are accepted (R359). (DEDUCED 13; assumption log) -/
def State.jobOpen (s : State) : Bool := s.run.job.isSome && !s.run.ending && !s.run.clearing

def State.jobId (s : State) : Word := (s.run.job.map (·.id)).getD 0

def State.spd? (n : Nat) (s : State) : Option Spd := s.fab.spds[n]?

def State.serving (n : Nat) (s : State) : Bool := ((s.spd? n).map (·.serving)).getD false

/-- The serving SPDs in ascending order (R20). -/
def State.servingList (s : State) : List Nat := (List.range 8).filter s.serving

def State.modSpd (n : Nat) (f : Spd → Spd) (s : State) : State :=
  s.modFab fun fb => { fb with spds := updAt fb.spds n f }

/-! ### Link tests that hold media and memory (R486) -/

/-- A link test of a type is under way. -/
def State.ltOn (ty : Nat) (s : State) : Bool := s.lt.active && fieldOf s.lt.cfg 0 3 == ty

/-- The channel of a flash die is under test: operations on its dies are held. -/
def State.dieTested (die : Nat) (s : State) : Bool := s.ltOn 3 && fieldOf s.lt.cfg 4 7 == die / 16

/-- A stack of an SPD is under test: accesses to it are held. -/
def State.spdTested (n : Nat) (s : State) : Bool := s.ltOn 4 && fieldOf s.lt.cfg 4 7 / 3 == n

end Sys2Proof.Machine
end

