-- ==== Sys2Proof/Machine/Operands.lean ====
section
/-! DEFINITION. Operands of a Salsia command (R343, R344, R365): the fields of its entry, its data list and buffer, and
the classes of opcodes the common checks use. -/

namespace Sys2Proof.Machine

/-- Bytes `o` to `o + n − 1` of a submission entry. -/
def Cmd.arg (o n : Nat) (c : Cmd) : Nat := fieldOf c.entry (8 * o) (8 * n)

def Cmd.opcode (c : Cmd) : Nat := c.arg 0 1
def Cmd.flags (c : Cmd) : Nat := c.arg 1 1
def Cmd.jobId (c : Cmd) : Nat := c.arg 4 4
def Cmd.dptr (c : Cmd) : Nat := c.arg 8 8
def Cmd.dlen (c : Cmd) : Nat := c.arg 16 8

/-- FLAGS.LIST and FLAGS.BARRIER. -/
def Cmd.list (c : Cmd) : Bool := bitOf c.entry 8
def Cmd.barrier (c : Cmd) : Bool := bitOf c.entry 9

/-- Bytes `o` to `o + n − 1` of an entry as a list. -/
def Cmd.bytes (o n : Nat) (c : Cmd) : List Byte := (List.range n).map fun i => BitVec.ofNat 8 (c.arg (o + i) 1)

/-- The port whose host memory a command uses (R321, R329). -/
def viaPort : Via → Port
  | .mbx m => m.set
  | .quay q => q.port
  | .doe p => p

/-- Opcodes of the table of R365, and the security opcodes 0x60 to 0x6B of R474. -/
def opcodeKnown (op : Nat) : Bool :=
  (decide (1 ≤ op ∧ op ≤ 0x0A)) || (decide (0x10 ≤ op ∧ op ≤ 0x12)) || (decide (0x20 ≤ op ∧ op ≤ 0x28)) ||
    (decide (0x30 ≤ op ∧ op ≤ 0x34)) || op == 0x40 || op == 0x41 || (decide (0x50 ≤ op ∧ op ≤ 0x55)) ||
    (decide (0x60 ≤ op ∧ op ≤ 0x6B))

/-- Job-scoped commands (R358). -/
def opcodeScoped (op : Nat) : Bool :=
  op == 0x12 || op == 0x28 || (decide (0x30 ≤ op ∧ op ≤ 0x34)) || op == 0x40 || op == 0x41 ||
    (decide (0x50 ≤ op ∧ op ≤ 0x55))

/-- Commands whose row names a data buffer (R365, R474). -/
def opcodeData (op : Nat) : Bool :=
  [0x07, 0x08, 0x10, 0x20, 0x21, 0x25, 0x26, 0x27, 0x30, 0x40, 0x41, 0x50, 0x55, 0x61, 0x64, 0x66, 0x68].contains op

/-- Commands served before MEDIA_MOUNTED: IDENTIFY, the Quay and event commands, SELF_TEST, PORT_CONFIG, MEDIA_HEALTH
and the security commands, firmware staging among them (R455, R502). (DEDUCED 64; assumption log) -/
def opcodeUnheld (op : Nat) : Bool :=
  (decide (1 ≤ op ∧ op ≤ 0x09)) || op == 0x27 || (decide (0x60 ≤ op ∧ op ≤ 0x6F))

/-- Commands of the recovery path (R455), and those of a failed device (R477). -/
def opcodeRecovery (op : Nat) : Bool := [0x01, 0x07, 0x08, 0x60].contains op
def opcodeFailed (op : Nat) : Bool := [0x01, 0x27, 0x60].contains op

/-- The dataset commands that a refused mount refuses (R88): those on datasets and media, but for the health read. -/
def opcodeDataset (op : Nat) : Bool := decide (0x20 ≤ op ∧ op ≤ 0x26) || op == 0x28

/-- The entry's own form (R343): reserved flags, DPTR without DLEN, DLEN without a data buffer, a JOB_ID on a command
that is not job-scoped. -/
def Cmd.formBad (c : Cmd) : Bool :=
  decide (4 ≤ c.flags) || (c.dlen == 0 && c.dptr != 0) || (c.dlen != 0 && !opcodeData c.opcode) ||
    (c.jobId != 0 && !opcodeScoped c.opcode)

/-- Fields of ARGS out of the range R363 to R365 give them. -/
def Cmd.argsBad (c : Cmd) : Bool :=
  match c.opcode with
  | 0x02 => decide (63 < c.arg 24 1 ∨ c.arg 28 2 < 2 ∨ 4096 < c.arg 28 2 ∨ c.arg 30 2 < 2 ∨ 4096 < c.arg 30 2) ||
      c.arg 32 8 % 4096 != 0 || c.arg 40 8 % 4096 != 0
  | 0x03 => decide (63 < c.arg 24 1)
  | 0x04 => !(decide (c.arg 24 1 < 64) || decide (0x80 ≤ c.arg 24 1 ∧ c.arg 24 1 ≤ 0x8F))
  | 0x06 => !(c.arg 24 1 == 1 || c.arg 24 1 == 2)
  | 0x09 => decide (15 < c.arg 24 1 ∨ 1 < c.arg 25 1) || decide ((if c.arg 25 1 = 1 then 128 else 32) < c.arg 48 1)
  | 0x0A => c.arg 24 1 != 0
  | 0x20 => !(decide (1 ≤ c.arg 44 1 ∧ c.arg 44 1 ≤ 4))
  | 0x21 => decide (2 < c.arg 52 1) || c.arg 48 4 == 0
  | 0x31 | 0x32 | 0x33 | 0x34 | 0x41 => decide (63 < c.arg 24 1)
  | _ => false

/-- INVALID_FIELD by the entry alone. -/
def Cmd.entryBad (c : Cmd) : Bool := c.formBad || c.argsBad

/-! ### Data lists and buffers (R344) -/

/-- The pieces of host memory a data buffer stands in. -/
def Cmd.pieces (c : Cmd) (d : HostData) : List (Nat × Nat) :=
  if c.list then d.list.map fun e => (e.addr.toNat, e.len) else if c.dlen = 0 then [] else [(c.dptr, c.dlen)]

/-- A data list that breaks R344. A list that could not be read at all is no such list. -/
def Cmd.listBad (c : Cmd) (d : HostData) : Bool :=
  c.list && c.dlen != 0 && !(d.fault && d.list.isEmpty) &&
    !(decide (d.list.length ≤ 65536) &&
      (d.list.all fun e => decide (1 ≤ e.len ∧ e.len < 2 ^ 32) && e.reservedZero) &&
      ((d.list.map (·.len)).sum == c.dlen))

/-- The DLEN bytes of the data buffer. -/
def Cmd.data (c : Cmd) (d : HostData) : List Byte := (d.bytes ++ List.replicate (c.dlen - d.bytes.length) 0).take c.dlen

/-- The data buffer as the command read it: none where the access failed. (DEDUCED 72; assumption log) -/
def Cmd.fetched (c : Cmd) (d : HostData) : Option (List Byte) := if d.fault && c.dlen != 0 then none else some (c.data d)

/-- Bytes laid over the pieces of a data buffer, as far as it holds them. -/
def spread : List (Nat × Nat) → List Byte → List (Nat × List Byte)
  | [], _ => []
  | (a, n) :: ps, bs => if bs.isEmpty then [] else (a, bs.take n) :: spread ps (bs.drop n)

/-- What a command returns in its data buffer: as many bytes as fit. -/
def Cmd.writeData (c : Cmd) (d : HostData) (bs : List Byte) (s : State) : State :=
  s.each (spread (c.pieces d) (bs.take c.dlen)) fun (a, b) t => t.emit (.hostWrite (viaPort c.id.via) a b)

/-- JOB_END has begun its steps: it was accepted, and the job-scoped commands before it have run to completion (R359). -/
def State.jobStopped (s : State) : Bool :=
  s.run.ending && !(s.host.cmds.any fun c => opcodeScoped c.opcode && c.run != .queued)

end Sys2Proof.Machine
end

