-- ==== Sys2Proof/Machine/Replies.lean ====
section
/-! DEFINITION. The Salsia core (R343 to R355, R502): which command starts, the checks made first, and completion. -/

namespace Sys2Proof.Machine

/-! ### Status codes (R353) -/

def stSuccess : Nat := 0x0000
def stNotReady : Nat := 0x0001
def stAborted : Nat := 0x0002
def stInvalidOpcode : Nat := 0x0003
def stInvalidField : Nat := 0x0004
def stTagInUse : Nat := 0x0005
def stDataTransfer : Nat := 0x0006
def stCancelled : Nat := 0x0007
def stInterrupted : Nat := 0x0008
def stNoJob : Nat := 0x0009
def stJobActive : Nat := 0x000A
def stJobMismatch : Nat := 0x000B
def stSelfTestBusy : Nat := 0x000C
def stSecurity : Nat := 0x000D

/-! ### Commands and Quays -/

def State.quay? (q : QuayId) (s : State) : Option Quay := s.host.quays.find? (·.id == q)

def State.modQuay (q : QuayId) (f : Quay → Quay) (s : State) : State :=
  s.modHost fun h => { h with quays := h.quays.map fun x => if x.id = q then f x else x }

/-- The outstanding command of an identity, where it stands as `p` asks. -/
def State.cmd? (id : CmdId) (p : Cmd → Bool) (s : State) : Option Cmd := s.host.cmds.find? fun c => c.id == id && p c

def State.modCmd (order : Nat) (f : Cmd → Cmd) (s : State) : State :=
  s.modHost fun h => { h with cmds := h.cmds.map fun c => if c.order = order then f c else c }

def State.setRun (c : Cmd) (r : CmdRun) (s : State) : State := s.modCmd c.order fun c => { c with run := r }

/-- Unconsumed completions of a ring, and whether it has room for one more (R350). -/
def Quay.unconsumed (q : Quay) : Nat := (q.cqTail + q.cqN - q.cqHead) % q.cqN
def Quay.full (q : Quay) : Bool := decide (q.cqN - 1 ≤ q.unconsumed)

/-! ### Completion (R345, R346, R354) -/

/-- A completion goes its way: to the mailbox, to the Quay's ring, or out of the secured session. -/
def route (x : Completion) (s : State) : State :=
  match x.id.via with
  | .mbx _ => s.modHost fun h => { h with replies := h.replies ++ [x] }
  | .quay q => if x.orphan then s else s.modQuay q fun y => { y with waiting := y.waiting ++ [x] }
  | .doe _ => if x.orphan then s else s.emit (.doe x)

/-- A command completes: it is outstanding no more. -/
def complete (c : Cmd) (status : Nat) (result : List Byte) (s : State) : State :=
  route ⟨c.id, c.order, status, result, c.orphan⟩ (s.modHost fun h => { h with cmds := h.cmds.filter (·.order != c.order) })

/-- An ABORT that caught a target completes once the target's completion is written or discarded (R354). -/
def targetDone (order : Nat) (s : State) : State :=
  s.each (s.host.cmds.filter (·.run == .abortWait order)) fun c u => complete c stSuccess [0, 0] u

/-- A DELETE_QUAY completes once every command of its Quay has completed; the completions are written as far as the
ring allows, and the Quay goes (R365). (DEDUCED 65; assumption log) -/
def finishDelete (q : QuayId) (s : State) : State :=
  match s.host.cmds.find? (·.run == .deleteQuay q) with
  | none => s
  | some c =>
    if s.host.cmds.any fun x => x.id.via == .quay q then s
    else
      match s.quay? q with
      | none => complete c stSuccess [] s
      | some y =>
        if !y.waiting.isEmpty && !y.full then s
        else
          let a := s.modHost fun h => { h with quays := h.quays.filter (·.id != q), bells := h.bells.filter (·.1 != .quay q) }
          (complete c stSuccess [] a).each y.waiting fun x u => targetDone x.order u

/-- Completion, and what waits for it. -/
def finish (c : Cmd) (status : Nat) (result : List Byte) (s : State) : State :=
  let a := complete c status result s
  let b := match c.id.via with
    | .doe _ => targetDone c.order a
    | _ => if c.orphan then targetDone c.order a else a
  match c.id.via with
  | .quay q => finishDelete q b
  | _ => b

/-! ### Which command starts (R352, R502) -/

/-- A command held until the media are mounted. (DEDUCED 64; assumption log) -/
def heldByMount (c : Cmd) (s : State) : Bool :=
  !s.media.mounted && s.media.unsupported.isNone && s.hlth.grade != 3 && !s.sec.recovery && !opcodeUnheld c.opcode && opcodeKnown c.opcode

/-- A command held while a channel or a stack that it may need is under test (R486): those that need the media or a job.
(DESIGN CHOICE 182; assumption log) -/
def heldByTest (c : Cmd) (s : State) : Bool := (s.ltOn 3 || s.ltOn 4) && s.hlth.grade != 3 && !opcodeUnheld c.opcode && opcodeKnown c.opcode

/-- The order of the doorbells, then of the entries. (DEDUCED 3; assumption log) -/
def Cmd.before (a b : Cmd) : Bool := decide (a.stamp < b.stamp ∨ (a.stamp = b.stamp ∧ a.order < b.order))

/-- Nothing of its own Quay keeps a command from starting: fetch order, and BARRIER on both sides.
(DEDUCED 76; assumption log) -/
def quayLets (c : Cmd) (s : State) : Bool :=
  match c.id.via with
  | .quay _ =>
    s.host.cmds.all fun x =>
      !(x.id.via == c.id.via && decide (x.order < c.order)) ||
        x.dup || (!c.barrier && !x.barrier && (x.run != .queued || heldByMount x s || heldByTest x s))
  | _ => true

/-- A Quay's doorbell that cannot be served, because its port issues no DMA (R322, R324). -/
def bellAsleep (v : Via) (s : State) : Bool :=
  match v with
  | .quay q => (s.host.port q.port).dmaOff
  | _ => false

/-- A command whose data buffer cannot be reached, because its port issues no DMA (R322). -/
def dataAsleep (c : Cmd) (s : State) : Bool := c.dlen != 0 && opcodeData c.opcode && (s.host.port (viaPort c.id.via)).dmaOff

/-- A security command waits for a ZEROISE under way: the Keel runs one at a time (R450, R471, R474). -/
def heldByKeel (c : Cmd) (s : State) : Bool := s.sec.zeroising.isSome && decide (0x60 ≤ c.opcode ∧ c.opcode ≤ 0x6B)

/-- A command could start, other Quays and mailboxes apart. -/
def ready (c : Cmd) (s : State) : Bool :=
  c.run == .queued && !heldByKeel c s && !c.dup && !dataAsleep c s && s.host.fwReady && s.host.hm == .running && !heldByMount c s && !heldByTest c s && quayLets c s


/-- A command starts now: no earlier doorbell waits, and no command of an earlier one is ready. One whose tag is in use
waits for nothing, so that it completes at once (R347). (DEDUCED 3; assumption log) -/
def starts (c : Cmd) (s : State) : Bool :=
  c.dup || ready c s && (s.host.bells.all fun b => bellAsleep b.1 s || decide (c.stamp ≤ b.2.1)) &&
    s.host.cmds.all fun x => !(x.before c && ready x s)

/-! ### The checks made first (R353) -/

/-- The status of the checks that come before a command's own: `fieldBad` is what the command's own fields show,
`secBad` the reason of a security state of its own. Where the mount was refused, the grade it leaves is no ground of its own
for a dataset command (R88). (DEDUCED 3, DEDUCED 70, DESIGN CHOICE 174; assumption log) -/
def firstChecks (c : Cmd) (fieldBad : Bool) (secBad : Option Nat) (s : State) : Option (Nat × List Byte) :=
  let op := c.opcode
  if !opcodeKnown op then some (stInvalidOpcode, [])
  else if c.entryBad || fieldBad then some (stInvalidField, [])
  else if c.dup then some (stTagInUse, [])
  else if s.sec.recovery && !opcodeRecovery op then some (stSecurity, [1])
  else if s.hlth.grade == 3 && !opcodeFailed op && !(s.media.unsupported.isSome && opcodeDataset op) then some (stSecurity, [2])
  else
    match secBad with
    | some r => some (stSecurity, [BitVec.ofNat 8 r])
    | none =>
      if opcodeScoped op && !s.jobOpen then some (stNoJob, [])
      else if opcodeScoped op && c.jobId != s.jobId.toNat then some (stJobMismatch, [])
      else if s.media.unsupported.isSome && opcodeDataset op then some (0x0401, [])
      else none

/-- The command of an identity that a row of the table speaks of: one that waits only to be refused, else the one that is
queued. -/
def State.queuedCmd (id : CmdId) (p : Cmd → Bool) (s : State) : Option Cmd :=
  (s.cmd? id fun c => c.dup && p c).orElse fun _ => s.cmd? id fun c => c.run == .queued && p c

/-- A command of one opcode starts: the first checks, then its own meaning. Where it may not start, nothing changes. -/
def runCmd (id : CmdId) (op : Nat) (fieldBad : Cmd → Bool) (secBad : Cmd → Option Nat) (body : Cmd → State → State)
    (s : State) : Answer :=
  match s.queuedCmd id (·.opcode == op) with
  | none => .next s
  | some c =>
    if !starts c s then .next s
    else
      match firstChecks c (fieldBad c) (secBad c) s with
      | some (st, r) => .next (finish c st r s)
      | none => .next (body c s)

/-- A command without fields of its own to check. -/
def runPlain (id : CmdId) (op : Nat) (body : Cmd → State → State) (s : State) : Answer :=
  runCmd id op (fun _ => false) (fun _ => none) body s

/-- A command with a data buffer. `bad` and `sec` see the buffer, none where the access to it fails; the access itself
fails the command after the checks made first. -/
def runDataSec (id : CmdId) (op : Nat) (d : HostData) (bad : Cmd → Option (List Byte) → Bool)
    (sec : Cmd → Option (List Byte) → Option Nat) (body : Cmd → List Byte → State → State) (s : State) : Answer :=
  runCmd id op (fun c => c.listBad d || bad c (c.fetched d)) (fun c => sec c (c.fetched d))
    (fun c t =>
      match c.fetched d with
      | none => finish c stDataTransfer [] t
      | some bs => body c bs t) s

/-- The same, without a security state of its own. -/
def runData (id : CmdId) (op : Nat) (d : HostData) (bad : Cmd → Option (List Byte) → Bool)
    (body : Cmd → List Byte → State → State) (s : State) : Answer :=
  runDataSec id op d bad (fun _ _ => none) body s

/-- INVALID_OPCODE (R365): an opcode not listed. The firmware's major version is that of `HW_SALSIA_VER`, 1 (R396). -/
def execInvalidOpcode (cmd : CmdId) (s : State) : Answer :=
  match s.queuedCmd cmd fun c => !opcodeKnown c.opcode with
  | none => .next s
  | some c =>
    if starts c s then .next (finish c stInvalidOpcode [] s) else .next s

end Sys2Proof.Machine
end

