-- ==== Sys2Proof/Machine/Philox.lean ====
section
/-! DEFINITION. The generator of R403, its counters (R70, R404), the permutation and its inverse (R69, R130), and the
CRC model of R413. -/

namespace Sys2Proof.Machine

/-! ### Philox4x32-10 (R403) -/

/-- The four words of a Philox output. -/
abbrev Quad := Word × Word × Word × Word

def mulHi (a b : Word) : Word := BitVec.ofNat 32 (a.toNat * b.toNat / 2 ^ 32)

def philoxRound (k0 k1 : Word) (c : Quad) : Quad :=
  let (c0, c1, c2, c3) := c
  (mulHi 0xCD9E8D57 c2 ^^^ c1 ^^^ k0, 0xCD9E8D57 * c2, mulHi 0xD2511F53 c0 ^^^ c3 ^^^ k1, 0xD2511F53 * c0)

/-- `n` rounds, the key bumped before every round but the first. -/
def philoxRounds : Nat → Word → Word → Quad → Quad
  | 0, _, _, c => c
  | n + 1, k0, k1, c => philoxRounds n (k0 + 0x9E3779B9) (k1 + 0xBB67AE85) (philoxRound k0 k1 c)

def philox (key : Word × Word) (c : Quad) : Quad := philoxRounds 10 key.1 key.2 c

/-- The key of R70. -/
def seedKey (seed : Dword) : Word × Word := (seed.setWidth 32, (seed >>> 32).setWidth 32)

/-! ### The permutation (R69, R70) -/

/-- What a walk's counters share: key, counter word 1, SALT, purpose, try index, epoch. -/
structure WalkCtx where
  key : Word × Word
  word1 : Nat
  salt : Nat
  purpose : Nat
  k : Nat
  epoch : Nat
  deriving DecidableEq, Repr

/-- F of one round: output word 0 for the right half `r` and the round number (R70). -/
def WalkCtx.f (c : WalkCtx) (half round : Nat) : Nat :=
  (philox c.key (BitVec.ofNat 32 half, BitVec.ofNat 32 c.word1,
    BitVec.ofNat 32 (c.salt % 2 ^ 16 + c.purpose * 2 ^ 16 + (c.k * 8 + round) % 256 * 2 ^ 24),
    BitVec.ofNat 32 c.epoch)).1.toNat

/-- h, half the Feistel width for a domain of N > 1: n = ⌈log2 N⌉, h = ⌈n / 2⌉ (R69). -/
def halfWidth (n : Nat) : Nat := (Nat.clog 2 n + 1) / 2

/-- One pass of six rounds over 2h bits (R69). -/
def WalkCtx.pass (c : WalkCtx) (h x : Nat) : Nat :=
  let mask := 2 ^ h
  let (l, r) := (List.range 6).foldl (fun (p : Nat × Nat) i =>
    (p.2, Nat.xor p.1 (c.f p.2 (i + 1) % mask))) (x / mask, x % mask)
  l * mask + r

/-- One inverse pass (R130). -/
def WalkCtx.unpass (c : WalkCtx) (h x : Nat) : Nat :=
  let mask := 2 ^ h
  let (l, r) := (List.range 6).foldl (fun (p : Nat × Nat) i =>
    (Nat.xor p.2 (c.f p.1 (6 - i) % mask), p.1)) (x / mask, x % mask)
  l * mask + r

/-- Cycle-walking: passes until the value lies below N. The domain has 2^(2h) values and a pass is a bijection of it,
so that many passes always suffice. -/
def cycleWalk (n : Nat) (pass : Nat → Nat) : Nat → Nat → Nat
  | 0, x => x
  | fuel + 1, x => let y := pass x; if y < n then y else cycleWalk n pass fuel y

/-- The function `perm` of R69. -/
def WalkCtx.perm (c : WalkCtx) (n x : Nat) : Nat :=
  if n ≤ 1 then 0 else cycleWalk n (c.pass (halfWidth n)) (2 ^ (2 * halfWidth n)) x

/-- The function `unperm` of R130. -/
def WalkCtx.unperm (c : WalkCtx) (n y : Nat) : Nat :=
  if n ≤ 1 then 0 else cycleWalk n (c.unpass (halfWidth n)) (2 ^ (2 * halfWidth n)) y

/-! ### Draws (R404, R405) -/

/-- The four output words of a draw of purposes 0x01 to 0x04. -/
def drawBlock (seed : Dword) (q : Nat) (epoch : Nat) (purpose stage element : Nat) : Quad :=
  philox (seedKey seed) (BitVec.ofNat 32 element, BitVec.ofNat 32 q,
    BitVec.ofNat 32 (natBits q 32 16 + purpose * 2 ^ 16 + stage * 2 ^ 24), BitVec.ofNat 32 epoch)

/-- Output word `i` of a block. -/
def Quad.word (b : Quad) (i : Nat) : Nat :=
  match i with
  | 0 => b.1.toNat
  | 1 => b.2.1.toNat
  | 2 => b.2.2.1.toNat
  | _ => b.2.2.2.toNat

/-! ### CRCs (R413) -/

/-- The low `n` bits of a number, reversed. -/
def reflect (n v : Nat) : Nat := ((List.range n).map fun i => natBits v i 1 * 2 ^ (n - 1 - i)).sum

/-- One bit, most significant first, into a register of `w` bits. -/
def crcStep (w poly reg bit : Nat) : Nat :=
  let shifted := reg * 2 % 2 ^ w
  if natBits reg (w - 1) 1 ≠ bit then Nat.xor shifted (poly % 2 ^ w) else shifted

/-- One byte into the register (R413). -/
def crcFeed (w poly : Nat) (refin : Bool) (reg : Nat) (b : Byte) : Nat :=
  let v := if refin then reflect 8 b.toNat else b.toNat
  (List.range 8).foldl (fun r i => crcStep w poly r (natBits v (7 - i) 1)) reg

/-- The result of the model over a register. -/
def crcResult (w : Nat) (refout : Bool) (xorout reg : Nat) : Nat :=
  Nat.xor (if refout then reflect w reg else reg) (xorout % 2 ^ w)

/-- One bit of a reflected CRC register of `n` bits. -/
def crcBit (n poly reg bit : Nat) : Nat :=
  if (reg + bit) % 2 = 1 then Nat.xor (reg / 2) poly % 2 ^ n else reg / 2

/-- One byte, least significant bit first, into a reflected CRC register. -/
def crcByte (n poly : Nat) (reg : Nat) (b : Byte) : Nat :=
  (List.range 8).foldl (fun r i => crcBit n poly r (natBits b.toNat i 1)) reg

/-- CRC-32C (R385, R413): polynomial 0x1EDC_6F41 reflected, initial value and final XOR of all ones. -/
def crc32c (bs : List Byte) : Word :=
  ~~~ BitVec.ofNat 32 (bs.foldl (crcByte 32 0x82F63B78) 0xFFFFFFFF)

/-- CRC-64 of the stage digests (R413). -/
def crc64 (bs : List Byte) : Dword :=
  ~~~ BitVec.ofNat 64 (bs.foldl (crcByte 64 0xC96C5795D7870F42) 0xFFFFFFFFFFFFFFFF)

end Sys2Proof.Machine
end

