-- ==== Sys2Proof/Machine/Text.lean ====
section
/-! DEFINITION. Text (chapter 8): tables and their load checks, UTF-8, normalisation, pieces, byte-pair merges, the
grammar filter, the tokenised form, segments and their placement, and detokenisation. -/

namespace Sys2Proof.Machine

/-! ### Tables (R207 to R210) -/

/-- A parameter that means none (R205, R207). -/
def noToken : Nat := 0xFFFFFFFF

def wordsAt (b : List Byte) (o n : Nat) : List Nat := (List.range n).map fun i => byteField b (o + 4 * i) 4

/-- One record of a normalisation body (R208); none where it is invalid. A mapping of no code points runs beyond nothing,
wherever its offset points. (DEDUCED 171; assumption log) -/
def parseRec (b : List Byte) (o : Nat) (pool : List Nat) : Option NormRec :=
  let cls := byteField b (o + 5) 1
  let flags := byteField b (o + 6) 1
  let dOff := byteField b (o + 8) 3
  let dLen := byteField b (o + 11) 1
  let fOff := byteField b (o + 12) 3
  let fLen := byteField b (o + 15) 1
  if cls < 16 ∧ flags < 16 ∧ byteField b (o + 7) 1 = 0 ∧ flags % 4 ≠ 3 ∧ dLen ≤ 18 ∧ fLen ≤ 3 ∧
      (flags % 4 ≠ 0 ↔ dLen ≠ 0) ∧ (flags / 4 % 2 = 1 ↔ fLen ≠ 0) ∧
      (dLen = 0 ∨ dOff + dLen ≤ pool.length) ∧ (fLen = 0 ∨ fOff + fLen ≤ pool.length) then
    some ⟨byteField b o 4, byteField b (o + 4) 1, cls, flags, (pool.drop dOff).take dLen, (pool.drop fOff).take fLen⟩
  else none

def normRec? (recs : List NormRec) (cp : Nat) : Option NormRec := recs.find? (·.cp == cp)

/-- A decomposition that does not end within `n` steps. (DEDUCED 38; assumption log) -/
def endless (recs : List NormRec) : Nat → Nat → Bool
  | 0, _ => true
  | n + 1, cp => ((normRec? recs cp).map fun r => r.decomp.any (endless recs n)).getD false

def ascending (l : List Nat) : Bool := (l.zip (l.drop 1)).all fun (a, b) => decide (a < b)

/-- A normalisation body (R208). -/
def parseNorm (b : List Byte) (count count2 : Nat) : Option TableBody :=
  if b.length ≠ 16 * count + 4 * count2 then none
  else
    let pool := wordsAt b (16 * count) count2
    match (List.range count).mapM fun i => parseRec b (16 * i) pool with
    | none => none
    | some recs =>
      if ascending (recs.map (·.cp)) ∧ (recs.all fun r => decide (r.cp < 0x110000)) ∧
          (pool.all fun c => decide (c < 0x110000)) ∧ !(recs.any fun r => endless recs (count + 1) r.cp) then
        some (.norm recs)
      else none

/-- Consecutive triples. -/
def triples : List Nat → List (Nat × Nat × Nat)
  | a :: b :: c :: l => (a, b, c) :: triples l
  | _ => []

/-- A vocabulary body (R209) of `v` tokens and `m` merges. -/
def parseVocab (b : List Byte) (v m fallback : Nat) : Option TableBody :=
  let base := 1024 + 4 * (v + 1)
  if v < 256 ∨ 1048576 < v ∨ v - 256 < m ∨ (fallback ≠ noToken ∧ v < fallback + 256) ∨ b.length < base then none
  else
    let byteMap := wordsAt b 0 256
    let offs := wordsAt b 1024 (v + 1)
    let last := offs.getD v 0
    let str (t : Nat) : List Byte := (b.drop (base + offs.getD t 0)).take (offs.getD (t + 1) 0 - offs.getD t 0)
    let strings := (List.range v).map str
    let merges := triples (wordsAt b (base + last) (3 * m))
    if offs.getD 0 0 = 0 ∧ b.length = base + last + 12 * m ∧
        ((offs.zip (offs.drop 1)).all fun (x, y) => decide (x ≤ y ∧ y - x ≤ 256)) ∧
        ((List.range 256).all fun c => decide (byteMap.getD c v < v) &&
          strings.getD (byteMap.getD c v) [] == [BitVec.ofNat 8 c]) ∧
        (merges.all fun (x, y, r) => decide (x < v ∧ y < v ∧ r < v) &&
          strings.getD r [] == strings.getD x [] ++ strings.getD y []) ∧
        (merges.map fun (x, y, _) => (x, y)).Nodup then
      some (.vocab byteMap strings merges (if fallback = noToken then none else some fallback))
    else none

/-- One transition (R210): operation, next state and pushed symbol in range, reserved bits 0. -/
def transOk (states z : Nat) (e : Word) : Bool :=
  let op := fieldOf e 16 2
  fieldOf e 24 8 == 0 && (op == 0 || decide (fieldOf e 0 16 < states)) &&
    (op != 2 || decide (1 ≤ fieldOf e 18 6 ∧ fieldOf e 18 6 < z))

/-- A grammar body (R210). -/
def parseGrammar (b : List Byte) (states count2 : Nat) : Option TableBody :=
  let c := natBits count2 0 8
  let z := natBits count2 8 8
  let n := states * c * z
  if count2 / 65536 ≠ 0 ∨ states < 1 ∨ 65536 < states ∨ c < 1 ∨ 64 < c ∨ z < 1 ∨ 64 < z ∨
      b.length ≠ 256 + 4 * n + (states + 7) / 8 then none
  else
    let classes := (List.range 256).map fun i => byteField b i 1
    let trans := (wordsAt b 256 n).map (BitVec.ofNat 32)
    if (classes.all (decide <| · < c)) ∧ trans.all (transOk states z) then
      some (.grammar classes c z trans ((List.range states).map fun s =>
        natBits (byteField b (256 + 4 * n + s / 8) 1) (s % 8) 1 == 1))
    else none

/-- The charge of a table of `n` bytes, header and body (R207). -/
def tableCharge (n : Nat) : Nat := (2 * n + 4095) / 4096 * 4096

/-- A whole table: every check of R207 that TABLE_INVALID names. -/
def parseTable (b : List Byte) : Option TextTable :=
  let f (o n : Nat) : Nat := byteField b o n
  let kind := f 4 1
  let body := b.drop 64
  if b.length < 64 ∨ b.length ≠ 64 + f 24 8 ∨ f 0 4 ≠ 0x58544B51 ∨ f 5 1 ≠ 1 ∨ f 6 2 < 1 ∨ 255 < f 6 2 ∨
      (kind ≠ 1 ∧ f 8 4 ≠ 0) ∨ (kind ≠ 2 ∧ f 20 4 ≠ 0) ∨ f 32 24 ≠ 0 ∨
      f 56 4 ≠ (crc32c body).toNat ∨ f 60 4 ≠ (crc32c (b.take 60)).toNat then none
  else
    let parsed := match kind with
      | 1 => parseNorm body (f 12 4) (f 16 4)
      | 2 => parseVocab body (f 12 4) (f 16 4) (f 20 4)
      | 3 => parseGrammar body (f 12 4) (f 16 4)
      | _ => none
    parsed.map fun t => ⟨f 6 2, b.take 64, tableCharge b.length, t⟩

def TableBody.kind : TableBody → Nat
  | .norm .. => 1
  | .vocab .. => 2
  | .grammar .. => 3

/-! ### UTF-8 (R212) -/

/-- Continuation bytes that follow a lead byte, and the range of the first of them. -/
def utf8Lead (b : Nat) : Option (Nat × Nat × Nat) :=
  if 0xC2 ≤ b ∧ b ≤ 0xDF then some (1, 0x80, 0xBF)
  else if b = 0xE0 then some (2, 0xA0, 0xBF)
  else if b = 0xED then some (2, 0x80, 0x9F)
  else if 0xE1 ≤ b ∧ b ≤ 0xEF then some (2, 0x80, 0xBF)
  else if b = 0xF0 then some (3, 0x90, 0xBF)
  else if 0xF1 ≤ b ∧ b ≤ 0xF3 then some (3, 0x80, 0xBF)
  else if b = 0xF4 then some (3, 0x80, 0x8F)
  else none

/-- The continuation bytes present, up to `n`: the value so far and how many fitted. -/
def utf8Tail : Nat → Nat → Nat → Nat → List Byte → Nat × Nat
  | 0, _, _, v, _ => (v, 0)
  | _ + 1, _, _, v, [] => (v, 0)
  | n + 1, lo, hi, v, b :: bs =>
    if lo ≤ b.toNat ∧ b.toNat ≤ hi then
      let (w, k) := utf8Tail n 0x80 0xBF (v * 64 + b.toNat % 64) bs
      (w, k + 1)
    else (v, 0)

/-- The next code point, or the maximal subpart that is ill-formed, and the bytes it takes. -/
def utf8Next (b : Byte) (bs : List Byte) : Option Nat × Nat :=
  if b.toNat < 0x80 then (some b.toNat, 1)
  else
    match utf8Lead b.toNat with
    | none => (none, 1)
    | some (n, lo, hi) =>
      let (v, k) := utf8Tail n lo hi (b.toNat % 2 ^ (6 - n)) bs
      (if k = n then some v else none, k + 1)

/-- The units of a byte string, and REPLACED; `skip` bytes belong to the unit before (R212). -/
def utf8Units (fallback : Bool) : Nat → List Byte → List TextUnit × Nat
  | _, [] => ([], 0)
  | skip + 1, _ :: bs => utf8Units fallback skip bs
  | 0, b :: bs =>
    let (cp, n) := utf8Next b bs
    let (us, r) := utf8Units fallback (n - 1) bs
    match cp with
    | some v => (.cp v :: us, r)
    | none =>
      if fallback then (((b :: bs).take n).map TextUnit.raw ++ us, r + n) else (.cp 0xFFFD :: us, r + 1)

/-- Bytes at the end of a chunk that could begin a longer sequence: at most 3 (R211). -/
def utf8Open (bs : List Byte) : Nat :=
  (([3, 2, 1] : List Nat).find? fun n =>
    match bs.drop (bs.length - n) with
    | [] => false
    | b :: tl =>
      decide (tl.length + 1 = n) &&
        match utf8Lead b.toNat with
        | some (need, lo, hi) => decide (tl.length < need) && (utf8Tail need lo hi 0 tl).2 == tl.length
        | none => false).getD 0

def utf8Encode (cp : Nat) : List Byte :=
  let c (n : Nat) : Nat := 0x80 + natBits cp (6 * n) 6
  (if cp < 0x80 then [cp]
   else if cp < 0x800 then [0xC0 + cp / 64, c 0]
   else if cp < 0x10000 then [0xE0 + cp / 4096, c 1, c 0]
   else [0xF0 + cp / 262144, c 2, c 1, c 0]).map (BitVec.ofNat 8)

def unitBytesOf : TextUnit → List Byte
  | .cp n => utf8Encode n
  | .raw b => [b]

/-! ### Normalisation (R208, R213, R214) -/

def normCcc (recs : List NormRec) (cp : Nat) : Nat := ((normRec? recs cp).map (·.ccc)).getD 0

def normCls (recs : List NormRec) (cp : Nat) : Nat := ((normRec? recs cp).map (·.cls)).getD 0

/-- Hangul decomposition by the algorithm of the Unicode Standard. -/
def hangulParts (cp : Nat) : Option (List Nat) :=
  if 0xAC00 ≤ cp ∧ cp < 0xAC00 + 11172 then
    let s := cp - 0xAC00
    some ([0x1100 + s / 588, 0x1161 + s % 588 / 28] ++ if s % 28 = 0 then [] else [0x11A7 + s % 28])
  else none

/-- Full decomposition, canonical or compatible (R208). -/
def decompose (recs : List NormRec) (compat : Bool) : Nat → Nat → List Nat
  | 0, cp => [cp]
  | n + 1, cp =>
    match hangulParts cp with
    | some l => l
    | none =>
      match normRec? recs cp with
      | some r =>
        if r.flags % 2 = 1 ∨ (compat ∧ r.flags / 2 % 2 = 1) then r.decomp.flatMap (decompose recs compat n) else [cp]
      | none => [cp]

def fullDecompose (recs : List NormRec) (compat : Bool) (cp : Nat) : List Nat :=
  decompose recs compat (recs.length + 1) cp

/-- The Stream-Safe Text Format: U+034F after 30 successive non-starters (R214). -/
def streamSafe (recs : List NormRec) : Nat → List Nat → List Nat
  | _, [] => []
  | n, cp :: l =>
    let d := (fullDecompose recs true cp).map (normCcc recs)
    let lead := (d.takeWhile (· != 0)).length
    let n' := if 30 < n + lead then 0 else n
    let after := if lead = d.length then n' + lead else (d.reverse.takeWhile (· != 0)).length
    (if 30 < n + lead then [0x034F] else []) ++ cp :: streamSafe recs after l

/-- One code point into canonical order: it moves before every later class of the run (UAX #15). -/
def insertCcc (recs : List NormRec) (cp : Nat) : List Nat → List Nat
  | [] => [cp]
  | x :: xs =>
    -- `xs` is kept in reverse: the last code point first
    if normCcc recs cp ≠ 0 ∧ normCcc recs cp < normCcc recs x then x :: insertCcc recs cp xs else cp :: x :: xs

def canonicalOrder (recs : List NormRec) (l : List Nat) : List Nat :=
  (l.foldl (fun acc cp => insertCcc recs cp acc) []).reverse

/-- The primary composite of a pair (R208), Hangul by algorithm. Which record it is when several give the pair is a free
value. (DESIGN CHOICE 146; assumption log) -/
def composite (recs : List NormRec) (a b : Nat) : Option Nat :=
  if 0x1100 ≤ a ∧ a < 0x1113 ∧ 0x1161 ≤ b ∧ b < 0x1176 then some (0xAC00 + ((a - 0x1100) * 21 + (b - 0x1161)) * 28)
  else if 0xAC00 ≤ a ∧ a < 0xAC00 + 11172 ∧ (a - 0xAC00) % 28 = 0 ∧ 0x11A7 < b ∧ b < 0x11C3 then
    some (a + (b - 0x11A7))
  else
    let cps := (recs.filter fun r => r.flags % 2 == 1 && r.flags / 8 % 2 == 0 && r.decomp == [a, b]).map (·.cp)
    if cps.length ≤ 1 then cps.head? else cps[Config.compositeChoice a b % cps.length]?

/-- Canonical composition (UAX #15): the starter, the code points after it in reverse, and the class before. -/
def compose (recs : List NormRec) : Option Nat → List Nat → List Nat → List Nat
  | starter, after, [] => (starter.map ([·])).getD [] ++ after.reverse
  | starter, after, c :: l =>
    let cc := normCcc recs c
    let blocked := match after with
      | [] => false
      | x :: _ => decide (cc ≤ normCcc recs x ∨ normCcc recs x = 0)
    match starter.bind (fun s => if blocked then none else composite recs s c) with
    | some v => compose recs (some v) after l
    | none =>
      if cc = 0 then (starter.map ([·])).getD [] ++ after.reverse ++ compose recs (some c) [] l
      else compose recs starter (c :: after) l

/-- Step 1 of R213: FORM 1 is NFC, 2 is NFKC, 0 leaves the text. -/
def applyForm (recs : List NormRec) (form : Nat) (l : List Nat) : List Nat :=
  if form = 0 then l
  else compose recs none [] (canonicalOrder recs (l.flatMap (fullDecompose recs (form == 2))))

def foldCase (recs : List NormRec) (cp : Nat) : List Nat :=
  match normRec? recs cp with
  | some r => if r.flags / 4 % 2 = 1 then r.fold else [cp]
  | none => [cp]

/-- Stream-safe, form and case folding of the code points between two boundaries (R213, R214). -/
def normSegment (recs : List NormRec) (p : TextParams) (l : List Nat) : List Nat :=
  let a := applyForm recs p.form (streamSafe recs 0 l)
  if p.fold = 1 then applyForm recs p.form (a.flatMap (foldCase recs)) else a

/-- A fallback unit is a normalisation boundary (R212). -/
def normUnits (recs : List NormRec) (p : TextParams) : List Nat → List TextUnit → List TextUnit
  | acc, [] => (normSegment recs p acc.reverse).map TextUnit.cp
  | acc, .cp c :: l => normUnits recs p (c :: acc) l
  | acc, .raw b :: l => (normSegment recs p acc.reverse).map TextUnit.cp ++ .raw b :: normUnits recs p [] l

def isSpace (recs : List NormRec) (bit : Nat) : TextUnit → Bool
  | .cp c => normCls recs c / 2 ^ bit % 2 == 1
  | .raw _ => false

/-- Every maximal run becomes one U+0020 (R213, step 3). -/
def collapse (recs : List NormRec) (bit : Nat) : Bool → List TextUnit → List TextUnit
  | _, [] => []
  | inRun, u :: l =>
    if isSpace recs bit u then (if inRun then [] else [.cp 0x20]) ++ collapse recs bit true l
    else u :: collapse recs bit false l

/-- R213 whole: form, folding, whitespace, trimming. -/
def normaliseText (recs : List NormRec) (p : TextParams) (us : List TextUnit) : List TextUnit :=
  let a := normUnits recs p [] us
  let b := if p.ws = 1 then collapse recs 2 false a else if p.ws = 2 then collapse recs 3 false a else a
  if p.trim = 1 then ((b.dropWhile (isSpace recs 2)).reverse.dropWhile (isSpace recs 2)).reverse else b

/-! ### Pieces (R215) -/

/-- A run of one class; a fallback unit has class 4 and is a run of its own. -/
def classRuns (recs : List NormRec) : List TextUnit → List (Nat × List TextUnit)
  | [] => []
  | u :: l =>
    let c := match u with | .cp n => normCls recs n % 4 | .raw _ => 4
    match classRuns recs l with
    | (d, r) :: rest => if c = d ∧ c ≠ 4 then (c, u :: r) :: rest else (c, [u]) :: (d, r) :: rest
    | [] => [(c, [u])]

/-- Rule 3: a final U+0020 of a SPACE run opens the LETTER or NUMBER run that follows. The flag says it did. -/
def attachSpace : Bool → List (Nat × List TextUnit) → List (Nat × Bool × List TextUnit)
  | _, [] => []
  | opened, (c, r) :: l =>
    let next := match l with | (d, _) :: _ => d | [] => 0
    let leaves := c == 3 && r.getLast? == some (.cp 0x20) && (next == 1 || next == 2)
    let own := if leaves then r.dropLast else r
    (c, opened, if opened then .cp 0x20 :: own else own) :: attachSpace leaves l

/-- Groups of `n` from the left. -/
def groupsOfN {α : Type} (n : Nat) : Nat → List α → List (List α)
  | 0, _ => []
  | _ + 1, [] => []
  | k + 1, l => l.take n :: groupsOfN n k (l.drop n)

def cutGroups {α : Type} (n : Nat) (l : List α) : List (List α) := if n = 0 then [l] else groupsOfN n l.length l

/-- Rule 4: digits in groups, an attached U+0020 with the first. -/
def digitGroups (n : Nat) (opened : Bool) (r : List TextUnit) : List (List TextUnit) :=
  if opened then
    match cutGroups n r.tail with
    | g :: gs => (.cp 0x20 :: g) :: gs
    | [] => [r]
  else cutGroups n r

/-- The pieces of a text: the bytes of each, and whether it is a fallback unit. -/
def pieces (recs : List NormRec) (digits : Nat) (us : List TextUnit) : List (Bool × List Byte) :=
  (attachSpace false (classRuns recs us)).flatMap fun (c, opened, r) =>
    if c = 4 then [(true, r.flatMap unitBytesOf)]
    else if r.isEmpty then []
    else
      (if c = 2 ∧ 0 < digits then digitGroups digits opened r else [r]).flatMap fun g =>
        (cutGroups 1024 (g.flatMap unitBytesOf)).map fun b => (false, b)

/-! ### Merges (R216) -/

/-- The leftmost place of a pair. -/
def pairAt (x y : Nat) : Nat → List Nat → Option Nat
  | i, a :: b :: l => if a = x ∧ b = y then some i else pairAt x y (i + 1) (b :: l)
  | _, _ => none

/-- The merge of lowest rank that the tokens offer, at its leftmost place. -/
def bestMerge (merges : List (Nat × Nat × Nat)) (ts : List Nat) : Option (Nat × Nat) :=
  merges.findSome? fun (x, y, r) => (pairAt x y 0 ts).map fun i => (i, r)

/-- The loop of R216: each turn shortens the list by one. -/
def mergeLoop (merges : List (Nat × Nat × Nat)) : Nat → List Nat → List Nat
  | 0, ts => ts
  | n + 1, ts =>
    match bestMerge merges ts with
    | none => ts
    | some (i, r) => mergeLoop merges n (ts.take i ++ r :: ts.drop (i + 2))

def mergePiece (byteMap : List Nat) (merges : List (Nat × Nat × Nat)) (b : List Byte) : List Nat :=
  mergeLoop merges b.length (b.map fun c => byteMap.getD c.toNat 0)

/-! ### Grammar (R219) -/

/-- Why a text fails its grammar: dead, depth, or incomplete at the end. -/
inductive GrammarEnd where
  | pass
  | dead (offset : Nat)
  | depth (offset : Nat)
  | incomplete
  deriving DecidableEq, Repr

/-- The move of one byte: the next state and stack, or how the text fails at offset `i`. -/
def grammarMove (classes : List Nat) (c z : Nat) (trans : List Word) (i s : Nat) (stack : List Nat) (b : Byte) :
    Except GrammarEnd (Nat × List Nat) :=
  let e := trans.getD ((s * c + classes.getD b.toNat 0) * z + stack.headD 0) 0
  let next := fieldOf e 0 16
  match fieldOf e 16 2 with
  | 1 => .ok (next, stack)
  | 2 => if 1024 ≤ stack.length then .error (.depth i) else .ok (next, fieldOf e 18 6 :: stack)
  | 3 =>
    match stack with
    | [] => .error (.dead i)
    | _ :: rest => .ok (next, rest)
  | _ => .error (.dead i)

def runGrammar (classes : List Nat) (c z : Nat) (trans : List Word) (accept : List Bool) :
    Nat → Nat → List Nat → List Byte → GrammarEnd
  | s, _, stack, [] => if accept.getD s false && stack.isEmpty then .pass else .incomplete
  | s, i, stack, b :: bs =>
    match grammarMove classes c z trans i s stack b with
    | .error e => e
    | .ok (next, rest) => runGrammar classes c z trans accept next (i + 1) rest bs

/-! ### The tokenised form (R217, R220, R222) -/

def State.table? (id : Nat) (s : State) : Option TableBody := (s.run.tables.find? (·.id == id)).map (·.body)

/-- The records of the stream's normalisation table; none when NORM is 0. -/
def State.normRecs (p : TextParams) (s : State) : Option (List NormRec) :=
  if p.norm = 0 then none
  else
    match s.table? p.norm with
    | some (.norm recs) => some recs
    | _ => some []

/-- CONFIG of R220. -/
def textConfig (p : TextParams) : Nat :=
  (crc32c ([p.mode, p.byteBase, p.vocab, p.norm, p.form, p.fold, p.ws, p.trim, p.invalid, p.digitGroup,
    p.grammar].flatMap (natBytes 4))).toNat % 65536

/-- What tokenising a sample gives. -/
structure TokenRun where
  tokens : List Nat
  normBytes : Nat
  replaced : Nat
  illFormed : Bool
  usedFallback : Bool
  deriving DecidableEq, Repr

/-- The most tokens a form of 1 GiB holds (R222). -/
def tokenLimit : Nat := (2 ^ 30 - 32) / 4

/-- The offset at which the tokens of the pieces first pass the limit: the last byte of that piece. -/
def limitOffset : Nat → Nat → List (Nat × Nat) → Option Nat
  | _, _, [] => none
  | n, o, (bytes, toks) :: l =>
    if tokenLimit < n + toks then some (o + bytes - 1) else limitOffset (n + toks) (o + bytes) l

/-- The failure of R222 that is reported: the lowest offset, equal offsets in the order of that rule. -/
def textFailure (textSize limit : Option Nat) (g : GrammarEnd) : Option Nat :=
  let cand := (textSize.map fun o => (o, 0, 0x40B)).toList ++
    (match g with | .depth o => [(o, 1, 0x40A)] | .dead o => [(o, 2, 0x501)] | _ => []) ++
    (limit.map fun o => (o, 3, 0x409)).toList
  let best := cand.foldl (fun b x =>
    match b with
    | none => some x
    | some y => if x.1 < y.1 ∨ (x.1 = y.1 ∧ x.2.1 < y.2.1) then some x else b) none
  match best, g with
  | some (_, _, d), _ => some d
  | none, .incomplete => some 0x502
  | none, _ => none

/-- BYTE mode without normalisation: the stored bytes are not decoded (R206). -/
def plainText (p : TextParams) : Bool := p.mode == 0 && p.norm == 0

/-- The text that pre-tokenisation and the grammar filter see, of the units read (R213). -/
def normalised (s : State) (p : TextParams) (us : List TextUnit) : List TextUnit :=
  match s.normRecs p with
  | some recs => normaliseText recs p us
  | none => us

/-- Tokenising the units of a stored sample: a detail of R222, or the tokens. -/
def tokenise (s : State) (p : TextParams) (data : List Byte) (us : List TextUnit) (replaced : Nat) : Except Nat TokenRun :=
  let units := normalised s p us
  let text := if plainText p then data else units.flatMap unitBytesOf
  let g := match s.table? p.grammar with
    | some (.grammar classes c z moves accept) =>
      if p.grammar = 0 then .pass else runGrammar classes c z moves accept 0 0 [] text
    | _ => .pass
  let parts : List (Nat × List Nat) :=
    if p.mode = 0 then text.map fun b => (1, [p.byteBase + b.toNat])
    else
      match s.table? p.vocab with
      | some (.vocab byteMap _ merges fallback) =>
        (pieces ((s.normRecs p).getD []) p.digitGroup units).map fun (fb, b) =>
          (b.length, if fb then b.map fun c => fallback.getD 0 + c.toNat else mergePiece byteMap merges b)
      | _ => []
  let limit := limitOffset 0 0 (parts.map fun (n, ts) => (n, ts.length))
  match textFailure (if 2 ^ 30 < text.length then some (2 ^ 30) else none) limit g with
  | some d => .error d
  | none =>
    .ok ⟨parts.flatMap (·.2), text.length, replaced, decide (0 < replaced),
      units.any fun u => match u with | .raw _ => true | .cp _ => false⟩

/-! ### The context over chunks (R211) -/

/-- The code points after the last fallback unit. -/
def lastRun (us : List TextUnit) : List Nat :=
  ((us.reverse.takeWhile fun u => match u with | .cp _ => true | .raw _ => false).filterMap fun u =>
    match u with | .cp c => some c | .raw _ => none).reverse

/-- Where the normaliser's pending segment begins in stream-safe code points: at the last starter that neither joins what stands
before it nor changes it, so that the text before it is final. (DEDUCED 190; assumption log) -/
def settleAt (recs : List NormRec) (p : TextParams) (l : List Nat) : Nat :=
  ((List.range l.length).reverse.find? fun j =>
    (((l[j]?).map fun c => normCcc recs ((fullDecompose recs (p.form == 2) c).headD c) == 0).getD false) &&
      normSegment recs p (l.take j) ++ normSegment recs p (l.drop j) == normSegment recs p l).getD 0

/-- Where the grammar stands after some bytes, from a state and a stack, and whether it has failed, where it stays. -/
def grammarFrom (classes : List Nat) (c z : Nat) (moves : List Word) : Nat × List Nat → List Byte → (Nat × List Nat) × Bool
  | q, [] => (q, false)
  | q, b :: bs =>
    match grammarMove classes c z moves 0 q.1 q.2 b with
    | .ok n => grammarFrom classes c z moves n bs
    | .error _ => (q, true)

/-- The grammar of a stream from a state and a stack over some bytes. -/
def grammarAfter (s : State) (p : TextParams) (from_ : Nat × List Nat) (bs : List Byte) : (Nat × List Nat) × Bool :=
  match s.table? p.grammar with
  | some (.grammar classes c z moves _) => if p.grammar = 0 then (from_, false) else grammarFrom classes c z moves from_ bs
  | _ => (from_, false)

/-- The context after one more chunk. The bytes of an incomplete sequence wait for the next chunk; the normaliser's segment
and the last piece are pending, and the grammar stands after the text before them. -/
def nextContext (s : State) (p : TextParams) (t : TokCtx) (chunk : List Byte) : TokCtx :=
  if plainText p then
    if t.failed then t
    else
      let (g, f) := grammarAfter s p (t.gram, t.stack) chunk
      { t with gram := g.1, stack := g.2, failed := f }
  else
    let recs := (s.normRecs p).getD []
    let bs := t.carry ++ chunk
    let n := bs.length - utf8Open bs
    let (us, r) := utf8Units (p.invalid == 1) 0 (bs.take n)
    let units := t.units ++ us
    let run := lastRun units
    let safe := if p.norm = 0 then run else streamSafe recs 0 run
    let k := if p.norm = 0 then safe.length else settleAt recs p safe
    let settled := normalised s p (units.take (units.length - run.length) ++ (safe.take k).map TextUnit.cp)
    let (g, f) := grammarAfter s p (0, []) (settled.flatMap unitBytesOf)
    { carry := bs.drop n
      units := units
      replaced := t.replaced + r
      segment := safe.drop k
      piece := if p.mode = 0 then [] else (((pieces recs p.digitGroup settled).getLast?).map (·.2)).getD []
      gram := g.1
      stack := g.2
      failed := f }

/-- The units of a whole sample: bytes still pending at its end are ill-formed (R211, R212). -/
def TokCtx.finish (p : TextParams) (t : TokCtx) : List TextUnit × Nat :=
  let (us, r) := utf8Units (p.invalid == 1) 0 t.carry
  (t.units ++ us, t.replaced + r)

/-! ### The form -/

/-- The 32-byte descriptor and the tokens (R220). -/
def tokenForm (p : TextParams) (src : Nat) (r : TokenRun) : Form :=
  let flags := flag r.illFormed + 2 * flag r.usedFallback + 4 * flag (p.grammar != 0)
  ⟨natBytes 1 4 ++ natBytes 1 p.mode ++ natBytes 1 flags ++ natBytes 1 0 ++ natBytes 4 r.tokens.length ++
    natBytes 4 src ++ natBytes 4 r.normBytes ++ natBytes 4 r.replaced ++ natBytes 2 (if p.mode = 1 then p.vocab else 0) ++
    natBytes 2 p.norm ++ natBytes 2 p.grammar ++ natBytes 2 (textConfig p) ++ natBytes 4 (4 * r.tokens.length),
   r.tokens.flatMap (natBytes 4)⟩

/-- The tokens of a tokenised form. -/
def formTokens (f : Form) : List Nat := wordsAt f.data 0 (byteField f.desc 4 4)

/-- A decoded-cache hit serves a text stream only with its own tables and configuration (R221). -/
def formMatches (p : TextParams) (f : Form) : Bool :=
  byteField f.desc 20 2 == (if p.mode = 1 then p.vocab else 0) && byteField f.desc 22 2 == p.norm &&
    byteField f.desc 24 2 == p.grammar && byteField f.desc 26 2 == textConfig p

/-! ### Segments and placement (R225 to R229) -/

def tokenSet (t : Nat) : Nat := flag (t != noToken)

/-- The segment of a slot, and whether tokens were dropped (R225). -/
def segmentOf (p : TextParams) (tokens : List Nat) : List Nat × Bool :=
  let k := p.sampleMax - tokenSet p.bos - tokenSet p.eos
  ((if p.bos = noToken then [] else [p.bos]) ++ tokens.take k ++ (if p.eos = noToken then [] else [p.eos]),
    decide (k < tokens.length))

/-- Where a segment of `len` tokens starts from the current point, and the point after it (R226). -/
def placeSegment (p : TextParams) (slot len : Nat) (pt : Nat × Nat) : (Nat × Nat) × (Nat × Nat) :=
  if p.packMode = 0 then ((slot, 0), (slot, len))
  else if len = 0 then (pt, pt)
  else
    let start :=
      if p.packMode = 1 then (if pt.2 = p.rowLen then (pt.1 + 1, 0) else pt)
      else if p.rowLen < pt.2 + len then (pt.1 + 1, 0) else pt
    let last := start.2 + len - 1
    (start, (start.1 + last / p.rowLen, last % p.rowLen + 1))

/-- Places of a segment: linear place indices, row-major over the batch. -/
def segmentPlaces (p : TextParams) (start : Nat × Nat) (len : Nat) : List Nat :=
  (List.range len).map fun i => start.1 * p.rowLen + start.2 + i

/-- The ordinal of a segment at each of its places: one more than the segments that begin or continue before it in that
row (R229). `placed` holds first row, first place and length of the lower slots. -/
def segmentOrdinal (p : TextParams) (placed : List (Nat × Nat × Nat)) (start : Nat × Nat) (row : Nat) : Nat :=
  1 + (placed.filter fun (r, pl, n) =>
    decide (0 < n) && decide (r ≤ row) && decide (row ≤ r + (pl + n - 1) / p.rowLen) &&
      decide (r * p.rowLen + pl < start.1 * p.rowLen + start.2)).length

/-! ### Vocabulary caches (R218) -/

/-- Lines of 64 bytes in the 4 MiB cache of an engine. -/
def vocabLines : Nat := 65536

/-- A line is held by an engine's cache; a full cache drops its oldest. (DEDUCED 47; assumption log) -/
def holdLine (engine line : Nat) (held : List (Nat × Nat)) : List (Nat × Nat) :=
  let own := held.filter (·.1 == engine)
  (match own.head? with
    | some x => if vocabLines ≤ own.length then held.erase x else held
    | none => held) ++ [(engine, line)]

/-- The lines of the lookup buckets of a table's lowest-ranked merges, as many as one cache holds. -/
def bucketLines (id merges : Nat) : List Nat := (List.range (min merges vocabLines)).map fun r => id * 2 ^ 20 + r

/-- Warming at stream setup (R218): each engine's cache takes buckets until it is full. (DEDUCED 47; assumption log) -/
def warmVocab (id merges : Nat) (held : List (Nat × Nat)) : List (Nat × Nat) :=
  (List.range 8).foldl (fun acc e =>
    let own := acc.filter (·.1 == e)
    acc ++ (((bucketLines id merges).filter fun l => !own.contains (e, l)).take (vocabLines - own.length)).map fun l => (e, l)) held

/-! ### Detokenising (R230) -/

/-- The bytes of one token; none where no rule gives any. The value that means no BOS or no EOS names no token (R205). -/
def detokenise1 (s : State) (p : TextParams) (t : Nat) : Option (List Byte) :=
  if p.mode = 0 then
    if p.byteBase ≤ t ∧ t < p.byteBase + 256 then some [BitVec.ofNat 8 (t - p.byteBase)]
    else if t ≠ noToken ∧ (t = p.bos ∨ t = p.eos ∨ t = p.pad) then some []
    else none
  else
    match s.table? p.vocab with
    | some (.vocab _ strings _ fallback) =>
      match fallback with
      | some f =>
        if f ≤ t ∧ t < f + 256 then some [BitVec.ofNat 8 (t - f)]
        else strings[t]?
      | none => strings[t]?
    | _ => none

end Sys2Proof.Machine
end

