-- ==== Sys2Proof/Machine/Digests.lean ====
section
/-! DEFINITION. Digests that the standards of R148 and R155 name: XXH64, whose low 32 bits are the content checksum of a
Zstandard frame (RFC 8878), and MD5 (RFC 1321), which STREAMINFO of a FLAC holds. -/

namespace Sys2Proof.Machine

/-! ### XXH64 -/

def xxPrime (k : Nat) : Dword :=
  ([0x9E3779B185EBCA87, 0xC2B2AE3D27D4EB4F, 0x165667B19E3779F9, 0x85EBCA77C2B2AE63, 0x27D4EB2F165667C5] : List Dword).getD (k - 1) 0

def xxRound (acc v : Dword) : Dword := (acc + v * xxPrime 2).rotateLeft 31 * xxPrime 1

/-- A lane of eight bytes. -/
def xxLane (bs : List Byte) (o : Nat) : Dword := BitVec.ofNat 64 (byteField bs o 8)

/-- The stripes of 32 bytes. -/
def xxStripes : Nat → List Dword → List Byte → List Dword × List Byte
  | 0, acc, bs => (acc, bs)
  | n + 1, acc, bs => xxStripes n (acc.zipIdx.map fun (a, i) => xxRound a (xxLane bs (8 * i))) (bs.drop 32)

/-- The bytes after the stripes. -/
def xxTail : Nat → Dword → List Byte → Dword
  | 0, h, _ => h
  | fuel + 1, h, bs =>
    if bs.isEmpty then h
    else if 8 ≤ bs.length then
      xxTail fuel ((h ^^^ xxRound 0 (xxLane bs 0)).rotateLeft 27 * xxPrime 1 + xxPrime 4) (bs.drop 8)
    else if 4 ≤ bs.length then
      xxTail fuel ((h ^^^ (BitVec.ofNat 64 (byteField bs 0 4) * xxPrime 1)).rotateLeft 23 * xxPrime 2 + xxPrime 3) (bs.drop 4)
    else xxTail fuel ((h ^^^ ((bs.headD 0).zeroExtend 64 * xxPrime 5)).rotateLeft 11 * xxPrime 1) (bs.drop 1)

/-- XXH64 with seed 0. (PRESUMED 140; assumption log) -/
def xxh64 (bs : List Byte) : Dword :=
  let (acc, rest) := xxStripes (bs.length / 32) [xxPrime 1 + xxPrime 2, xxPrime 2, 0, 0 - xxPrime 1] bs
  let a (i : Nat) : Dword := acc.getD i 0
  let joined :=
    if bs.length < 32 then xxPrime 5
    else
      acc.foldl (fun h v => (h ^^^ xxRound 0 v) * xxPrime 1 + xxPrime 4)
        ((a 0).rotateLeft 1 + (a 1).rotateLeft 7 + (a 2).rotateLeft 12 + (a 3).rotateLeft 18)
  let h := xxTail (rest.length + 1) (joined + BitVec.ofNat 64 bs.length) rest
  let h := (h ^^^ (h >>> (33 : Nat))) * xxPrime 2
  let h := (h ^^^ (h >>> (29 : Nat))) * xxPrime 3
  h ^^^ (h >>> (32 : Nat))

/-! ### MD5 -/

/-- The 64 constants: the integer part of 2^32 times the absolute sine of 1 to 64. -/
def md5Table : List Word :=
  [0xD76AA478, 0xE8C7B756, 0x242070DB, 0xC1BDCEEE, 0xF57C0FAF, 0x4787C62A, 0xA8304613, 0xFD469501,
   0x698098D8, 0x8B44F7AF, 0xFFFF5BB1, 0x895CD7BE, 0x6B901122, 0xFD987193, 0xA679438E, 0x49B40821,
   0xF61E2562, 0xC040B340, 0x265E5A51, 0xE9B6C7AA, 0xD62F105D, 0x02441453, 0xD8A1E681, 0xE7D3FBC8,
   0x21E1CDE6, 0xC33707D6, 0xF4D50D87, 0x455A14ED, 0xA9E3E905, 0xFCEFA3F8, 0x676F02D9, 0x8D2A4C8A] ++
  [0xFFFA3942, 0x8771F681, 0x6D9D6122, 0xFDE5380C, 0xA4BEEA44, 0x4BDECFA9, 0xF6BB4B60, 0xBEBFBC70,
   0x289B7EC6, 0xEAA127FA, 0xD4EF3085, 0x04881D05, 0xD9D4D039, 0xE6DB99E5, 0x1FA27CF8, 0xC4AC5665,
   0xF4292244, 0x432AFF97, 0xAB9423A7, 0xFC93A039, 0x655B59C3, 0x8F0CCC92, 0xFFEFF47D, 0x85845DD1,
   0x6FA87E4F, 0xFE2CE6E0, 0xA3014314, 0x4E0811A1, 0xF7537E82, 0xBD3AF235, 0x2AD7D2BB, 0xEB86D391]

def md5Shift (i : Nat) : Nat :=
  (([[7, 12, 17, 22], [5, 9, 14, 20], [4, 11, 16, 23], [6, 10, 15, 21]] : List (List Nat)).getD (i / 16) []).getD (i % 4) 0

/-- One of the 64 steps on a block of 16 words. -/
def md5Step (m : List Word) (x : Word × Word × Word × Word) (i : Nat) : Word × Word × Word × Word :=
  let (a, b, c, d) := x
  let (f, g) : Word × Nat :=
    match i / 16 with
    | 0 => ((b &&& c) ||| (~~~b &&& d), i)
    | 1 => ((d &&& b) ||| (~~~d &&& c), (5 * i + 1) % 16)
    | 2 => (b ^^^ c ^^^ d, (3 * i + 5) % 16)
    | _ => (c ^^^ (b ||| ~~~d), 7 * i % 16)
  (d, b + (a + f + md5Table.getD i 0 + m.getD g 0).rotateLeft (md5Shift i), b, c)

/-- The blocks of 64 bytes in turn. -/
def md5Blocks : Nat → Word × Word × Word × Word → List Byte → Word × Word × Word × Word
  | 0, x, _ => x
  | n + 1, x, bs =>
    let m := (List.range 16).map fun j => BitVec.ofNat 32 (byteField bs (4 * j) 4)
    let y := (List.range 64).foldl (md5Step m) x
    md5Blocks n (x.1 + y.1, x.2.1 + y.2.1, x.2.2.1 + y.2.2.1, x.2.2.2 + y.2.2.2) (bs.drop 64)

/-- MD5: its 16 bytes. (PRESUMED 140; assumption log) -/
def md5 (bs : List Byte) : List Byte :=
  let n := bs.length
  let padded := bs ++ [0x80] ++ List.replicate ((119 - n % 64) % 64) 0 ++ natBytes 8 (8 * n)
  let (a, b, c, d) := md5Blocks (padded.length / 64) (0x67452301, 0xEFCDAB89, 0x98BADCFE, 0x10325476) padded
  leBytes 4 a ++ leBytes 4 b ++ leBytes 4 c ++ leBytes 4 d

end Sys2Proof.Machine
end

