-- ==== Sys2Proof/Machine/Inflate.lean ====
section
/-! DEFINITION. The DEFLATE decoder of RFC 1951, which gzip, zlib, DEFLATE wrappers and the IDAT data of a PNG use (R148,
R152). -/

namespace Sys2Proof.Machine

/-! ### Bits -/

/-- The bits of some bytes, the least significant bit of each byte first. -/
def bitsUp (bs : List Byte) : List Bool := bs.flatMap fun b => (List.range 8).map b.getLsbD

/-- The bits of some bytes, the most significant bit of each byte first. -/
def bitsDown (bs : List Byte) : List Bool := bs.flatMap fun b => (List.range 8).map b.getMsbD

/-- The number that `n` bits give, the first of them least significant; none where they run out. -/
def takeUp : Nat → List Bool → Option (Nat × List Bool)
  | 0, l => some (0, l)
  | _ + 1, [] => none
  | n + 1, b :: l => (takeUp n l).map fun (v, r) => (flag b + 2 * v, r)

/-- The number that `n` bits give, the first of them most significant. -/
def takeDown (n : Nat) (l : List Bool) : Option (Nat × List Bool) := go n 0 l
where
  go : Nat → Nat → List Bool → Option (Nat × List Bool)
    | 0, v, l => some (v, l)
    | _ + 1, _, [] => none
    | n + 1, v, b :: l => go n (2 * v + flag b) l

/-- How a coded stream fails: it breaks its standard, or its bits run out. -/
inductive CodedFault where
  | syntaxError | cut
  deriving DecidableEq, Repr

/-- The details of R159 for them: SYNTAX and TRUNCATED. -/
def CodedFault.detail : CodedFault → Nat
  | .syntaxError => 0x204
  | .cut => 0x205

abbrev Coded (α : Type) := Except CodedFault α

/-- Bits that must stand there. -/
def needUp (n : Nat) (l : List Bool) : Coded (Nat × List Bool) :=
  match takeUp n l with | some x => .ok x | none => .error .cut
def needDown (n : Nat) (l : List Bool) : Coded (Nat × List Bool) :=
  match takeDown n l with | some x => .ok x | none => .error .cut

/-! ### Canonical prefix codes -/

/-- A canonical code: how many symbols have each length from 1 on, and the symbols by length, then value. -/
structure Huff where
  counts : List Nat
  symbols : List Nat
  deriving DecidableEq, Repr

/-- The code that a list of lengths gives, none of them above `longest`. -/
def Huff.ofLengths (longest : Nat) (lens : List Nat) : Huff :=
  let at_ (k : Nat) : List Nat := (lens.zipIdx.filter (·.1 == k)).map (·.2)
  ⟨(List.range longest).map fun k => (at_ (k + 1)).length, (List.range longest).flatMap fun k => at_ (k + 1)⟩

/-- Code space left over: none where the lengths ask for more than there is. -/
def Huff.left (h : Huff) : Option Nat :=
  h.counts.foldl (fun l c => l.bind fun n => if 2 * n < c then none else some (2 * n - c)) (some 1)

/-- One symbol; a code that no symbol has breaks the standard. -/
def Huff.decode (h : Huff) (l : List Bool) : Coded (Nat × List Bool) := go h.counts 0 0 0 l
where
  go : List Nat → Nat → Nat → Nat → List Bool → Coded (Nat × List Bool)
    | [], _, _, _, _ => .error .syntaxError
    | _ :: _, _, _, _, [] => .error .cut
    | c :: cs, code, first, index, b :: l =>
      let v := code + flag b
      if v < first + c then .ok (h.symbols.getD (index + v - first) 0, l)
      else go cs (2 * v) (2 * (first + c)) (index + c) l

/-! ### DEFLATE (RFC 1951) -/

def lengthBase : List Nat := [3, 4, 5, 6, 7, 8, 9, 10, 11, 13, 15, 17, 19, 23, 27, 31, 35, 43, 51, 59, 67, 83, 99, 115, 131, 163, 195, 227, 258]
def lengthExtra : List Nat := [0, 0, 0, 0, 0, 0, 0, 0, 1, 1, 1, 1, 2, 2, 2, 2, 3, 3, 3, 3, 4, 4, 4, 4, 5, 5, 5, 5, 0]
def distBase : List Nat :=
  [1, 2, 3, 4, 5, 7, 9, 13, 17, 25, 33, 49, 65, 97, 129, 193, 257, 385, 513, 769, 1025, 1537, 2049, 3073, 4097, 6145, 8193, 12289, 16385,
   24577]
def distExtra : List Nat := [0, 0, 0, 0, 1, 1, 2, 2, 3, 3, 4, 4, 5, 5, 6, 6, 7, 7, 8, 8, 9, 9, 10, 10, 11, 11, 12, 12, 13, 13]

/-- `n` bytes copied from `dist` back, onto output held last byte first. -/
def copyBack (dist : Nat) : Nat → List Byte → List Byte
  | 0, out => out
  | n + 1, out => copyBack dist n (out.getD (dist - 1) 0 :: out)

/-- The codes of one block up to its end, onto output held last byte first, `n` bytes of it. -/
def inflateCodes (lit dist : Huff) : Nat → List Byte → Nat → List Bool → Coded (List Byte × Nat × List Bool)
  | 0, _, _, _ => .error .cut
  | fuel + 1, out, n, l => do
    let (s, l) ← lit.decode l
    if s < 256 then inflateCodes lit dist fuel (BitVec.ofNat 8 s :: out) (n + 1) l
    else if s = 256 then .ok (out, n, l)
    else if 285 < s then .error .syntaxError
    else
      let (e, l) ← needUp (lengthExtra.getD (s - 257) 0) l
      let len := lengthBase.getD (s - 257) 0 + e
      let (d, l) ← dist.decode l
      if 29 < d then .error .syntaxError
      else
        let (f, l) ← needUp (distExtra.getD d 0) l
        let back := distBase.getD d 0 + f
        if n < back then .error .syntaxError else inflateCodes lit dist fuel (copyBack back len out) (n + len) l

/-- The code lengths of a dynamic block: repeats of the length before, or of zeros. -/
def inflateLengths (h : Huff) (want : Nat) : Nat → List Nat → List Bool → Coded (List Nat × List Bool)
  | 0, _, _ => .error .cut
  | fuel + 1, acc, l =>
    if want < acc.length then .error .syntaxError
    else if acc.length = want then .ok (acc.reverse, l)
    else do
      let (s, l) ← h.decode l
      if s < 16 then inflateLengths h want fuel (s :: acc) l
      else if s = 16 ∧ acc.isEmpty then .error .syntaxError
      else
        let (n, l) ← needUp (if s = 16 then 2 else if s = 17 then 3 else 7) l
        let k := n + if s = 18 then 11 else 3
        inflateLengths h want fuel (List.replicate k (if s = 16 then acc.headD 0 else 0) ++ acc) l

/-- A code that leaves space is right only where it has one symbol, of one bit. -/
def Huff.whole (h : Huff) : Bool :=
  match h.left with
  | none => false
  | some n => n == 0 || h.symbols.length == h.counts.headD 0

/-- The order in which the lengths of the code length code stand. -/
def clenOrder : List Nat := [16, 17, 18, 0, 8, 7, 9, 6, 10, 5, 11, 4, 12, 3, 13, 2, 14, 1, 15]

/-- The two codes of a dynamic block. -/
def dynamicCodes (l : List Bool) : Coded (Huff × Huff × List Bool) := do
  let (hlit, l) ← needUp 5 l
  let (hdist, l) ← needUp 5 l
  let (hclen, l) ← needUp 4 l
  let (v, l) ← needUp (3 * (hclen + 4)) l
  let clen := (List.range 19).map fun k =>
    let i := clenOrder.findIdx (· == k)
    if i < hclen + 4 then natBits v (3 * i) 3 else 0
  let h := Huff.ofLengths 7 clen
  if 29 < hlit ∨ 29 < hdist ∨ h.left ≠ some 0 then .error .syntaxError
  else
    let want := 257 + hlit + 1 + hdist
    let (lens, l) ← inflateLengths h want (want + 1) [] l
    let lit := Huff.ofLengths 15 (lens.take (257 + hlit))
    let dist := Huff.ofLengths 15 (lens.drop (257 + hlit))
    if lens.getD 256 0 = 0 ∨ !lit.whole ∨ !dist.whole then .error .syntaxError else .ok (lit, dist, l)

/-- The codes of a block with fixed codes. -/
def fixedLit : Huff :=
  .ofLengths 15 (List.replicate 144 8 ++ List.replicate 112 9 ++ List.replicate 24 7 ++ List.replicate 8 8)
def fixedDist : Huff := .ofLengths 15 (List.replicate 30 5)

/-- The bytes of a stored block, onto output held last byte first. -/
def storedBytes : Nat → List Byte → List Bool → Coded (List Byte × List Bool)
  | 0, out, l => .ok (out, l)
  | n + 1, out, l => do
    let (v, l) ← needUp 8 l
    storedBytes n (BitVec.ofNat 8 v :: out) l

/-- The blocks of a stream up to the last: the output, last byte first, and the bits left. -/
def inflateBlocks : Nat → List Byte → Nat → List Bool → Coded (List Byte × List Bool)
  | 0, _, _, _ => .error .cut
  | fuel + 1, out, n, l => do
    let (last, l) ← needUp 1 l
    let (kind, l) ← needUp 2 l
    let (out, n, l) ←
      match kind with
      | 0 =>
        (needUp 32 (l.drop (l.length % 8))).bind fun (v, l) =>
          let k := v % 65536
          if v / 65536 ≠ 65535 - k then .error .syntaxError
          else (storedBytes k out l).map fun (out, l) => (out, n + k, l)
      | 1 => inflateCodes fixedLit fixedDist (l.length + 1) out n l
      | 2 => (dynamicCodes l).bind fun (lit, dist, l) => inflateCodes lit dist (l.length + 1) out n l
      | _ => .error .syntaxError
    if last = 1 then .ok (out, l) else inflateBlocks fuel out n l

/-- What the decoder of one stream, member or frame finds: the compressed bytes it took, its output, whether the data keep
to the standard, and whether they reach their end. -/
structure CodedPart where
  size : Nat
  out : List Byte
  ok : Bool
  ended : Bool
  deriving DecidableEq, Repr

/-- A stream that failed. -/
def CodedFault.part : CodedFault → CodedPart
  | .syntaxError => ⟨0, [], false, true⟩
  | .cut => ⟨0, [], true, false⟩

/-- A DEFLATE stream at the start of some bytes. (PRESUMED 140; assumption log) -/
def inflate (bs : List Byte) : CodedPart :=
  let l := bitsUp bs
  match inflateBlocks (l.length + 1) [] 0 l with
  | .error e => e.part
  | .ok (out, rest) => ⟨bs.length - rest.length / 8, out.reverse, true, true⟩

end Sys2Proof.Machine
end

