-- ==== Sys2Proof/Machine/Zstd.lean ====
section
/-! DEFINITION. The Zstandard frame decoder of RFC 8878 (R148). -/

namespace Sys2Proof.Machine

/-! ### Finite state entropy -/

/-- A decoding table: for each state its symbol, the bits to read and the base of the next state. -/
structure Fse where
  log : Nat
  cells : List (Nat × Nat × Nat)
  deriving DecidableEq, Repr

/-- Bits below the highest one set: the integer part of the logarithm to base 2. -/
def ilog2 (n : Nat) : Nat := Nat.log2 n

/-- The table of a distribution; a probability of −1 takes one state at the end of the table. -/
def Fse.ofProbs (log : Nat) (probs : List Int) : Fse :=
  let size := 2 ^ log
  let low := (probs.zipIdx.filter (·.1 == -1)).map (·.2)
  let spread := probs.zipIdx.flatMap fun (p, s) => List.replicate p.toNat s
  let places := ((List.range size).map fun k => k * (size / 2 + size / 8 + 3) % size).filter fun p => decide (p < size - low.length)
  let at_ := (places.zip spread) ++ low.zipIdx.map fun (s, j) => (size - 1 - j, s)
  let symbols := (List.range size).map fun i => ((at_.find? (·.1 == i)).map (·.2)).getD 0
  ⟨log, symbols.zipIdx.map fun (s, i) =>
    let next := max 1 (probs.getD s 0).toNat + ((symbols.take i).filter (· == s)).length
    let n := log - ilog2 next
    (s, n, next * 2 ^ n - size)⟩

/-- The table with one symbol. -/
def Fse.single (s : Nat) : Fse := ⟨0, [(s, 0, 0)]⟩

def Fse.at (f : Fse) (state : Nat) : Nat × Nat × Nat := f.cells.getD state (0, 0, 0)

/-- The probabilities of a table description; `rest` is what the table still has, plus one. -/
def fseProbs (most : Nat) : Nat → Nat → List Int → List Bool → Coded (List Int × List Bool)
  | 0, _, _, _ => .error .cut
  | fuel + 1, rest, acc, l =>
    if rest = 1 then (if most < acc.length then .error .syntaxError else .ok (acc.reverse, l))
    else if most ≤ acc.length then .error .syntaxError
    else do
      let n := ilog2 rest + 1
      let v := ((takeUp n (l.take n ++ List.replicate n false)).map (·.1)).getD 0
      let low := v % 2 ^ (n - 1)
      let spare := 2 ^ n - 1 - rest
      let (p, used) : Nat × Nat := if low < spare then (low, n - 1) else (if 2 ^ (n - 1) ≤ v then v - spare else v, n)
      let took := if p = 0 then 1 else p - 1
      if l.length < used then .error .cut
      else if rest - 1 < took then .error .syntaxError
      else if p = 1 then
        let (zs, l) ← zeros fuel (l.drop used)
        fseProbs most fuel rest (List.replicate (zs + 1) 0 ++ acc) l
      else fseProbs most fuel (rest - took) (((p : Int) - 1) :: acc) (l.drop used)
where
  /-- Zero probabilities that follow one, in groups of up to three. -/
  zeros : Nat → List Bool → Coded (Nat × List Bool)
    | 0, _ => .error .cut
    | fuel + 1, l => do
      let (n, l) ← needUp 2 l
      if n = 3 then (zeros fuel l).map fun (k, l) => (k + 3, l) else .ok (n, l)

/-- A table description at the start of some bytes: the table, and the bytes after it. -/
def fseTable (longest most : Nat) (bs : List Byte) : Coded (Fse × List Byte) := do
  let l := bitsUp bs
  let (a, l) ← needUp 4 l
  let log := a + 5
  if longest < log then .error .syntaxError
  else
    let (ps, l) ← fseProbs most (l.length + 1) (2 ^ log + 1) [] l
    .ok (Fse.ofProbs log ps, bs.drop (bs.length - l.length / 8))

/-- A bitstream read from its end: its bits from the last one on, without the padding and the bit that ends it. -/
def backBits (bs : List Byte) : Coded (List Bool) :=
  match (bitsDown bs.reverse).dropWhile (!·) with
  | _ :: l => if bs.getLast? == some 0 then .error .syntaxError else .ok l
  | [] => .error .syntaxError

/-! ### Huffman-coded literals -/

/-- A Huffman table: its depth, and for each value of that many bits the symbol and the bits it takes. -/
structure ZHuff where
  depth : Nat
  cells : List (Nat × Nat)
  deriving DecidableEq, Repr

/-- The table of some weights, the last of which is implied. -/
def ZHuff.ofWeights (ws : List Nat) : Coded ZHuff :=
  let sum := (ws.map fun w => if w = 0 then 0 else 2 ^ (w - 1)).sum
  let depth := ilog2 sum + 1
  let left := 2 ^ depth - sum
  if sum = 0 ∨ 11 < depth ∨ left ≠ 2 ^ ilog2 left ∨ 255 < ws.length then .error .syntaxError
  else
    let all := ws ++ [ilog2 left + 1]
    .ok ⟨depth, (List.range depth).flatMap fun k =>
      (all.zipIdx.filter (·.1 == k + 1)).flatMap fun (_, s) => List.replicate (2 ^ k) (s, depth - k)⟩

/-- The weights of two interleaved states, until the bits run out. -/
def fseWeights (f : Fse) : Nat → Nat → Nat → List Bool → List Nat
  | 0, _, _, _ => []
  | fuel + 1, a, b, l =>
    let (s, n, base) := f.at a
    match takeDown n l with
    | none => [s, (f.at b).1]
    | some (v, l) => s :: fseWeights f fuel b (base + v) l

/-- A Huffman tree description: the table, and the bytes after it. -/
def zHuffTable (bs : List Byte) : Coded (ZHuff × List Byte) :=
  let h := (bs.getD 0 0).toNat
  if bs.isEmpty then .error .cut
  else if 128 ≤ h then
    let n := h - 127
    let body := (bs.drop 1).take ((n + 1) / 2)
    if body.length < (n + 1) / 2 then .error .cut
    else
      (ZHuff.ofWeights (((body.flatMap fun b => [b.toNat / 16, b.toNat % 16])).take n)).map fun t => (t, bs.drop (1 + (n + 1) / 2))
  else do
    let body := (bs.drop 1).take h
    if body.length < h then .error .cut
    else
      let (f, rest) ← fseTable 6 12 body
      let l ← backBits rest
      let (a, l) ← needDown f.log l
      let (b, l) ← needDown f.log l
      (ZHuff.ofWeights (fseWeights f (l.length + 256) a b l)).map fun t => (t, bs.drop (1 + h))

/-- One stream of literals, which its bits end exactly. -/
def zHuffStream (t : ZHuff) : Nat → List Bool → Coded (List Byte)
  | 0, _ => .error .syntaxError
  | fuel + 1, l =>
    if l.isEmpty then .ok []
    else
      let v := ((takeDown t.depth (l.take t.depth ++ List.replicate t.depth false)).map (·.1)).getD 0
      let (s, n) := t.cells.getD v (0, 0)
      if l.length < n ∨ n = 0 then .error .syntaxError
      else (zHuffStream t fuel (l.drop n)).map (BitVec.ofNat 8 s :: ·)

/-- The literals of `bs` in one stream, or in four after a jump table. -/
def zHuffLiterals (t : ZHuff) (four : Bool) (bs : List Byte) : Coded (List Byte) :=
  let one (b : List Byte) : Coded (List Byte) := (backBits b).bind fun l => zHuffStream t (l.length + 1) l
  if !four then one bs
  else
    let a := byteField bs 0 2
    let b := byteField bs 2 2
    let c := byteField bs 4 2
    let body := bs.drop 6
    if bs.length < 6 ∨ body.length < a + b + c then .error .syntaxError
    else do
      let w ← one (body.take a)
      let x ← one ((body.drop a).take b)
      let y ← one ((body.drop (a + b)).take c)
      let z ← one (body.drop (a + b + c))
      .ok (w ++ x ++ y ++ z)

/-! ### Blocks -/

/-- What a frame's blocks carry on: the Huffman table, the three sequence tables, the repeated offsets, and the output, last
byte first, with its length. -/
structure ZState where
  huff : Option ZHuff
  ll : Option Fse
  off : Option Fse
  ml : Option Fse
  reps : Nat × Nat × Nat
  out : List Byte
  len : Nat
  deriving DecidableEq, Repr

/-- The literals section: the literals, and the bytes after it. -/
def zLiterals (z : ZState) (bs : List Byte) : Coded (List Byte × Option ZHuff × List Byte) :=
  let b0 := (bs.getD 0 0).toNat
  let kind := b0 % 4
  let form := b0 / 4 % 4
  if bs.isEmpty then .error .cut
  else if kind < 2 then
    let (size, h) : Nat × Nat :=
      if form % 2 = 0 then (b0 / 8, 1) else if form = 1 then (byteField bs 0 2 / 16, 2) else (byteField bs 0 3 / 16, 3)
    let n := if kind = 0 then size else 1
    let body := (bs.drop h).take n
    if body.length < n then .error .syntaxError
    else .ok (if kind = 0 then body else List.replicate size (body.headD 0), z.huff, bs.drop (h + n))
  else
    let (w, h) : Nat × Nat := if form < 2 then (10, 3) else if form = 2 then (14, 4) else (18, 5)
    let v := byteField bs 0 h
    let size := v / 16 % 2 ^ w
    let n := v / 2 ^ (4 + w) % 2 ^ w
    let body := (bs.drop h).take n
    if body.length < n then .error .syntaxError
    else do
      let (t, body) ←
        if kind = 2 then (zHuffTable body).mapError fun _ => .syntaxError
        else match z.huff with | some t => .ok (t, body) | none => .error .syntaxError
      let lits ← (zHuffLiterals t (form != 0) body).mapError fun _ => .syntaxError
      if lits.length = size then .ok (lits, some t, bs.drop (h + n)) else .error .syntaxError

def zLlProbs : List Int := [4, 3, 2, 2, 2, 2, 2, 2, 2, 2, 2, 2, 2, 1, 1, 1, 2, 2, 2, 2, 2, 2, 2, 2, 2, 3, 2, 1, 1, 1, 1, 1, -1, -1, -1, -1]
def zMlProbs : List Int :=
  [1, 4, 3, 2, 2, 2, 2, 2, 2, 1, 1, 1, 1, 1, 1, 1, 1, 1, 1, 1, 1, 1, 1, 1, 1, 1, 1, 1, 1, 1, 1, 1, 1, 1, 1, 1, 1, 1, 1, 1, 1, 1, 1, 1, 1, 1,
   -1, -1, -1, -1, -1, -1, -1]
def zOffProbs : List Int := [1, 1, 1, 1, 1, 1, 2, 2, 2, 1, 1, 1, 1, 1, 1, 1, 1, 1, 1, 1, 1, 1, 1, 1, -1, -1, -1, -1, -1]

/-- Base and extra bits of a literal length code, and of a match length code. -/
def zLlCode (c : Nat) : Nat × Nat :=
  if c < 16 then (c, 0)
  else
    (([(16, 1), (18, 1), (20, 1), (22, 1), (24, 2), (28, 2), (32, 3), (40, 3), (48, 4), (64, 6), (128, 7), (256, 8), (512, 9), (1024, 10),
      (2048, 11), (4096, 12), (8192, 13), (16384, 14), (32768, 15), (65536, 16)] : List (Nat × Nat)).getD (c - 16) (0, 0))
def zMlCode (c : Nat) : Nat × Nat :=
  if c < 32 then (c + 3, 0)
  else
    (([(35, 1), (37, 1), (39, 1), (41, 1), (43, 2), (47, 2), (51, 3), (59, 3), (67, 4), (83, 4), (99, 5), (131, 7), (259, 8), (515, 9),
      (1027, 10), (2051, 11), (4099, 12), (8195, 13), (16387, 14), (32771, 15), (65539, 16)] : List (Nat × Nat)).getD (c - 32) (0, 0))

/-- One of the three tables, by its compression mode: predefined, one symbol, described, or that of the block before. -/
def zTable (mode longest most : Nat) (dflt : Fse) (before : Option Fse) (bs : List Byte) : Coded (Fse × List Byte) :=
  match mode with
  | 0 => .ok (dflt, bs)
  | 1 => if bs.isEmpty ∨ most ≤ byteField bs 0 1 then .error .syntaxError else .ok (.single (byteField bs 0 1), bs.drop 1)
  | 2 => fseTable longest most bs
  | _ => match before with | some t => .ok (t, bs) | none => .error .syntaxError

/-- The offset that an offset value stands for, and the repeated offsets after it. -/
def zOffset (v lits : Nat) (r : Nat × Nat × Nat) : Nat × (Nat × Nat × Nat) :=
  let (a, b, c) := r
  if 3 < v then (v - 3, (v - 3, a, b))
  else
    match v - 1 + (if lits = 0 then 1 else 0) with
    | 0 => (a, r)
    | 1 => (b, (b, a, c))
    | 2 => (c, (c, a, b))
    | _ => (a - 1, (a - 1, a, b))

/-- The sequences of a block: each copies literals, then a match. -/
def zSequences (ll off ml : Fse) : Nat → Nat → Nat → Nat → List Byte → ZState → List Bool → Coded (List Byte × ZState × List Bool)
  | 0, _, _, _, lits, z, l => .ok (lits, z, l)
  | n + 1, a, b, c, lits, z, l => do
    let (ls, ln, lb) := ll.at a
    let (os, on, ob) := off.at b
    let (ms, mn, mb) := ml.at c
    let (ov, l) ← needDown os l
    let (mv, l) ← needDown (zMlCode ms).2 l
    let (lv, l) ← needDown (zLlCode ls).2 l
    let k := (zLlCode ls).1 + lv
    let (back, reps) := zOffset (2 ^ os + ov) k z.reps
    let z1 := { z with out := (lits.take k).reverse ++ z.out, len := z.len + k, reps := reps }
    if lits.length < k ∨ back = 0 ∨ z1.len < back then .error .syntaxError
    else
      let len := (zMlCode ms).1 + mv
      let z2 := { z1 with out := copyBack back len z1.out, len := z1.len + len }
      if n = 0 then .ok (lits.drop k, z2, l)
      else
        let (x, l) ← needDown ln l
        let (y, l) ← needDown mn l
        let (w, l) ← needDown on l
        zSequences ll off ml n (lb + x) (ob + w) (mb + y) (lits.drop k) z2 l

/-- A compressed block. -/
def zBlock (z : ZState) (bs : List Byte) : Coded ZState := do
  let (lits, huff, bs) ← zLiterals z bs
  let z := { z with huff := huff }
  let b0 := byteField bs 0 1
  let (n, h) : Nat × Nat :=
    if b0 < 128 then (b0, 1) else if b0 < 255 then ((b0 - 128) * 256 + byteField bs 1 1, 2) else (byteField bs 1 2 + 0x7F00, 3)
  if bs.length < h then .error .syntaxError
  else if n = 0 then
    if h < bs.length then .error .syntaxError else .ok { z with out := lits.reverse ++ z.out, len := z.len + lits.length }
  else
    let m := byteField bs h 1
    if bs.length ≤ h ∨ m % 4 ≠ 0 then .error .syntaxError
    else
      let (ll, bs) ← zTable (m / 64) 9 36 (.ofProbs 6 zLlProbs) z.ll (bs.drop (h + 1))
      let (off, bs) ← zTable (m / 16 % 4) 8 32 (.ofProbs 5 zOffProbs) z.off bs
      let (ml, bs) ← zTable (m / 4 % 4) 9 53 (.ofProbs 6 zMlProbs) z.ml bs
      let l ← backBits bs
      let (a, l) ← needDown ll.log l
      let (b, l) ← needDown off.log l
      let (c, l) ← needDown ml.log l
      let (rest, y, l) ← zSequences ll off ml n a b c lits z l
      if l.isEmpty then
        .ok { y with out := rest.reverse ++ y.out, len := y.len + rest.length, ll := some ll, off := some off, ml := some ml }
      else .error .syntaxError

/-- The blocks of a frame, none of them above `most` bytes: the output and the bytes they took. -/
def zBlocks (most : Nat) : Nat → Nat → ZState → List Byte → Coded (ZState × Nat)
  | 0, _, _, _ => .error .cut
  | fuel + 1, used, z, bs =>
    let h := byteField bs 0 3
    let kind := natBits h 1 2
    let size := h / 8
    let n := if kind = 1 then 1 else size
    let body := (bs.drop 3).take n
    if bs.length < 3 ∨ body.length < n then .error .cut
    else if kind = 3 ∨ most < size then .error .syntaxError
    else
      let after : Coded ZState :=
        match kind with
        | 0 => .ok { z with out := body.reverse ++ z.out, len := z.len + size }
        | 1 => .ok { z with out := List.replicate size (body.headD 0) ++ z.out, len := z.len + size }
        | _ => (zBlock z body).mapError fun _ => .syntaxError
      match after with
      | .error e => .error e
      | .ok y =>
        if z.len + most < y.len then .error .syntaxError
        else if h % 2 = 1 then .ok (y, used + 3 + n)
        else zBlocks most fuel (used + 3 + n) y (bs.drop (3 + n))

/-- The blocks of one frame, whose window is given, from their first byte. (PRESUMED 140; assumption log) -/
def zstdBody (window : Nat) (bs : List Byte) : CodedPart :=
  match zBlocks (min 131072 window) (bs.length + 1) 0 ⟨none, none, none, none, (1, 4, 8), [], 0⟩ bs with
  | .error e => e.part
  | .ok (z, n) => ⟨n, z.out.reverse, true, true⟩

end Sys2Proof.Machine
end

