-- ==== Sys2Proof/Machine/Wraps.lean ====
section
/-! DEFINITION. The archive and compression wrappers of a sample (R147, R148, R157, R158), read from its bytes. -/

namespace Sys2Proof.Machine

/-! ### Bytes -/

/-- A number of `n` bytes at offset `o`, most significant first. -/
def beField (bs : List Byte) (o n : Nat) : Nat := (List.range n).foldl (fun v i => 256 * v + (bs.getD (o + i) 0).toNat) 0

def byteAt (bs : List Byte) (o : Nat) : Nat := (bs.getD o 0).toNat

def byteStr (l : List Nat) : List Byte := l.map fun n => BitVec.ofNat 8 n

/-- The bytes stand at an offset. -/
def startsAt (bs : List Byte) (o : Nat) (l : List Nat) : Bool := (bs.drop o).take l.length == byteStr l

/-- CRC-32 of RFC 1952 and ISO/IEC 15948, and Adler-32 of RFC 1950. -/
def crc32 (bs : List Byte) : Word := ~~~ BitVec.ofNat 32 (bs.foldl (crcByte 32 0xEDB88320) 0xFFFFFFFF)

def adler32 (bs : List Byte) : Nat :=
  let (a, b) := bs.foldl (fun (a, b) x => let a' := (a + x.toNat) % 65521; (a', (b + a') % 65521)) (1, 0)
  65536 * b + a

/-! ### Layers -/

/-- WRAP codes of R146. -/
def wrapCode : WrapKind → Nat
  | .tar => 2
  | .gzip => 3
  | .zlib => 4
  | .deflate => 5
  | .zstd => 6

/-- The wrapper that a WRAP code names for these bytes: AUTO finds it by its signature, and anything else means no further
wrapper (R148). -/
def wrapKind (code : Nat) (bs : List Byte) : Option WrapKind :=
  match code with
  | 1 =>
    if startsAt bs 0 [0x1F, 0x8B] then some .gzip
    else if startsAt bs 0 [0x28, 0xB5, 0x2F, 0xFD] then some .zstd
    else if startsAt bs 257 [0x75, 0x73, 0x74, 0x61, 0x72] then some .tar
    else none
  | 2 => some .tar
  | 3 => some .gzip
  | 4 => some .zlib
  | 5 => some .deflate
  | 6 => some .zstd
  | _ => none

/-- The largest expansion X of a wrapper (R158). -/
def wrapExpansion : WrapKind → Nat
  | .zstd => 32768
  | _ => 1032

/-- What the header of a layer gives: the size it declares, the compressed bytes C_s, what unwrapping and verifying then fails
with, and the output. -/
structure Layer where
  declared : Option Nat
  stream : Nat
  body : Option Nat
  out : List Byte
  deriving DecidableEq, Repr

/-- The bytes of a layer's output buffer: its declared size, or min(C_s × X, 1 GiB − 32). -/
def Layer.buffer (l : Layer) (k : WrapKind) : Nat :=
  match l.declared with
  | some n => n
  | none => min (l.stream * wrapExpansion k) (2 ^ 30 - 32)

/-- The first of the details that hold, in their order here. A layer that meets several failures shows the first of SYNTAX,
TRUNCATED, EXPANSION_CAP, SIZE_MISMATCH, CHECKSUM. (DESIGN CHOICE 165; assumption log) -/
def firstDetail (l : List (Bool × Nat)) : Option Nat := (l.find? (·.1)).map (·.2)

/-! ### gzip (RFC 1952) -/

/-- Length of a zero-terminated field from an offset, with its zero. -/
def zString (bs : List Byte) (o : Nat) : Nat := ((bs.drop o).takeWhile (· != 0)).length + 1

/-- Length of a gzip member's header, where it keeps to the standard. -/
def gzipHeader (bs : List Byte) : Option Nat :=
  let flg := byteAt bs 3
  if !startsAt bs 0 [0x1F, 0x8B, 8] ∨ 32 ≤ flg then none
  else
    let a := if natBits flg 2 1 = 1 then 12 + byteField bs 10 2 else 10
    let b := if natBits flg 3 1 = 1 then a + zString bs a else a
    let c := if natBits flg 4 1 = 1 then b + zString bs b else b
    some (if natBits flg 1 1 = 1 then c + 2 else c)

/-- A member of a gzip stream: what its data gave, its bytes, and the CRC-32 and ISIZE that follow them. -/
structure GzMember where
  part : CodedPart
  bytes : Nat
  crc : Nat
  isize : Nat
  deriving DecidableEq, Repr

/-- The members of a gzip stream, up to one whose data fail, and whether bytes follow that begin none. -/
def gzipMembers : Nat → List Byte → List GzMember × Bool
  | 0, bs => ([], !bs.isEmpty)
  | fuel + 1, bs =>
    match gzipHeader bs with
    | none => ([], !bs.isEmpty)
    | some h =>
      let p := inflate (bs.drop h)
      let rest := bs.drop (h + p.size)
      if !p.ok || !p.ended || decide (rest.length < 8) then ([⟨{ p with ended := p.ended && !p.ok }, bs.length, 0, 0⟩], false)
      else
        let (ms, extra) := gzipMembers fuel (rest.drop 8)
        (⟨p, h + p.size + 8, byteField rest 0 4, byteField rest 4 4⟩ :: ms, extra)

def gzipLayer (bs : List Byte) : Except Nat Layer :=
  if (gzipHeader bs).isNone then .error 0x204
  else
    let (ms, extra) := gzipMembers bs.length bs
    let out := ms.flatMap (·.part.out)
    .ok ⟨some (ms.map (·.isize)).sum, (ms.map (·.bytes)).sum,
      firstDetail [(extra || ms.any (!·.part.ok), 0x204), (ms.any (!·.part.ended), 0x205),
        (ms.any fun m => m.part.out.length % 2 ^ 32 != m.isize, 0x207), (ms.any fun m => (crc32 m.part.out).toNat != m.crc, 0x206)], out⟩

/-! ### zlib (RFC 1950) and DEFLATE (RFC 1951) -/

def deflateLayer (bs : List Byte) : Layer :=
  let p := inflate bs
  ⟨none, bs.length, firstDetail [(!p.ok || (p.ended && decide (p.size < bs.length)), 0x204), (!p.ended, 0x205),
    (decide (min (bs.length * 1032) (2 ^ 30 - 32) < p.out.length), 0x406)], p.out⟩

def zlibLayer (bs : List Byte) : Except Nat Layer :=
  let cmf := byteAt bs 0
  let flg := byteAt bs 1
  if bs.length < 2 then .error 0x205
  else if cmf % 16 ≠ 8 ∨ 7 < cmf / 16 then .error 0x204
  else if (256 * cmf + flg) % 31 ≠ 0 then .error 0x206
  else if natBits flg 5 1 = 1 then .error 0x203
  else
    let p := inflate (bs.drop 2)
    let tail := bs.drop (2 + p.size)
    .ok ⟨none, bs.length, firstDetail [(!p.ok || (p.ended && decide (4 < tail.length)), 0x204), (!p.ended || decide (tail.length < 4), 0x205),
      (decide (min (bs.length * 1032) (2 ^ 30 - 32) < p.out.length), 0x406), (beField tail 0 4 != adler32 p.out, 0x206)], p.out⟩

/-! ### Zstandard (RFC 8878) -/

/-- A Zstandard frame header: its length, the dictionary ID, the window, the content size and whether a checksum follows. -/
def zstdHeader (bs : List Byte) : Nat × Nat × Nat × Option Nat × Bool :=
  let d := byteAt bs 4
  let single := natBits d 5 1 == 1
  let w := if single then 0 else 1
  let did := [0, 1, 2, 4].getD (natBits d 0 2) 0
  let fcs := match natBits d 6 2 with | 0 => (if single then 1 else 0) | 1 => 2 | 2 => 4 | _ => 8
  let o := 5 + w + did
  let size := if fcs = 0 then none else some (byteField bs o fcs + (if fcs = 2 then 256 else 0))
  let wd := byteAt bs 5
  let base := 2 ^ (10 + wd / 8)
  (o + fcs, byteField bs (5 + w) did, if single then size.getD 0 else base + base / 8 * (wd % 8), size, natBits d 2 1 == 1)

/-- Length of the blocks of a frame from their first byte: none where they break the standard or run past the end. -/
def zstdBlocks : Nat → List Byte → Option Nat
  | 0, _ => none
  | fuel + 1, bs =>
    let h := byteField bs 0 3
    let kind := natBits h 1 2
    let n := 3 + (if kind = 1 then 1 else h / 8)
    if bs.length < n ∨ kind = 3 then none
    else if h % 2 = 1 then some n
    else (zstdBlocks fuel (bs.drop n)).map (n + ·)

/-- A frame of a Zstandard stream: what its blocks gave, its bytes, its content size and its checksum, and what its header fails
with. -/
structure ZFrame where
  part : CodedPart
  bytes : Nat
  size : Option Nat
  sum : Option Nat
  fault : Option Nat
  deriving DecidableEq, Repr

/-- The frames of a Zstandard stream, skippable ones skipped, and whether bytes follow that begin none. -/
def zstdFrames : Nat → List Byte → List ZFrame × Bool
  | 0, bs => ([], !bs.isEmpty)
  | fuel + 1, bs =>
    if bs.isEmpty then ([], false)
    else if startsAt bs 1 [0x2A, 0x4D, 0x18] && byteAt bs 0 / 16 == 5 then
      let n := 8 + byteField bs 4 4
      if bs.length < n then ([⟨⟨0, [], true, false⟩, 0, some 0, none, none⟩], false) else zstdFrames fuel (bs.drop n)
    else if !startsAt bs 0 [0x28, 0xB5, 0x2F, 0xFD] then ([], true)
    else
      let (h, dict, window, size, check) := zstdHeader bs
      let fault := if dict ≠ 0 then some 0x203 else if 2 ^ 26 < window then some 0x408 else none
      let broken := natBits (byteAt bs 4) 3 1 == 1
      match zstdBlocks bs.length (bs.drop h) with
      | none => ([⟨⟨0, [], !broken, false⟩, bs.length, size, none, fault⟩], false)
      | some n =>
        let p := zstdBody window (bs.drop h)
        let tail := bs.drop (h + n)
        let (fs, extra) := zstdFrames fuel (if check then tail.drop 4 else tail)
        (⟨{ p with ok := p.ok && !broken, ended := p.ended && (!check || decide (4 ≤ tail.length)) }, h + n + (if check then 4 else 0), size,
          if check then some (byteField tail 0 4) else none, fault⟩ :: fs, extra)

/-- The content checksum is the low 32 bits of XXH64 over the frame's output (RFC 8878). -/
def ZFrame.sumOk (f : ZFrame) : Bool := (f.sum.map (· == fieldOf (xxh64 f.part.out) 0 32)).getD true

def zstdLayer (bs : List Byte) : Except Nat Layer :=
  let (fs, extra) := zstdFrames bs.length bs
  match fs.findSome? (·.fault) with
  | some d => .error d
  | none =>
    if fs.isEmpty ∧ extra then .error 0x204
    else
      let out := fs.flatMap (·.part.out)
      let declared := if fs.all (·.size.isSome) then some ((fs.map fun f => f.size.getD 0).sum) else none
      let taken := (fs.map (·.bytes)).sum
      .ok ⟨declared, taken,
        firstDetail [(extra || fs.any (!·.part.ok), 0x204), (fs.any (!·.part.ended), 0x205),
          (declared.isNone && decide (min (taken * 32768) (2 ^ 30 - 32) < out.length), 0x406),
          (fs.any fun f => (f.size.map (· != f.part.out.length)).getD false, 0x207), (fs.any (!·.sumOk), 0x206)], out⟩

/-! ### tar (POSIX pax) -/

/-- An octal field of a tar header. -/
def octalField (bs : List Byte) (o n : Nat) : Nat :=
  (((bs.drop o).take n).filter fun (b : Byte) => decide (0x30 ≤ b.toNat ∧ b.toNat ≤ 0x37)).foldl (fun v b => 8 * v + (b.toNat - 0x30)) 0

/-- An octal field holds octal digits, spaces and NULs, the digits together. -/
def octalOk (bs : List Byte) (o n : Nat) : Bool :=
  let digit (b : Byte) : Bool := decide (0x30 ≤ b.toNat ∧ b.toNat ≤ 0x37)
  let body := ((bs.drop o).take n).dropWhile (· == 0x20)
  (body.dropWhile digit).all fun b => b == 0x20 || b == 0

/-- The header checksum: the sum of its bytes with the field itself as spaces. -/
def tarSumOk (h : List Byte) : Bool :=
  octalField h 148 8 == ((h.take 148 ++ List.replicate 8 (0x20 : Byte) ++ (h.drop 156).take 356).map fun (b : Byte) => b.toNat).sum

/-- The records of a pax header: key and value; none where one is no decimal length of its own, a space, key, equals sign and
value, and a newline. -/
def paxRecords : Nat → List Byte → Option (List (List Byte × List Byte))
  | 0, bs => if bs.isEmpty then some [] else none
  | fuel + 1, bs =>
    let digits := bs.takeWhile fun (b : Byte) => decide (0x30 ≤ b.toNat ∧ b.toNat ≤ 0x39)
    let len := digits.foldl (fun v b => 10 * v + (b.toNat - 0x30)) 0
    let body := ((bs.take len).drop (digits.length + 1)).dropLast
    let key := body.takeWhile (· != 0x3D)
    if bs.isEmpty then some []
    else if digits.isEmpty ∨ byteAt bs digits.length ≠ 0x20 ∨ len < digits.length + 3 ∨ bs.length < len ∨ byteAt bs (len - 1) ≠ 0x0A ∨
        key.isEmpty ∨ key.length = body.length then none
    else (paxRecords fuel (bs.drop len)).map ((key, body.drop (key.length + 1)) :: ·)

/-- A value of the records in force: those of the member, then the global ones. -/
def paxValue (key : String) (own global : List (List Byte × List Byte)) : Option (List Byte) :=
  let k := key.toList.map fun c => BitVec.ofNat 8 c.toNat
  ((own.reverse ++ global.reverse).find? (·.1 == k)).map (·.2)

/-- A decimal number, where the bytes are one. -/
def decimal (bs : List Byte) : Option Nat :=
  if !bs.isEmpty && bs.all fun (b : Byte) => decide (0x30 ≤ b.toNat ∧ b.toNat ≤ 0x39) then
    some (bs.foldl (fun v b => 10 * v + (b.toNat - 0x30)) 0)
  else none

/-- The name of a ustar header: prefix and name. -/
def tarName (h : List Byte) : List Byte :=
  let name := ((h.drop 0).take 100).takeWhile (· != 0)
  let pre := ((h.drop 345).take 155).takeWhile (· != 0)
  if pre.isEmpty then name else pre ++ [0x2F] ++ name

/-- The first regular member whose name ends in MEMBER, its size and its data; or what the walk fails with (R148). Without a
MEMBER record the suffix is empty. (DESIGN CHOICE 187; assumption log) -/
def tarMember (member : List Byte) : Nat → List (List Byte × List Byte) → List (List Byte × List Byte) → List Byte →
    Except Nat (Nat × List Byte)
  | 0, _, _, _ => .error 0x208
  | fuel + 1, own, global, bs =>
    let h := bs.take 512
    if bs.isEmpty || h.all (· == 0) then .error 0x208
    else if bs.length < 512 then .error 0x205
    else if !startsAt h 257 [0x75, 0x73, 0x74, 0x61, 0x72] then .error 0x204
    else if !tarSumOk h then .error 0x206
    else
      let kind := byteAt h 156
      let extended := kind == 0x78 || kind == 0x67
      let given := if extended then none else paxValue "size" own global
      let size := (given.bind decimal).getD (octalField h 124 12)
      let data := (bs.drop 512).take size
      let rest := bs.drop (512 + (size + 511) / 512 * 512)
      if !octalOk h 124 12 || (given.map fun v => (decimal v).isNone).getD false then .error 0x204
      else if extended then
        if data.length < size then .error 0x205
        else
          match paxRecords data.length data with
          | none => .error 0x204
          | some rs => if kind = 0x78 then tarMember member fuel rs global rest else tarMember member fuel own (global ++ rs) rest
      else
        let name := (paxValue "path" own global).getD (tarName h)
        if (kind = 0x30 ∨ kind = 0) ∧ member.isSuffixOf name then .ok (size, data)
        else tarMember member fuel [] global rest

def tarLayer (member : List Byte) (bs : List Byte) : Except Nat Layer :=
  match tarMember member bs.length [] [] bs with
  | .error d => .error d
  | .ok (size, data) => .ok ⟨some size, bs.length, firstDetail [(decide (data.length < size), 0x205)], data⟩

/-! ### A layer (R156 step 2) -/

/-- A layer's header is parsed, and the limits of R157 and the bound of R158 applied to the size it declares.
(PRESUMED 140; assumption log) -/
def openLayer (k : WrapKind) (member : List Byte) (bs : List Byte) : Except Nat Layer :=
  let parsed := match k with
    | .tar => tarLayer member bs
    | .gzip => gzipLayer bs
    | .zlib => zlibLayer bs
    | .deflate => .ok (deflateLayer bs)
    | .zstd => zstdLayer bs
  match parsed with
  | .error d => .error d
  | .ok l =>
    match l.declared with
    | some n =>
      if 2 ^ 30 < n + 32 then .error 0x402
      else if k ≠ .tar ∧ l.stream * wrapExpansion k < n then .error 0x301
      else .ok l
    | none => .ok l

end Sys2Proof.Machine
end

