-- ==== Sys2Proof/Machine/Flac.lean ====
section
/-! DEFINITION. The FLAC decoder (R155): metadata blocks, frames with their CRC-8 and CRC-16, and the MD5 of STREAMINFO. -/

namespace Sys2Proof.Machine

/-! ### Residual and prediction -/

/-- A two's complement number of `n` bits. -/
def signedBits (n v : Nat) : Int := if 2 * v < 2 ^ n then v else (v : Int) - 2 ^ n

/-- Zeros before a one. -/
def unary : Nat → List Bool → Coded (Nat × List Bool)
  | k, true :: l => .ok (k, l)
  | k, false :: l => unary (k + 1) l
  | _, [] => .error .cut

/-- `n` signed numbers of `bits` bits each. -/
def flacSamples (bits : Nat) : Nat → List Bool → Coded (List Int × List Bool)
  | 0, l => .ok ([], l)
  | n + 1, l => do
    let (v, l) ← needDown bits l
    let (vs, l) ← flacSamples bits n l
    .ok (signedBits bits v :: vs, l)

/-- `n` residuals of a Rice parameter. -/
def riceSamples (k : Nat) : Nat → List Bool → Coded (List Int × List Bool)
  | 0, l => .ok ([], l)
  | n + 1, l => do
    let (q, l) ← unary 0 l
    let (r, l) ← needDown k l
    let v := q * 2 ^ k + r
    let (vs, l) ← riceSamples k n l
    .ok ((if v % 2 = 0 then ((v / 2 : Nat) : Int) else -((v / 2 + 1 : Nat) : Int)) :: vs, l)

/-- The partitions of a residual, each of `per` samples but the first, which has the predictor order less. -/
def flacPartitions (width per : Nat) : Nat → Nat → List Bool → Coded (List Int × List Bool)
  | 0, _, l => .ok ([], l)
  | n + 1, less, l => do
    let (k, l) ← needDown width l
    let (vs, l) ←
      if k = 2 ^ width - 1 then (needDown 5 l).bind fun (b, l) => flacSamples b (per - less) l else riceSamples k (per - less) l
    let (ws, l) ← flacPartitions width per n 0 l
    .ok (vs ++ ws, l)

def flacResidual (block order : Nat) (l : List Bool) : Coded (List Int × List Bool) := do
  let (method, l) ← needDown 2 l
  let (p, l) ← needDown 4 l
  if 1 < method ∨ block % 2 ^ p ≠ 0 ∨ block / 2 ^ p < order then .error .syntaxError
  else flacPartitions (4 + method) (block / 2 ^ p) (2 ^ p) order l

/-- The samples that a residual leaves, from the warm-up samples, latest first, `coefs` weighing the latest first. -/
def flacPredict (coefs : List Int) (shift : Nat) : List Int → List Int → List Int
  | [], acc => acc.reverse
  | e :: es, acc => flacPredict coefs shift es (((List.zipWith (· * ·) coefs acc).sum / 2 ^ shift + e) :: acc)

def fixedCoefs (order : Nat) : List Int :=
  ([[], [1], [2, -1], [3, -3, 1], [4, -6, 4, -1]] : List (List Int)).getD order []

/-- One subframe of `block` samples of `bits` bits. -/
def flacSubframe (block bits : Nat) (l : List Bool) : Coded (List Int × List Bool) := do
  let (pad, l) ← needDown 1 l
  let (kind, l) ← needDown 6 l
  let (wasted, l) ← needDown 1 l
  let (w, l) ← if wasted = 1 then (unary 1 l) else .ok (0, l)
  let b := bits - w
  if pad = 1 ∨ bits ≤ w then .error .syntaxError
  else
    let (vs, l) ←
      if kind = 0 then (needDown b l).map fun (v, l) => (List.replicate block (signedBits b v), l)
      else if kind = 1 then flacSamples b block l
      else if 8 ≤ kind ∧ kind ≤ 12 ∧ kind - 8 ≤ block then
        (flacSamples b (kind - 8) l).bind fun (ws, l) =>
          (flacResidual block (kind - 8) l).map fun (es, l) => (flacPredict (fixedCoefs (kind - 8)) 0 es ws.reverse, l)
      else if 32 ≤ kind ∧ kind - 31 ≤ block then
        let order := kind - 31
        (flacSamples b order l).bind fun (ws, l) =>
          (needDown 4 l).bind fun (p, l) =>
            (needDown 5 l).bind fun (sh, l) =>
              (flacSamples (p + 1) order l).bind fun (cs, l) =>
                if p = 15 ∨ 16 ≤ sh then .error .syntaxError
                else (flacResidual block order l).map fun (es, l) => (flacPredict cs sh es ws.reverse, l)
      else .error .syntaxError
    .ok (vs.map (· * 2 ^ w), l)

/-- The subframes of the channels; `side` is the channel that carries one more bit. -/
def flacSubframes (block bits : Nat) (side : Option Nat) : List Nat → List Bool → Coded (List (List Int) × List Bool)
  | [], l => .ok ([], l)
  | c :: cs, l => do
    let (v, l) ← flacSubframe block (bits + flag (side == some c)) l
    let (vs, l) ← flacSubframes block bits side cs l
    .ok (v :: vs, l)

/-! ### Frames -/

/-- CRC-8 with polynomial 0x07, and CRC-16 with polynomial 0x8005, both from 0. -/
def crc8 (bs : List Byte) : Nat := bs.foldl (crcFeed 8 0x07 false) 0
def crc16 (bs : List Byte) : Nat := bs.foldl (crcFeed 16 0x8005 false) 0

/-- Bytes of a coded frame or sample number, by its first byte. -/
def codedNumber (b : Nat) : Option Nat :=
  if b < 0x80 then some 1 else if b < 0xC0 then none else if b < 0xE0 then some 2 else if b < 0xF0 then some 3 else if b < 0xF8 then some 4
  else if b < 0xFC then some 5 else if b < 0xFE then some 6 else if b = 0xFE then some 7 else none

/-- Samples of a block, by the four bits of the header and the bytes at `o`; with how many of these it takes. -/
def flacBlock (bs : List Byte) (code o : Nat) : Option (Nat × Nat) :=
  match code with
  | 0 => none
  | 1 => some (192, 0)
  | 6 => some (byteAt bs o + 1, 1)
  | 7 => some (beField bs o 2 + 1, 2)
  | n => some (if n ≤ 5 then 576 * 2 ^ (n - 2) else 256 * 2 ^ (n - 8), 0)

/-- Left and right of two channels that are coded as a difference. -/
def flacStereo (assign : Nat) (chs : List (List Int)) : List (List Int) :=
  let a := chs.getD 0 []
  let b := chs.getD 1 []
  match assign with
  | 8 => [a, List.zipWith (· - ·) a b]
  | 9 => [List.zipWith (· + ·) a b, b]
  | 10 =>
    let two := List.zipWith (fun m s => 2 * m + s % 2) a b
    [List.zipWith (fun t s => (t + s) / 2) two b, List.zipWith (fun t s => (t - s) / 2) two b]
  | _ => chs

/-- The elements of some channels, frame by frame. -/
def interleave (block : Nat) (chs : List (List Int)) : List Int :=
  let cols := chs.map List.toArray
  (List.range block).flatMap fun i => cols.map fun c => c.getD i 0

/-- One frame at the start of some bytes: its elements, and the bytes it took. (PRESUMED 140; assumption log) -/
def flacFrame (channels bits : Nat) (bs : List Byte) : Except Nat (List Int × Nat) :=
  let b2 := byteAt bs 2
  let b3 := byteAt bs 3
  let assign := b3 / 16
  let size := ([bits, 8, 12, 0, 16, 20, 24, 32].getD (natBits b3 1 3) 0)
  let chans := if assign < 8 then assign + 1 else 2
  if bs.length < 6 then .error 0x205
  else if byteAt bs 0 ≠ 0xFF ∨ byteAt bs 1 / 2 ≠ 0x7C ∨ b3 % 2 = 1 ∨ 10 < assign ∨ chans ≠ channels ∨ size ≠ bits ∨ b2 % 16 = 15 then .error 0x204
  else
    match codedNumber (byteAt bs 4) with
    | none => .error 0x204
    | some n =>
      match flacBlock bs (b2 / 16) (4 + n) with
      | none => .error 0x204
      | some (block, k) =>
        let r := if b2 % 16 = 12 then 1 else if b2 % 16 = 13 ∨ b2 % 16 = 14 then 2 else 0
        let o := 4 + n + k + r
        if bs.length ≤ o then .error 0x205
        else if crc8 (bs.take o) ≠ byteAt bs o then .error 0x206
        else
          let side := match assign with | 8 => some 1 | 9 => some 0 | 10 => some 1 | _ => none
          match flacSubframes block bits side (List.range chans) (bitsDown (bs.drop (o + 1))) with
          | .error e => .error e.detail
          | .ok (chs, l) =>
            let at_ := bs.length - l.length / 8
            if bs.length < at_ + 2 then .error 0x205
            else if crc16 (bs.take at_) ≠ beField bs at_ 2 then .error 0x206
            else .ok (interleave block (flacStereo assign chs), at_ + 2)

/-- The metadata blocks from offset `o` on: where the frames begin. -/
def flacBody (bs : List Byte) : Nat → Nat → Except Nat Nat
  | 0, _ => .error 0x205
  | fuel + 1, o =>
    let next := o + 4 + beField bs (o + 1) 3
    if bs.length < next then .error 0x205
    else if byteAt bs o % 128 = 127 then .error 0x204
    else if 128 ≤ byteAt bs o then .ok next
    else flacBody bs fuel next

/-- Frames until `want` elements stand, or, where it is 0, until the data end. -/
def flacFrames (channels bits want : Nat) : Nat → Nat → List Byte → Except Nat (List Int)
  | 0, _, _ => .ok []
  | fuel + 1, got, bs =>
    if (want ≠ 0 ∧ want ≤ got) ∨ bs.isEmpty then .ok []
    else
      match flacFrame channels bits bs with
      | .error d => .error d
      | .ok (vs, n) => (flacFrames channels bits want fuel (got + vs.length) (bs.drop n)).map (vs ++ ·)

/-- The bytes that the MD5 of STREAMINFO covers: each element in whole bytes, little-endian. -/
def flacMd5 (bits : Nat) (vs : List Int) : List Byte := md5 (vs.flatMap fun v => leBytes ((bits + 7) / 8) (BitVec.ofInt 32 v))

/-- The elements of a FLAC sample: fewer than STREAMINFO declares are cut short, and more differ from the declared size. -/
def flacValues (channels bits total : Nat) (digest : BitVec 128) (bs : List Byte) : Except Nat (List Int) :=
  match flacBody bs bs.length 4 with
  | .error d => .error d
  | .ok o =>
    match flacFrames channels bits (total * channels) bs.length 0 (bs.drop o) with
    | .error d => .error d
    | .ok vs =>
      if vs.length < total * channels then .error 0x205
      else if digest ≠ 0 ∧ BitVec.ofNat 128 (beField (flacMd5 bits vs) 0 16) ≠ digest then .error 0x206
      else if vs.length ≠ total * channels then .error 0x207
      else .ok vs

end Sys2Proof.Machine
end

