-- ==== Sys2Proof/Machine/JxlHeader.lean ====
section
/-! DEFINITION. The image header of a JPEG XL codestream, bare or in the container (R150, R153). -/

namespace Sys2Proof.Machine

/-- A reader of bits, the least significant of each byte first. -/
abbrev RdUp (α : Type) := StateT (List Bool) (Except CodedFault) α

def ru (n : Nat) : RdUp Nat := needUp n
def ruIf (c : Bool) (n : Nat) : RdUp Nat := if c then ru n else pure 0

/-- A number of one of four forms, each with its bits and its offset. -/
def ruOf (a b c d : Nat × Nat) : RdUp Nat := do
  let k ← ru 2
  let f := match k with | 0 => a | 1 => b | 2 => c | _ => d
  let v ← ru f.1
  pure (f.2 + v)

def ruEnum : RdUp Nat := ruOf (0, 0) (0, 1) (4, 2) (6, 18)

/-- Width and height by a ratio code. -/
def jxlRatio (k h : Nat) : Nat :=
  match k with
  | 1 => h
  | 2 => h * 12 / 10
  | 3 => h * 4 / 3
  | 4 => h * 3 / 2
  | 5 => h * 16 / 9
  | 6 => h * 5 / 4
  | _ => h * 2

/-- The size header: width and height. -/
def jxlSize : RdUp (Nat × Nat) := do
  let small ← ru 1
  let side : RdUp Nat := if small = 1 then (do let v ← ru 5; pure (8 * (v + 1))) else ruOf (9, 1) (13, 1) (18, 1) (30, 1)
  let h ← side
  let k ← ru 3
  let w ← if k = 0 then side else pure (jxlRatio k h)
  pure (w, h)

def jxlPreview : RdUp Unit := do
  let div8 ← ru 1
  let side : RdUp Nat := if div8 = 1 then ruOf (0, 16) (0, 32) (5, 1) (9, 33) else ruOf (6, 1) (8, 65) (10, 321) (12, 1345)
  let _ ← side
  let k ← ru 3
  if k = 0 then do
    let _ ← side
    pure ()
  else pure ()

def jxlAnimation : RdUp Unit := do
  let _ ← ruOf (0, 100) (0, 1000) (10, 1) (30, 1)
  let _ ← ruOf (0, 1) (0, 1001) (8, 1) (10, 1)
  let _ ← ruOf (0, 0) (3, 0) (16, 0) (32, 0)
  let _ ← ru 1
  pure ()

/-- Float samples, and bits per sample. -/
def jxlDepth : RdUp (Bool × Nat) := do
  let f ← ru 1
  if f = 0 then do
    let b ← ruOf (0, 8) (0, 10) (0, 12) (6, 1)
    pure (false, b)
  else do
    let b ← ruOf (0, 32) (0, 16) (0, 24) (6, 1)
    let _ ← ru 4
    pure (true, b)

/-- One extra channel. -/
def jxlExtra : RdUp JxlExtra := do
  let dflt ← ru 1
  if dflt = 1 then pure .alpha
  else do
    let kind ← ruEnum
    let _ ← jxlDepth
    let _ ← ruOf (0, 0) (0, 3) (0, 4) (3, 1)
    let name ← ruOf (0, 0) (4, 0) (5, 16) (10, 48)
    let _ ← ru (8 * name)
    if kind = 0 then do
      let _ ← ru 1
      pure .alpha
    else if kind = 2 then do
      let _ ← ru 64
      pure .other
    else if kind = 5 then do
      let _ ← ruOf (0, 1) (2, 0) (4, 3) (8, 19)
      pure .other
    else pure (if kind = 4 then .black else .other)

def jxlExtras : Nat → RdUp (List JxlExtra)
  | 0 => pure []
  | n + 1 => do
    let x ← jxlExtra
    let xs ← jxlExtras n
    pure (x :: xs)

/-- A chromaticity. -/
def jxlXy : RdUp (List Nat) := do
  let x ← ruOf (19, 0) (19, 524288) (20, 1048576) (21, 2097152)
  let y ← ruOf (19, 0) (19, 524288) (20, 1048576) (21, 2097152)
  pure [x, y]

/-- The colour encoding: its colour space, and the fields that signal it, none where none is signalled. -/
def jxlEncoding : RdUp (Nat × List Nat) := do
  let dflt ← ru 1
  if dflt = 1 then pure (0, [])
  else do
    let icc ← ru 1
    let space ← ruEnum
    if icc = 1 then pure (space, [])
    else do
      let white ← if space = 2 then pure 1 else ruEnum
      let wxy ← if white = 2 then jxlXy else pure []
      let prim ← if space = 1 ∨ space = 2 then pure 1 else ruEnum
      let pxy ← if prim = 2 then do
          let a ← jxlXy
          let b ← jxlXy
          let c ← jxlXy
          pure (a ++ b ++ c)
        else pure []
      let gamma ← ruIf (space != 2) 1
      let tf ← if space = 2 then pure 0 else if gamma = 1 then ru 24 else ruEnum
      pure (space, [space, white, prim, gamma, tf] ++ wxy ++ pxy)

/-- The size and the metadata of a codestream after its first two bytes; whether it may hold more frames. -/
def jxlImage (codestream : Nat) : RdUp (JxlHdr × Bool) := do
  let (w, h) ← jxlSize
  let dflt ← ru 1
  if dflt = 1 then pure (⟨w, h, 8, false, [], false, false, true, [], codestream⟩, false)
  else do
    let more ← ru 1
    let animated ←
      if more = 1 then do
        let _ ← ru 3
        let inner ← ru 1
        if inner = 1 then do
          let _ ← jxlSize
          pure ()
        else pure ()
        let preview ← ru 1
        if preview = 1 then jxlPreview else pure ()
        let a ← ru 1
        if a = 1 then jxlAnimation else pure ()
        pure (a == 1)
      else pure false
    let (floats, bits) ← jxlDepth
    let _ ← ru 1
    let n ← ruOf (0, 0) (0, 1) (4, 2) (12, 1)
    let extras ← jxlExtras n
    let xyb ← ru 1
    let (space, enc) ← jxlEncoding
    pure (⟨w, h, bits, space == 1, extras, floats, false, xyb == 1, enc, codestream⟩, animated)

/-- The codestream of a container: the bytes of its jxlc box or of its jxlp boxes. -/
def jxlBoxes : Nat → List Byte → Coded (List Byte)
  | 0, _ => .error .cut
  | fuel + 1, bs =>
    let short := beField bs 0 4
    let (len, h) : Nat × Nat := if short = 1 then (beField bs 8 8, 16) else if short = 0 then (bs.length, 8) else (short, 8)
    let body := (bs.take len).drop h
    if bs.isEmpty then .ok []
    else if bs.length < h ∨ bs.length < len then .error .cut
    else if len < h then .error .syntaxError
    else
      (jxlBoxes fuel (bs.drop len)).map fun rest =>
        (if startsAt bs 4 [0x6A, 0x78, 0x6C, 0x63] then body else if startsAt bs 4 [0x6A, 0x78, 0x6C, 0x70] then body.drop 4 else []) ++ rest

/-- The header of a JPEG XL image; `more` says that the codestream holds a frame beyond frame 0.
(PRESUMED 140; assumption log) -/
def jxlHeader (more : Bool) (bs : List Byte) : Except Nat JxlHdr :=
  let stream : Coded (List Byte) := if startsAt bs 0 [0xFF, 0x0A] then .ok bs else jxlBoxes bs.length bs
  match stream with
  | .error e => .error e.detail
  | .ok cs =>
    if !startsAt cs 0 [0xFF, 0x0A] then .error (if cs.length < 2 then 0x205 else 0x204)
    else
      match jxlImage cs.length (bitsUp (cs.drop 2)) with
      | .error e => .error e.detail
      | .ok ((h, animated), _) => .ok { h with animation := animated && more }

end Sys2Proof.Machine
end

