-- ==== Sys2Proof/Machine/VideoIndex.lean ====
section
/-! DEFINITION. The frame index and the parameter sets of a video sample (R154, R164): the OBU and frame headers of AV1 and
the NAL unit and slice headers of HEVC, read from its bytes. -/

namespace Sys2Proof.Machine

/-! ### Reading bits -/

/-- A reader of bits, the most significant of each byte first. -/
abbrev Rd (α : Type) := StateT (List Bool) (Except CodedFault) α

def rd (n : Nat) : Rd Nat := needDown n

/-- A bit that stands only under a condition. -/
def rdIf (c : Bool) (n : Nat) : Rd Nat := if c then rd n else pure 0

/-- The unsigned code of both standards: zeros, a one, and as many bits. -/
def rdUe : Rd Nat := fun l => (unary 0 l).bind fun (k, l) => (needDown k l).map fun (v, l) => (2 ^ k - 1 + v, l)

def failRd {α : Type} : Rd α := fun _ => .error .syntaxError

/-- The same reading, `n` times. -/
def rdTimes (n : Nat) (r : Rd Unit) : Rd Unit := (List.range n).foldl (fun a _ => do a; r) (pure ())

/-! ### AV1: the sequence header -/

/-- What a sequence header gives to the frame headers and to the frame index. -/
structure Av1Seq where
  profile : Nat
  reduced : Bool
  level : Nat
  /-- the layers of operating point 0 -/
  layers : Nat
  w : Nat
  h : Nat
  bits : Nat
  chroma : Nat
  matrix : Nat
  full : Bool
  deriving DecidableEq, Repr

/-- The colour configuration: bit depth, chroma format, matrix and range. -/
def av1Colour (profile : Nat) : Rd (Nat × Nat × Nat × Bool) := do
  let high ← rd 1
  let twelve ← rdIf (profile == 2 && high == 1) 1
  let bits := if twelve = 1 then 12 else if high = 1 then 10 else 8
  let mono ← rdIf (profile != 1) 1
  let described ← rd 1
  let codes ← if described = 1 then do
      let p ← rd 8
      let t ← rd 8
      let m ← rd 8
      pure (p, t, m)
    else pure (2, 2, 2)
  if mono = 1 then do
    let range ← rd 1
    pure (bits, 0, codes.2.2, range == 1)
  else if codes = (1, 13, 0) then do
    let _ ← rd 1
    pure (bits, 3, 0, true)
  else do
    let range ← rd 1
    let chroma ←
      if profile = 0 then pure 1
      else if profile = 1 then pure 3
      else if bits = 12 then do
        let x ← rd 1
        let y ← rdIf (x == 1) 1
        pure (if x = 0 then 3 else if y = 0 then 2 else 1)
      else pure 2
    let _ ← rdIf (chroma == 1) 2
    let _ ← rd 1
    pure (bits, chroma, codes.2.2, range == 1)

/-- One operating point after the first fields of its header: its layers and its level. -/
def av1Point (model : Option Nat) (delays : Bool) : Rd (Nat × Nat) := do
  let idc ← rd 12
  let level ← rd 5
  let _ ← rdIf (decide (7 < level)) 1
  match model with
  | none => pure ()
  | some n => do
    let here ← rd 1
    let _ ← rdIf (here == 1) (2 * n + 1)
    pure ()
  if delays then do
    let here ← rd 1
    let _ ← rdIf (here == 1) 4
    pure ()
  else pure ()
  pure (idc, level)

/-- The operating points, the first of which counts. -/
def av1Points (model : Option Nat) (delays : Bool) : Nat → Rd (Nat × Nat)
  | 0 => pure (0, 0)
  | n + 1 => do
    let p ← av1Point model delays
    let _ ← av1Points model delays n
    pure p

/-- The sequence header OBU. -/
def av1Sequence : Rd Av1Seq := do
  let profile ← rd 3
  let _ ← rd 1
  let reduced ← rd 1
  let (layers, level) ←
    if reduced = 1 then do
      let level ← rd 5
      pure (0, level)
    else do
      let timing ← rd 1
      let model ←
        if timing = 1 then do
          let _ ← rd 64
          let equal ← rd 1
          if equal = 1 then do
            let _ ← rdUe
            pure ()
          else pure ()
          let has ← rd 1
          if has = 1 then do
            let delay ← rd 5
            let _ ← rd 32
            let _ ← rd 10
            pure (some (delay + 1))
          else pure none
        else pure none
      let delays ← rd 1
      let count ← rd 5
      av1Points model (delays == 1) (count + 1)
  let wb ← rd 4
  let hb ← rd 4
  let w ← rd (wb + 1)
  let h ← rd (hb + 1)
  let ids ← rdIf (reduced == 0) 1
  let _ ← rdIf (ids == 1) 7
  let _ ← rd 3
  if reduced = 0 then do
    let _ ← rd 4
    let hint ← rd 1
    let _ ← rdIf (hint == 1) 2
    let choose ← rd 1
    let force ← if choose = 1 then pure 2 else rd 1
    if 0 < force then do
      let mv ← rd 1
      let _ ← rdIf (mv == 0) 1
      pure ()
    else pure ()
    let _ ← rdIf (hint == 1) 3
    pure ()
  else pure ()
  let _ ← rd 3
  let (bits, chroma, matrix, full) ← av1Colour profile
  let _ ← rd 1
  pure ⟨profile, reduced == 1, level, layers, w + 1, h + 1, bits, chroma, matrix, full⟩

/-- What the index takes from a frame header: a key frame, and whether a frame is shown. -/
def av1Frame (q : Av1Seq) : Rd (Bool × Bool) := do
  if q.reduced then pure (true, true)
  else do
    let existing ← rd 1
    if existing = 1 then do
      let _ ← rd 3
      pure (false, true)
    else do
      let kind ← rd 2
      let show_ ← rd 1
      pure (kind == 0, show_ == 1)

/-! ### AV1: OBUs -/

/-- An OBU: its type, its layers where it has an extension, its payload and its length. -/
structure Obu where
  kind : Nat
  layers : Option (Nat × Nat)
  payload : List Byte
  len : Nat
  deriving DecidableEq, Repr

/-- A number in groups of seven bits, the least significant first: with the bytes it takes. -/
def leb128 : Nat → Nat → Nat → List Byte → Coded (Nat × Nat)
  | 0, _, _, _ => .error .syntaxError
  | _ + 1, _, _, [] => .error .cut
  | fuel + 1, k, v, b :: bs =>
    let v := v + b.toNat % 128 * 128 ^ k
    if b.toNat < 128 then .ok (v, k + 1) else leb128 fuel (k + 1) v bs

/-- One OBU at the start of some bytes, of `given` bytes or of the size that it states. -/
def obuAt (given : Option Nat) (bs : List Byte) : Coded Obu := do
  let b := byteAt bs 0
  let ext := natBits b 2 1
  let h := 1 + ext
  if bs.length < h then .error .cut
  else if natBits b 7 1 = 1 then .error .syntaxError
  else
    let (size, k) ←
      if natBits b 1 1 = 1 then leb128 8 0 0 (bs.drop h)
      else .ok (given.getD bs.length - h, 0)
    let len := h + k + size
    if bs.length < len then .error .cut
    else if (given.map fun n => decide (n < len)).getD false then .error .syntaxError
    else
      .ok ⟨natBits b 3 4, if ext = 1 then some (natBits (byteAt bs 1) 5 3, natBits (byteAt bs 1) 3 2) else none,
        (bs.drop (h + k)).take size, given.getD len⟩

/-- The OBUs of a low-overhead stream. -/
def obuStream : Nat → List Byte → Coded (List Obu)
  | 0, _ => .error .cut
  | fuel + 1, bs =>
    if bs.isEmpty then .ok []
    else do
      let o ← obuAt none bs
      let os ← obuStream fuel (bs.drop o.len)
      .ok (o :: os)

/-- The OBUs of an Annex B stream: temporal units of frame units of OBUs, at `depth` 2, 1 and 0, each with its length. -/
def obuUnits : Nat → Nat → List Byte → Coded (List Obu)
  | 0, _, _ => .error .cut
  | fuel + 1, depth, bs =>
    if bs.isEmpty then .ok []
    else do
      let (n, k) ← leb128 8 0 0 bs
      let body := (bs.drop k).take n
      if body.length < n then .error .cut
      else
        let here ←
          match depth with
          | 0 => (obuAt (some n) body).map fun o => [o]
          | d + 1 => obuUnits fuel d body
        let rest ← obuUnits fuel depth (bs.drop (k + n))
        .ok (here ++ rest)

/-- The OBUs of a sample: a low-overhead stream begins with a temporal delimiter that states its size. -/
def obus (bs : List Byte) : Coded (List Obu) :=
  if startsAt bs 0 [0x12, 0] then obuStream (bs.length + 1) bs else obuUnits (4 * bs.length + 4) 2 bs

/-- The frame index of AV1 as far as it is built; frames stand last first. -/
structure Av1Scan where
  seq : Option Av1Seq
  first : Option Av1Seq
  /-- a sequence header stands in the temporal unit -/
  seqHere : Bool
  shown : Nat
  frames : List VideoFrame
  tileList : Bool
  /-- an OBU lies outside operating point 0 -/
  outside : Bool
  deriving DecidableEq, Repr

/-- An OBU outside the layers of operating point 0. -/
def Obu.outside (q : Option Av1Seq) (o : Obu) : Bool :=
  match q, o.layers with
  | some q, some (t, s) => q.layers != 0 && o.kind != 1 && o.kind != 2 && !(natBits q.layers t 1 == 1 && natBits q.layers (8 + s) 1 == 1)
  | _, _ => false

/-- Bytes of a frame's further OBUs. -/
def addBytes (n : Nat) (fs : List VideoFrame) : List VideoFrame :=
  match fs with
  | [] => []
  | f :: fs => { f with bytes := f.bytes + n } :: fs

/-- The index after one more OBU. -/
def av1Step (x : Av1Scan) (o : Obu) : Coded Av1Scan :=
  if o.outside x.seq then .ok { x with outside := true }
  else
    match o.kind with
    | 1 => (av1Sequence (bitsDown o.payload)).map fun (q, _) => { x with seq := some q, first := some (x.first.getD q), seqHere := true }
    | 2 => .ok { x with seqHere := false }
    | 3 | 6 =>
      match x.seq with
      | none => .error .syntaxError
      | some q =>
        (av1Frame q (bitsDown o.payload)).map fun ((key, shows), _) =>
          { x with
            frames := ⟨key, x.seqHere, if shows then some x.shown else none, false, o.len⟩ :: x.frames
            shown := x.shown + flag shows }
    | 4 | 7 => .ok { x with frames := addBytes o.len x.frames }
    | 8 => .ok { x with tileList := true }
    | _ => .ok x

/-- The header of an AV1 sample. (PRESUMED 140; assumption log) -/
def av1Header (bs : List Byte) : Coded VideoHdr := do
  let os ← obus bs
  let x ← os.foldlM av1Step ⟨none, none, false, 0, [], false, false⟩
  match x.first with
  | none => .error .syntaxError
  | some q => .ok ⟨false, q.w, q.h, q.bits, q.profile, q.level, q.chroma, x.tileList, x.outside, q.matrix, q.full, x.frames.reverse⟩

/-! ### HEVC: parameter sets -/

/-- What a sequence parameter set gives. -/
structure HevcSps where
  id : Nat
  profile : Nat
  level : Nat
  chroma : Nat
  planes : Bool
  w : Nat
  h : Nat
  bits : Nat
  pocBits : Nat
  matrix : Nat
  full : Bool
  deriving DecidableEq, Repr

/-- What a picture parameter set gives. -/
structure HevcPps where
  id : Nat
  sps : Nat
  outputFlag : Bool
  extraBits : Nat
  deriving DecidableEq, Repr

/-- profile_tier_level: the general profile and level. -/
def hevcProfile (sub : Nat) : Rd (Nat × Nat) := do
  let _ ← rd 3
  let profile ← rd 5
  let _ ← rd 80
  let level ← rd 8
  let flags ← rd (2 * sub)
  let _ ← rdIf (decide (0 < sub)) (2 * (8 - sub))
  let bits := ((List.range sub).map fun i => 88 * natBits flags (2 * (sub - 1 - i) + 1) 1 + 8 * natBits flags (2 * (sub - 1 - i)) 1).sum
  let _ ← rd bits
  pure (profile, level)

/-- scaling_list_data. -/
def hevcScaling : Rd Unit :=
  [(0, 6), (1, 6), (2, 6), (3, 2)].foldl (fun a (size, n) => do
    a
    rdTimes n do
      let coded ← rd 1
      if coded = 0 then do
        let _ ← rdUe
        pure ()
      else rdTimes (min 64 (2 ^ (4 + 2 * size)) + flag (decide (1 < size))) do
        let _ ← rdUe
        pure ()) (pure ())

/-- Entries of one short-term reference picture set that another predicts. -/
def rpsPredicted : Nat → Rd Nat
  | 0 => pure 0
  | n + 1 => do
    let used ← rd 1
    let kept ← if used = 1 then pure 1 else rd 1
    let rest ← rpsPredicted n
    pure (kept + rest)

/-- The short-term reference picture sets: `last` entries in the one before. -/
def hevcRps : Nat → Bool → Nat → Rd Unit
  | 0, _, _ => pure ()
  | n + 1, first, last => do
    let inter ← rdIf (!first) 1
    let k ←
      if inter = 1 then do
        let _ ← rd 1
        let _ ← rdUe
        rpsPredicted (last + 1)
      else do
        let neg ← rdUe
        let pos ← rdUe
        if 32 < neg + pos then failRd
        else do
          rdTimes (neg + pos) do
            let _ ← rdUe
            let _ ← rd 1
            pure ()
          pure (neg + pos)
    hevcRps n false k

/-- The matrix and the range of the video usability information. -/
def hevcVui : Rd (Nat × Bool) := do
  let aspect ← rd 1
  if aspect = 1 then do
    let idc ← rd 8
    let _ ← rdIf (idc == 255) 32
    pure ()
  else pure ()
  let scan ← rd 1
  let _ ← rdIf (scan == 1) 1
  let signal ← rd 1
  if signal = 0 then pure (2, false)
  else do
    let _ ← rd 3
    let full ← rd 1
    let described ← rd 1
    let _ ← rdIf (described == 1) 16
    let matrix ← if described = 1 then rd 8 else pure 2
    pure (matrix, full == 1)

/-- The sequence parameter set, up to the usability information that the index needs. -/
def hevcSps : Rd HevcSps := do
  let _ ← rd 4
  let sub ← rd 3
  let _ ← rd 1
  let (profile, level) ← hevcProfile sub
  let id ← rdUe
  let chroma ← rdUe
  let planes ← rdIf (chroma == 3) 1
  let w ← rdUe
  let h ← rdUe
  let window ← rd 1
  let (l, r, t, b) ← if window = 1 then do
      let l ← rdUe
      let r ← rdUe
      let t ← rdUe
      let b ← rdUe
      pure (l, r, t, b)
    else pure (0, 0, 0, 0)
  let bits ← rdUe
  let _ ← rdUe
  let poc ← rdUe
  let each ← rd 1
  rdTimes (3 * (if each = 1 then sub + 1 else 1)) do
    let _ ← rdUe
    pure ()
  rdTimes 6 do
    let _ ← rdUe
    pure ()
  let scaling ← rd 1
  if scaling = 1 then do
    let here ← rd 1
    if here = 1 then hevcScaling else pure ()
  else pure ()
  let _ ← rd 2
  let pcm ← rd 1
  if pcm = 1 then do
    let _ ← rd 8
    let _ ← rdUe
    let _ ← rdUe
    let _ ← rd 1
    pure ()
  else pure ()
  let sets ← rdUe
  if 64 < sets ∨ 12 < poc then failRd
  else do
    hevcRps sets true 0
    let long ← rd 1
    if long = 1 then do
      let n ← rdUe
      if 32 < n then failRd else rdTimes n do
        let _ ← rd (poc + 5)
        pure ()
    else pure ()
    let _ ← rd 2
    let vui ← rd 1
    let (matrix, full) ← if vui = 1 then hevcVui else pure (2, false)
    let sx := if chroma = 1 ∨ chroma = 2 then 2 else 1
    let sy := if chroma = 1 then 2 else 1
    pure ⟨id, profile, level, chroma, planes == 1, w - sx * (l + r), h - sy * (t + b), bits + 8, poc + 4, matrix, full⟩

/-- The picture parameter set. -/
def hevcPps : Rd HevcPps := do
  let id ← rdUe
  let sps ← rdUe
  let _ ← rd 1
  let out ← rd 1
  let extra ← rd 3
  pure ⟨id, sps, out == 1, extra⟩

/-! ### HEVC: NAL units and slices -/

/-- The NAL units of a byte stream, from the first start code on; none where other bytes stand before it. -/
def nalUnits : Nat → List Byte → Option (List Byte) → Option (List (List Byte))
  | 0, _, _ => none
  | fuel + 1, bs, cur =>
    let done : List (List Byte) := (cur.map fun c => (c.dropWhile (· == 0)).reverse).toList
    match bs with
    | [] => some done
    | b :: rest =>
      if startsAt bs 0 [0, 0, 1] then (nalUnits fuel (bs.drop 3) (some [])).map (done ++ ·)
      else
        match cur with
        | none => if b = 0 then nalUnits fuel rest none else none
        | some c => nalUnits fuel rest (some (b :: c))

/-- The payload of a NAL unit without its emulation prevention bytes; `zeros` stand before. -/
def unescape : Nat → List Byte → List Byte
  | _, [] => []
  | zeros, b :: bs =>
    if 2 ≤ zeros ∧ b = 3 then unescape 0 bs else b :: unescape (if b = 0 then zeros + 1 else 0) bs

/-- A picture of the index: its NAL unit type, the sequence it belongs to, its order count, whether it is output, and its
bytes. -/
structure HevcPic where
  kind : Nat
  cvs : Nat
  poc : Int
  output : Bool
  bytes : Nat
  deriving DecidableEq, Repr

/-- The frame index of HEVC as far as it is built; pictures stand last first. -/
structure HevcScan where
  spss : List HevcSps
  ppss : List HevcPps
  used : Option HevcSps
  pics : List HevcPic
  cvs : Nat
  /-- the order count of the last picture of temporal layer 0 that counts for it -/
  before : Int
  /-- the next random-access point begins a sequence -/
  fresh : Bool
  /-- the RASL pictures after the last random-access point are not output -/
  noRasl : Bool
  deriving DecidableEq, Repr

/-- What a slice segment header gives: the first of its picture, the parameter set, pic_output_flag and the order count bits. -/
def hevcSlice (x : HevcScan) (kind : Nat) : Rd (Bool × Option (HevcSps × Bool × Nat)) := do
  let first ← rd 1
  let _ ← rdIf (decide (16 ≤ kind ∧ kind ≤ 23)) 1
  let pps ← rdUe
  if first = 0 then pure (false, none)
  else
    match x.ppss.find? (·.id == pps) with
    | none => failRd
    | some p =>
      match x.spss.find? (·.id == p.sps) with
      | none => failRd
      | some q => do
        let _ ← rd p.extraBits
        let _ ← rdUe
        let out ← if p.outputFlag then rd 1 else pure 1
        let _ ← rdIf q.planes 2
        let lsb ← if kind = 19 ∨ kind = 20 then pure 0 else rd q.pocBits
        pure (true, some (q, out == 1, lsb))

/-- The order count of a picture from its bits and the count before. -/
def pictureOrder (before : Int) (width lsb : Nat) : Int :=
  let top : Int := 2 ^ width
  let pl := before % top
  let pm := before - pl
  let m := if (lsb : Int) < pl ∧ top / 2 ≤ pl - lsb then pm + top else if pl < lsb ∧ top / 2 < lsb - pl then pm - top else pm
  m + lsb

/-- The index after one more NAL unit; those of other layers are discarded (R154). -/
def hevcStep (x : HevcScan) (nal : List Byte) : Coded HevcScan :=
  let kind := natBits (byteAt nal 0) 1 6
  let layer := natBits (byteAt nal 0) 0 1 * 32 + byteAt nal 1 / 8
  let tid := byteAt nal 1 % 8
  let l := bitsDown (unescape 0 (nal.drop 2))
  if nal.length < 2 then .error .cut
  else if 128 ≤ byteAt nal 0 ∨ tid = 0 then .error .syntaxError
  else if 0 < layer then .ok x
  else if kind = 33 then (hevcSps l).map fun (q, _) => { x with spss := q :: x.spss }
  else if kind = 34 then (hevcPps l).map fun (p, _) => { x with ppss := p :: x.ppss }
  else if kind = 36 ∨ kind = 37 then .ok { x with fresh := true }
  else if 10 ≤ kind ∧ kind < 16 ∨ 21 < kind then .ok x
  else
    match hevcSlice x kind l with
    | .error e => .error e
    | .ok ((_, none), _) =>
      match x.pics with
      | [] => .error .syntaxError
      | p :: ps => .ok { x with pics := { p with bytes := p.bytes + nal.length } :: ps }
    | .ok ((_, some (q, out, lsb)), _) =>
      let irap := decide (16 ≤ kind)
      let starts := irap && (kind != 21 || x.fresh)
      let poc := if starts then (lsb : Int) else pictureOrder x.before q.pocBits lsb
      let rasl := kind == 8 || kind == 9
      let counts := tid == 1 && !(decide (6 ≤ kind ∧ kind ≤ 9)) && !(decide (kind < 16) && kind % 2 == 0)
      let noRasl := if irap then starts else x.noRasl
      let cvs := x.cvs + flag starts
      .ok { x with
        used := some (x.used.getD q)
        pics := ⟨kind, cvs, poc, out && !(rasl && noRasl), nal.length⟩ :: x.pics
        cvs := cvs
        before := if counts then poc else x.before
        fresh := false
        noRasl := noRasl }

/-- One picture is output before another. -/
def HevcPic.sooner (a b : HevcPic) : Bool := decide (a.cvs < b.cvs) || (a.cvs == b.cvs && decide (a.poc < b.poc))

/-- The header of an HEVC sample: output frames are numbered by sequence, then by order count.
(PRESUMED 140; assumption log) -/
def hevcHeader (bs : List Byte) : Coded VideoHdr :=
  match nalUnits (bs.length + 1) bs none with
  | none => .error .syntaxError
  | some ns => do
    let x ← ns.foldlM hevcStep ⟨[], [], none, [], 0, 0, true, false⟩
    match x.used with
    | none => .error .syntaxError
    | some q =>
      let pics := x.pics.reverse
      let frames := pics.map fun p =>
        VideoFrame.mk (decide (16 ≤ p.kind)) false
          (if p.output then some ((pics.filter fun o => o.output && o.sooner p).length) else none) (p.kind == 8 || p.kind == 9) p.bytes
      .ok ⟨true, q.w, q.h, q.bits, q.profile, q.level, q.chroma, false, false, q.matrix, q.full, frames⟩

/-- The frame index and the parameter sets of a video sample. -/
def videoHeader (hevc : Bool) (bs : List Byte) : Except Nat VideoHdr :=
  (if hevc then hevcHeader bs else av1Header bs).mapError CodedFault.detail

end Sys2Proof.Machine
end

