-- ==== Sys2Proof/Machine/Headers.lean ====
section
/-! DEFINITION. Payload identification and headers (R147, R150 to R156): what step 4 of R156 reads, what step 5 refuses, and
the checks of step 8 that the bytes alone show. -/

namespace Sys2Proof.Machine

/-- The header of a payload, as step 4 of R156 reads it. -/
inductive PayloadHdr where
  /-- width, height, components, sample bits, luma factors H and V, bytes from the first SOS, RGB without conversion -/
  | jpeg (w h comps bits hf vf scanBytes : Nat) (isRgb : Bool)
  /-- width, height, colour type, depth, Adam7, the tRNS values, IDAT bytes, palette (R, G, B, A) -/
  | png (w h colourType depth : Nat) (adam7 : Bool) (trns : Option (List Nat)) (idat : Nat) (palette : List (List Nat))
  | jxl (h : JxlHdr)
  | video (h : VideoHdr)
  | flac (channels rate bits total bytesAfter : Nat) (md5 : BitVec 128)
  | opus (channels preSkip granule oggBytes : Nat)
  /-- float format tag, bits, channels, rate, data chunk size, the bytes after the data chunk header -/
  | wav (float : Bool) (bits channels rate dataSize : Nat) (data : List Byte)
  deriving DecidableEq, Repr

/-- A parsed payload: its header, whether step 5 refuses it, and what step 8 will fail with. -/
structure Parsed where
  hdr : PayloadHdr
  refused : Bool
  body : Option Nat
  deriving DecidableEq, Repr

/-! ### JPEG (ISO/IEC 10918-1) -/

/-- A component of a frame header: its identifier and its factors H and V. -/
structure JpegComp where
  id : Nat
  hf : Nat
  vf : Nat
  deriving DecidableEq, Repr

/-- A frame header. -/
structure JpegSof where
  marker : Nat
  precision : Nat
  lines : Nat
  cols : Nat
  comps : List JpegComp
  deriving DecidableEq, Repr

/-- What the marker segments before the first SOS have given. -/
structure JpegAcc where
  sof : Option JpegSof
  adobe : Option Nat
  refused : Bool
  deriving DecidableEq, Repr

/-- The markers of arithmetic, lossless and hierarchical processes and DNL (R150). -/
def jpegRefused (m : Nat) : Bool :=
  [0xC3, 0xC5, 0xC6, 0xC7, 0xC9, 0xCA, 0xCB, 0xCC, 0xCD, 0xCE, 0xCF, 0xDC, 0xDE, 0xDF].contains m

/-- The segments up to the first SOS, from offset `o`: what they gave and the offset of the SOS, or what they fail with. -/
def jpegSegments (bs : List Byte) : Nat → Nat → JpegAcc → Except Nat (JpegAcc × Nat)
  | 0, _, _ => .error 0x205
  | fuel + 1, o, acc =>
    let m := byteAt bs (o + 1)
    let len := beField bs (o + 2) 2
    if bs.length < o + 2 then .error 0x205
    else if byteAt bs o ≠ 0xFF then .error 0x204
    else if m = 0xFF then jpegSegments bs fuel (o + 1) acc
    else if m = 0xDA then .ok (acc, o)
    else if m = 0 ∨ m = 0xC8 ∨ (0xD0 ≤ m ∧ m ≤ 0xD9) then .error 0x204
    else if bs.length < o + 4 then .error 0x205
    else if len < 2 then .error 0x204
    else if bs.length < o + 2 + len then .error 0x205
    else
      let next := o + 2 + len
      let isSof := decide (0xC0 ≤ m ∧ m ≤ 0xCF ∧ m ≠ 0xC4 ∧ m ≠ 0xCC)
      let acc := { acc with refused := acc.refused || jpegRefused m }
      if isSof then
        let n := byteAt bs (o + 9)
        if acc.sof.isSome ∨ len < 8 + 3 * n then .error 0x204
        else
          let comps := (List.range n).map fun i : Nat =>
            JpegComp.mk (byteAt bs (o + 10 + 3 * i)) (byteAt bs (o + 11 + 3 * i) / 16) (byteAt bs (o + 11 + 3 * i) % 16)
          jpegSegments bs fuel next
            { acc with sof := some ⟨m, byteAt bs (o + 4), beField bs (o + 5) 2, beField bs (o + 7) 2, comps⟩ }
      else if m = 0xEE ∧ startsAt bs (o + 4) [0x41, 0x64, 0x6F, 0x62, 0x65] ∧ 14 ≤ len then
        jpegSegments bs fuel next { acc with adobe := some (byteAt bs (o + 15)) }
      else jpegSegments bs fuel next acc

/-- A DNL marker stands between the first SOS and EOI. -/
def jpegDnl (bs : List Byte) : Nat → Nat → Bool
  | 0, _ => false
  | fuel + 1, o =>
    let m := byteAt bs (o + 1)
    if bs.length < o + 2 then false
    else if byteAt bs o ≠ 0xFF ∨ m = 0 ∨ m = 0xFF ∨ (0xD0 ≤ m ∧ m ≤ 0xD7) then jpegDnl bs fuel (o + 1)
    else if m = 0xDC then true
    else if m = 0xD9 then false
    else jpegDnl bs fuel (o + 2 + max 2 (beField bs (o + 2) 2))

def parseJpeg (bs : List Byte) : Except Nat Parsed :=
  match jpegSegments bs bs.length 2 ⟨none, none, false⟩ with
  | .error d => .error d
  | .ok (acc, o) =>
    match acc.sof with
    | none => .error 0x204
    | some ⟨m, p, lines, cols, comps⟩ =>
      let (h, v) := ((comps.head?).map fun c => (c.hf, c.vf)).getD (1, 1)
      let broken := comps.isEmpty || cols == 0 || (m == 0xC0 && p != 8) || (m == 0xC1 && p != 8 && p != 12) ||
        (m == 0xC2 && p != 8 && p != 12)
      let sampling := comps.length == 3 && !((h == 1 || h == 2) && (v == 1 || v == 2) && comps.tail.all fun c => c.hf == 1 && c.vf == 1)
      let refused := acc.refused || lines == 0 || (m == 0xC2 && p == 12) || (comps.length != 1 && comps.length != 3) || sampling
      let isRgb := acc.adobe == some 0 || comps.map (·.id) == [0x52, 0x47, 0x42]
      if broken then .error 0x204
      else
        let (hf, vf) := if comps.length = 1 then (1, 1) else (h, v)
        .ok ⟨.jpeg cols lines comps.length p hf vf (bs.length - o) isRgb, refused,
          if jpegDnl bs bs.length o then some 0x203 else none⟩

/-! ### PNG (ISO/IEC 15948) -/

/-- A chunk: its type, where its data stand, and their length. -/
structure PngChunk where
  kind : Nat
  start : Nat
  len : Nat
  deriving DecidableEq, Repr

/-- The chunks up to IEND, from offset `o`, walked by their lengths. -/
def pngChunks (bs : List Byte) : Nat → Nat → Except Nat (List PngChunk)
  | 0, _ => .error 0x205
  | fuel + 1, o =>
    let n := beField bs o 4
    let c : PngChunk := ⟨beField bs (o + 4) 4, o + 8, n⟩
    if bs.length < o + 8 then .error 0x205
    else if 2 ^ 31 ≤ n then .error 0x204
    else if bs.length < o + 12 + n then .error 0x205
    else if c.kind = 0x49454E44 then .ok [c]
    else
      match pngChunks bs fuel (o + 12 + n) with
      | .error d => .error d
      | .ok cs => .ok (c :: cs)

/-- The chunk's CRC is right. -/
def PngChunk.crcOk (bs : List Byte) (c : PngChunk) : Bool :=
  (crc32 ((bs.drop (c.start - 4)).take (c.len + 4))).toNat == beField bs (c.start + c.len) 4

def pngIhdr : Nat := 0x49484452
def pngPlte : Nat := 0x504C5445
def pngIdat : Nat := 0x49444154
def pngIend : Nat := 0x49454E44
def pngTrns : Nat := 0x74524E53

/-- An ancillary chunk: bit 5 of its first letter is set. -/
def PngChunk.ancillary (c : PngChunk) : Bool := natBits c.kind 29 1 == 1

/-- The colour types and depths that the standard allows. -/
def pngDepthOk (ct depth : Nat) : Bool :=
  match ct with
  | 0 => [1, 2, 4, 8, 16].contains depth
  | 3 => [1, 2, 4, 8].contains depth
  | 2 | 4 | 6 => depth == 8 || depth == 16
  | _ => false

/-- The IDAT chunks stand together. -/
def idatsTogether (cs : List PngChunk) : Bool :=
  ((cs.dropWhile (·.kind != pngIdat)).dropWhile (·.kind == pngIdat)).all (·.kind != pngIdat)

def parsePng (bs : List Byte) : Except Nat Parsed :=
  match pngChunks bs bs.length 8 with
  | .error d => .error d
  | .ok cs =>
    match cs with
    | [] => .error 0x204
    | ih :: rest =>
      let w := beField bs ih.start 4
      let h := beField bs (ih.start + 4) 4
      let depth := byteAt bs (ih.start + 8)
      let ct := byteAt bs (ih.start + 9)
      let lace := byteAt bs (ih.start + 12)
      let idat := ((rest.filter (·.kind == pngIdat)).map (·.len)).sum
      let plte := rest.find? (·.kind == pngPlte)
      let trns := rest.find? fun c => c.kind == pngTrns && c.crcOk bs
      let entries := (plte.map fun c => c.len / 3).getD 0
      let alphas := (trns.map fun c => (List.range c.len).map fun i => byteAt bs (c.start + i)).getD []
      let palette := (plte.map fun c => (List.range entries).map fun i =>
        [byteAt bs (c.start + 3 * i), byteAt bs (c.start + 3 * i + 1), byteAt bs (c.start + 3 * i + 2), alphas.getD i 255]).getD []
      let keys := trns.map fun c => (List.range (c.len / 2)).map fun i => beField bs (c.start + 2 * i) 2
      let broken := ih.kind != pngIhdr || ih.len != 13 || w == 0 || h == 0 || !pngDepthOk ct depth ||
        byteAt bs (ih.start + 10) != 0 || byteAt bs (ih.start + 11) != 0 || decide (1 < lace) || rest.any (·.kind == pngIhdr) ||
        !rest.any (·.kind == pngIdat) || !idatsTogether rest || (ct == 3 && plte.isNone) ||
        (plte.map fun c => c.len % 3 != 0 || decide (256 < entries) || c.len == 0).getD false ||
        (trns.map fun c => decide (4 ≤ ct) || (ct == 0 && c.len != 2) || (ct == 2 && c.len != 6) ||
          (ct == 3 && decide (entries < c.len))).getD false
      let refused := rest.any fun c =>
        (!c.ancillary && !([pngPlte, pngIdat, pngIend].contains c.kind)) ||
          ([0x6163544C, 0x6663544C, 0x66644154].contains c.kind && c.crcOk bs)
      let bad := rest.any fun c => [pngPlte, pngIdat, pngIend].contains c.kind && !c.crcOk bs
      if ih.kind = pngIhdr ∧ !ih.crcOk bs then .error 0x206
      else if broken then .error 0x204
      else .ok ⟨.png w h ct depth (lace == 1) keys idat palette, refused, if bad then some 0x206 else none⟩

/-! ### Audio: FLAC, Opus in Ogg, WAV -/

def parseFlac (bs : List Byte) : Except Nat Parsed :=
  let v := beField bs 18 8
  let rate := v / 2 ^ 44
  let bits := v / 2 ^ 36 % 32 + 1
  if bs.length < 42 then .error 0x205
  else if byteAt bs 4 % 128 ≠ 0 ∨ beField bs 5 3 ≠ 34 ∨ rate = 0 ∨ bits < 4 then .error 0x204
  else .ok ⟨.flac (v / 2 ^ 41 % 8 + 1) rate bits (v % 2 ^ 36) (bs.length - 42) (BitVec.ofNat 128 (beField bs 26 16)), decide (24 < bits), none⟩

/-- The CRC of an Ogg page: polynomial 0x04C1_1DB7, not reflected, over the page with its CRC field zero. -/
def oggCrcOk (page : List Byte) : Bool :=
  (page.take 22 ++ [0, 0, 0, 0] ++ page.drop 26).foldl (crcFeed 32 0x04C11DB7 false) 0 == byteField page 22 4

/-- An Ogg page: its granule position, its payload, and whether its CRC is right. -/
structure OggPage where
  granule : Nat
  payload : List Byte
  crcOk : Bool
  deriving DecidableEq, Repr

def oggPages : Nat → List Byte → Except Nat (List OggPage)
  | 0, _ => .error 0x205
  | fuel + 1, bs =>
    if bs.isEmpty then .ok []
    else
      let n := byteAt bs 26
      let len := (((bs.drop 27).take n).map fun (b : Byte) => b.toNat).sum
      if bs.length < 27 then .error 0x205
      else if !startsAt bs 0 [0x4F, 0x67, 0x67, 0x53, 0] then .error 0x204
      else if bs.length < 27 + n + len then .error 0x205
      else
        match oggPages fuel (bs.drop (27 + n + len)) with
        | .error d => .error d
        | .ok ps => .ok (⟨byteField bs 6 8, (bs.drop (27 + n)).take len, oggCrcOk (bs.take (27 + n + len))⟩ :: ps)

def opusHead : List Nat := [0x4F, 0x70, 0x75, 0x73, 0x48, 0x65, 0x61, 0x64]

def parseOpus (bs : List Byte) : Except Nat Parsed :=
  match oggPages bs.length bs with
  | .error d => .error d
  | .ok ps =>
    let head := (ps.head?.map (·.payload)).getD []
    let ch := byteAt head 9
    let family := byteAt head 18
    let granule := (((ps.filter (·.granule != 2 ^ 64 - 1)).getLast?).map (·.granule)).getD 0
    let body := if ps.any (!·.crcOk) then some 0x206 else none
    if !startsAt head 0 opusHead ∨ head.length < 19 ∨ ch = 0 ∨ 16 ≤ byteAt head 8 ∨ (family = 0 ∧ 2 < ch) then .error 0x204
    else .ok ⟨.opus ch (byteField head 10 2) granule ((ps.map (·.payload.length)).sum), decide (1 < family), body⟩

/-- The chunks of a WAV from offset `o`, up to the data chunk: the fmt chunk and the data chunk, as offset and length. -/
def wavChunks (bs : List Byte) : Nat → Nat → Option (Nat × Nat) → Except Nat ((Nat × Nat) × (Nat × Nat))
  | 0, _, _ => .error 0x205
  | fuel + 1, o, fmt =>
    let n := byteField bs (o + 4) 4
    if bs.length < o + 8 then .error 0x205
    else if startsAt bs o [0x64, 0x61, 0x74, 0x61] then
      match fmt with
      | none => .error 0x204
      | some f => .ok (f, (o + 8, n))
    else if bs.length < o + 8 + n then .error 0x205
    else
      wavChunks bs fuel (o + 8 + (n + 1) / 2 * 2) (if startsAt bs o [0x66, 0x6D, 0x74, 0x20] then some (o + 8, n) else fmt)

/-- The last 14 bytes of the subformats of WAVE_FORMAT_EXTENSIBLE. -/
def wavGuid : List Nat := [0, 0, 0, 0, 0x10, 0, 0x80, 0, 0, 0xAA, 0, 0x38, 0x9B, 0x71]

def parseWav (bs : List Byte) : Except Nat Parsed :=
  match wavChunks bs bs.length 12 none with
  | .error d => .error d
  | .ok ((f, flen), (d, dlen)) =>
    let tag := byteField bs f 2
    let ch := byteField bs (f + 2) 2
    let rate := byteField bs (f + 4) 4
    let bits := byteField bs (f + 14) 2
    let sub := if tag = 0xFFFE then (if 40 ≤ flen ∧ startsAt bs (f + 26) wavGuid then byteField bs (f + 24) 2 else 0) else tag
    if flen < 16 ∨ ch = 0 ∨ rate = 0 ∨ bits = 0 then .error 0x204
    else
      let known := (sub == 1 && [8, 16, 24, 32].contains bits) || (sub == 3 && bits == 32)
      .ok ⟨.wav (sub == 3) bits ch rate dlen ((bs.drop d).take dlen), !known, none⟩

/-! ### JPEG XL and video -/

/-- What step 5 refuses of a JPEG XL image (R150). -/
def jxlRefused (h : JxlHdr) : Bool := h.floats || h.animation || h.extras.contains .black || decide (16 < h.bits)

/-- What step 5 refuses of a video stream (R154): the extensions of HEVC have profiles of their own. -/
def videoRefused (h : VideoHdr) : Bool :=
  (h.bits != 8 && h.bits != 10) || decide (1 < h.chroma) ||
    (if h.hevc then !([1, 2, 3].contains h.profile) || decide (186 < h.level)
     else h.profile != 0 || h.largeScale || h.otherPoint)

/-! ### Identification and the header (R147, R156 steps 3 and 4) -/

/-- The payload's FORMAT by its first bytes (R147). -/
def identifyFormat (b : List Byte) : Option Nat :=
  if startsAt b 0 [0xFF, 0xD8, 0xFF] then some 1
  else if startsAt b 0 [0x89, 0x50, 0x4E, 0x47, 0x0D, 0x0A, 0x1A, 0x0A] then some 2
  else if startsAt b 0 [0xFF, 0x0A] || startsAt b 0 [0, 0, 0, 0x0C, 0x4A, 0x58, 0x4C, 0x20, 0x0D, 0x0A, 0x87, 0x0A] then some 3
  else if startsAt b 0 [0x66, 0x4C, 0x61, 0x43] then some 6
  else if startsAt b 0 [0x4F, 0x67, 0x67, 0x53] && startsAt b (27 + byteAt b 26) opusHead then some 7
  else if startsAt b 0 [0x52, 0x49, 0x46, 0x46] && startsAt b 8 [0x57, 0x41, 0x56, 0x45] then some 8
  else none

/-- Step 4 of R156 for a payload of a FORMAT: one that does not begin as its format does breaks its standard. `more` says that a
JPEG XL codestream holds a frame beyond frame 0. (PRESUMED 140; assumption log) -/
def parsePayload (fmt : Nat) (bs : List Byte) (more : Bool) : Except Nat Parsed :=
  let read (p : Except Nat Parsed) : Except Nat Parsed := if identifyFormat bs = some fmt then p else .error 0x204
  match fmt with
  | 1 => read (parseJpeg bs)
  | 2 => read (parsePng bs)
  | 3 => read ((jxlHeader more bs).map fun h => ⟨.jxl h, jxlRefused h, none⟩)
  | 6 => read (parseFlac bs)
  | 7 => read (parseOpus bs)
  | 8 => read (parseWav bs)
  | f =>
    match videoHeader (f == 5) bs with
    | .error d => .error d
    | .ok h => if 0 < h.w ∧ 0 < h.h then .ok ⟨.video h, videoRefused h, none⟩ else .error 0x204

end Sys2Proof.Machine
end

