-- ==== Sys2Proof/Machine/JpegData.lean ====
section
/-! DEFINITION. The entropy-coded data of a JPEG, sequential and progressive (R150, R151): quantised coefficients by
component. -/

namespace Sys2Proof.Machine

/-- Where each coefficient of the zigzag order stands in its block, row by row. -/
def zigzag : List Nat :=
  [0, 1, 8, 16, 9, 2, 3, 10, 17, 24, 32, 25, 18, 11, 4, 5, 12, 19, 26, 33, 40, 48, 41, 34, 27, 20, 13, 6, 7, 14, 21, 28] ++
  [35, 42, 49, 56, 57, 50, 43, 36, 29, 22, 15, 23, 30, 37, 44, 51, 58, 59, 52, 45, 38, 31, 39, 46, 53, 60, 61, 54, 47, 55, 62, 63]

/-- A list of 64 in zigzag order, row by row. -/
def unzigzag (l : List Int) : List Int := (List.range 64).map fun i => l.getD (zigzag.findIdx (· == i)) 0

/-- A component: its factors, its block columns and rows as the MCUs pad them and as a scan of it alone counts them, its
quantisation table once a scan has begun it, and its blocks in zigzag order. -/
structure JpegPlane where
  id : Nat
  hf : Nat
  vf : Nat
  tq : Nat
  cols : Nat
  rows : Nat
  ownCols : Nat
  ownRows : Nat
  quant : Option (List Int)
  blocks : Array (List Int)
  deriving DecidableEq, Repr

/-- What the segments so far have set. -/
structure JpegState where
  quants : List (Nat × List Int)
  /-- class and number of a Huffman table, with its code -/
  huffs : List ((Nat × Nat) × Huff)
  restart : Nat
  progressive : Bool
  /-- MCUs in a row and in a column -/
  mcus : Nat × Nat
  planes : List JpegPlane
  deriving DecidableEq, Repr

/-- The coefficients that one scan carries: first and last, and the bit positions before and after it. -/
structure JpegBand where
  first : Nat
  last : Nat
  high : Nat
  low : Nat
  deriving DecidableEq, Repr

/-- A value of `n` additional bits. -/
def extendBits (n v : Nat) : Int := if n = 0 then 0 else if v < 2 ^ (n - 1) then (v : Int) - 2 ^ n + 1 else v

/-! ### Blocks -/

/-- The coefficients of a band from place `k` on: `run` is the end-of-band run begun before. -/
def acFirst (h : Huff) (last low : Nat) (seq : Bool) : Nat → Nat → List Int → List Bool → Coded (List Int × Nat × List Bool)
  | 0, _, b, l => .ok (b, 0, l)
  | fuel + 1, k, b, l =>
    if last < k then .ok (b, 0, l)
    else do
      let (rs, l) ← h.decode l
      let r := rs / 16
      let n := rs % 16
      if n = 0 then
        if r = 15 then acFirst h last low seq fuel (k + 16) b l
        else if seq then (if r = 0 then .ok (b, 0, l) else .error .syntaxError)
        else (needDown r l).map fun (v, l) => (b, 2 ^ r + v - 1, l)
      else
        let (v, l) ← needDown n l
        if last < k + r then .error .syntaxError
        else acFirst h last low seq fuel (k + r + 1) (b.set (k + r) (extendBits n v * 2 ^ low)) l

/-- A nonzero coefficient takes one correction bit. -/
def refineOne (low : Nat) (c : Int) (l : List Bool) : Coded (Int × List Bool) := do
  let (v, l) ← needDown 1 l
  .ok (if v = 1 ∧ c.natAbs / 2 ^ low % 2 = 0 then (if 0 ≤ c then c + 2 ^ low else c - 2 ^ low) else c, l)

/-- The coefficients refined up to the zero after `r` zeros, which is the first of those left; those done stand last first. -/
def refineTo (low : Nat) : List Int → Nat → List Int → List Bool → Coded (List Int × List Int × List Bool)
  | [], _, acc, l => .ok (acc, [], l)
  | c :: cs, r, acc, l =>
    if c ≠ 0 then do
      let (d, l) ← refineOne low c l
      refineTo low cs r (d :: acc) l
    else if r = 0 then .ok (acc, c :: cs, l)
    else refineTo low cs (r - 1) (c :: acc) l

/-- The coefficients of a band refined, and the end-of-band run that begins in it. -/
def acRefine (h : Huff) (low : Nat) : Nat → List Int → List Int → List Bool → Coded (List Int × Nat × List Bool)
  | 0, _, _, _ => .error .cut
  | fuel + 1, band, acc, l =>
    if band.isEmpty then .ok (acc.reverse, 0, l)
    else do
      let (rs, l) ← h.decode l
      let r := rs / 16
      let n := rs % 16
      if 1 < n then .error .syntaxError
      else if n = 0 ∧ r < 15 then
        let (v, l) ← needDown r l
        let (acc, _, l) ← refineTo low band 64 acc l
        .ok (acc.reverse, 2 ^ r + v - 1, l)
      else
        let (sign, l) ← needDown n l
        let (acc, rest, l) ← refineTo low band r acc l
        match rest with
        | [] => if n = 0 then .ok (acc.reverse, 0, l) else .error .syntaxError
        | _ :: rest => acRefine h low fuel rest ((if n = 0 then 0 else if sign = 1 then 2 ^ low else -2 ^ low) :: acc) l

/-- What the blocks of a scan carry on: the DC predictions by component and the end-of-band run. -/
structure JpegRun where
  planes : List JpegPlane
  preds : List Int
  run : Nat
  deriving DecidableEq, Repr

/-- One block of a scan. -/
def jpegBlockData (st : JpegState) (band : JpegBand) (tabs : Nat × Nat) (plane index : Nat) (x : JpegRun) (l : List Bool) :
    Coded (JpegRun × List Bool) := do
  let blank : List Int := List.replicate 64 0
  let b := ((x.planes[plane]?).bind fun p => p.blocks[index]?).getD blank
  let huff (cls n : Nat) : Coded Huff :=
    match st.huffs.find? (·.1 == (cls, n)) with | some h => .ok h.2 | none => .error .syntaxError
  let (b, preds, l) ←
    if 0 < band.first then .ok (b, x.preds, l)
    else if 0 < band.high then (needDown 1 l).map fun (v, l) => (b.set 0 (b.headD 0 + v * 2 ^ band.low), x.preds, l)
    else
      (huff 0 tabs.1).bind fun h => (h.decode l).bind fun (n, l) => (needDown n l).bind fun (v, l) =>
        let p := x.preds.getD plane 0 + extendBits n v
        if 16 < n then .error .syntaxError else .ok (b.set 0 (p * 2 ^ band.low), x.preds.set plane p, l)
  let k := max 1 band.first
  let (b, run, l) ←
    if band.last = 0 then .ok (b, 0, l)
    else if 0 < x.run then
      if 0 < band.high then
        (refineTo band.low ((b.drop k).take (band.last + 1 - k)) 64 [] l).map fun (acc, _, l) =>
          (b.take k ++ acc.reverse ++ b.drop (band.last + 1), x.run - 1, l)
      else .ok (b, x.run - 1, l)
    else (huff 1 tabs.2).bind fun h =>
      if 0 < band.high then
        (acRefine h band.low 65 ((b.drop k).take (band.last + 1 - k)) [] l).map fun (c, run, l) =>
          (b.take k ++ c ++ b.drop (band.last + 1), run, l)
      else acFirst h band.last band.low (!st.progressive) 65 k b l
  .ok (⟨updAt x.planes plane fun p => { p with blocks := p.blocks.setIfInBounds index b }, preds, run⟩, l)

/-- Blocks in turn: the component of the scan, and the block. -/
def jpegBlocks (st : JpegState) (band : JpegBand) (tabs : List (Nat × (Nat × Nat))) :
    List (Nat × Nat) → JpegRun → List Bool → Coded (JpegRun × List Bool)
  | [], x, l => .ok (x, l)
  | (p, i) :: bs, x, l => do
    let (y, l) ← jpegBlockData st band (((tabs.find? (·.1 == p)).map (·.2)).getD (0, 0)) p i x l
    jpegBlocks st band tabs bs y l

/-! ### Scans -/

/-- The entropy-coded bytes from an offset, without their stuffing: those up to each restart marker, and where the next
other marker stands, or the end of the data. -/
def entropyBytes (bs : List Byte) : Nat → Nat → List Byte → List (Option Nat × List Byte) × Nat
  | 0, o, acc => ([(none, acc.reverse)], o)
  | fuel + 1, o, acc =>
    let m := byteAt bs (o + 1)
    if bs.length ≤ o ∨ (bs.length ≤ o + 1 ∧ byteAt bs o = 0xFF) then ([(none, acc.reverse)], bs.length)
    else if byteAt bs o ≠ 0xFF then entropyBytes bs fuel (o + 1) (bs.getD o 0 :: acc)
    else if m = 0 then entropyBytes bs fuel (o + 2) (0xFF :: acc)
    else if m = 0xFF then entropyBytes bs fuel (o + 1) acc
    else if 0xD0 ≤ m ∧ m ≤ 0xD7 then
      let (rest, e) := entropyBytes bs fuel (o + 2) []
      ((some (m - 0xD0), acc.reverse) :: rest, e)
    else ([(none, acc.reverse)], o)

/-- The blocks of each MCU of a scan, in order. -/
def scanMcus (st : JpegState) (comps : List Nat) : List (List (Nat × Nat)) :=
  match comps with
  | [c] =>
    match st.planes[c]? with
    | none => []
    | some p => (List.range (p.ownCols * p.ownRows)).map fun i => [(c, i / p.ownCols * p.cols + i % p.ownCols)]
  | _ =>
    (List.range (st.mcus.1 * st.mcus.2)).map fun m => comps.flatMap fun c =>
      match st.planes[c]? with
      | none => []
      | some p =>
        (List.range (p.hf * p.vf)).map fun j => (c, (m / st.mcus.1 * p.vf + j / p.hf) * p.cols + m % st.mcus.1 * p.hf + j % p.hf)

/-- The restart intervals of a scan: each holds the MCUs that the interval asks for, and ends with the next restart marker. -/
def scanParts (st : JpegState) (band : JpegBand) (tabs : List (Nat × (Nat × Nat))) (ended : Bool) :
    Nat → List (List (Nat × Nat)) → List (Option Nat × List Byte) → List JpegPlane → Coded (List JpegPlane)
  | _, [], [], ps => .ok ps
  | _, _ :: _, [], _ => .error (if ended then .cut else .syntaxError)
  | _, [], _ :: _, _ => .error .syntaxError
  | k, g :: gs, (mark, bs) :: rest, ps => do
    let (x, l) ← (jpegBlocks st band tabs g ⟨ps, List.replicate ps.length 0, 0⟩ (bitsDown bs)).mapError fun e =>
      if rest.isEmpty && ended then e else .syntaxError
    if 8 ≤ l.length ∨ 0 < x.run ∨ (mark.map (· != k % 8)).getD false then .error .syntaxError
    else scanParts st band tabs ended (k + 1) gs rest x.planes

/-- Groups of `n` MCUs, each as its blocks. -/
def mcuGroups (n : Nat) : Nat → List (List (Nat × Nat)) → List (List (Nat × Nat))
  | 0, _ => []
  | fuel + 1, l => if l.isEmpty then [] else (l.take n).flatten :: mcuGroups n fuel (l.drop n)

/-- A scan whose header stands at `o`: the state after it, and where the next marker stands. -/
def jpegScan (st : JpegState) (bs : List Byte) (o : Nat) : Coded (JpegState × Nat) :=
  let len := beField bs o 2
  let n := byteAt bs (o + 2)
  let spec := (List.range n).map fun i => (byteAt bs (o + 3 + 2 * i), byteAt bs (o + 4 + 2 * i))
  let comps := spec.map fun (id, _) => st.planes.findIdx (·.id == id)
  let at_ := o + 3 + 2 * n
  let band : JpegBand := ⟨byteAt bs at_, byteAt bs (at_ + 1), byteAt bs (at_ + 2) / 16, byteAt bs (at_ + 2) % 16⟩
  let tabs := comps.zip (spec.map fun (_, t) => (t / 16, t % 16))
  let bandOk := if st.progressive then
      decide (band.low ≤ 13) && (if band.first = 0 then band.last == 0 else decide (band.first ≤ band.last ∧ band.last ≤ 63) && n == 1)
    else band == ⟨0, 63, 0, 0⟩
  if bs.length < o + len then .error .cut
  else if len ≠ 6 + 2 * n ∨ n = 0 ∨ 4 < n ∨ !comps.all (fun c => decide (c < st.planes.length)) ∨ comps.eraseDups.length ≠ n ∨ !bandOk then
    .error .syntaxError
  else
    let planes := st.planes.zipIdx.map fun (p, i) =>
      if comps.contains i ∧ p.quant.isNone then { p with quant := (st.quants.find? (·.1 == p.tq)).map (·.2) } else p
    if comps.any fun c => ((planes[c]?).bind (·.quant)).isNone then .error .syntaxError
    else
      let (parts, e) := entropyBytes bs (bs.length + 1) (o + len) []
      let ms := scanMcus st comps
      let groups := mcuGroups (if st.restart = 0 then ms.length else st.restart) ms.length ms
      (scanParts { st with planes := planes } band tabs (decide (bs.length ≤ e)) 0 groups parts planes).map fun ps =>
        ({ st with planes := ps }, e)

/-! ### Segments -/

/-- The tables of a DQT segment, each 64 values in zigzag order. -/
def quantTables : Nat → List Byte → Option (List (Nat × List Int))
  | 0, bs => if bs.isEmpty then some [] else none
  | fuel + 1, bs =>
    let w := byteAt bs 0 / 16 + 1
    if bs.isEmpty then some []
    else if 2 < w ∨ 3 < byteAt bs 0 % 16 ∨ bs.length < 1 + 64 * w then none
    else
      (quantTables fuel (bs.drop (1 + 64 * w))).map
        (((byteAt bs 0 % 16, (List.range 64).map fun i => ((beField bs (1 + w * i) w : Nat) : Int))) :: ·)

/-- The tables of a DHT segment. -/
def huffTables : Nat → List Byte → Option (List ((Nat × Nat) × Huff))
  | 0, bs => if bs.isEmpty then some [] else none
  | fuel + 1, bs =>
    let counts := (List.range 16).map fun i => byteAt bs (1 + i)
    let n := counts.sum
    let h : Huff := ⟨counts, ((bs.drop 17).take n).map (·.toNat)⟩
    if bs.isEmpty then some []
    else if 1 < byteAt bs 0 / 16 ∨ 3 < byteAt bs 0 % 16 ∨ bs.length < 17 + n ∨ 256 < n ∨ h.left.isNone then none
    else (huffTables fuel (bs.drop (17 + n))).map (((byteAt bs 0 / 16, byteAt bs 0 % 16), h) :: ·)

/-- The frame that a SOF segment at `o` declares. -/
def jpegFrame (st : JpegState) (bs : List Byte) (o : Nat) (progressive : Bool) : JpegState :=
  let h := beField bs (o + 3) 2
  let w := beField bs (o + 5) 2
  let n := byteAt bs (o + 7)
  let raw := (List.range n).map fun i => (byteAt bs (o + 8 + 3 * i), byteAt bs (o + 9 + 3 * i), byteAt bs (o + 10 + 3 * i))
  let facs := raw.map fun (id, f, t) => if n = 1 then (id, 1, 1, t) else (id, f / 16, f % 16, t)
  let hmax := max 1 ((facs.map fun (_, a, _, _) => a).foldl max 0)
  let vmax := max 1 ((facs.map fun (_, _, b, _) => b).foldl max 0)
  let mx := (w + 8 * hmax - 1) / (8 * hmax)
  let my := (h + 8 * vmax - 1) / (8 * vmax)
  let up (a b c : Nat) : Nat := ((a * b + c - 1) / c + 7) / 8
  { st with
    progressive := progressive, mcus := (mx, my)
    planes := facs.map fun (id, a, b, t) =>
      ⟨id, a, b, t, mx * a, my * b, up w a hmax, up h b vmax, none, (List.replicate (mx * a * (my * b)) (List.replicate 64 0)).toArray⟩ }

/-- The segments and scans from offset `o` on, up to EOI or the end of the data; a segment that the end cuts short ends them too
(R151). -/
def jpegData (bs : List Byte) : Nat → Nat → JpegState → Coded JpegState
  | 0, _, st => .ok st
  | fuel + 1, o, st =>
    let m := byteAt bs (o + 1)
    let len := beField bs (o + 2) 2
    let body := (bs.drop (o + 4)).take (len - 2)
    let next := o + 2 + len
    if bs.length < o + 2 then .ok st
    else if byteAt bs o ≠ 0xFF then .error .syntaxError
    else if m = 0xFF then jpegData bs fuel (o + 1) st
    else if m = 0xD9 then .ok st
    else if m = 0 ∨ (0xD0 ≤ m ∧ m ≤ 0xD8) then .error .syntaxError
    else if bs.length < next then (if m = 0xDA then .error .cut else .ok st)
    else if len < 2 then .error .syntaxError
    else if m = 0xDA then
      match jpegScan st bs (o + 2) with
      | .error e => .error e
      | .ok (st, e) => jpegData bs fuel e st
    else if m = 0xDB then
      match quantTables 4 body with
      | none => .error .syntaxError
      | some qs => jpegData bs fuel next { st with quants := qs.reverse ++ st.quants }
    else if m = 0xC4 then
      match huffTables 8 body with
      | none => .error .syntaxError
      | some hs => jpegData bs fuel next { st with huffs := hs.reverse ++ st.huffs }
    else if m = 0xDD then
      if len ≠ 4 then .error .syntaxError else jpegData bs fuel next { st with restart := beField bs (o + 4) 2 }
    else if m = 0xC0 ∨ m = 0xC1 ∨ m = 0xC2 then
      if st.planes.isEmpty then jpegData bs fuel next (jpegFrame st bs (o + 2) (m == 0xC2)) else .error .syntaxError
    else jpegData bs fuel next st

/-- The coefficients of a JPEG: per component its block columns, its quantisation table and its blocks, row by row; a
component that no scan has carried has missing MCUs. (PRESUMED 140; assumption log) -/
def jpegCoefs (bs : List Byte) : Except Nat (List (Nat × List Int × List (List Int))) :=
  match jpegData bs bs.length 2 ⟨[], [], 0, false, (0, 0), []⟩ with
  | .error .syntaxError => .error 0x204
  | .error .cut => .error 0x205
  | .ok st =>
    if st.planes.any (·.quant.isNone) then .error 0x205
    else .ok (st.planes.map fun p => (p.cols, unzigzag (p.quant.getD []), p.blocks.toList.map unzigzag))

end Sys2Proof.Machine
end

