-- ==== Sys2Proof/Machine/DecodeForm.lean ====
section
/-! DEFINITION. Decode Engines (chapter 6): the limits, bounds and details of R156 to R159, the integer arithmetic of JPEG
(R151), the samples of PNG and JPEG XL (R152, R153), video clips and their reconstruct sets (R163 to R167), audio (R155) and
the decoded form (R149). -/

namespace Sys2Proof.Machine

/-! ### JPEG (R151) -/

/-- C(1) to C(7). -/
def jpegCos (k : Nat) : Int := [0, 4017, 3784, 3406, 2896, 2276, 1567, 799].getD k 0

/-- The matrix M[x][u]. -/
def jpegM (x u : Nat) : Int :=
  let k := (2 * x + 1) * u % 32
  if k = 0 then (if u = 0 then 2896 else 0)
  else if k = 8 ∨ k = 24 then 0
  else if k < 8 then jpegCos k
  else if k < 16 then -jpegCos (16 - k)
  else if k < 24 then -jpegCos (k - 16)
  else jpegCos (32 - k)

def sumInt (n : Nat) (f : Nat → Int) : Int := ((List.range n).map f).sum

/-- The row pass of one block of dequantised coefficients. -/
def jpegRows (f : List Int) : List Int :=
  (List.range 64).map fun i => (sumInt 8 (fun u => jpegM (i % 8) u * f.getD (i / 8 * 8 + u) 0) + 1024) / 2048

/-- The column pass. -/
def jpegCols (t : List Int) : List Int :=
  (List.range 64).map fun i => (sumInt 8 (fun v => jpegM (i / 8) v * t.getD (v * 8 + i % 8) 0) + 16384) / 32768

def clampTo (lo hi v : Int) : Int := max lo (min hi v)

/-- One block of samples: dequantise, transform, offset, clamp. -/
def jpegBlock (bits : Nat) (q f : List Int) : List Int :=
  (jpegCols (jpegRows (List.zipWith (· * ·) f q))).map fun v => clampTo 0 (2 ^ bits - 1) (v + 2 ^ (bits - 1))

/-- A component as a sample function of column and row: block columns, then its blocks. -/
def planeAt (cols : Nat) (blocks : List (List Int)) (x y : Nat) : Int :=
  (blocks.getD (y / 8 * cols + x / 8) []).getD (y % 8 * 8 + x % 8) 0

/-- Near and far sample positions of centred upsampling by 2, the edge sample repeated (R151, step 5).
(DEDUCED 27; assumption log) -/
def nearFar (n x : Nat) : Nat × Nat :=
  (min (x / 2) (n - 1), if x % 2 = 0 then x / 2 - 1 else min (x / 2 + 1) (n - 1))

/-- A chroma sample on the luma grid. (DEDUCED 27; assumption log) -/
def upsample (hf vf wc hc : Nat) (plane : Nat → Nat → Int) (x y : Nat) : Int :=
  let (xn, xf) := nearFar wc x
  let (yn, yf) := nearFar hc y
  match hf, vf with
  | 2, 1 => (3 * plane xn y + plane xf y + 2) / 4
  | 1, 2 => (3 * plane x yn + plane x yf + 2) / 4
  | 2, 2 =>
    let v (c : Nat) : Int := 3 * plane c yn + plane c yf
    (3 * v xn + v xf + 8) / 16
  | _, _ => plane x y

/-- Conversion of one pixel to R, G, B (R151, step 6). -/
def jpegRgb (bits : Nat) (y cb cr : Int) : List Int :=
  let o : Int := 2 ^ (bits - 1)
  let b := cb - o
  let r := cr - o
  [y + (91881 * r + 32768) / 65536, y + (-22554 * b - 46802 * r + 32768) / 65536, y + (116130 * b + 32768) / 65536].map
    (clampTo 0 (2 ^ bits - 1))

/-- The element values of a JPEG image, pixel by pixel. -/
def jpegPixels (w h bits hf vf : Nat) (isRgb : Bool) (comps : List (Nat × List Int × List (List Int))) : List Int :=
  let planes := comps.map fun c => (c.1, c.2.2.map (jpegBlock bits c.2.1))
  let at_ (i x y : Nat) : Int := match planes[i]? with | some p => planeAt p.1 p.2 x y | none => 0
  let wc := (w + hf - 1) / hf
  let hc := (h + vf - 1) / vf
  (List.range (w * h)).flatMap fun i =>
    let x := i % w
    let y := i / w
    if comps.length = 1 then [at_ 0 x y]
    else
      let cb := upsample hf vf wc hc (at_ 1) x y
      let cr := upsample hf vf wc hc (at_ 2) x y
      if isRgb then [at_ 0 x y, cb, cr] else jpegRgb bits (at_ 0 x y) cb cr

/-- A component's blocks cover its samples, and each block and quantisation table is whole: every MCU was decoded. -/
def jpegWhole (w h : Nat) (c : Nat × List Int × List (List Int)) : Bool :=
  decide ((w + 7) / 8 ≤ c.1) && decide ((h + 7) / 8 * c.1 ≤ c.2.2.length) && c.2.1.length == 64 && c.2.2.all (·.length == 64)

/-- The elements of a JPEG image. A stream that ends before every MCU is decoded is cut short, with or without EOI (R151). -/
def jpegValues (w h comps bits hf vf : Nat) (isRgb : Bool) (cs : List (Nat × List Int × List (List Int))) :
    Except Nat (List Int) :=
  let whole := cs.zipIdx.all fun (c, i) =>
    if i = 0 then jpegWhole w h c else jpegWhole ((w + hf - 1) / hf) ((h + vf - 1) / vf) c
  if cs.length = comps ∧ whole then .ok (jpegPixels w h bits hf vf isRgb cs) else .error 0x205

/-! ### PNG (R152) -/

/-- Bit replication of a value of 1, 2 or 4 bits to 8. (DEDUCED 26; assumption log) -/
def widen8 (depth v : Nat) : Nat :=
  if depth = 1 then v * 255 else if depth = 2 then v * 85 else if depth = 4 then v * 17 else v

/-- Channels stored per pixel. -/
def pngStored (colourType : Nat) : Nat := match colourType with | 0 => 1 | 2 => 3 | 3 => 1 | 4 => 2 | _ => 4

def pngChannels (colourType : Nat) (trns : Bool) : Nat :=
  match colourType with
  | 0 => if trns then 2 else 1
  | 2 => if trns then 4 else 3
  | 3 => if trns then 4 else 3
  | 4 => 2
  | _ => 4

/-- The output elements of one PNG pixel from its stored channel values; an index beyond the palette gives none. -/
def pngPixel (colourType depth : Nat) (trns : Option (List Nat)) (palette : List (List Nat)) (px : List Nat) :
    Option (List Nat) :=
  if colourType = 3 then (palette[px.headD 0]?).map fun e => e.take (pngChannels 3 trns.isSome)
  else
    let alpha : List Nat :=
      match trns with
      | some key => [if px = key.map (· % 2 ^ depth) then 0 else if depth = 16 then 65535 else 255]
      | none => []
    some (px.map (widen8 depth) ++ alpha)

/-- The Paeth predictor of ISO/IEC 15948. -/
def paeth (a b c : Nat) : Nat :=
  let p : Int := (a : Int) + b - c
  let pa := (p - a).natAbs
  let pb := (p - b).natAbs
  let pc := (p - c).natAbs
  if pa ≤ pb ∧ pa ≤ pc then a else if pb ≤ pc then b else c

/-- A row's bytes with the filter of type `ft` undone: `bpp` bytes to the pixel, `up` the row above. -/
def unfilterRow (ft bpp : Nat) (up : Array Nat) (raw : List Byte) : Array Nat :=
  raw.foldl (fun row x =>
    let i := row.size
    let a := if bpp ≤ i then row.getD (i - bpp) 0 else 0
    let b := up.getD i 0
    let c := if bpp ≤ i then up.getD (i - bpp) 0 else 0
    let add := match ft with | 0 => 0 | 1 => a | 2 => b | 3 => (a + b) / 2 | _ => paeth a b c
    row.push ((x.toNat + add) % 256)) #[]

/-- The rows of one pass, each a filter type and `stride` bytes; a filter type above 4 breaks the standard. -/
def unfilter (bpp stride : Nat) : Nat → Array Nat → List Byte → Option (List (Array Nat))
  | 0, _, _ => some []
  | rows + 1, up, bs =>
    let ft := byteAt bs 0
    if 4 < ft then none
    else
      let row := unfilterRow ft bpp up ((bs.drop 1).take stride)
      (unfilter bpp stride rows row (bs.drop (1 + stride))).map (row :: ·)

/-- Sample `i` of a row at a depth, the leftmost sample of a byte in its high bits. -/
def rowSample (depth : Nat) (row : Array Nat) (i : Nat) : Nat :=
  if depth = 16 then 256 * row.getD (2 * i) 0 + row.getD (2 * i + 1) 0
  else natBits (row.getD (i * depth / 8) 0) (8 - depth - i * depth % 8) depth

/-- The passes of an image: first column and step, first row and step. -/
def pngPasses (adam7 : Bool) : List (Nat × Nat × Nat × Nat) :=
  if adam7 then [(0, 8, 0, 8), (4, 8, 0, 8), (0, 4, 4, 8), (2, 4, 0, 4), (0, 2, 2, 4), (1, 2, 0, 2), (0, 1, 1, 2)]
  else [(0, 1, 0, 1)]

/-- Columns and rows of a pass. -/
def passSize (w h : Nat) (q : Nat × Nat × Nat × Nat) : Nat × Nat :=
  ((w + q.2.1 - 1 - q.1) / q.2.1, (h + q.2.2.2 - 1 - q.2.2.1) / q.2.2.2)

/-- Bytes of a pass's rows without their filter types, and of the whole pass. -/
def passStride (ch depth pw : Nat) : Nat := (pw * ch * depth + 7) / 8
def passBytes (ch depth : Nat) (q : Nat × Nat) : Nat := if q.1 = 0 then 0 else q.2 * (1 + passStride ch depth q.1)

/-- D_s of a PNG (R158). -/
def pngBytes (w h ct depth : Nat) (adam7 : Bool) : Nat :=
  ((pngPasses adam7).map fun q => passBytes (pngStored ct) depth (passSize w h q)).sum

/-- Every pass, unfiltered in turn. -/
def pngRows (ch depth w h : Nat) : List (Nat × Nat × Nat × Nat) → List Byte → Option (List (List (Array Nat)))
  | [], _ => some []
  | q :: qs, bs =>
    let (pw, ph) := passSize w h q
    let rows := if pw = 0 then 0 else ph
    match unfilter (max 1 (ch * depth / 8)) (passStride ch depth pw) rows #[] bs with
    | none => none
    | some r => (pngRows ch depth w h qs (bs.drop (passBytes ch depth (pw, ph)))).map (r :: ·)

/-- The inflated IDAT data of a PNG: a zlib stream in the IDAT chunks, whose Adler-32 ISO/IEC 15948 lets a decoder check.
(DESIGN CHOICE 189; assumption log) -/
def pngInflated (bs : List Byte) : CodedPart :=
  match pngChunks bs bs.length 8 with
  | .error _ => ⟨0, [], true, false⟩
  | .ok cs =>
    let z := (cs.filter (·.kind == pngIdat)).flatMap fun c => (bs.drop c.start).take c.len
    if z.length < 2 then ⟨0, [], true, false⟩
    else if byteAt z 0 % 16 ≠ 8 ∨ 7 < byteAt z 0 / 16 ∨ (256 * byteAt z 0 + byteAt z 1) % 31 ≠ 0 ∨ natBits (byteAt z 1) 5 1 = 1 then
      ⟨0, [], false, true⟩
    else inflate (z.drop 2)

/-- The elements of a PNG image from its inflated IDAT data (R152): more or fewer bytes than D_s differ from the declared
size. -/
def pngValues (w h ct depth : Nat) (adam7 : Bool) (trns : Option (List Nat)) (palette : List (List Nat)) (p : CodedPart) :
    Except Nat (List Int) :=
  let ch := pngStored ct
  let passes := pngPasses adam7
  if !p.ok then .error 0x204
  else if !p.ended ∧ p.out.length < pngBytes w h ct depth adam7 then .error 0x205
  else if p.out.length ≠ pngBytes w h ct depth adam7 then .error 0x207
  else
    match pngRows ch depth w h passes p.out with
    | none => .error 0x204
    | some rows =>
      let passes := passes.zip rows
      let pixel (k : Nat) : Option (List Nat) :=
        let x := k % w
        let y := k / w
        match passes.find? fun (q, _) => x % q.2.1 == q.1 && y % q.2.2.2 == q.2.2.1 with
        | none => none
        | some (q, r) =>
          let row := r.getD ((y - q.2.2.1) / q.2.2.2) #[]
          let i := (x - q.1) / q.2.1
          pngPixel ct depth trns palette ((List.range ch).map fun c => rowSample depth row (i * ch + c))
      match (List.range (w * h)).mapM pixel with
      | none => .error 0x204
      | some px => .ok (px.flatten.map Int.ofNat)

/-! ### JPEG XL (R153) -/

/-- Consecutive groups of `n` elements. -/
def chunksOf {α : Type} (n : Nat) : Nat → List α → List (List α)
  | 0, _ => []
  | k + 1, l => l.take n :: chunksOf n k (l.drop n)

/-- A binary32 sample to the nearest integer, ties to even, clamped to `bits` bits. Of a NaN the manual states no result.
(DESIGN CHOICE 166; assumption log) -/
def realSample (bits : Nat) (v : Word) : Int :=
  let neg := v.getLsbD 31
  let x := fieldOf v 23 8
  let m := fieldOf v 0 23
  let top : Int := 2 ^ bits - 1
  if x = 255 then (if m ≠ 0 then clampTo 0 top Config.jxlNan else if neg then 0 else top)
  else
    let sig := if x = 0 then m else 2 ^ 23 + m
    let e := max 1 x
    let mag :=
      if 150 ≤ e then sig * 2 ^ (e - 150)
      else
        let q := sig / 2 ^ (150 - e)
        let r := sig % 2 ^ (150 - e)
        let half := 2 ^ (149 - e)
        if half < r ∨ (r = half ∧ q % 2 = 1) then q + 1 else q
    clampTo 0 top (if neg then -(mag : Int) else mag)

/-- Channels of the colour encoding, and of the output: the first alpha channel becomes channel A. -/
def jxlColours (h : JxlHdr) : Nat := if h.grey then 1 else 3
def jxlChannels (h : JxlHdr) : Nat := jxlColours h + flag (h.extras.contains .alpha)

/-- The colour samples of a pixel: XYB is converted to the signalled colour encoding, or to sRGB, by the formulas of ISO/IEC
18181-1, whose results the manual leaves to that standard. (DESIGN CHOICE 188; assumption log) -/
def jxlColour (h : JxlHdr) (px : List Word) : List Word :=
  if h.xyb then (List.range (jxlColours h)).map (Config.jxlFromXyb h.encoding px) else px

/-- Colour channels of the codestream: XYB has three. -/
def jxlCoded (h : JxlHdr) : Nat := if h.xyb then 3 else jxlColours h

/-- The elements of a JPEG XL image; extra channels other than alpha are dropped. -/
def jxlValues (h : JxlHdr) (vs : List Word) : Except Nat (List Int) :=
  let all := jxlCoded h + h.extras.length
  if vs.length ≠ h.w * h.h * all then .error 0x205
  else
    .ok ((chunksOf all (h.w * h.h) vs).flatMap fun px =>
      (jxlColour h (px.take (jxlCoded h)) ++
        (match h.extras.idxOf? .alpha with
          | some i => (px.drop (jxlCoded h + i)).take 1
          | none => [])).map (realSample h.bits))

/-! ### Audio (R155) -/

/-- A WAV element. -/
def wavValue (float : Bool) (bits : Nat) (b : List Byte) : Int :=
  let v : Int := byteField b 0 (bits / 8)
  let signed := if v < 2 ^ (bits - 1) then v else v - 2 ^ bits
  if float then v else if bits = 8 then (v - 128) * 256 else if bits = 24 then signed * 256 else signed

/-- Whole frames of a WAV's data chunk: a partial last frame gives no elements. (DESIGN CHOICE 167; assumption log) -/
def wavFrames (bits ch size : Nat) : Nat := size / max 1 (ch * (bits / 8))

/-- Output frames of an Opus sample: those before the final granule position, without the pre-skip (R155). -/
def opusFrames (preSkip granule : Nat) : Nat := granule - preSkip

/-! ### Video clips (R163 to R167) -/

/-- The region of a video frame that is output: left, top, width, height (R166, R167). -/
abbrev Region := Nat × Nat × Nat × Nat

/-- A crop window rounded out to even coordinates (R166). -/
def evenRegion (x y w h : Nat) : Region :=
  let x0 := x / 2 * 2
  let y0 := y / 2 * 2
  (x0, y0, (x + w + 1) / 2 * 2 - x0, (y + h + 1) / 2 * 2 - y0)

/-- F, the output frames of a sample, by its frame index. -/
def outputCount (fs : List VideoFrame) : Nat := (fs.filter (·.shows.isSome)).length

/-- A random-access point (R164). -/
def isRap (hevc : Bool) (f : VideoFrame) : Bool := f.key && (hevc || (f.seqBefore && f.shows.isSome))

/-- span (R163). -/
def clipSpan (p : DecodeParams) : Nat := (p.clipLen - 1) * p.clipStride + 1

/-- The first clip frame f0 (R163). -/
def clipStart (w : Nat) (frames span : Nat) : Nat := w * (frames - span + 1) / 2 ^ 32

/-- The start point: the last random-access point, in decode order, that outputs frame f0 or an earlier one. A sample that
has none starts at its first frame. (DESIGN CHOICE 168; assumption log) -/
def startPoint (h : VideoHdr) (f0 : Nat) : Nat :=
  (((List.range h.frames.length).filter fun i =>
    match h.frames[i]? with
    | some f => isRap h.hevc f && (f.shows.map fun n => decide (n ≤ f0)).getD false
    | none => false).getLast?).getD 0

/-- The frames from the start point to the one that outputs the last clip frame, in decode order (R164). -/
def clipFrames (p : DecodeParams) (w0 : Nat) (h : VideoHdr) : List VideoFrame :=
  let f0 := clipStart w0 (outputCount h.frames) (clipSpan p)
  let last := (h.frames.findIdx? (·.shows == some (f0 + clipSpan p - 1))).getD (h.frames.length - 1)
  let from_ := startPoint h f0
  (h.frames.drop from_).take (last + 1 - from_)

/-- The frames decoded: the RASL pictures of the starting CRA are skipped. -/
def decodedFrames (h : VideoHdr) (fs : List VideoFrame) : List VideoFrame :=
  let lead := fs.take 1 ++ (fs.drop 1).takeWhile fun f => !isRap h.hevc f
  if h.hevc then lead.filter (!·.rasl) ++ fs.drop lead.length else fs

/-- Elements of one plane set of a video frame: luma and, unless monochrome, two chroma planes. -/
def frameElems (mono : Bool) (w h : Nat) : Nat := w * h + (if mono then 0 else 2 * ((w + 1) / 2 * ((h + 1) / 2)))

/-- One plane cut to a region; a column or row beyond the edge takes the edge sample. -/
def planeCut (vs : Array Int) (base pw ph x y rw rh : Nat) : List Int :=
  (List.range (rw * rh)).map fun k =>
    vs.getD (base + min (y + k / rw) (ph - 1) * pw + min (x + k % rw) (pw - 1)) 0

/-- A frame cut to the output region. -/
def frameCut (mono : Bool) (fw fh : Nat) (roi : Region) (vs : List Int) : List Int :=
  let all := vs.toArray
  let (x, y, rw, rh) := roi
  let cw := (fw + 1) / 2
  let ch := (fh + 1) / 2
  planeCut all 0 fw fh x y rw rh ++
    if mono then []
    else
      planeCut all (fw * fh) cw ch (x / 2) (y / 2) ((rw + 1) / 2) ((rh + 1) / 2) ++
        planeCut all (fw * fh + cw * ch) cw ch (x / 2) (y / 2) ((rw + 1) / 2) ((rh + 1) / 2)

/-- The numbers of the clip's frames. -/
def clipNumbers (p : DecodeParams) (w0 : Nat) (h : VideoHdr) : List Nat :=
  let f0 := clipStart w0 (outputCount h.frames) (clipSpan p)
  (List.range p.clipLen).map fun k => f0 + k * p.clipStride

/-- A frame as it is output: film grain is synthesised only for AV1 with GRAIN = 1 (R154). -/
def shownValues (p : DecodeParams) (h : VideoHdr) (f : ShownFrame) : List Int :=
  if p.grain = 1 ∧ !h.hevc then f.grained.getD f.values else f.values

/-- FLAGS[1]: grain was synthesised in a frame of the clip. (DESIGN CHOICE 169; assumption log) -/
def clipGrain (p : DecodeParams) (w0 : Nat) (h : VideoHdr) (fs : List ShownFrame) : Bool :=
  p.grain == 1 && !h.hevc && fs.any fun f => (clipNumbers p w0 h).contains f.num && f.grained.isSome

/-- The elements of a clip: every frame of the decoded span must have been decoded, shown by the clip or not (R160). -/
def clipValues (p : DecodeParams) (roi : Option Region) (w0 : Nat) (h : VideoHdr) (fs : List ShownFrame) :
    Except Nat (List Int) :=
  let span := (decodedFrames h (clipFrames p w0 h)).filterMap (·.shows)
  let mono := h.chroma == 0
  let whole (n : Nat) : Bool := fs.any fun f => f.num == n && (shownValues p h f).length == frameElems mono h.w h.h
  if !(span ++ clipNumbers p w0 h).all whole then .error 0x205
  else
    .ok ((clipNumbers p w0 h).flatMap fun n =>
      match fs.find? (·.num == n) with
      | some f => frameCut mono h.w h.h (roi.getD (0, 0, h.w, h.h)) (shownValues p h f)
      | none => [])

/-! ### Reconstruct sets (R166) -/

/-- A list without repeats. -/
def addAll (l more : List Nat) : List Nat := more.foldl (fun l n => if l.contains n then l else l ++ [n]) l

/-- What a table of a frame's units lists for some of them. -/
def tableOf {α : Type} (t : List (Nat × List α)) (us : List Nat) : List α :=
  (t.filter fun q => us.contains q.1).flatMap (·.2)

/-- The units that hold a pixel of a region. -/
def regionUnits (u : FrameUnits) (roi : Region) : List Nat :=
  let (x, y, w, h) := roi
  let size := max 1 u.size
  (List.range (u.cols * u.rows)).filter fun k =>
    let ux := k % u.cols * size
    let uy := k / u.cols * size
    decide (ux < x + w ∧ x < ux + size ∧ uy < y + h ∧ y < uy + size)

/-- The eight neighbours of a unit within the frame. -/
def neighbours (u : FrameUnits) (k : Nat) : List Nat :=
  let near (a b : Nat) : Bool := decide (a ≤ b + 1 ∧ b ≤ a + 1)
  (List.range (u.cols * u.rows)).filter fun j => near (j % u.cols) (k % u.cols) && near (j / u.cols) (k / u.cols) && j != k

/-- Closed under the intra dependencies of a frame. -/
def intraClosure (u : FrameUnits) : Nat → List Nat → List Nat
  | 0, us => us
  | fuel + 1, us => intraClosure u fuel (addAll us (tableOf u.intra us))

/-- The reconstruct sets of the frames at places `n - 1` down to 0 of the decoded span: `reads` names the units of earlier
frames that the sets found so far read. -/
def reconstructSets (roi : Region) (clip : List Nat) (fs : List (VideoFrame × FrameUnits)) :
    Nat → List (Nat × Nat) → List (FrameUnits × List Nat)
  | 0, _ => []
  | n + 1, reads =>
    match fs[n]? with
    | none => reconstructSets roi clip fs n reads
    | some (f, u) =>
      let shown := (f.shows.map clip.contains).getD false
      let filtered := addAll (if shown then regionUnits u roi else []) ((reads.filter (·.1 == n)).map (·.2))
      let set := intraClosure u (u.cols * u.rows) (addAll filtered (filtered.flatMap (neighbours u)))
      (u, set) :: reconstructSets roi clip fs n (reads ++ tableOf u.refs set)

/-! ### Details (R159) -/

/-- FORMAT codes of R146. -/
def hdrFormat : PayloadHdr → Nat
  | .jpeg .. => 1
  | .png .. => 2
  | .jxl .. => 3
  | .video h => if h.hevc then 5 else 4
  | .flac .. => 6
  | .opus .. => 7
  | .wav .. => 8

/-- The number of data elements, and the bytes of each. -/
def formSize (p : DecodeParams) (roi : Option Region) (h : PayloadHdr) : Nat × Nat :=
  match h with
  | .jpeg w ht comps bits _ _ _ _ => (w * ht * comps, if bits = 8 then 1 else 2)
  | .png w ht ct depth _ trns _ _ => (w * ht * pngChannels ct trns.isSome, if depth = 16 then 2 else 1)
  | .jxl h => (h.w * h.h * jxlChannels h, if h.bits ≤ 8 then 1 else 2)
  | .video h =>
    let (_, _, rw, rh) := roi.getD (0, 0, h.w, h.h)
    (p.clipLen * frameElems (h.chroma == 0) rw rh, if h.bits = 8 then 1 else 2)
  | .flac ch _ bits total _ _ => (total * ch, if bits ≤ 16 then 2 else 4)
  | .opus ch pre granule _ => (opusFrames pre granule * ch, 2)
  | .wav _ bits ch _ size _ => (wavFrames bits ch size * ch, if bits ≤ 16 then 2 else 4)

/-- The limits of R157 beyond the decoded size; VIDEO_LIMIT before CLIP_SHORT. (DESIGN CHOICE 165; assumption log) -/
def limitDetail (p : DecodeParams) (h : PayloadHdr) : Option Nat :=
  let image (w ht : Nat) : Option Nat :=
    if 32768 < w ∨ 32768 < ht ∨ 2 ^ 28 < w * ht then some 0x401 else none
  match h with
  | .jpeg w ht _ _ _ _ _ _ => image w ht
  | .png w ht _ _ _ _ _ _ => image w ht
  | .jxl h => image h.w h.h
  | .video h =>
    if 8192 < h.w ∨ 8192 < h.h ∨ 35389440 < h.w * h.h then some 0x403
    else if outputCount h.frames < clipSpan p then some 0x407
    else none
  | .flac ch rate _ _ _ _ => if 8 < ch ∨ 192000 < rate then some 0x404 else none
  | .opus ch _ _ _ => if 8 < ch then some 0x404 else none
  | .wav _ _ ch rate _ _ => if 8 < ch ∨ 192000 < rate then some 0x404 else none

/-- Twice D_s, C_s and X of a payload (R158). (DESIGN CHOICE 168; assumption log) -/
def boundOf (p : DecodeParams) (w0 : Nat) (h : PayloadHdr) : Nat × Nat × Nat :=
  match h with
  | .jpeg w ht comps bits _ _ scan _ => (2 * (w * ht * comps * (if bits = 8 then 1 else 2)), scan, 1024)
  | .png w ht ct depth lace _ idat _ => (2 * pngBytes w ht ct depth lace, idat, 1032)
  | .jxl h => (2 * (h.w * h.h * jxlChannels h * (if h.bits ≤ 8 then 1 else 2)), h.codestream, 65536)
  | .video h =>
    let fs := clipFrames p w0 h
    (3 * (h.w * h.h * (if h.bits = 8 then 1 else 2) * fs.length), (fs.map (·.bytes)).sum, 262144)
  | .flac ch _ bits total after _ => (2 * (total * ch * (if bits ≤ 16 then 2 else 4)), after, 4096)
  | .opus ch _ granule ogg => (2 * (granule * ch * 2), ogg, 8192)
  | .wav _ _ _ _ size data => (2 * size, data.length, 1)

/-- Step 6 of R156, with the working buffers counted in the decoded size (R162): the limit of a frame or of the audio, then
DECODED_SIZE, then the bound. WAV data shorter than their chunk are SIZE_MISMATCH, as the last sentence of R158 names them.
(DEDUCED 25, DESIGN CHOICE 165; assumption log) -/
def headLimits (p : DecodeParams) (roi : Option Region) (w0 : Nat) (working : List Nat) (h : PayloadHdr) : Option Nat :=
  let (n, bytes) := formSize p roi h
  let (d, c, x) := boundOf p w0 h
  (limitDetail p h).orElse fun _ =>
    if 2 ^ 30 < n * bytes + 32 + working.sum then some 0x402
    else if 2 * (c * x) < d then (match h with | .wav .. => some 0x207 | _ => some 0x301)
    else none

/-- Steps 3 to 5 of R156: what the payload is, its headers, and what the engine refuses. -/
def headPayload (p : DecodeParams) (bs : List Byte) (more : Bool) : Except Nat Parsed :=
  match (if p.format = 0 then identifyFormat bs else some p.format) with
  | none => .error 0x202
  | some f =>
    match parsePayload f bs more with
    | .error d => .error d
    | .ok q => if q.refused then .error 0x203 else .ok q

/-- The element values in the order of R149, or what the data fail with; `w0` is the word that places a clip. A decoder that
found data of another codec found a stream that breaks its standard. (DESIGN CHOICE 5; assumption log) -/
def formValues (p : DecodeParams) (roi : Option Region) (w0 : Nat) (h : PayloadHdr) (bs : List Byte) (c : PayloadData) :
    Except Nat (List Int) :=
  match h, c with
  | .jpeg w ht comps bits hf vf _ isRgb, _ =>
    match jpegCoefs bs with
    | .error d => .error d
    | .ok cs => jpegValues w ht comps bits hf vf isRgb cs
  | .png w ht ct depth lace trns _ palette, _ => pngValues w ht ct depth lace trns palette (pngInflated bs)
  | .flac ch _ bits total _ md5, _ => flacValues ch bits total md5 bs
  | .jxl h, .reals vs => jxlValues h vs
  | .video h, .frames fs => clipValues p roi w0 h fs
  | .opus ch pre granule _, .values vs =>
    let out := (vs.drop (pre * ch)).take (opusFrames pre granule * ch)
    if out.length = opusFrames pre granule * ch then .ok out else .error 0x205
  | .wav float bits ch _ size data, _ =>
    .ok ((chunksOf (bits / 8) (wavFrames bits ch size * ch) data).map (wavValue float bits))
  | _, _ => .error 0x204

/-- The payload's decoder is an operand: JPEG XL, video and Opus. -/
def codecOperand (h : PayloadHdr) : Bool :=
  match h with
  | .jxl _ | .video _ | .opus .. => true
  | .jpeg .. | .png .. | .flac .. | .wav .. => false

/-- Step 8 of R156 on the payload's bytes: the elements, or the first of UNSUPPORTED, SYNTAX, TRUNCATED, CHECKSUM and
SIZE_MISMATCH that the data meet. (DESIGN CHOICE 165; assumption log) -/
def payloadValues (p : DecodeParams) (roi : Option Region) (w0 : Nat) (q : Parsed) (bs : List Byte) (i : DecodeInput) :
    Except Nat (List Int) :=
  let vs := formValues p roi w0 q.hdr bs i.content
  let given := codecOperand q.hdr
  let fails (d : Nat) : Bool := q.body == some d || (match vs with | .error e => e == d | .ok _ => false)
  match firstDetail [(fails 0x203, 0x203), ((given && !i.syntaxOk) || fails 0x204, 0x204), ((given && i.truncated) || fails 0x205, 0x205),
      (fails 0x206, 0x206)] with
  | some d => .error d
  | none => vs

/-- The descriptor fields KIND, TYPE, CHANNELS, WIDTH, HEIGHT, FRAMES, BITS, FLAGS, MATRIX, RANGE, ROI_X, ROI_Y. -/
def formFields (p : DecodeParams) (roi : Option Region) (grained : Bool) (h : PayloadHdr) : List Nat :=
  match h with
  | .jpeg w ht comps bits _ _ _ _ => [1, if bits = 8 then 0 else 1, comps, w, ht, 1, bits, 0, 0, 0, 0, 0]
  | .png w ht ct depth _ trns _ _ =>
    [1, if depth = 16 then 1 else 0, pngChannels ct trns.isSome, w, ht, 1, if depth = 16 then 16 else 8, 0, 0, 0, 0, 0]
  | .jxl h => [1, if h.bits ≤ 8 then 0 else 1, jxlChannels h, h.w, h.h, 1, h.bits, 0, 0, 0, 0, 0]
  | .video h =>
    let (x, y, rw, rh) := roi.getD (0, 0, h.w, h.h)
    [2, if h.bits = 8 then 0 else 1, if h.chroma = 0 then 1 else 3, rw, rh, p.clipLen, h.bits, flag roi.isSome + 2 * flag grained,
     h.matrix, flag h.full, x, y]
  | .flac ch rate bits total _ _ => [3, if bits ≤ 16 then 2 else 3, ch, total, rate, 0, bits, 0, 0, 0, 0, 0]
  | .opus ch pre granule _ => [3, 2, ch, opusFrames pre granule, 48000, 0, 16, 0, 0, 0, 0, 0]
  | .wav float bits ch rate size _ =>
    [3, if float then 4 else if bits ≤ 16 then 2 else 3, ch, wavFrames bits ch size, rate, 0, bits, 0, 0, 0, 0, 0]

/-- The 32 bytes of R149. -/
def descriptor (fields : List Nat) (fmt dataBytes : Nat) : List Byte :=
  let f (i : Nat) : Nat := fields.getD i 0
  natBytes 1 (f 0) ++ natBytes 1 (f 1) ++ natBytes 1 (f 2) ++ natBytes 1 fmt ++ natBytes 4 (f 3) ++ natBytes 4 (f 4) ++
    natBytes 2 (f 5) ++ natBytes 1 (f 6) ++ natBytes 1 (f 7) ++ natBytes 1 (f 8) ++ natBytes 1 (f 9) ++ natBytes 2 0 ++
    natBytes 4 (f 10) ++ natBytes 4 (f 11) ++ natBytes 4 dataBytes

/-- A signed or unsigned element of `n` bytes, little-endian two's complement. -/
def elemBytes (n : Nat) (v : Int) : List Byte := leBytes n (BitVec.ofInt (8 * n) v)

/-- The decoded form of a payload whose elements were decoded. (DESIGN CHOICE 5; assumption log) -/
def decodeForm (p : DecodeParams) (roi : Option Region) (w0 : Nat) (h : PayloadHdr) (c : PayloadData) (vs : List Int) : Form :=
  let (n, bytes) := formSize p roi h
  let grained := match h, c with | .video h, .frames fs => clipGrain p w0 h fs | _, _ => false
  ⟨descriptor (formFields p roi grained h) (hdrFormat h) (n * bytes), vs.flatMap (elemBytes bytes)⟩

/-- The draw of step 7 of R156: working buffers and the decoded form. -/
def decodeDraws (p : DecodeParams) (roi : Option Region) (h : PayloadHdr) (working : List Nat) : List Nat :=
  let (n, bytes) := formSize p roi h
  working ++ [n * bytes + 32]

/-- `HW_DEC_EVT` bits a detail sets (R171). -/
def decodeEvent (detail : Nat) : Word :=
  if detail = 0x301 then 2 else if detail / 256 = 4 then 4 else if detail / 256 = 2 then 1 else 0

end Sys2Proof.Machine
end

