-- ==== Sys2Proof/Machine/Transform.lean ====
section
/-! DEFINITION. Transform Engines (chapter 7): the chain of R176 in exact integer arithmetic. -/

namespace Sys2Proof.Machine

/-- A working image or frame: width, height, channels, and its elements row by row, channels interleaved. -/
structure Img where
  w : Nat
  h : Nat
  ch : Nat
  data : List Int
  deriving DecidableEq, Repr

def Img.at (i : Img) (x y c : Nat) : Int := i.data.getD ((y * i.w + x) * i.ch + c) 0

def Img.make (w h ch : Nat) (f : Nat → Nat → Nat → Int) : Img :=
  ⟨w, h, ch, (List.range (w * h * ch)).map fun k => f (k / ch % w) (k / ch / w) (k % ch)⟩

def clamp16 (v : Int) : Int := clampTo 0 65535 v

/-- n / d rounded to nearest, ties away from zero; d > 0. -/
def roundDiv (n d : Int) : Int := if 0 ≤ n then (2 * n + d) / (2 * d) else -((2 * -n + d) / (2 * d))

/-! ### Sine and cosine to 160 bits, for the correct roundings of R181 and R187 -/

/-- ⌊π × 2^160⌋. -/
def piFix : Int := 4591442807048218921384805199743311128454155024418

/-- The series of sine from the term `t` of index `n` on, for x² = `sq`, all in units of 2^−160. -/
def sineSeries (sq : Int) : Nat → Int → Int → Int
  | 0, _, _ => 0
  | fuel + 1, t, n => t + sineSeries sq fuel (-(t * sq / 2 ^ 160) / ((n + 1) * (n + 2))) (n + 2)

/-- sin(π × a / b) in units of 2^−160. -/
def sinPi (a : Int) (b : Nat) : Int :=
  let x := piFix * a / b
  sineSeries (x * x / 2 ^ 160) 40 x 1

/-- cos(π × a / b) in units of 2^−160. -/
def cosPi (a : Int) (b : Nat) : Int :=
  let x := piFix * a / b
  sineSeries (x * x / 2 ^ 160) 40 (2 ^ 160) 0

/-! ### Resize weights (R181 to R184) -/

/-- The remainder to 16,384 goes to the largest weight, the lowest of equals. -/
def fixSum (ws : List Int) : List Int :=
  let top := ws.foldl max (ws.headD 0)
  let k := ws.findIdx (· == top)
  updAt ws k (· + (16384 - ws.sum))

/-- Twice 64³ times the BICUBIC kernel at m / 64. -/
def bicubic (m : Nat) : Int :=
  let x : Int := m
  if m ≤ 64 then 3 * x ^ 3 - 320 * x ^ 2 + 524288
  else if m < 128 then -(x ^ 3) + 320 * x ^ 2 - 32768 * x + 1048576
  else 0

/-- The LANCZOS3 kernel at m / 64, up to the factor that every tap of one phase shares. -/
def lanczos (k : Nat) (m : Int) : Int := (if k % 2 = 0 then 1 else -1) * (sinPi m 192 / (m * m))

/-- The weights of a kernel at a phase: 1 BILINEAR, 2 BICUBIC, 3 LANCZOS3. -/
def kernelWeights (kernel p : Nat) : List Int :=
  match kernel with
  | 2 => fixSum ((List.range 4).map fun k => roundDiv (bicubic ((64 * ((k : Int) - 1) - p).natAbs)) 32)
  | 3 =>
    if p = 0 then [0, 0, 16384, 0, 0, 0]
    else
      let real := (List.range 6).map fun k => lanczos k (64 * ((k : Int) - 2) - p)
      let total := real.sum
      fixSum (real.map fun r => if 0 < total then roundDiv (16384 * r) total else roundDiv (-(16384 * r)) (-total))
  | _ => [16384 - 256 * (p : Int), 256 * p]

/-- Length of the intersection of output span `o` with input sample `k` (R183). -/
def areaOverlap (n m o k : Nat) : Nat := min ((o + 1) * n) ((k + 1) * m) - max (o * n) (k * m)

/-- Taps of one output sample: first input index and weights (R180, R181, R183). (DEDUCED 45; assumption log) -/
def resizeTaps (kernel n m o : Nat) : Int × List Int :=
  if kernel = 4 ∧ m < n then
    let k0 := o * n / m
    (k0, fixSum (((List.range 9).map fun j => areaOverlap n m o (k0 + j)).takeWhile (0 < ·) |>.map fun l =>
      roundDiv (l * 16384) n))
  else
    let kern := if kernel = 4 then 1 else kernel
    let num : Int := (2 * o + 1) * n - m
    let den : Int := 2 * m
    let i := num / den
    let p := ((num - i * den) * 64 / den).toNat
    (i - kern + 1, kernelWeights kern p)

/-- A tap beyond an edge takes the edge sample (R180). -/
def tapIndex (n : Nat) (i : Int) : Nat := (clampTo 0 ((n : Int) - 1) i).toNat

/-- Halvings until n ≤ 7m (R184), at most one for each bit of n. -/
def halvings (m : Nat) : Nat → Nat → Nat
  | 0, _ => 0
  | fuel + 1, n => if 7 * m < n then halvings m fuel ((n + 1) / 2) + 1 else 0

/-- One halving along x. -/
def Img.halveX (i : Img) : Img :=
  Img.make ((i.w + 1) / 2) i.h i.ch fun x y c =>
    (i.at (2 * x) y c + i.at (if 2 * x + 1 = i.w then 2 * x else 2 * x + 1) y c + 1) / 2

def Img.flipAxes (i : Img) : Img := Img.make i.h i.w i.ch fun x y c => i.at y x c

def Img.halveY (i : Img) : Img := i.flipAxes.halveX.flipAxes

/-- The sum of one pass: Σ w × s + 8,192, shifted by 14 (R185). -/
def tapSum (taps : Int × List Int) (s : Int → Int) : Int :=
  (((taps.2.zipIdx).map fun (w, k) => w * s (taps.1 + k)).sum + 8192) / 16384

/-- Halving and the horizontal pass to width `m`, unclamped (R184, R185). (DEDUCED 45; assumption log) -/
def Img.resizeX (kernel m : Nat) (i : Img) : Img :=
  let j := (List.range (halvings m 32 i.w)).foldl (fun a _ => a.halveX) i
  Img.make m j.h j.ch fun x y c => tapSum (resizeTaps kernel j.w m x) fun k => j.at (tapIndex j.w k) y c

/-- Halving and the vertical pass to height `m`, clamped. (DEDUCED 45; assumption log) -/
def Img.resizeY (kernel m : Nat) (i : Img) : Img :=
  let j := (List.range (halvings m 32 i.h)).foldl (fun a _ => a.halveY) i
  Img.make j.w m j.ch fun x y c => clamp16 (tapSum (resizeTaps kernel j.h m y) fun k => j.at x (tapIndex j.h k) c)

/-! ### Crop (R177, R178) -/

/-- A draw: purpose, stage, element. -/
abbrev Draw := Nat → Nat → Nat → Quad

/-- One try of RRC with the window it gives, if it fits. -/
def rrcTry (p : XfParams) (d : Draw) (w h t : Nat) : Option Region :=
  let b := d 1 1 t
  let s := p.scaleMin + (p.scaleMax - p.scaleMin) * b.word 0 / 2 ^ 32
  let a := 65536 + (p.aspectMax - 65536) * b.word 1 / 2 ^ 32
  let area := w * h * s / 65536
  let long := Nat.sqrt (area * a / 65536)
  let short := Nat.sqrt (area * 65536 / a)
  let (cw, ch) := if b.word 2 % 2 = 1 then (long, short) else (short, long)
  if 1 ≤ cw ∧ cw ≤ w ∧ 1 ≤ ch ∧ ch ≤ h then
    some ((w - cw + 1) * b.word 3 / 2 ^ 32, (h - ch + 1) * (b.word 2 / 2) / 2 ^ 31, cw, ch)
  else none

/-- The fallback window of RRC. -/
def rrcFallback (p : XfParams) (w h : Nat) : Region :=
  let (cw, ch) :=
    if h * p.aspectMax < w * 65536 then (h * p.aspectMax / 65536, h)
    else if w * p.aspectMax < h * 65536 then (w, w * p.aspectMax / 65536)
    else (w, h)
  ((w - cw) / 2, (h - ch) / 2, cw, ch)

/-- The crop window over a W × H input (R177, R178). -/
def cropWindow (p : XfParams) (d : Draw) (w h : Nat) : Region :=
  let cw := min p.cropW w
  let ch := min p.cropH h
  match p.crop with
  | 0 => (0, 0, w, h)
  | 1 => ((w - cw) / 2, (h - ch) / 2, cw, ch)
  | 2 =>
    let b := d 1 1 0
    ((w - cw + 1) * b.word 3 / 2 ^ 32, (h - ch + 1) * (b.word 2 / 2) / 2 ^ 31, cw, ch)
  | _ => (((List.range 10).filterMap (rrcTry p d w h)).head?).getD (rrcFallback p w h)

def Img.crop (r : Region) (i : Img) : Img := Img.make r.2.2.1 r.2.2.2 i.ch fun x y c => i.at (r.1 + x) (r.2.1 + y) c

/-- Placement without resize: other pixels hold FILL (R177). -/
def Img.placeIn (w h : Nat) (fill : Int) (i : Img) : Img :=
  let ox := (w - i.w) / 2
  let oy := (h - i.h) / 2
  Img.make w h i.ch fun x y c =>
    if ox ≤ x ∧ x < ox + i.w ∧ oy ≤ y ∧ y < oy + i.h then i.at (x - ox) (y - oy) c else fill

/-! ### Rotation and flips (R186 to R188) -/

/-- Exact rotation by `q` quarters, counter-clockwise. -/
def Img.quarter (q : Nat) (i : Img) : Img :=
  match q with
  | 1 => Img.make i.h i.w i.ch fun x y c => i.at (i.w - 1 - y) x c
  | 2 => Img.make i.w i.h i.ch fun x y c => i.at (i.w - 1 - x) (i.h - 1 - y) c
  | 3 => Img.make i.h i.w i.ch fun x y c => i.at y (i.h - 1 - x) c
  | _ => i

/-- A pixel, FILL outside the image. -/
def Img.atOr (fill : Int) (i : Img) (x y : Int) (c : Nat) : Int :=
  if 0 ≤ x ∧ x < i.w ∧ 0 ≤ y ∧ y < i.h then i.at x.toNat y.toNat c else fill

/-- Arbitrary rotation by k / 64 degree (R187). -/
def Img.rotate (k fill : Int) (i : Img) : Img :=
  let cosQ := roundDiv (65536 * cosPi k 11520) (2 ^ 160)
  let sinQ := roundDiv (65536 * sinPi k 11520) (2 ^ 160)
  Img.make i.w i.h i.ch fun x y c =>
    let dx : Int := 2 * x - ((i.w : Int) - 1)
    let dy : Int := 2 * y - ((i.h : Int) - 1)
    let sx := (cosQ * dx - sinQ * dy + ((i.w : Int) - 1) * 65536) / 2
    let sy := (sinQ * dx + cosQ * dy + ((i.h : Int) - 1) * 65536) / 2
    let ix := sx / 65536
    let iy := sy / 65536
    let fx := sx / 256 % 256
    let fy := sy / 256 % 256
    ((256 - fx) * (256 - fy) * i.atOr fill ix iy c + fx * (256 - fy) * i.atOr fill (ix + 1) iy c
      + (256 - fx) * fy * i.atOr fill ix (iy + 1) c + fx * fy * i.atOr fill (ix + 1) (iy + 1) c + 32768) / 65536

def Img.mirrorX (i : Img) : Img := Img.make i.w i.h i.ch fun x y c => i.at (i.w - 1 - x) y c
def Img.mirrorY (i : Img) : Img := Img.make i.w i.h i.ch fun x y c => i.at x (i.h - 1 - y) c

/-! ### Jitter and normalisation (R189, R190) -/

/-- Luma weights lR, lG, lB. -/
def lumaWeights (luma : Nat) : Int × Int × Int :=
  match luma with
  | 0 => (4899, 9617, 1868)
  | 1 => (3483, 11718, 1183)
  | _ => (4304, 11108, 972)

/-- The grey value of a pixel. -/
def Img.grey (luma : Nat) (i : Img) (x y : Nat) : Int :=
  if i.ch < 3 then i.at x y 0
  else
    let (r, g, b) := lumaWeights luma
    (r * i.at x y 0 + g * i.at x y 1 + b * i.at x y 2 + 8192) / 16384

/-- Channels that take jitter: all but alpha. -/
def Img.colours (i : Img) : Nat := if i.ch < 3 then 1 else 3

def Img.mapColour (f : Nat → Nat → Int → Int) (i : Img) : Img :=
  Img.make i.w i.h i.ch fun x y c => if c < i.colours then clamp16 (f x y (i.at x y c)) else i.at x y c

/-- A jitter factor in 65,536ths. -/
def jitterFactor (j w : Nat) : Int := 65536 - (j : Int) + ((2 * j * w / 2 ^ 32 : Nat) : Int)

/-- Brightness, contrast and saturation, each only when its range is not 0 (R189). -/
def Img.jitter (p : XfParams) (d : Draw) (i : Img) : Img :=
  let b := d 3 1 0
  let fb := jitterFactor p.jitB (b.word 0)
  let fc := jitterFactor p.jitC (b.word 1)
  let fs := jitterFactor p.jitS (b.word 2)
  let i1 := if p.jitB = 0 then i else i.mapColour fun _ _ v => (v * fb + 32768) / 65536
  let i2 :=
    if p.jitC = 0 then i1
    else
      let mean := ((List.range (i1.w * i1.h)).map fun k => i1.grey p.luma (k % i1.w) (k / i1.w)).sum / ((i1.w * i1.h : Nat) : Int)
      i1.mapColour fun _ _ v => mean + ((v - mean) * fc + 32768) / 65536
  if p.jitS = 0 ∨ i2.ch < 3 then i2
  else i2.mapColour fun x y v => let g := i2.grey p.luma x y; g + ((v - g) * fs + 32768) / 65536

/-- Normalisation of channel `c` (R190). -/
def normalise (p : XfParams) (c : Nat) (v : Int) : Int :=
  clampTo (-(2 ^ 31)) (2 ^ 31 - 1) (((v - p.mean.getD c 0) * p.gain.getD c 1 + 32768) / 65536)

/-! ### The input (R173 to R175) -/

/-- Fields of a decoded form's descriptor (R149): byte offset and length. -/
def Form.field (f : Form) (o n : Nat) : Nat := byteField f.desc o n

/-- Bytes of an element by TYPE. -/
def typeBytes (t : Nat) : Nat := match t with | 0 => 1 | 1 => 2 | 2 => 2 | _ => 4

/-- The elements of a form: unsigned for UINT8 and UINT16, signed otherwise. -/
def Form.elems (f : Form) : List Int :=
  let n := typeBytes (f.field 1 1)
  (chunksOf n (f.data.length / n) f.data).map fun bs =>
    let v : Int := bytesNat bs
    if f.field 1 1 ≤ 1 ∨ v < 2 ^ (8 * n - 1) then v else v - 2 ^ (8 * n)

/-- Widening of a value of B bits to 16 by bit replication, in which 65,535 is full scale (R173): the value repeats down the
word until its 16 bits are full, of fewer than 8 bits more than twice. (DEDUCED 172; assumption log) -/
def widen16 (b : Nat) (v : Int) : Int :=
  (((List.range ((16 + b - 1) / max 1 b)).map fun j => v * 2 ^ 16 / 2 ^ ((j + 1) * b)).sum : Int)

/-- An image form as a working image; ALPHA = 0 drops the alpha channel. -/
def imageInput (alpha : Nat) (f : Form) : Img :=
  let ch := f.field 2 1
  let src : Img := ⟨f.field 4 4, f.field 8 4, ch, f.elems.map (widen16 (f.field 14 1))⟩
  if alpha = 0 ∧ (ch = 2 ∨ ch = 4) then Img.make src.w src.h (ch - 1) src.at else src

/-- oY, cY, cRv, cGu, cGv, cBu of R175, by matrix (0 BT.601, 1 BT.709, 2 BT.2020) and range. -/
def matrixCoeffs (m : Nat) (full : Bool) : List Int :=
  match m, full with
  | 0, true => [0, 16384, 22970, 5638, 11700, 29032]
  | 0, false => [4096, 19152, 26251, 6444, 13372, 33179]
  | 1, true => [0, 16384, 25802, 3069, 7670, 30402]
  | 1, false => [4096, 19152, 29487, 3508, 8765, 34745]
  | _, true => [0, 16384, 24160, 2696, 9361, 30825]
  | _, false => [4096, 19152, 27611, 3081, 10698, 35228]

/-- The matrix a MATRIX code names, or VMATRIX (R172, R175). -/
def matrixOf (code vmatrix : Nat) : Nat :=
  if code = 5 ∨ code = 6 then 0 else if code = 1 then 1 else if code = 9 then 2 else vmatrix

/-- Frame `k` of a video form, its region cut out and converted to working RGB or grey (R174). -/
def videoInput (vmatrix : Nat) (region : Region) (f : Form) (k : Nat) : Img :=
  let b := f.field 14 1
  let fw := f.field 4 4
  let fh := f.field 8 4
  let mono := f.field 2 1 = 1
  let full := f.field 17 1 = 1
  let e := f.elems
  let base := k * frameElems mono fw fh
  let cw := (fw + 1) / 2
  let chh := (fh + 1) / 2
  let isRoi := f.field 15 1 % 2 = 1
  let (rx, ry, rw, rh) : Region := if isRoi then (0, 0, fw, fh) else region
  let luma (x y : Nat) : Int :=
    let v := e.getD (base + (ry + y) * fw + rx + x) 0
    if full then widen16 b v else v * 2 ^ (16 - b)
  let chroma (plane x y : Nat) : Int :=
    e.getD (base + fw * fh + plane * (cw * chh) + (ry / 2 + y) * cw + rx / 2 + x) 0 * 2 ^ (16 - b)
  let c := matrixCoeffs (matrixOf (f.field 16 1) vmatrix) full
  let co (i : Nat) : Int := c.getD i 0
  if mono then Img.make rw rh 1 fun x y _ => clamp16 ((co 1 * (luma x y - co 0) + 8192) / 16384)
  else
    Img.make rw rh 3 fun x y ch =>
      let yy := luma x y - co 0
      let cb := upsample 2 2 ((rw + 1) / 2) ((rh + 1) / 2) (chroma 0) x y - 32768
      let cr := upsample 2 2 ((rw + 1) / 2) ((rh + 1) / 2) (chroma 1) x y - 32768
      clamp16 ((co 1 * yy + (match ch with
        | 0 => co 2 * cr
        | 1 => -(co 3 * cb) - co 4 * cr
        | _ => co 5 * cb) + 8192) / 16384)

/-! ### The chain (R176, R191) -/

/-- The quarter of a sample: QROT, or drawn (R186). -/
def quarterOf (p : XfParams) (d : Draw) : Nat := if p.qrot = 4 then (d 1 2 0).word 1 / 2 ^ 30 else p.qrot

/-- Steps 3 to 7 on a cropped frame. -/
def xfFrame (p : XfParams) (d : Draw) (i : Img) : Img :=
  let q := quarterOf p d
  let (w, h) := if q = 1 ∨ q = 3 then (p.outH, p.outW) else (p.outW, p.outH)
  let a := if p.kernel = 0 then i.placeIn w h p.fill else (i.resizeX p.kernel w).resizeY p.kernel h
  let b := a.quarter q
  let k : Int := (((2 * p.rotMax + 1) * (d 1 2 0).word 0 / 2 ^ 32 : Nat) : Int) - p.rotMax
  let c := if p.rotMax = 0 then b else b.rotate k p.fill
  let fl := d 2 1 0
  let e := if fl.word 0 / 65536 < p.flipH then c.mirrorX else c
  let g := if fl.word 1 / 65536 < p.flipV then e.mirrorY else e
  g.jitter p d

/-- The transform output of a decoded form. `window` is the crop window of a video sample, drawn before its decode
(R179). -/
def transformForm (p : XfParams) (d : Draw) (window : Option Region) (f : Form) : Form :=
  let video := f.field 0 1 = 2
  let frames := if video then f.field 12 2 else 1
  let imgs := (List.range frames).map fun k =>
    if video then
      let win := window.getD (cropWindow p d (f.field 4 4) (f.field 8 4))
      let region := evenRegion win.1 win.2.1 win.2.2.1 win.2.2.2
      let (rx, ry) := if f.field 15 1 % 2 = 1 then (f.field 20 4, f.field 24 4) else (region.1, region.2.1)
      (videoInput p.vmatrix region f k).crop (win.1 - rx, win.2.1 - ry, win.2.2.1, win.2.2.2)
    else
      let i := imageInput p.alpha f
      i.crop (cropWindow p d i.w i.h)
  let outs := imgs.map (xfFrame p d)
  let ch := ((outs.head?).map (·.ch)).getD 0
  let data := outs.flatMap fun i => (i.data.zipIdx).flatMap fun (v, k) => elemBytes 4 (normalise p (k % i.ch) v)
  ⟨descriptor [f.field 0 1, 3, ch, p.outW, p.outH, frames, 32, 0, 0, 0, 0, 0] (f.field 3 1) data.length, data⟩

/-- Channels a decoded form leaves after ALPHA (R173, R243). -/
def xfChannels (p : XfParams) (f : Form) : Nat :=
  let ch := f.field 2 1
  if f.field 0 1 = 2 then (if ch = 1 then 1 else 3)
  else if p.alpha = 0 ∧ (ch = 2 ∨ ch = 4) then ch - 1 else ch

end Sys2Proof.Machine
end

