-- ==== Sys2Proof/Machine/Pack.lean ====
section
/-! DEFINITION. Pack Engines (chapter 9): number formats and rounding (R236 to R254), element order, the slot region,
audio windows, the batch trailer and the pack digests (R255 to R259). -/

namespace Sys2Proof.Machine

/-! ### Values and formats (R236, R241, R244, R245) -/

/-- The exact value of an element: `m` × 2^`e` with a sign, an infinity or a NaN (R241). -/
inductive PackVal where
  | fin (neg : Bool) (m : Nat) (e : Int)
  | inf (neg : Bool)
  | nan (neg : Bool)
  deriving DecidableEq, Repr

def PackVal.ofInt (v e : Int) : PackVal := .fin (decide (v < 0)) v.natAbs e

/-- A binary32 datum times 2^`exp`. -/
def PackVal.ofBits (bits exp : Int) : PackVal :=
  let b := (bits % 2 ^ 32).toNat
  let neg := natBits b 31 1 == 1
  let x := natBits b 23 8
  let m := natBits b 0 23
  if x = 255 then (if m = 0 then .inf neg else .nan neg)
  else if x = 0 then .fin neg m (exp - 149)
  else .fin neg (2 ^ 23 + m) (exp + x - 150)

/-- A floating-point layout: exponent bits, mantissa bits, bias, exponent of the top binade, greatest finite code,
codes written for infinity and NaN (R244, R245). -/
structure FloatFmt where
  eb : Nat
  mb : Nat
  bias : Int
  top : Int
  maxCode : Nat
  infCode : Option Nat
  nanCode : Option Nat
  deriving DecidableEq, Repr

def FloatFmt.fp32 : FloatFmt := ⟨8, 23, 127, 127, 0x7F7FFFFF, some 0x7F800000, some 0x7FC00000⟩
def FloatFmt.bf16 : FloatFmt := ⟨8, 7, 127, 127, 0x7F7F, some 0x7F80, some 0x7FC0⟩
def FloatFmt.fp16 : FloatFmt := ⟨5, 10, 15, 15, 0x7BFF, some 0x7C00, some 0x7E00⟩
def FloatFmt.e4m3 : FloatFmt := ⟨4, 3, 7, 8, 0x7E, none, some 0x7F⟩
def FloatFmt.e5m2 : FloatFmt := ⟨5, 2, 15, 15, 0x7B, some 0x7C, some 0x7E⟩
def FloatFmt.e3m2 : FloatFmt := ⟨3, 2, 3, 4, 0x1F, none, none⟩
def FloatFmt.e2m3 : FloatFmt := ⟨2, 3, 1, 2, 0x1F, none, none⟩
def FloatFmt.e2m1 : FloatFmt := ⟨2, 1, 1, 2, 0x7, none, none⟩

/-- The family of a tensor's format. -/
inductive PackFamily where
  | flt (f : FloatFmt)
  | mxFloat (f : FloatFmt)
  | mxInt
  | int (lo hi : Int)
  deriving DecidableEq, Repr

def packFamily (t : TensorFmt) : PackFamily :=
  match t.fmt with
  | 0 => .flt .fp32
  | 1 => .flt .bf16
  | 2 => .flt .fp16
  | 3 => .flt .e4m3
  | 4 => .flt .e5m2
  | 5 => .flt .e3m2
  | 6 => .flt .e2m3
  | 7 => .flt .e2m1
  | 8 => .mxFloat (if t.mxElem = 0 then .e4m3 else .e5m2)
  | 9 => .mxFloat (if t.mxElem = 0 then .e3m2 else .e2m3)
  | 10 => .mxFloat .e2m1
  | 11 => .mxInt
  | 12 => .int (-(2 ^ 31)) (2 ^ 31 - 1)
  | 13 => .int (-32768) 32767
  | 14 => .int (-128) 127
  | 15 => .int 0 255
  | _ => .int (-8) 7

/-- Bits per element (R236). -/
def fmtBits (fmt : Nat) : Nat := [32, 16, 16, 8, 8, 6, 6, 4, 8, 6, 4, 8, 32, 16, 8, 8, 4].getD fmt 0

def fmtMx (fmt : Nat) : Bool := decide (8 ≤ fmt ∧ fmt ≤ 11)

/-! ### Rounding (R246 to R250) -/

/-- Which of two adjacent grid points lo and lo + 1 a value takes, `r` / 2^`sh` of the way up (R250); `up` is the RTZ
choice, `w` the word of stochastic rounding. -/
def roundUp (mode lo r sh : Nat) (up : Bool) (w : Nat) : Bool :=
  if r = 0 then false
  else if mode = 0 then decide (2 ^ sh < 2 * r) || (decide (2 ^ sh = 2 * r) && lo % 2 == 1)
  else if mode = 1 then up
  else decide (w < r * 2 ^ 32 / 2 ^ sh)

/-- A finite nonzero magnitude rounded to the grid and coded without its sign; extended codes pass `maxCode` (R246). -/
def floatCode (f : FloatFmt) (mode m : Nat) (e : Int) (w : Nat) : Nat :=
  let x : Int := (Nat.log2 m : Int) + e
  let q : Int := min (max x (1 - f.bias)) f.top - f.mb
  let row : Nat := (q + f.mb + f.bias - 1).toNat * 2 ^ f.mb
  if q ≤ e then row + m * 2 ^ (e - q).toNat
  else
    let sh := (q - e).toNat
    let lo := m / 2 ^ sh
    row + lo + flag (roundUp mode lo (m % 2 ^ sh) sh false w)

/-- The result of an overflow under RNE or SR, and whether it saturated (R247); an MX element saturates. -/
def overflowCode (f : FloatFmt) (fmt : Nat) (sat : Bool) : Nat × Bool :=
  let open_ := if sat then none else if fmt = 3 then f.nanCode else f.infCode
  match open_ with
  | some c => (c, false)
  | none => (f.maxCode, true)

/-- Formats with an infinity that SAT does not replace: FP32, BF16 and FP16; FP8 follow SAT (R247). -/
def satOf (t : TensorFmt) : Bool := if t.fmt ≤ 2 then false else if t.fmt = 3 ∨ t.fmt = 4 then t.sat == 1 else true

/-- One element to a floating-point code, with whether it saturated (R246 to R248).
(DEDUCED 31, DEDUCED 32; assumption log) -/
def floatElem (f : FloatFmt) (fmt mode : Nat) (sat : Bool) (v : PackVal) (w : Nat) : Nat × Bool :=
  let sign (neg : Bool) (c : Nat) : Nat := flag neg * 2 ^ (f.eb + f.mb) + c
  match v with
  | .nan neg =>
    match f.nanCode, f.infCode with
    | some c, some _ => (sign neg c, false)
    | some c, none => (c, false)
    | none, _ => (0, false)
  | .inf neg =>
    match f.infCode with
    | some c => (sign neg c, false)
    | none =>
      if fmt = 3 ∧ !sat ∧ mode ≠ 1 then (sign neg (f.nanCode.getD 0), false) else (sign neg f.maxCode, true)
  | .fin neg m e =>
    if m = 0 then (sign neg 0, false)
    else
      let c := floatCode f mode m e w
      if c ≤ f.maxCode then (sign neg c, false)
      else if mode = 1 then (sign neg f.maxCode, false)
      else let (o, s) := overflowCode f fmt sat; (sign neg o, s)

/-- One element to an integer, with whether it was clamped (R248, R249). (DEDUCED 31; assumption log) -/
def intElem (lo hi : Int) (mode : Nat) (v : PackVal) (w : Nat) : Int × Bool :=
  match v with
  | .nan _ => (0, false)
  | .inf neg => (if neg then lo else hi, true)
  | .fin neg m e =>
    let sv : Int := if neg then -m else m
    let q : Int :=
      if 0 ≤ e then sv * 2 ^ e.toNat
      else
        let sh := (-e).toNat
        let fl := sv / 2 ^ sh
        fl + flag (roundUp mode (fl % 2).toNat (sv % 2 ^ sh).toNat sh neg w)
    if q < lo then (lo, true) else if hi < q then (hi, true) else (q, false)

/-! ### MX blocks (R252 to R254) -/

/-- ⌊log2⌋ of a finite nonzero value. -/
def PackVal.log (v : PackVal) : Option Int :=
  match v with
  | .fin _ m e => if m = 0 then none else some ((Nat.log2 m : Int) + e)
  | _ => none

def PackVal.special (v : PackVal) : Bool :=
  match v with
  | .fin .. => false
  | _ => true

def PackVal.scale (v : PackVal) (k : Int) : PackVal :=
  match v with
  | .fin neg m e => .fin neg m (e + k)
  | v => v

/-- The scale code of a block and its X; none where a NaN or infinite element gives 0xFF (R252). -/
def mxScale (eMax : Int) (block : List PackVal) : Nat × Option Int :=
  if block.any (·.special) then (0xFF, none)
  else
    match block.filterMap PackVal.log with
    | [] => (0x7F, some 0)
    | l :: ls =>
      let x := max (-127) (min 127 (ls.foldl max l - eMax))
      ((x + 127).toNat, some x)

def mxMax (t : TensorFmt) : Int :=
  match packFamily t with
  | .mxFloat f => f.top
  | _ => 0

/-- One element of a block with scale exponent `x` (R253, R254). -/
def mxElem (t : TensorFmt) (x : Option Int) (v : PackVal) (w : Nat) : Nat × Bool :=
  match x with
  | none => (0, false)
  | some x =>
    match packFamily t with
    | .mxFloat f => floatElem f t.fmt t.round true (v.scale (-x)) w
    | _ => let (q, s) := intElem (-127) 127 t.round (v.scale (6 - x)) w; ((q % 256).toNat, s)

/-! ### A slot's share (R239, R240, R251) -/

/-- Codes packed in index order with no gap, least significant bits first, into `n` bytes (R239).
(DEDUCED 45; assumption log) -/
def packBits (bits n : Nat) (codes : List Nat) : List Byte :=
  if bits = 8 ∨ bits = 16 ∨ bits = 32 then
    (codes.flatMap (natBytes (bits / 8)) ++ List.replicate n 0).take n
  else
    let per := if bits = 6 then 4 else 2
    let word (l : List Nat) : List Byte :=
      natBytes (bits * per / 8) ((l.zipIdx).map fun (c, i) => c * 2 ^ (bits * i)).sum
    ((cutGroups per codes).flatMap word ++ List.replicate n 0).take n

/-- Element bytes and scale bytes of `n` elements (R240). -/
def shareBytes (fmt n : Nat) : Nat × Nat :=
  if fmtMx fmt then let b := (n + 31) / 32; (b * 4 * fmtBits fmt, b) else ((n * fmtBits fmt + 7) / 8, 0)

/-- What packing a slot gives: element bytes, scale bytes, elements saturated. -/
structure Packed where
  elems : List Byte
  scales : List Byte
  sat : Nat
  deriving DecidableEq, Repr

/-- The conversion of a slot's elements in index order; `word k` is the word of element `k` (R251). -/
def packValues (t : TensorFmt) (word : Nat → Nat) (vs : List PackVal) : Packed :=
  let (eb, _) := shareBytes t.fmt vs.length
  let n := vs.length
  if fmtMx t.fmt then
    let blocks := cutGroups 32 vs
    let coded : List (Nat × List Nat × Nat) := (blocks.zipIdx).map fun (blk, b) =>
      let (code, x) := mxScale (mxMax t) blk
      let es : List (Nat × Bool) := (blk.zipIdx).map fun (v, i) => mxElem t x v (word (32 * b + i))
      (code, es.map (·.1) ++ List.replicate (32 - blk.length) 0, (es.filter (·.2)).length)
    ⟨packBits (fmtBits t.fmt) eb (coded.flatMap (·.2.1)), if n = 0 then [] else coded.map fun c => BitVec.ofNat 8 c.1,
      (coded.map (·.2.2)).sum⟩
  else
    let es : List (Nat × Bool) := (vs.zipIdx).map fun (v, k) =>
      match packFamily t with
      | .flt f => floatElem f t.fmt t.round (satOf t) v (word k)
      | .int lo hi => let (q, s) := intElem lo hi t.round v (word k); ((q % 2 ^ fmtBits t.fmt).toNat, s)
      | _ => (0, false)
    ⟨packBits (fmtBits t.fmt) eb (es.map (·.1)), [], (es.filter (·.2)).length⟩

/-- Every element +0 and every block scale 0x7F: a masked slot (R81, R252). (DEDUCED 43, DEDUCED 173; assumption log) -/
def packMasked (t : TensorFmt) (n : Nat) : Packed :=
  let (eb, sb) := shareBytes t.fmt n
  ⟨List.replicate eb 0, List.replicate sb 0x7F, 0⟩

/-- The stochastic-rounding words of a slot (R251). -/
def srWord (seed : Dword) (q epoch k : Nat) : Nat := (drawBlock seed q epoch 4 1 (k / 4)).word (k % 4)

/-! ### Element order (R238, R242) -/

/-- The elements of an image or video slot in the order of R238, from values channel by channel last. -/
def layoutOrder (first : Bool) (w h c frames : Nat) (vs : Array Int) : List Int :=
  if first then
    (List.range (frames * c * h * w)).map fun k =>
      let x := k % w
      let y := k / w % h
      let ch := k / (w * h) % c
      let f := k / (w * h * c)
      vs.getD (((f * h + y) * w + x) * c + ch) 0
  else vs.toList

/-- The window start of R242. -/
def audioStart (p : PackParams) (w frames : Nat) : Nat :=
  if p.audioPos = 1 ∧ p.audioLen ≤ frames then (frames - p.audioLen + 1) * w / 2 ^ 32 else 0

/-- The values of an audio slot, and the events CUT (bit 3) and PADDED (bit 4) (R242). -/
def audioValues (p : PackParams) (start : Nat) (f : Form) : List PackVal × Nat :=
  let frames := f.field 4 4
  let ch := p.audioCh
  let used := min frames p.audioLen
  let val (v : Int) : PackVal := if f.field 1 1 = 4 then .ofBits v p.packExp else .ofInt v p.packExp
  (((f.elems.drop (start * ch)).take (used * ch)).map val ++
    List.replicate ((p.audioLen - used) * ch) (.ofInt 0 0),
   8 * flag (decide (p.audioLen < frames)) + 16 * flag (decide (frames < p.audioLen)))

/-- Event bits NAN_IN (1) and INF_IN (2) of the values (R248, R257). -/
def specialEvents (vs : List PackVal) : Nat :=
  2 * flag (vs.any fun v => match v with | .nan _ => true | _ => false) +
    4 * flag (vs.any fun v => match v with | .inf _ => true | _ => false)

/-! ### The slot region (R240) -/

def up64 (n : Nat) : Nat := (n + 63) / 64 * 64

/-- Elements of one slot's share of a DATA tensor. -/
def Stream.dataElems (t : Stream) : Nat :=
  match t.cls with
  | 1 => t.xf.outW * t.xf.outH * t.pack.packC
  | 2 => t.dec.clipLen * t.xf.outW * t.xf.outH * t.pack.packC
  | _ => t.pack.audioLen * t.pack.audioCh

/-- Bytes of one tensor in the slot region, its scale area included. -/
def Stream.tensorBytes (t : Stream) (f : TensorFmt) : Nat :=
  if t.cls = 4 then up64 ((t.txt.rows * t.txt.rowLen * fmtBits f.fmt + 7) / 8)
  else
    let (eb, sb) := shareBytes f.fmt t.dataElems
    t.b * up64 eb + t.b * up64 sb

/-- The offset of each tensor. -/
def tensorOffsets (t : Stream) : Nat → List TensorFmt → List Nat
  | _, [] => []
  | o, f :: fs => o :: tensorOffsets t (up64 (o + t.tensorBytes f)) fs

/-- The offset of the trailer, and the bytes of the slot region. -/
def Stream.trailer (t : Stream) : Nat := t.pack.tensors.foldl (fun o f => up64 (o + t.tensorBytes f)) 0

def Stream.regionSize (t : Stream) : Nat := t.trailer + 64 + 48 * t.b

/-- The bytes a DATA slot writes: its elements and its scales, with their padding (R240). -/
def Stream.dataWrites (t : Stream) (slot : Nat) (p : Packed) : List (Nat × List Byte) :=
  match t.pack.tensors.head? with
  | none => []
  | some f =>
    let (eb, sb) := shareBytes f.fmt t.dataElems
    let pad (b : List Byte) : List Byte := b ++ List.replicate (up64 b.length - b.length) 0
    (slot * up64 eb, pad p.elems) :: if sb = 0 then [] else [(t.b * up64 eb + slot * up64 sb, pad p.scales)]

/-! ### Text tensors (R226, R229, R258) -/

/-- The values of each tensor over the places of a segment: TOKENS, SEGMENT, and POSITION when it is written. -/
def segmentValues (p : TextParams) (placed : List (Nat × Nat × Nat)) (start : Nat × Nat) (seg : List Nat) :
    List (List Nat) :=
  let ords := (segmentPlaces p start seg.length).map fun at_ => segmentOrdinal p placed start (at_ / p.rowLen)
  [seg, ords] ++ if p.posOut = 1 then [List.range seg.length] else []

/-- The bytes of values in a text format, each a whole number of bytes (R237). -/
def textBytes (f : TensorFmt) (vs : List Nat) : List Byte := vs.flatMap (natBytes (fmtBits f.fmt / 8))

/-- Values laid from linear place `at_` on, cut at the row ends: row, place and values of each piece (R284). -/
def rowCuts (rowLen : Nat) : Nat → Nat → List Nat → List (Nat × Nat × List Nat)
  | 0, _, _ => []
  | _ + 1, _, [] => []
  | fuel + 1, at_, vs =>
    let n := rowLen - at_ % rowLen
    (at_ / rowLen, at_, vs.take n) :: rowCuts rowLen fuel (at_ + n) (vs.drop n)

/-- What a slot of a text batch writes: in each tensor, its segment with the empty places from linear place `gap` before
it and those up to `stop` after it; the last slot also writes the alignment padding. Row, offset and bytes. -/
def Stream.textWrites (t : Stream) (vals : List (List Nat)) (gap first stop : Nat) (last : Bool) :
    List (Nat × Nat × List Byte) :=
  let total := t.txt.rows * t.txt.rowLen
  ((t.pack.tensors.zip (tensorOffsets t 0 t.pack.tensors)).zip vals).zipIdx.flatMap fun ((⟨f, o⟩, vs), i) =>
    let pad := if i = 0 then t.txt.pad else 0
    let w := fmtBits f.fmt / 8
    let body := List.replicate (first - gap) pad ++ vs ++ List.replicate (stop - (first + vs.length)) pad
    ((rowCuts t.txt.rowLen (body.length + 1) gap body).map fun (row, at_, l) => (row, o + at_ * w, textBytes f l)) ++
      if last ∧ total * w % 64 ≠ 0 then
        [(t.txt.rows - 1, o + total * w, List.replicate (up64 (total * w) - total * w) 0)]
      else []

/-- The pack digest of a text slot (R258). -/
def Stream.textDigest (t : Stream) (vals : List (List Nat)) : Dword :=
  crc64 ((t.pack.tensors.zip vals).flatMap fun (f, vs) => textBytes f vs)

/-! ### The trailer (R256, R257, R259) -/

def noSample : Nat := 0xFFFFFFFFFFFF

/-- The 48 bytes of a slot entry. -/
def Entry.bytes (e : Entry) : List Byte :=
  natBytes 2 e.flags ++ natBytes 1 e.events ++ natBytes 1 0 ++ natBytes 6 e.sample ++ natBytes 2 e.firstRow ++
    natBytes 4 e.firstPlace ++ natBytes 4 e.count ++ natBytes 4 e.start ++ leBytes 8 e.decDigest ++
    leBytes 8 e.xfDigest ++ leBytes 8 e.packDigest

/-- An entry not yet known. -/
def Entry.empty : Entry := ⟨0, 0, 0, 0, 0, 0, 0, 0, 0, 0⟩

/-- The entries in slot order. -/
def Batch.ordered (b : Batch) (n : Nat) : List Entry :=
  (List.range n).map fun j => ((b.entries.find? (·.1 == j)).map (·.2)).getD .empty

def batchDigest (es : List Entry) : Dword :=
  crc64 ((es.zipIdx).flatMap fun (e, j) => natBytes 4 j ++ leBytes 8 e.packDigest)

/-- The 64 bytes of the trailer header. -/
def trailerHeader (t : Stream) (epoch : Nat) (b : Batch) : List Byte :=
  let es := b.ordered t.b
  let subs := (es.filter fun e => e.flags % 4 != 0).length
  let masked := (es.filter fun e => natBits e.flags 2 1 == 1).length
  let head := natBytes 4 0x52544251 ++ natBytes 1 1 ++ natBytes 1 t.cls ++ natBytes 1 t.num ++
    natBytes 1 (flag b.strict + 2 * flag b.timelock) ++ natBytes 8 b.num ++ natBytes 4 epoch ++ natBytes 4 t.b ++
    natBytes 6 b.dlStep ++ natBytes 2 0 ++ natBytes 5 b.dlPhase ++ natBytes 3 0 ++ natBytes 4 subs ++
    natBytes 4 masked ++ leBytes 8 (batchDigest es) ++ leBytes 4 (crc32c (es.flatMap Entry.bytes))
  head ++ leBytes 4 (crc32c head)

end Sys2Proof.Machine
end

