-- ==== Sys2Proof/Machine/Sluice.lean ====
section
/-! DEFINITION. Sluice lists (R308 to R312, R320): the entry in force, cycle starts and the takeover of a new list. -/

namespace Sys2Proof.Machine

/-- The median of the window, or the seed (R38). -/
def periodOf (seed : Nat) (window : List Nat) : Nat :=
  let a := sortBy (fun x y => decide (x ≤ y)) window
  let k := a.length
  if k = 0 then seed
  else if k % 2 = 1 then a.getD ((k - 1) / 2) 0
  else (a.getD (k / 2 - 1) 0 + a.getD (k / 2) 0) / 2

/-- The period estimate P in force, ns (R38). -/
def State.period (s : State) : Nat :=
  periodOf (s.tide.seed.getD (s.applied.tidePeriodInit.toNat * 1000)) s.tide.window

def SluRun.len (r : SluRun) : Nat := min 256 (fieldOf r.list 0 9)

def SluRun.stepAligned (r : SluRun) : Bool := bitOf r.list 9

/-- The classes HOLD opens, bit per class. -/
def SluRun.holdMap (r : SluRun) : Nat := fieldOf r.list 10 8

/-- The lowest entry below LEN with STRETCH, in a STEP-aligned list (R309, R310, R320). -/
def SluRun.stretchIdx (r : SluRun) : Option Nat :=
  if r.stepAligned then (r.entries.take r.len).findIdx? (bitOf ·.gate 8) else none

/-- The duration of entry `i` (R308, R310). -/
def SluRun.dur (r : SluRun) (i : Nat) : Nat :=
  if r.stretchIdx = some i then r.stretch
  else max 1000 (((r.entries[i]?).map (·.dur.toNat)).getD 0)

/-- Σ of the durations of entries 0 to `n` − 1. -/
def SluRun.sumTo (r : SluRun) (n : Nat) : Nat := ((List.range n).map r.dur).sum

/-- The start of the cycle under way. -/
def SluRun.origin (r : SluRun) : Int := r.since - r.sumTo (if r.hold then r.len else r.idx)

/-- The next entry from `i` on whose duration is not 0 (R310). -/
def SluRun.entryFrom (r : SluRun) (i : Nat) : Option Nat :=
  ((List.range r.len).filter fun j => decide (i ≤ j) && r.dur j != 0).head?

/-- The list begins a cycle at time `t`, with the period estimate `p`. (DEDUCED 19; assumption log) -/
def SluRun.begin (r : SluRun) (t : Int) (p : Nat) : SluRun :=
  let r0 := { r with stretch := 0 }
  let others := ((List.range r.len).filter fun i => r.stretchIdx != some i).map r0.dur |>.sum
  let r1 := { r with stretch := p - others }
  match r1.entryFrom 0 with
  | some j => { r1 with idx := j, hold := false, since := t }
  | none => { r1 with idx := 0, hold := true, since := t }

/-- Classes open now, bit per class. -/
def SluRun.gates (r : SluRun) : Nat :=
  if r.len = 0 then 255
  else if r.hold then r.holdMap
  else fieldOf (((r.entries[r.idx]?).map (·.gate)).getD 0) 0 8

/-- Whether class `c` stays open from now for `d` ns without a break (R311): entry `i` has `left` ns to run, HOLD where `i`
is past the last one, and a predicted start restarts the list in `cut` ns. An entry with nothing left to run gates nothing.
An accepted start, which no list foresees, is not waited for. (DEDUCED 19; assumption log) -/
def SluRun.openFor (c p : Nat) : Nat → SluRun → Nat → Int → Option Int → Int → Bool
  | 0, _, _, _, _, _ => true
  | fuel + 1, r, i, left, cut, d =>
    let again (x d : Int) : Bool :=
      let r' := r.begin 0 p
      openFor c p fuel r' (if r'.hold then r'.len else r'.idx) (r'.dur r'.idx + x) (some (p + x)) d
    if r.len = 0 then true
    else if cut.any fun x => decide (x ≤ 0) then again (cut.getD 0) d
    else if r.len ≤ i ∧ r.stepAligned then
      natBits r.holdMap c 1 = 1 && (match cut with
        | none => true
        | some x => decide (d ≤ x) || again 0 (d - x))
    else if left ≤ 0 then
      let j := if r.stepAligned ∨ i + 1 < r.len then i + 1 else 0
      openFor c p fuel r j (r.dur j + left) cut d
    else
      bitOf (((r.entries[i]?).map (·.gate)).getD 0) c &&
        (decide (d ≤ min left (cut.getD left)) ||
          match cut.filter fun x => decide (x ≤ left) with
          | some x => again 0 (d - x)
          | none => openFor c p fuel r i 0 (cut.map (· - left)) (d - left))

/-- Whether a frame of class `c` that takes `d` ns may start at `now` on this list; `cut` is the predicted start that
restarts it. -/
def SluRun.mayStart (r : SluRun) (c p : Nat) (now : Int) (cut : Option Int) (d : Int) : Bool :=
  SluRun.openFor c p 1024 r (if r.hold then r.len else r.idx) (r.since + r.dur r.idx - now) (cut.map (· - now)) d

/-! ### Open time (R313) -/

/-- Intervals of one cycle for class `c`: start, end and whether open. A STEP-aligned cycle has the period's length:
entries cut at its end, then the classes of HOLD. (DEDUCED 19; assumption log) -/
def SluRun.intervals (r : SluRun) (c period : Nat) : List (Nat × Nat × Bool) :=
  let others := (((List.range r.len).filter fun i => r.stretchIdx != some i).map { r with stretch := 0 }.dur).sum
  let r1 := { r with stretch := period - others }
  let entry (i : Nat) : Nat × Nat × Bool :=
    (r1.sumTo i, r1.sumTo (i + 1), bitOf (((r.entries[i]?).map (·.gate)).getD 0) c)
  let all := (List.range r.len).map entry
  if r.stepAligned then
    (all ++ [(r1.sumTo r.len, max period (r1.sumTo r.len), natBits r.holdMap c 1 == 1)]).map fun (a, b, o) =>
      (min a period, min b period, o)
  else all

/-- Walk intervals backwards from offset `pos` until `need` ns of open time lie behind: the offset, or what is missing. -/
def backOpen (pos : Nat) : List (Nat × Nat × Bool) → Nat → Nat ⊕ Nat
  | [], need => .inr need
  | (a, b, o) :: rest, need =>
    let e := min b pos
    if need = 0 then .inl pos
    else if o && decide (a < e) then
      if need ≤ e - a then .inl (e - need) else backOpen pos rest (need - (e - a))
    else backOpen pos rest need

/-- The same over earlier cycles of `len` ns, each with open time. -/
def backCycles (ivs : List (Nat × Nat × Bool)) (len : Nat) (cycle : Int) : Nat → Nat → Int
  | 0, _ => -1
  | fuel + 1, need =>
    match backOpen len ivs need with
    | .inl o => cycle + o
    | .inr rest => backCycles ivs len (cycle - len) fuel rest

/-- The latest time t for which [t, `stop`) holds `need` ns of open time for class `c` on a list whose cycles begin at
`origin`; −1 where the class never opens. (DEDUCED 35; assumption log) -/
def SluRun.latestOpen (r : SluRun) (c period : Nat) (origin stop : Int) (need : Nat) : Int :=
  if r.len = 0 then stop - need
  else
    let ivs := r.intervals c period
    let len := if r.stepAligned then period else (ivs.getLast?.map (·.2.1)).getD 0
    if len = 0 ∨ !(ivs.any fun (a, b, o) => o && decide (a < b)) then -1
    else
      let pos := ((stop - origin) % len).toNat
      match backOpen pos ivs.reverse need with
      | .inl o => stop - pos + o
      | .inr rest => backCycles ivs.reverse len (stop - pos - len) (rest + 1) rest

/-- The same on a link's running list. -/
def latestOpen (s : State) (link c : Nat) (stop : Int) (need : Nat) : Int :=
  match s.bw.lists[s.bw.linkList.getD link 0]? with
  | none => stop - need
  | some r => r.latestOpen c s.period (if r.stepAligned then s.tide.startTime else r.base) stop need

/-- The entry in force at `now` of a list whose cycle has begun: entries that have ended give way to the next. -/
def SluRun.advance (now : Int) : Nat → SluRun → SluRun
  | 0, r => r
  | fuel + 1, r =>
    let stop := r.since + r.dur r.idx
    if r.len = 0 || r.hold || decide (now < stop) then r
    else
      match r.entryFrom (r.idx + 1) with
      | some j => advance now fuel { r with idx := j, since := stop }
      | none => if r.stepAligned then { r with hold := true, since := stop } else r

/-- The last cycle start BASE + k × Σ not after `now` of a PTP-aligned list (R309). -/
def SluRun.cycleStart (r : SluRun) (now : Int) : Int := r.base + (now - r.base) / r.sumTo r.len * r.sumTo r.len

/-- The start of the cycle that a list is in at `now` when it takes effect then: of a PTP-aligned one, its last cycle start. -/
def SluRun.entryStart (r : SluRun) (now : Int) : Int := if r.stepAligned || r.len == 0 then now else r.cycleStart now

/-- The list that words `n` describe, in place of `r`. -/
def SluRun.replaced (r : SluRun) (n : SluList) : SluRun :=
  { r with list := n.list, base := n.baseLo.toNat + n.baseHi.toNat * 2 ^ 32, entries := n.entries }

/-- List `k` starts a cycle at time `t`. A waiting list takes over when `take` says that this is its cycle start, and
links that move to the list move (R312). (DEDUCED 19; assumption log) -/
def sluCycle (k : Nat) (take : Bool) (t : Int) (s : State) : State :=
  match s.bw.lists[k]? with
  | none => s
  | some r =>
    let new := (s.applied.slu[k]?).getD SluList.reset
    let swap := r.pending.isSome && take
    let r1 := if swap then
        { r.replaced new with pending := none }
      else r
    let links := if r.pending.isSome && !take then s.bw.linkList
      else s.bw.linkList.mapIdx fun m l => if fieldOf s.applied.sluMap (2 * m) 2 = k then k else l
    let t1 := s.modBw fun b => { b with lists := b.lists.set k ((r1.begin t s.period).advance s.now 257), linkList := links }
    if swap || links ≠ s.bw.linkList then setEv .bw 4 t1 else t1

/-- The applied words of list `k` differ from those of the list that runs. -/
def sluChanged (s : State) (k : Nat) : Bool :=
  match s.bw.lists[k]?, s.applied.slu[k]? with
  | some r, some n =>
    decide (r.list ≠ n.list ∨ r.base ≠ n.baseLo.toNat + n.baseHi.toNat * 2 ^ 32 ∨ r.entries ≠ n.entries)
  | _, _ => false

/-- The Sluice group applied (R312): a new list waits for its first cycle start; one of length 0, or any list applied
with no job active, takes effect at once. A list that this apply does not change keeps the time it waits from.
(DEDUCED 19; assumption log) -/
def sluApply (immediate : Bool) (old : StRegs) (s : State) : State :=
  s.each (List.range 4) fun k t =>
    let t1 := if sluChanged t k && decide (t.applied.slu[k]? ≠ old.slu[k]?) then
        t.modBw fun b => { b with lists := updAt b.lists k fun r => { r with pending := some t.now } }
      else t
    let len0 := fieldOf (((t.applied.slu[k]?).map (·.list)).getD 0) 0 9 = 0
    let moves := (List.range 16).any fun m =>
      fieldOf t.applied.sluMap (2 * m) 2 == k && t.bw.linkList.getD m 0 != k
    let start := match t.bw.lists[k]?, t.applied.slu[k]? with
      | some r, some n => if sluChanged t k then (r.replaced n).entryStart t.now else if r.len = 0 then t.now else r.origin
      | _, _ => t.now
    if (len0 || immediate) && (sluChanged t k || moves) then sluCycle k true start t1 else t1

/-- Whether list `k` waits and is aligned to step phase. -/
def sluWaitsForStep (s : State) (k : Nat) (r : SluRun) : Bool :=
  r.pending.isSome && (((s.applied.slu[k]?).map fun n => bitOf n.list 9).getD false)

/-- An accepted step start at time `t0` (R39, R310, R312): a waiting STEP-aligned list takes over, and a STEP-aligned list that
runs restarts, also one that a waiting PTP-aligned list is to replace. (DEDUCED 19; assumption log) -/
def sluStepStart (t0 : Int) (s : State) : State :=
  s.each (List.range 4) fun k t =>
    match t.bw.lists[k]? with
    | none => t
    | some r =>
      if sluWaitsForStep t k r then sluCycle k true t0 t
      else if r.stepAligned && r.len != 0 then sluCycle k false t0 t
      else t

/-- The duration of a list's entry ends, or a predicted step start restarts a STEP-aligned list while no accepted start
stands (R309, R310); a waiting list and a link that is to move wait for an accepted one (R312). -/
def sluEntryChange (k : Nat) (s : State) : State :=
  match s.bw.lists[k]? with
  | none => s
  | some r =>
    let now : Int := s.now
    let predicted := r.stepAligned && (s.tide.stepState == .none || s.tide.stepState == .lost)
    if r.len = 0 then s
    else if !r.stepAligned then
      if r.cycleStart now = r.origin then
        s.modBw fun b => { b with lists := b.lists.set k ((r.begin r.origin s.period).advance now 257) }
      else sluCycle k false (r.cycleStart now) s
    else if predicted ∧ r.origin + s.period ≤ now then
      s.modBw fun b => { b with lists := b.lists.set k (r.begin (r.origin + s.period) s.period) }
    else if r.hold then s
    else
      let stop := r.since + r.dur r.idx
      if now < stop then s
      else
        match r.entryFrom (r.idx + 1) with
        | some j => s.modBw fun b => { b with lists := b.lists.set k { r with idx := j, since := stop } }
        | none => s.modBw fun b => { b with lists := b.lists.set k { r with hold := true, since := stop } }

/-- SLUICE_ENTRY_CHANGE (R309). -/
def execSluiceEntryChange (list : Fin 4) (s : State) : Answer := .next (sluEntryChange list s)

/-- SLUICE_LIST_TAKEOVER (R312): the first cycle start of a waiting PTP-aligned list at or after its apply; a waiting
STEP-aligned list takes over in the event of R39. -/
def execSluiceListTakeover (list : Fin 4) (s : State) : Answer :=
  match s.bw.lists[(list : Nat)]?, s.applied.slu[(list : Nat)]? with
  | some r, some n =>
    let start := (r.replaced n).cycleStart s.now
    if r.pending.any (fun t => decide (t ≤ start)) && !bitOf n.list 9 then .next (sluCycle list true start s) else .next s
  | _, _ => .next s

/-! ### Credits of classes and queues (R303, R304, R306)

Credits count 1/8,000 byte, in which a rate of r Mb/s grows by r each ns. -/

/-- The link a connection uses (R274). -/
def Conn.onLink (c : Conn) : Nat := if c.onAlt then c.alt.getD c.link else c.link

/-- Run-time state and parameters of a class of a link. -/
def State.classRun (link cls : Nat) (s : State) : ClassRun := s.bw.classes.getD (link * 8 + cls) ⟨0, 0, 0, 0, false, 0⟩

def State.classRegs (link cls : Nat) (s : State) : ClassRegs := s.applied.classes.getD (link * 8 + cls) ClassRegs.reset

/-- The link's rate in Mb/s (R267). -/
def State.linkRate (m : Nat) (s : State) : Nat := if bitOf s.applied.egrPort (m / 2) then 400000 else 800000

/-- The MAC address of a link (R267): the fused base and 2n for En or Ena, 2n + 1 for Enb, which is the link's number (R299). -/
def linkMac (m : Nat) : BitVec 48 := Config.macBase + BitVec.ofNat 48 m

/-- A burst below 9,236 bytes acts as 9,236 (R303). -/
def burstOf (w : Word) : Nat := max 9236 w.toNat

/-- A credit of 1/8,000 byte at the present time. -/
def creditNow (credit : Int) (since rate burst now : Nat) : Int := min (burst * 8000 : Nat) (credit + (rate * (now - since) : Nat))

/-- The class shaper's credit under parameters `g` (R303). -/
def ClassRun.creditAt (g : ClassRegs) (now : Nat) (r : ClassRun) : Int :=
  creditNow r.credit r.since g.rate.toNat (burstOf g.burst) now

def classCredit (m k : Nat) (s : State) : Int := (s.classRun m k).creditAt (s.classRegs m k) s.mono

def classOpen (m k : Nat) (s : State) : Bool := (s.classRegs m k).rate == 0 || decide (0 ≤ classCredit m k s)

/-- The credit of a queue in TOKEN mode under parameters `g` (R304). -/
def Conn.tokenAt (g : ClassRegs) (now : Nat) (c : Conn) : Int :=
  creditNow c.tokenCredit c.tokenSince g.qRate.toNat (burstOf g.qBurst) now

def tokenNow (c : Conn) (s : State) : Int := c.tokenAt (s.classRegs c.onLink c.cls) s.mono

/-- The congestion bucket of R306, in 1/65,536 of a credit, with a burst of one frame of the largest charged length. -/
def ccNow (c : Conn) (s : State) : Int :=
  min (9236 * 8000 * 65536) (c.ccBucket + (c.ccRate * s.linkRate c.onLink * (s.mono - c.ccSince) : Nat))

def ccOpen (c : Conn) (s : State) : Bool := c.ccRate == 65536 || decide (0 ≤ ccNow c s)

/-- The credits of a queue stand at the present time, before its link, its rate or its parameters change. -/
def Conn.settled (g : ClassRegs) (s : State) (c : Conn) : Conn :=
  { c with tokenCredit := c.tokenAt g s.mono, tokenSince := s.mono, ccBucket := ccNow c s, ccSince := s.mono }

/-- PFC acts on a class: PFC_EN without TAG has no effect (R307). -/
def ClassRegs.pfc (g : ClassRegs) : Bool := bitOf g.class0 19 && bitOf g.class0 20

/-- The priority of a class that flow control acts on. -/
def ClassRegs.priority (g : ClassRegs) : Option Nat := if g.pfc then some (fieldOf g.class0 16 3) else none

/-- New class parameters govern growth from their apply on: what the old ones gave stands. A class that leaves its priority is
no longer paused (R307). -/
def bwApply (old : StRegs) (s : State) : State :=
  let regs (i : Nat) : ClassRegs := old.classes.getD i ClassRegs.reset
  (s.modBw fun b => { b with classes := b.classes.mapIdx fun i r => 
    { r with credit := r.creditAt (regs i) s.mono, since := s.mono
             paused := r.paused && (s.applied.classes.getD i ClassRegs.reset).priority == (regs i).priority } }).modEgr
    fun e => { e with conns := e.conns.map fun c => c.settled (regs (c.onLink * 8 + c.cls)) s }

end Sys2Proof.Machine
end

