-- ==== Sys2Proof/Machine/Supplies.lean ====
section
/-! DEFINITION. Supplies of the SPDs (R427, R440 to R442): the steps of Night entry and exit, the clamps of isolation, and the
gated clocks of Dusk. -/

namespace Sys2Proof.Machine

/-! ### One SPD -/

/-- Step `k` of Night entry (R440); the flits of step 2 are `sendOnEdges`. -/
def SpdPower.entryStep (k : Nat) (p : SpdPower) : SpdPower :=
  match k with
  | 1 => { p with saved := true }
  | 3 => { p with hbm := p.hbm.map fun _ => .selfRefresh }
  | 4 => { p with isolated := true }
  | 5 => { p with bank0 := .retained, scrubbed := false }
  | 6 => { p with rail := false, inReset := true, aclk := .off, banks := .off, zeroed := false }
  | _ => p

/-- Step `k` of Night exit (R440). Before step 6 ends the Pilots, which run from step 5, have scrubbed bank 0 and written
banks 1 to 15, whose contents came back undefined, with zero (R442, R443). -/
def SpdPower.exitStep (k : Nat) (p : SpdPower) : SpdPower :=
  match k with
  | 1 => { p with rail := true }
  | 2 => { p with inReset := true, aclk := .oscillator }
  | 3 => { p with bank0 := .on, banks := .on }
  | 4 => { p with isolated := false }
  | 5 => { p with inReset := false }
  | 6 => { p with hbm := p.hbm.map fun _ => .active, scrubbed := true, zeroed := true, saved := false }
  | 7 => { p with aclk := .pll }
  | _ => p

/-- The clocks gated and the stacks in power-down: Dusk (R427). -/
def SpdPower.doze (p : SpdPower) : SpdPower := { p with aclk := .gated, hbm := p.hbm.map fun _ => .powerDown }

/-- Back from Dusk. -/
def SpdPower.rouse (p : SpdPower) : SpdPower := { p with aclk := .pll, hbm := p.hbm.map fun _ => .active }

/-- What leaves an SPD, by the groups of R441. -/
structure SpdSignals where
  /-- flits, credits, event lines, reset requests and error reports go out -/
  speaks : Bool
  parked : Bool
  refreshHold : List Bool
  sensorsValid : Bool
  jtagBypass : Bool
  awake : Bool
  deriving DecidableEq, Repr

/-- Isolation clamps every group (R441). -/
def SpdPower.signals (parked : Bool) (p : SpdPower) : SpdSignals :=
  if p.isolated then ⟨false, true, p.hbm.map fun _ => true, false, true, false⟩
  else ⟨true, parked, p.hbm.map (· == .selfRefresh), true, false, true⟩

/-! ### All of them -/

def State.modPower (n : Nat) (f : SpdPower → SpdPower) (s : State) : State := s.modSpd n fun d => { d with power := f d.power }

/-- The core of SPD `n` is clocked (R427, R440). -/
def State.clocked (n : Nat) (s : State) : Bool :=
  ((s.spd? n).map fun d => d.power.aclk == .pll || d.power.aclk == .oscillator).getD false

/-- What leaves die `d` is clamped: it is an SPD behind isolation (R441). -/
def State.clamped (d : Nat) (s : State) : Bool := decide (d < 8) && ((s.spd? d).map fun x => x.power.isolated).getD false

/-- An SPD sends a flit on every edge of its own, which sets or clears the sideband (R440); a receiver starts to judge silence
anew (R17). -/
def sendOnEdges (n : Nat) (k : FlitKind) (s : State) : State :=
  s.each (edgesOf n) fun e t =>
    (t.emit (.flit e ((edgeEnds e).1 == n) k)).modFab fun f =>
      { f with edges := updAt f.edges e fun x => { x with parked := k == .park, lowHeard := s.mono, highHeard := s.mono } }

/-- Step `k` of Night entry on SPD `n`. -/
def entryStepOn (k n : Nat) (s : State) : State := if k = 2 then sendOnEdges n .park s else s.modPower n (SpdPower.entryStep k)

/-- Step `k` of Night exit on SPD `n`. -/
def exitStepOn (k n : Nat) (s : State) : State :=
  let a := s.modPower n (SpdPower.exitStep k)
  if k = 6 then sendOnEdges n .unpark a else a

/-- Step `k` on each SPD of a list. -/
def exitStepAll (k : Nat) (l : List Nat) (s : State) : State := s.each l (exitStepOn k)

/-- Steps 1 to 6 of Night entry, in order, on every serving SPD. -/
def nightEntry (s : State) : State := s.each [1, 2, 3, 4, 5, 6] fun k t => t.each s.servingList (entryStepOn k)

/-- The next step of Night exit on every serving SPD. -/
def nextExitStep (s : State) : State :=
  (exitStepAll (s.pwr.exitStep + 1) s.servingList s).modPwr fun p => { p with exitStep := p.exitStep + 1 }

/-- The exit from Dusk or Night begins; in Night, with its first step (R440, R443). -/
def beginExit (s : State) : State :=
  if s.pwr.exiting then s
  else
    let a := s.modPwr fun p => { p with exiting := true, exitFrom := s.mono, exitStep := 0 }
    if s.pwr.state = .night then nextExitStep a else a

/-- Exit steps are due within these times of the wake, in ns (R443), and earlier at a time the spec does not give.
(DESIGN CHOICE 195; assumption log) -/
def exitStepDue (k : Nat) (s : State) : Bool :=
  let bound := match k with | 1 => 0 | 2 | 3 | 4 | 5 => 210000 | 6 => 1200000 | _ => 1950000
  decide (s.pwr.exitFrom + min bound (Config.exitStepNs k) ≤ s.mono)

/-- The steps of Night exit up to the sixth that are due. -/
def takeExitSteps : Nat → State → State
  | 0, s => s
  | n + 1, s =>
    if s.pwr.state = .night ∧ s.pwr.exiting ∧ s.pwr.exitStep < 6 ∧ exitStepDue (s.pwr.exitStep + 1) s then
      takeExitSteps n (nextExitStep s)
    else s

/-- What is left of Night exit, up to step 7. -/
def finishExit (s : State) : State := s.each (List.range (7 - s.pwr.exitStep)) fun _ t => nextExitStep t

end Sys2Proof.Machine
end

