-- ==== Sys2Proof/Machine/Wake.lean ====
section
/-! DEFINITION. Wakes (R435 to R437): what a wake does in each power state and in each phase of an entry. -/

namespace Sys2Proof.Machine

/-- Entry is guarded in Dawn and on the recovery path (R437, R444). -/
def State.guarded (s : State) : Bool := s.pwr.state == .dawn || s.sec.recovery

/-- The Pilots run: in Noon, with no entry under way (R427, R436). -/
def State.pilotsRun (s : State) : Bool := s.pwr.state == .noon && s.pwr.entry.isNone

/-- The SPDs sleep, or are about to: a message that needs one waits (R435, R436). -/
def State.asleep (s : State) : Bool := s.pwr.entry.isSome || s.pwr.state == .dusk || s.pwr.state == .night

/-- Bits of `AON_WAKE` (R393). -/
def wakeBit (i : Nat) (s : State) : State :=
  s.modAon fun a => { a with live := { a.live with wake := a.live.wake ||| bit32 i } }

/-- The 6 ACLK cycles of gate closing, in ns rounded up (R430, R436). (DEDUCED 111; assumption log) -/
def closingNs (op : Nat) : Nat := [4, 5, 7, 10].getD op 10

/-- A wake of `AON_WAKE` bit `i`. In the drain it aborts an unguarded entry; in the gate-closing cycles an edge is lost
and a level held; later it is held, and in Dusk or Night it begins the exit. In Noon and Dawn nothing sleeps.
(DEDUCED 20, DEDUCED 67, DEDUCED 111; assumption log) -/
def wake (i : Nat) (level : Bool) (s : State) : State :=
  match s.pwr.entry with
  | some (_, .drain) =>
    if s.guarded then wakeBit i (s.modPwr fun p => { p with heldWake := true })
    else wakeBit i (s.modPwr fun p => { p with entry := none, idleSince := none })
  | some (_, .closing) =>
    if level || s.guarded || decide (s.pwr.commitAt + closingNs s.pwr.op ≤ s.mono) then wakeBit i (s.modPwr fun p => { p with heldWake := true }) else s
  | some (_, .completing) => wakeBit i (s.modPwr fun p => { p with heldWake := true })
  | none =>
    match s.pwr.state with
    | .dusk | .night => wakeBit i (beginExit s)
    | .noon | .dawn => s

end Sys2Proof.Machine
end

