-- ==== Sys2Proof/Machine/Connections.lean ====
section
/-! DEFINITION. Connections and their queues (R270, R280, R299, R314, R316): lookup, work requests, what is sent and what
is acknowledged, activity and residence. -/

namespace Sys2Proof.Machine

def State.conn? (i : Nat) (s : State) : Option Conn := s.egr.conns.find? (·.idx == i)

def State.modConn (i : Nat) (f : Conn → Conn) (s : State) : State :=
  s.modEgr fun e => { e with conns := e.conns.map fun c => if c.idx = i then f c else c }

/-- A connection is in service: it exists and is not in error. -/
def State.connUp (i : Nat) (s : State) : Bool := ((s.conn? i).map (·.error.isNone)).getD false

/-- A connection is active while it has work: packets, unacknowledged requests, responses owed, waits (R314), or a packet
waiting in the receive buffer (R315). -/
def Conn.active (c : Conn) : Bool := c.error.isNone && (!c.queue.isEmpty || !c.rxWait.isEmpty)

def State.activeConns (s : State) : Nat := (s.egr.conns.filter (·.active)).length

/-- The SPDs that hold a connection's context (R273): SPD i mod 8, and SPD (i + 4) mod 8 or the next serving one in ascending
order; the same for a first one that is lost. (DESIGN CHOICE 193; assumption log) -/
def contextPlace (i : Nat) (serving : List Nat) : List Nat :=
  let from_ (k : Nat) (not : Option Nat) : Option Nat :=
    ((List.range 8).map fun j => (k + j) % 8).find? fun n => serving.contains n && not != some n
  let first := from_ (i % 8) none
  [first, from_ ((i + 4) % 8) first].filterMap id

/-- An IPv4-mapped address travels in IPv4. -/
def isIpv4 (gid : BitVec 128) : Bool := gid >>> 32 == 0xFFFF

/-- Data bytes a packet carries: 16 of them are the tag on a protected connection (R281). -/
def Conn.payload (c : Conn) : Nat := if c.encKey = 0 then c.pmtu else c.pmtu - 16

/-- Packets of `n` bytes. -/
def Conn.packets (c : Conn) (n : Nat) : Nat := max 1 ((n + c.payload - 1) / c.payload)

/-- OVERCOMMIT rises with a 4,097th active connection, and the slice under way is then no whole slice below it (R316). -/
def overcommitRise (s : State) : State :=
  if s.activeConns ≤ 4096 then s
  else if s.bw.overcommit then s.modBw fun b => { b with overSlices := false }
  else postEvent 1 true [] (setEv .bw 1 (s.modBw fun b => { b with overcommit := true, overSlices := false }))

/-- The device is the requester of a work request; a response answers a peer's READ. -/
def Wr.request (w : Wr) : Bool := w.kind != .response

/-- Which work requests hold packets ready to send (R299): a request behind a wait of R280 holds none. -/
def readyMask : Bool → List Wr → List Bool
  | _, [] => []
  | held, w :: ws =>
    let h := held || (w.request && w.wait.isSome)
    ((!w.request || !h) && w.left != 0) :: readyMask h ws

/-- The work requests of a queue that hold packets ready to send. -/
def Conn.readyWrs (c : Conn) : List Wr := ((c.queue.zip (readyMask false c.queue)).filter (·.2)).map (·.1)

/-- A queue that was empty and receives a packet takes the virtual time of its class (R305). -/
def Conn.woken (was c : Conn) (s : State) : Conn :=
  if was.readyWrs.isEmpty ∧ !c.readyWrs.isEmpty then { c with vtag := max c.vtag (s.classRun c.onLink c.cls).vtime } else c

/-- A work request enters a connection's queue; a connection in error takes none (R280, R295). -/
def postWr (i : Nat) (wr : Wr) (s : State) : State :=
  match s.conn? i with
  | none => s
  | some c =>
    if c.error.isSome then s
    else
      overcommitRise (s.modConn i fun c => Conn.woken c { c with queue := c.queue ++ [{ wr with posted := s.mono }] } s)

/-- An RDMA WRITE of the device. -/
def Conn.writeWr (c : Conn) (owner : WrFor) (addr : Nat) (rkey : Word) (bytes : List Byte) (wait : Option (Nat × Nat))
    (budget : Nat) : Wr :=
  let n := c.packets bytes.length
  ⟨.write, owner, addr, rkey, bytes, n, n, none, wait, budget, 0, bytes.length⟩

/-- A SEND of the device. -/
def Conn.sendWr (_c : Conn) (owner : WrFor) (bytes : List Byte) : Wr :=
  ⟨.send, owner, 0, 0, bytes, 1, 1, none, none, 0, 0, 0⟩

/-- An RDMA READ of `n` bytes: one request packet, as many PSNs as its response has packets. -/
def Conn.readWr (c : Conn) (owner : WrFor) (addr : Nat) (rkey : Word) (n : Nat) : Wr :=
  ⟨.read, owner, addr, rkey, [], c.packets n, 1, none, none, 0, 0, n⟩

def postWrite (i : Nat) (owner : WrFor) (addr : Nat) (rkey : Word) (bytes : List Byte) (wait : Option (Nat × Nat))
    (budget : Nat) (s : State) : State :=
  match s.conn? i with
  | none => s
  | some c => postWr i (c.writeWr owner addr rkey bytes wait budget) s

def postSend (i : Nat) (owner : WrFor) (bytes : List Byte) (s : State) : State :=
  match s.conn? i with
  | none => s
  | some c => postWr i (c.sendWr owner bytes) s

/-- Some connection still holds a work request that satisfies `p`. -/
def State.anyWr (p : WrFor → Bool) (s : State) : Bool := s.egr.conns.any fun c => c.queue.any fun w => p w.owner

/-- A wait is satisfied: (count − t) mod 2^32 < 2^31 (R280). -/
def waitMet (s : State) (w : Nat × Nat) : Bool :=
  match s.conn? w.1 with
  | none => false
  | some c => decide ((c.count + (2 ^ 32 - w.2 % 2 ^ 32)) % 2 ^ 32 < 2 ^ 31)

/-! ### Sent and acknowledged (R270) -/

/-- PSNs of a request that have gone out: a READ's request packet takes those of its whole response. -/
def Wr.sentPsns (w : Wr) : Nat :=
  match w.kind with
  | .read => if w.left = 0 then w.total else 0
  | _ => w.total - w.left

/-- The PSN after the last one sent. -/
def Conn.sentEnd (c : Conn) : Nat :=
  (c.queue.filter (·.request)).foldl (fun n w =>
    match w.psn with
    | some p => max n (p + w.sentPsns)
    | none => n) c.sqUna

/-- RDMA READs outstanding (R270). -/
def Conn.readsOut (c : Conn) : Nat := (c.queue.filter fun w => w.kind == .read && w.psn.isSome).length

/-- The acknowledgements up to `una` complete this request; a READ completes with its last response (R280). -/
def Wr.ackedBy (una : Nat) (w : Wr) : Bool :=
  (w.kind == .write || w.kind == .send) && w.left == 0 && (w.psn.map fun p => decide (p + w.total ≤ una)).getD false

/-- The oldest READ whose response is incomplete holds back every acknowledgement from its PSN on. -/
def Conn.ackCap (c : Conn) (una : Nat) : Nat :=
  c.queue.foldl (fun n w => if w.kind = .read then (w.psn.map fun p => min n p).getD n else n) una

/-- The connection's oldest unacknowledged PSN moves to `una`: the requests this completes, and the connection after. -/
def Conn.ackTo (una : Nat) (now : Nat) (c : Conn) : List Wr × Conn :=
  let u := c.ackCap una
  let done := c.queue.filter (·.ackedBy u)
  (done, { c with sqUna := max c.sqUna u, queue := c.queue.filter fun w => !w.ackedBy u
                  count := (c.count + done.length) % 2 ^ 32, retries := if c.sqUna < u then 0 else c.retries
                  rnrRetries := if c.sqUna < u then 0 else c.rnrRetries, ackAt := if c.sqUna < u then now else c.ackAt })

/-- A started request goes back to the oldest unacknowledged PSN; the packets it sends again. A READ partly answered asks
for the rest of its range. -/
def Wr.rewind (c : Conn) (una now : Nat) (w : Wr) : Wr × Nat :=
  match w.psn with
  | none => (w, 0)
  | some p =>
    match w.kind with
    | .response => (w, 0)
    | .read =>
      let got := una - p
      ({ w with left := 1, posted := now, psn := some (p + got), total := w.total - got, addr := w.addr + got * c.payload,
                dmaLen := w.dmaLen - got * c.payload }, 1 - w.left)
    | _ =>
      let acked := min w.total (una - p)
      ({ w with left := w.total - acked, posted := now }, w.total - w.left - acked)

/-- Go-back-N from the oldest unacknowledged PSN (R270, R297). -/
def goBack (i : Nat) (s : State) : State :=
  match s.conn? i with
  | none => s
  | some c =>
    let ws := c.queue.map (·.rewind c c.sqUna s.mono)
    let n := (ws.map (·.2)).sum
    let a := (s.modConn i fun c => Conn.woken c { c with queue := ws.map (·.1), ackAt := s.mono } s).modCnt fun x =>
      { x with egrRetxCnt := x.egrRetxCnt + BitVec.ofNat 32 n }
    a.each (List.range n) fun _ t => countPerf (8 + c.onLink / 8) 0x200 t

/-! ### Links that go down (R268, R274) -/

/-- A quiet period opens on a connection. -/
def openQuiet (i : Nat) (s : State) : State := s.modConn i fun c => { c with quiet := true, quietAt := s.mono }

/-- A connection changes its link: the quiet period opens (R274). (DEDUCED 60; assumption log) -/
def changePath (i : Nat) (alt : Bool) (s : State) : State :=
  openQuiet i (setEv .egr 0x40 (s.modConn i fun c => { c.settled (s.classRegs c.onLink c.cls) s with onAlt := alt }))

/-- The connections on a link that went down move to a second link that is up, and resend (R274). -/
def leaveLink (m : Nat) (s : State) : State :=
  s.each (s.egr.conns.filter fun c => c.error.isNone && !c.onAlt && c.link == m) fun c u =>
    match c.alt with
    | some a => if bitOf u.egr.linksUp a then goBack c.idx (changePath c.idx true u) else u
    | none => u

/-- Links are declared down together, a wake (R268, R435). -/
def downLinks (ms : List Nat) (s : State) : State :=
  if ms.isEmpty then s
  else
    let a := setEv .egr 1 (s.modEgr fun e =>
      { e with linksUp := ms.foldl (fun w m => w &&& ~~~((1 : BitVec 16) <<< m)) e.linksUp })
    wake 3 false (a.each ms leaveLink)

end Sys2Proof.Machine
end

