-- ==== Sys2Proof/Machine/Aes.lean ====
section
/-! DEFINITION. AES-256 of FIPS 197, its GCM mode (NIST SP 800-38D) for protected connections (R281), its XTS mode
(IEEE 1619) and the key wrap of RFC 3394 for data at rest (R465). The standards give the algorithms; the spec names them. -/

namespace Sys2Proof.Machine

/-! ### The block cipher -/

/-- Multiplication by x in GF(2^8). -/
def aesDouble (b : Byte) : Byte := (b <<< 1) ^^^ (if b.msb then 0x1B else 0)

/-- The S-box of FIPS 197, 16 entries a row, the first entry of a row in its lowest byte. -/
def aesBox : List Nat :=
  [0x76ABD7FE2B670130C56F6BF27B777C63,
   0xC072A49CAFA2D4ADF04759FA7DC982CA,
   0x1531D871F1E5A534CCF73F362693FDB7,
   0x75B227EBE28012079A059618C323C704,
   0x842FE329B3D63B52A05A6E1B1A2C8309,
   0xCF584C4A39BECB6A5BB1FC20ED00D153,
   0xA89F3C507F02F94585334D43FBAAEFD0,
   0xD2F3FF1021DAB6BCF5389D928F40A351,
   0x73195D643D7EA7C41744975FEC130CCD,
   0xDB0B5EDE14B8EE4688902A22DC4F8160,
   0x79E4959162ACD3C25C2406490A3A32E0,
   0x08AE7A65EAF4566CA94ED58D6D37C8E7,
   0x8A8BBD4B1F74DDE8C6B4A61C2E2578BA,
   0x9E1DC186B95735610EF6034866B53E70,
   0xDF2855CEE9871E9B948ED9691198F8E1,
   0x16BB54B00F2D99416842E6BF0D89A18C]

def aesSub (b : Byte) : Byte := BitVec.ofNat 8 (aesBox.getD (b.toNat / 16) 0 >>> (8 * (b.toNat % 16)))

/-- Bytewise exclusive or. -/
def xorBytes (a b : List Byte) : List Byte := List.zipWith (· ^^^ ·) a b

/-- The next word of the key schedule, from the eight before it, the latest first. -/
def aesNextWord (i : Nat) (ws : List (List Byte)) : List Byte :=
  let t := ws.headD []
  let u :=
    if i % 8 = 0 then xorBytes ((t.drop 1 ++ t.take 1).map aesSub) [(1 : Byte) <<< (i / 8 - 1), 0, 0, 0]
    else if i % 8 = 4 then t.map aesSub
    else t
  xorBytes (ws.getD 7 []) u

/-- Bytes in groups of `k`. -/
def groupsOfBytes (k : Nat) (bs : List Byte) : List (List Byte) :=
  (List.range ((bs.length + k - 1) / k)).map fun i => (bs.drop (k * i)).take k

/-- The 15 round keys of a 32-byte key. -/
def aesKeys (key : List Byte) : List (List Byte) :=
  let ws := (List.range 52).foldl (fun ws i => aesNextWord (i + 8) ws :: ws) (groupsOfBytes 4 key).reverse
  groupsOfBytes 16 ws.reverse.flatten

/-- ShiftRows over the 16 bytes, column by column. -/
def aesShiftRows (b : List Byte) : List Byte := (List.range 16).map fun i => b.getD ((i + 4 * (i % 4)) % 16) 0

def aesMixColumn (c : List Byte) : List Byte :=
  (List.range 4).map fun i =>
    let at_ (k : Nat) := c.getD ((i + k) % 4) 0
    aesDouble (at_ 0) ^^^ aesDouble (at_ 1) ^^^ at_ 1 ^^^ at_ 2 ^^^ at_ 3

/-- The rounds after the first key, the last one without MixColumns. -/
def aesRounds : List (List Byte) → List Byte → List Byte
  | [], b => b
  | [k], b => xorBytes (aesShiftRows (b.map aesSub)) k
  | k :: ks, b => aesRounds ks (xorBytes ((groupsOfBytes 4 (aesShiftRows (b.map aesSub))).flatMap aesMixColumn) k)

/-- One block under the round keys of a key. -/
def aesBlock (keys : List (List Byte)) (b : List Byte) : List Byte :=
  aesRounds (keys.drop 1) (xorBytes b (keys.headD []))

/-- One block of 16 bytes under a 32-byte key. (PRESUMED 181; assumption log) -/
def aes256 (key b : List Byte) : List Byte := aesBlock (aesKeys key) b

/-! ### GCM -/

/-- Bytes as one number, the first most significant. -/
def bigEnd (bs : List Byte) : Nat := bytesNat bs.reverse

/-- A number as `n` bytes, the most significant first. -/
def bigBytes (n v : Nat) : List Byte := (natBytes n v).reverse

/-- Multiplication in GF(2^128) of GCM: `x` bit by bit from its most significant. -/
def ghashMul (x : BitVec 128) : Nat → BitVec 128 → BitVec 128 → BitVec 128
  | 0, _, z => z
  | n + 1, v, z =>
    ghashMul x n ((v >>> 1) ^^^ (if v.getLsbD 0 then (0xE1 : BitVec 128) <<< 120 else 0)) (if x.getLsbD n then z ^^^ v else z)

/-- GHASH of whole blocks. -/
def ghash (h : BitVec 128) (bs : List Byte) : BitVec 128 :=
  (groupsOfBytes 16 bs).foldl (fun y b => ghashMul (y ^^^ BitVec.ofNat 128 (bigEnd b)) 128 h 0) 0

/-- Zeros up to a multiple of 16. -/
def padBlock (bs : List Byte) : List Byte := bs ++ List.replicate ((16 - bs.length % 16) % 16) 0

/-- AES-256-GCM with a 12-byte nonce: the ciphertext, then the 16-byte tag. (PRESUMED 181; assumption log) -/
def gcmSeal (key nonce aad plain : List Byte) : List Byte :=
  let keys := aesKeys key
  let h := BitVec.ofNat 128 (bigEnd (aesBlock keys (List.replicate 16 0)))
  let counter (i : Nat) : List Byte := aesBlock keys (nonce ++ bigBytes 4 i)
  let c := (groupsOfBytes 16 plain).zipIdx.flatMap fun (b, i) => xorBytes b (counter (i + 2))
  let lens := bigBytes 8 (8 * aad.length) ++ bigBytes 8 (8 * c.length)
  c ++ xorBytes (bigBytes 16 (ghash h (padBlock aad ++ padBlock c ++ lens)).toNat) (counter 1)

/-! ### XTS -/

/-- The tweak of the next block: multiplication by x, the first byte least significant. -/
def xtsNext (t : Nat) : Nat :=
  let d := (2 * t) % 2 ^ 128
  if 2 ^ 128 ≤ 2 * t then d ^^^ 0x87 else d

/-- XTS-AES-256 of whole blocks under a 64-byte key, data key first. (PRESUMED 181; assumption log) -/
def xtsSeal (key : List Byte) (tweak : Nat) (plain : List Byte) : List Byte :=
  let k1 := aesKeys (key.take 32)
  let t0 := bytesNat (aesBlock (aesKeys (key.drop 32)) (natBytes 16 tweak))
  ((groupsOfBytes 16 plain).foldl (fun (out, t) b =>
    let m := natBytes 16 t
    (xorBytes (aesBlock k1 (xorBytes b m)) m :: out, xtsNext t)) (([], t0) : List (List Byte) × Nat)).1.reverse.flatten

/-! ### Key wrap and check value (R465) -/

/-- One step of RFC 3394 on the register A and one block, with the step's number. -/
def wrapStep (keys : List (List Byte)) (t : Nat) (a r : List Byte) : List Byte × List Byte :=
  let b := aesBlock keys (a ++ r)
  (xorBytes (b.take 8) (bigBytes 8 t), b.drop 8)

/-- AES key wrap of RFC 3394: whole blocks of 8 bytes under a 32-byte key. (PRESUMED 181; assumption log) -/
def aesWrap (key plain : List Byte) : List Byte :=
  let keys := aesKeys key
  let rs := groupsOfBytes 8 plain
  let (a, out) := (List.range (6 * rs.length)).foldl (fun (a, rs) t =>
    match rs with
    | [] => (a, rs)
    | r :: rest => let (a', r') := wrapStep keys (t + 1) a r; (a', rest ++ [r'])) (List.replicate 8 (0xA6 : Byte), rs)
  a ++ out.flatten

/-- The check value of a job key: the first 8 bytes of AES-256 of the zero block under it.
(PRESUMED 181; assumption log) -/
def keyCheck (key : BitVec 256) : Dword :=
  BitVec.ofNat 64 (bytesNat ((aes256 (leBytes 32 key) (List.replicate 16 0)).take 8))

end Sys2Proof.Machine
end

