-- ==== Sys2Proof/Machine/Perm.lean ====
section
/-! DEFINITION. Partitions, positions and cursors (R64 to R75): which sample a stream position serves, the reserve
chain, and the next use of a sample (R130). -/

namespace Sys2Proof.Machine

/-- N_p (R64). -/
def partSize (n parts p : Nat) : Nat := if p < n then (n - 1 - p) / parts + 1 else 0

def Partition.size (d : Partition) : Nat := partSize d.n d.parts d.p

/-- The partition a dataset identifier names on this device. -/
def State.partOf (dataset : Dword) (p : Nat) (s : State) : Option Partition :=
  s.media.partitions.find? fun d => d.dataset == dataset && d.p == p

def State.partSlot (slot : Nat) (s : State) : Option Partition := s.media.partitions.find? (·.dsSlot == slot)

def State.modPart (slot : Nat) (f : Partition → Partition) (s : State) : State :=
  s.modMedia fun m => { m with partitions := m.partitions.map fun d => if d.dsSlot = slot then f d else d }

def State.stream? (n : Nat) (s : State) : Option Stream := s.run.streams.find? (·.num == n)

def State.modStream (n : Nat) (f : Stream → Stream) (s : State) : State :=
  s.modRun fun r => { r with streams := r.streams.map fun t => if t.num = n then f t else t }

/-- Epoch length E (R67). -/
def epochLen (pad : Bool) (n parts : Nat) : Nat := if pad then (n + parts - 1) / parts else n / parts

def Stream.epochLen (t : Stream) (d : Partition) : Nat := Machine.epochLen t.tailPad d.n d.parts

/-- The index space N′ of R69. -/
def Stream.space (t : Stream) (d : Partition) : Nat := if t.order = 2 then d.n else d.size

/-- Epoch and position of stream position `g` (R68). -/
def Stream.place (t : Stream) (d : Partition) (g : Nat) : Nat × Nat := (g / t.epochLen d, g % t.epochLen d)

/-- The stream position of slot `j` of batch `b` (R68). -/
def Stream.position (t : Stream) (b j : Nat) : Nat := b * t.b + j

/-- The number of stream positions, EPOCHS × E. -/
def Stream.total (t : Stream) (d : Partition) : Nat := t.epochs * t.epochLen d

/-- Batch `b` ends within the stream, so it is formed (R68). -/
def Stream.forms (t : Stream) (d : Partition) (b : Nat) : Bool := decide ((b + 1) * t.b ≤ t.total d)

/-- The global position q of local position `l` (R73), also the draw position before its reduction (R404). -/
def Partition.global (d : Partition) (l : Nat) : Nat := l * d.parts + d.p

/-- A fill position (R67). -/
def Stream.isFill (t : Stream) (d : Partition) (l : Nat) : Bool :=
  if t.order = 2 then decide (d.n ≤ d.global l) else decide (d.size ≤ l)

/-- The input x of the order and of the reserve chain (R79, R80). -/
def Stream.input (t : Stream) (d : Partition) (l : Nat) : Nat :=
  if t.isFill d l then (if t.order = 2 then (d.global l - d.n) % d.n else 0)
  else if t.order = 2 then d.global l else l

/-- The counters of a walk (R70). -/
def walkCtx (seed : Dword) (t : Stream) (d : Partition) (purpose k : Nat) (fill : Bool) (epoch : Nat) : WalkCtx :=
  ⟨seedKey seed, if t.order = 2 then 2 ^ 14 + flag fill * 2 ^ 15 else d.p + flag fill * 2 ^ 15, t.salt, purpose, k,
    epoch⟩

def State.seed (s : State) : Dword := (s.run.job.map (·.seed)).getD 0

/-- The sample an order value names: its index and whether a peer holds it (R73). In SHUFFLE and SEQUENTIAL order the
value is the local index. -/
def Stream.sampleOf (t : Stream) (d : Partition) (v : Nat) : Nat × Bool :=
  if t.order = 2 then (if v % d.parts = d.p then (v / d.parts, false) else (v, true)) else (v, false)

/-- The order value of local position `l` of epoch `e`: identity or permutation (R69). -/
def orderValue (seed : Dword) (t : Stream) (d : Partition) (e l : Nat) : Nat :=
  let x := t.input d l
  if t.order = 0 then x else (walkCtx seed t d 6 0 false e).perm (t.space d) x

/-- Candidate c_k of the reserve chain (R79). -/
def candidate (seed : Dword) (t : Stream) (d : Partition) (e l k : Nat) : Nat :=
  (walkCtx seed t d 5 k (t.isFill d l) e).perm (t.space d) (t.input d l)

/-- The rank group of an epoch: (p + ρ(e)) mod P, with ρ = 0 in SEQUENTIAL and p alone in EXCHANGE order (R72, R73). -/
def rankGroup (seed : Dword) (t : Stream) (d : Partition) (e : Nat) : Nat :=
  if t.order = 1 then
    let rho := (philox (seedKey seed)
      (0, 0, BitVec.ofNat 32 (t.salt % 2 ^ 16 + 6 * 2 ^ 16), BitVec.ofNat 32 e)).1.toNat % d.parts
    (d.p + rho) % d.parts
  else d.p

/-- The home SPD of a sample index by the home map (R19). -/
def State.homeOf (index : Nat) (s : State) : Nat := s.fab.homeMap.getD (index % 4096) 0

/-- The home SPD of batch `b`, of the batch-home list in force (R20). -/
def State.batchHome (b : Nat) (s : State) : Nat := s.fab.homes.getD (b % s.fab.homes.length) 0

/-- A defect entry in effect for a sample at an epoch (R78). -/
def Partition.listed (d : Partition) (index : Nat) (global : Bool) (epoch : Nat) : Bool :=
  d.defects.any fun x => x.index == index && x.global == global && decide (x.epoch < epoch)

/-- The smallest stream position after `after` at which a stream serves a sample, up to the horizon (R130). A stream in SHUFFLE
or SEQUENTIAL order serves no remote sample. -/
def nextUse (seed : Dword) (t : Stream) (d : Partition) (index : Nat) (remote : Bool) (after : Int) : Option Nat :=
  let e0 := ((after + 1) / t.epochLen d).toNat
  let horizon := min ((e0 + 2) * t.epochLen d) (t.total d)
  let value := if t.order = 2 ∧ !remote then d.global index else index
  if t.order ≠ 2 ∧ remote then none
  else ([e0, e0 + 1].filterMap fun e =>
    let v := if t.order = 0 then value else (walkCtx seed t d 6 0 false e).unperm (t.space d) value
    if t.order = 2 ∧ v % d.parts ≠ d.p then none
    else
      let l := if t.order = 2 then v / d.parts else v
      let u := e * t.epochLen d + l
      if l < t.epochLen d ∧ after < u ∧ u < horizon then some u else none).head?

/-! ### Keys (R131) -/

/-- Streams that contribute keys: running ones, with an issue pointer (R130). -/
def State.keyStreams (s : State) : List Stream := s.run.streams.filter fun t => t.state == .running && t.issued.isSome

/-- Batches of a stream whose deadline step lies in the last 16 accepted steps, or 16 when there is none: 16 × R_S. -/
def rate16 (recent : List Nat) (t : Stream) : Nat :=
  let n := (t.dlSteps.filter recent.contains).length
  if n = 0 then 16 else n

/-- The key of a sample (R131), its uses by stream `served` counted past position `past` (R133). -/
def cacheKey (s : State) (dsSlot index : Nat) (remote : Bool) (served : Nat) (past : Int) : CacheKey :=
  let ss := s.keyStreams
  let use (t : Stream) : Option (Int × Nat) :=
    if t.dsSlot ≠ dsSlot then none
    else
      match s.partSlot dsSlot, t.issued with
      | some d, some g =>
        let after := if t.num = served then max g past else g
        (nextUse s.seed t d index remote after).map fun u => (g, u)
      | _, _ => none
  if ss.length ≤ 1 then
    match ss.head?.bind use with
    | some (_, u) => .finite u
    | none => .infinite
  else
    let keys := ss.filterMap fun t => (use t).map fun (g, u) =>
      256 * s.tide.step + (256 * ((u : Int) - g) * 16 / (t.b * rate16 s.tide.recent t)).toNat
    match keys with
    | [] => .infinite
    | k :: ks => .finite (ks.foldl min k)

end Sys2Proof.Machine
end

