-- ==== Sys2Proof/Machine/Flash.lean ====
section
/-! DEFINITION. The flash media as the media manager keeps them (chapter 4): geometry and capacity, unit slots and spare
records, blocks, the staging region, stripes and their parity, programs, the journal and checkpoints, and what recovery
finds. -/

namespace Sys2Proof.Machine

/-! ### Geometry and capacity (R85 to R89, R110, R111) -/

/-- Bytes of a mapping unit. -/
def unitBytes : Nat := 32768

/-- The address that names nothing. -/
def noAddr : Nat := 0xFFFFFFFFFF

/-- The die and the block of a unit slot, and the unit-slot address of a page (R89). -/
def Media.dieOf (pua : Nat) : Nat := pua / 2 ^ 30
def Media.blockOf (m : Media) (pua : Nat) : Nat := pua % 2 ^ 30 / max 1 m.geom.unitsPerBlock
def Media.puaAt (m : Media) (die block page : Nat) : Nat := die * 2 ^ 30 + block * m.geom.unitsPerBlock + page

/-- Target number of a die, its channel, its performance die and its local channel there (R85, R488). -/
def mediaPerf (die : Nat) : Nat := 10 + die / 512
def localChannel (die : Nat) : Nat := die / 16 % 32

def Media.hasDie (m : Media) (d : Nat) : Bool := decide (d < 1024) && decide (d % 16 < m.targets)

/-- The dies in service. -/
def Media.liveDies (m : Media) : List Nat := (List.range 1024).filter fun d => m.hasDie d && !m.failedDies.contains d

/-- Raw capacity of `n` dies, in units. -/
def Media.rawOf (m : Media) (n : Nat) : Nat := n * m.geom.blocks * m.geom.unitsPerBlock

/-- Logical capacity in units (R89), less the share of failed dies (R102). -/
def Media.capacity (m : Media) : Nat := 84 * m.rawOf (64 * m.targets - m.failedDies.length) / 100

/-- The present version of each sample: the newest, which stands first. -/
def currentSamples : List Sample → List Nat → List Sample
  | [], _ => []
  | x :: xs, seen => if seen.contains x.index then currentSamples xs seen else x :: currentSamples xs (x.index :: seen)

def Partition.current (d : Partition) : List Sample := currentSamples d.samples []

/-- Valid LUAs. -/
def Media.valid (m : Media) : Nat := (m.partitions.map fun p => (p.current.map (·.luas.length)).sum).sum

/-- MEDIA_FULL stands while the valid LUAs fill the logical capacity. -/
def Media.refill (m : Media) : Media := { m with full := decide (m.mounted ∧ m.capacity ≤ m.valid) }

/-- Unit slots of a block in its mode (R87). -/
def Media.slotsPer (m : Media) (slc : Bool) : Nat :=
  if slc then m.geom.unitsPerBlock / (if m.geom.qlc then 4 else 3) else m.geom.unitsPerBlock

/-- Initial spare blocks of a die: 2.5%, rounded down (R111). (DESIGN CHOICE 200; assumption log) -/
def Media.sparesPerDie (m : Media) : Nat := m.geom.blocks * 25 / 1000

/-- The check that a die's parameter page fails, against the page of the first die (R85 to R87). -/
def dieCheck (ref g : Geometry) : Option MountCheck :=
  if g.luns ≠ 1 then some .luns
  else if g.part ≠ ref.part then some .samePart
  else if !g.lpddr4 then some .interface
  else if g.planes ≠ 2 ∧ g.planes ≠ 4 then some .planes
  else if !g.suspend then some .suspend
  else if g.retryLevels < 7 then some .readRetry
  else if !g.slcMode then some .slcMode
  else if g.cell ≠ 3 ∧ g.cell ≠ 4 then some .cellMode
  else if g.pageKib ≠ 16 ∧ g.pageKib ≠ 32 then some .pageSize
  else if g.spare < 2048 then some .spareArea
  else none

/-- T: the targets of a channel, where they are targets 0 to T − 1, and none otherwise (R85). -/
def targetsOf (mask : BitVec 16) : Option Nat :=
  ((List.range 16).map (· + 1)).find? fun t => mask.toNat == 2 ^ t - 1

/-- The first die that fails a check of the mount, with the check (R88). -/
def mountCheck (b : Bringup) : Option (Nat × MountCheck) :=
  let t := ((b.targets.head?).bind targetsOf).getD 0
  match (List.range 64).find? fun c => t = 0 || b.targets[c]?.bind targetsOf != some t with
  | some c => some (16 * c, .targets)
  | none =>
    (List.range 1024).findSome? fun d =>
      if d % 16 < t then
        (dieCheck b.page (((b.odd.find? (·.1 == d)).map (·.2)).getD b.page)).map fun k => (d, k)
      else none

/-! ### Unit slots (R87, R91, R100) -/

/-- The 32 bytes of a spare record (R91). -/
def Slot.record (x : Slot) : List Byte :=
  let body := natBytes 5 x.lua ++ natBytes 1 (x.stream % 4 + 4 * (x.kind % 8)) ++ natBytes 2 (x.dsSlot % 4096) ++
    natBytes 8 x.seq ++ natBytes 8 x.origSeq ++ natBytes 4 x.wseq
  body ++ leBytes 4 (crc32c body)

/-- The raw unit slot of R87: eight codewords' data, their parity, the spare record with its protection, and the pad. -/
def rawSlot (g : Geometry) (data record : List Byte) : List Byte :=
  let words := (List.range 8).map fun i => (data.drop (4096 * i)).take 4096
  words.flatten ++ words.flatMap (fun w => (Config.ldpcParity w).take 480) ++ record ++ (Config.spareCode record).take 64 ++
    List.replicate (2 * g.spare - 8 * 480 - 96) 0xFF

/-- Bytes to the length of a unit, zeros behind them. -/
def padUnit (bs : List Byte) : List Byte := bs ++ List.replicate (unitBytes - bs.length) 0

/-- A unit as it is stored: each codeword under the key, with the tweak LUA × 8 + its index (R465). -/
def sealUnit (key : List Byte) (lua : Nat) (bs : List Byte) : List Byte :=
  (List.range 8).flatMap fun i => xtsSeal key (lua * 8 + i) (((padUnit bs).drop (4096 * i)).take 4096)

/-- The stored unit of a sample's bytes at a LUA, of the write that WSEQ names. -/
def Media.sampleUnit (m : Media) (dsSlot wseq lua : Nat) : List Byte :=
  match (m.partitions.find? (·.dsSlot == dsSlot)).bind fun p =>
      (p.samples.find? fun y => y.wseq == wseq && y.luas.contains lua).map fun y => (p, y) with
  | some (p, y) => sealUnit p.xtsKey lua ((y.bytes.drop (unitBytes * y.luas.findIdx (· == lua))).take unitBytes)
  | none => []

/-- A row's parity page: the exclusive or of the raw unit slots of its data blocks, a page never programmed counting as all
0xFF (R100). -/
def Media.parityPage (m : Media) (data : List (Nat × Nat)) (row : Nat) : List Byte :=
  let blank := rawSlot m.geom (List.replicate unitBytes 0xFF) (List.replicate 32 0xFF)
  let pages := data.map fun (d, b) =>
    match m.slots.find? (·.pua == m.puaAt d b row) with
    | some x => rawSlot m.geom (padUnit x.data) x.record
    | none => List.replicate blank.length 0xFF
  pages.foldl xorBytes (List.replicate blank.length 0)

/-! ### Blocks -/

def Media.block? (m : Media) (die block : Nat) : Option Block := m.blocks.find? fun b => b.die == die && b.block == block

def Media.modBlock (die block : Nat) (f : Block → Block) (m : Media) : Media :=
  { m with blocks := m.blocks.map fun b => if b.die = die ∧ b.block = block then f b else b }

/-- The block's state, listed or not. -/
def Media.stateOf (m : Media) (die block : Nat) : BlockState := ((m.block? die block).map (·.state)).getD .free

def Media.erasesOf (m : Media) (die block : Nat) : Nat := ((m.block? die block).map (·.erases)).getD 0

/-- A block becomes what `f` makes of it, listed from then on. -/
def Media.setBlock (die block : Nat) (f : Block → Block) (m : Media) : Media :=
  match m.block? die block with
  | some _ => m.modBlock die block f
  | none => { m with blocks := f ⟨die, block, 0, .free, false, 0, false, none, none, false, 0⟩ :: m.blocks }

/-- Slots programmed in a block. -/
def Media.slotsIn (m : Media) (die block : Nat) : List Slot :=
  m.slots.filter fun x => Media.dieOf x.pua == die && m.blockOf x.pua == block

/-- The first LUA of metadata: journal pages, map segments, roots, dataset descriptors and defect lists; then that of spill.
(DESIGN CHOICE 157; assumption log) -/
def metaLua : Nat := 2 ^ 39
def segmentLua (seg i : Nat) : Nat := metaLua + 128 * seg + i
def rootLua (k : Nat) : Nat := metaLua + 2 ^ 30 + k
def descriptorLua (slot : Nat) : Nat := metaLua + 2 ^ 30 + 4096 + slot
def defectLua (slot : Nat) : Nat := metaLua + 2 ^ 30 + 8192 + slot
def journalLua (i : Nat) : Nat := metaLua + 2 ^ 31 + i % 2 ^ 36
def spillLua (i : Nat) : Nat := metaLua + 2 ^ 37 + i % 2 ^ 37
def labelLua (die : Nat) : Nat := metaLua + 2 ^ 30 + 16384 + die

/-- The roots that recovery may have to start from: those no older than the newest that stands on both media dies (R113). -/
def Media.liveRoots (m : Media) : List Checkpoint :=
  let on (k n : Nat) : Bool := m.roots.any fun x => x.1 == k && x.2.2.seq == n
  let both := (m.roots.map (·.2.2.seq)).foldl (fun best n => if on 0 n && on 1 n then max best n else best) 0
  (m.roots.map (·.2.2)).filter fun c => decide (both ≤ c.seq)

/-- A slot holds a volume label or the present copy of its unit, or a root that is not superseded on both media dies names
it (R113). -/
def Media.isValid (m : Media) (x : Slot) : Bool :=
  x.kind == 4 || x.lua != noAddr && (m.map.any (fun e => e.1 == x.lua && e.2 == x.pua) ||
    (x.kind == 2 && m.liveRoots.any fun c => c.segments.any fun y => y.2.contains x.pua))

def Media.validIn (m : Media) (die block : Nat) : List Slot := (m.slotsIn die block).filter m.isValid

/-- The blocks of a die that are no spares: those below this number. The spares are the highest blocks, and a retirement brings
the lowest of them into use (R111). (DESIGN CHOICE 161; assumption log) -/
def Media.poolEnd (m : Media) (die : Nat) : Nat := m.geom.blocks - m.spares.getD die 0

/-- Free blocks of a die, its spares apart; block 0 carries its volume label (R103). -/
def Media.freeBlocks (m : Media) (die : Nat) : Nat :=
  m.poolEnd die - 1 -
    (m.blocks.filter fun b => b.die == die && b.state != .free && b.block != 0 && decide (b.block < m.poolEnd die)).length

/-- Blocks of a die that the metadata reserve of 0.5%, rounded up, still keeps back for the metadata stream (R89).
(DESIGN CHOICE 200; assumption log) -/
def Media.reserveLeft (m : Media) (die : Nat) : Nat :=
  (m.geom.blocks + 199) / 200 - (m.blocks.filter fun b => b.die == die && b.state != .free && b.stream == 2).length

/-! ### The staging region (R95, R96) -/

/-- A block belongs to the staging region. At format the lowest-numbered blocks of every die do.
(DESIGN CHOICE 161; assumption log) -/
def Media.inRegion (m : Media) (die block : Nat) : Bool :=
  decide (1 ≤ block ∧ block ≤ m.regionBase) != m.regionMoved.contains (die, block)

/-- Blocks of the region, and of the size S now computed. -/
def Media.regionBlocks (m : Media) : Nat :=
  let away := (m.regionMoved.filter fun (_, b) => decide (b ≤ m.regionBase)).length
  m.liveDies.length * m.regionBase + (m.regionMoved.length - away) - away

/-- S in whole blocks over the dies in service (R95). (DESIGN CHOICE 203; assumption log) -/
def Media.regionSize (m : Media) : Nat := m.liveDies.length * m.geom.blocks * m.staging / 1000000

/-- An erased block leaves a region that is to shrink, or joins one that is to grow. -/
def Media.regionSettle (die block : Nat) (m : Media) : Media :=
  let flip : Media := { m with
    regionMoved := if m.regionMoved.contains (die, block) then m.regionMoved.filter (· != (die, block))
      else m.regionMoved ++ [(die, block)] }
  if m.inRegion die block then (if m.regionSize < m.regionBlocks then flip else m)
  else if m.regionBlocks < m.regionSize then flip else m

/-- Unit slots of the staging region. -/
def Media.stagingUnits (m : Media) : Nat := m.regionBlocks * m.slotsPer true

/-- STAGING_FULL: less than a tenth of the region is free, until a quarter is (R96). -/
def Media.stagingCheck (m : Media) : Media :=
  let used := (m.slots.filter (·.stream == 0)).length
  let all := m.stagingUnits
  { m with stagingFull := if all = 0 ∨ 10 * (all - used) < all then true else if all ≤ 4 * (all - used) then false else m.stagingFull }

/-- Ingest units in the staging region not yet folded. -/
def Media.foldBacklog (m : Media) : Nat := (m.slots.filter fun x => x.stream == 0 && m.isValid x).length

/-- Folding ends with its backlog. -/
def Media.foldCheck (m : Media) : Media := if m.foldBacklog = 0 then { m with folding := false } else m

/-- The free block of a die for a stream, with the lowest erase count, lowest number first (R98): ingest takes blocks of the
staging region and no other stream does (R94, R95), spares (R111) and the metadata reserve stay, and a block whose journal
records are pending waits for them (R117). -/
def Media.mayTake (m : Media) (die stream block : Nat) : Bool :=
  decide (1 ≤ block ∧ block < m.poolEnd die) && m.stateOf die block == .free && m.inRegion die block == (stream == 0) &&
    !(((m.block? die block).map (·.waitJournal)).getD false) &&
    (stream == 2 || decide (m.reserveLeft die < m.freeBlocks die))

/-- (DEDUCED 77; assumption log) -/
def Media.allocBlock (m : Media) (die stream : Nat) : Option Nat :=
  ((List.range m.geom.blocks).filter (m.mayTake die stream)).foldl (fun best b =>
    match best with
    | none => some b
    | some x => if m.erasesOf die b < m.erasesOf die x then some b else best) none

/-! ### Stripes (R99, R100) -/

/-- A record enters the journal, with the present sequence number (R114). -/
def Media.log (r : JournalRec) (m : Media) : Media := { m with journal := m.journal ++ [r] }

/-- Unit slots have been programmed, parity slots among them (R113, R119). Every program counts toward the next gibibyte of
R95 and the next checkpoint. (DESIGN CHOICE 161, DESIGN CHOICE 202; assumption log) -/
def Media.programmed (n : Nat) (m : Media) : Media :=
  { m with mediaWritten := m.mediaWritten + n * unitBytes, sinceCheckpoint := m.sinceCheckpoint + n * unitBytes,
           sinceStaging := m.sinceStaging + n * unitBytes }

/-- The parity group of a die: its media die and its target. -/
def groupOfDie (die : Nat) : Nat := die / 512 * 16 + die % 16

/-- The live members of a group, by channel. -/
def Media.members (m : Media) (group : Nat) : List Nat :=
  ((List.range 32).map fun c => (group / 16 * 32 + c) * 16 + group % 16).filter fun d =>
    m.hasDie d && !m.failedDies.contains d

/-- The parity member of the group's next stripe: from channel k mod 32 the next live channel upward, wrapping.
(DEDUCED 78; assumption log) -/
def Media.parityFor (m : Media) (group : Nat) : Option Nat :=
  let k := m.stripesOpened.getD group 0 % 32
  let ms := m.members group
  let die (c : Nat) : Nat := (group / 16 * 32 + c) * 16 + group % 16
  ((List.range 32).map fun i => die ((k + i) % 32)).find? ms.contains

def Media.stripeOf (m : Media) (die block : Nat) : Option Stripe :=
  m.stripes.find? fun x => x.members.contains (die, block)

def Media.openStripe (m : Media) (group stream : Nat) : Option Stripe :=
  m.stripes.find? fun x => x.group == group && x.stream == stream && x.state == .opened

def Media.modStripe (x : Stripe) (f : Stripe → Stripe) (m : Media) : Media :=
  { m with stripes := m.stripes.map fun y => if y.group = x.group ∧ y.number = x.number then f y else y }

/-- Data blocks of a stripe that still take or hold pages. -/
def Media.dataOf (m : Media) (x : Stripe) : List (Nat × Nat) :=
  x.members.filter fun (d, b) => d != x.parity && m.stateOf d b != .retired

/-- Row `p` of a stripe has every data page. -/
def Media.rowFull (m : Media) (x : Stripe) (p : Nat) : Bool :=
  (m.dataOf x).all fun (d, b) => m.slots.any (·.pua == m.puaAt d b p)

/-- Every block of a stripe but one stands on a die in service, so that parity can rebuild the one. -/
def Media.othersLive (m : Media) (x : Stripe) (die : Nat) : Bool :=
  x.members.all fun (d, _) => d == die || !m.failedDies.contains d

/-- A unit lies in a stripe not yet verified, or on QS media, whose other members stand, so that parity can rebuild it
(R104). (DEDUCED 46; assumption log) -/
def Media.rebuildable (m : Media) (pua : Nat) : Bool :=
  let die := Media.dieOf pua
  if m.qsLayout then (m.members (groupOfDie die)).length + flag (m.failedDies.contains die) == 32
  else
    match m.stripeOf die (m.blockOf pua) with
    | some x => x.state != .verified && m.othersLive x die
    | none => false

/-- A group's new stripe for a stream: one block from each live member, or none where a member has no block to give; `die`
gives `block`, which must be one it could give. -/
def Media.openNew (m : Media) (die block stream now : Nat) : Option Media :=
  let g := groupOfDie die
  let ms := m.members g
  match m.parityFor g with
  | none => none
  | some par =>
    if ms.length < 4 ∨ par = die ∨ !m.mayTake die stream block ∨
        ((m.allocBlock die stream).map (m.erasesOf die)) ≠ some (m.erasesOf die block) then none
    else
      let blocks := ms.filterMap fun d => if d = die then some (d, block) else (m.allocBlock d stream).map (d, ·)
      if blocks.length ≠ ms.length then none
      else
        let k := m.stripesOpened.getD g 0
        let a := blocks.foldl (fun (n : Media) (d, b) =>
          (n.setBlock d b fun x =>
            { x with state := .opened, stream := stream, slc := stream != 3, drain := none, rewrite := false, since := now }).log
              (.block d b stream 0 n.seq)) m
        let b : Media := { a with
          stripes := a.stripes ++ [⟨g, k, stream, blocks, par, .opened, [], []⟩]
          stripesOpened := (a.stripesOpened ++ List.replicate (g + 1 - a.stripesOpened.length) 0).set g (k + 1) }
        some (b.log (.stripe g k stream blocks par a.seq))

/-- A stripe whose data blocks are all full closes, to be read back (R101). -/
def Media.closeFull (m : Media) (x : Stripe) : Media :=
  if (m.dataOf x).all fun (d, b) => decide (m.slotsPer (x.stream != 3) ≤ (m.slotsIn d b).length) then
    x.members.foldl (fun (n : Media) (d, b) =>
      (n.modBlock d b fun y => if y.state = .opened then { y with state := .closed } else y).log (.block d b x.stream 1 n.seq))
      (m.modStripe x fun y => { y with state := .closing })
  else m

/-! ### Programs (R92, R93, R96, R100) -/

/-- Put a pair into a map kept ascending. (DEDUCED 78; assumption log) -/
def mapInsert (k v : Nat) : List (Nat × Nat) → List (Nat × Nat)
  | [] => [(k, v)]
  | (a, b) :: r => if a < k then (a, b) :: mapInsert k v r else if a = k then (k, v) :: r else (k, v) :: (a, b) :: r

/-- What a program writes: a unit of the write buffer, a copy, a filler, a metadata unit of a kind, or a spill unit. -/
inductive UnitSource where
  | buffered (u : BufUnit)
  | copied (x : Slot)
  | filler
  | metadata (kind lua : Nat) (data : List Byte)
  | spill (lua : Nat) (data : List Byte)
  deriving DecidableEq, Repr

/-- The oldest staged unit not yet folded (R96). -/
def Media.oldestStaged (m : Media) : Option Slot :=
  (m.slots.filter fun x => x.stream == 0 && m.isValid x).foldl (fun best x =>
    match best with
    | none => some x
    | some y => if x.seq < y.seq then some x else best) none

/-- The source that a PROGRAM_DONE names: the write buffer's unit, or the valid unit of a slot whose block is being emptied or
that the fold has reached. On a failed die it is one that parity rebuilds or a replica has supplied (R102). -/
def Media.sourceOf (m : Media) : ProgramSource → Option UnitSource
  | .filler => some .filler
  | .unit lua => (m.buffer.find? (·.lua == lua)).map .buffered
  | .copy pua =>
    (m.slots.find? fun x => x.pua == pua && m.isValid x).bind fun x =>
      let drain := (m.block? (Media.dieOf x.pua) (m.blockOf x.pua)).bind (·.drain)
      let there := !m.failedDies.contains (Media.dieOf x.pua) || m.rebuildable x.pua || m.fetched.contains x.lua
      if (drain.isSome || (m.folding && (m.oldestStaged.map (·.pua)) == some x.pua)) && there && !m.lostLuas.contains x.lua then
        some (.copied x)
      else none

/-- The stream a unit is programmed into (R93, R96, R98, R102, R105): static relocation and a failed die copy every unit into
the fold stream, a rewrite spill and metadata into their own. A filler goes where the row is. -/
def Media.streamFor (m : Media) (src : UnitSource) (here : Nat) : Nat :=
  match src with
  | .filler => here
  | .buffered _ => if m.stagingFull then 3 else 0
  | .metadata .. => 2
  | .spill .. => 1
  | .copied x =>
    let b := m.block? (Media.dieOf x.pua) (m.blockOf x.pua)
    match b.bind (·.drain) with
    | some .gc => if (b.map (·.slc)).getD false then x.stream else 3
    | some .rewrite | some .retire => if x.stream = 1 ∨ x.stream = 2 then x.stream else 3
    | _ => 3

/-- The spare record of a program (R91). R91 gives a filler no DS_SLOT and no WSEQ of a host: it takes 0xFFF and 0.
(DESIGN CHOICE 159; assumption log) -/
def Media.slotFor (m : Media) (src : UnitSource) (pua stream : Nat) : Slot :=
  match src with
  | .filler => ⟨pua, noAddr, stream, 0, 0xFFF, m.seq, m.seq, 0, true, []⟩
  | .buffered u =>
    ⟨pua, u.lua, stream, 0, u.dsSlot, m.seq, m.seq, u.wseq, true, m.sampleUnit u.dsSlot u.wseq u.lua⟩
  | .copied x => { x with pua := pua, stream := stream, seq := m.seq }
  | .metadata kind lua data => ⟨pua, lua, stream, kind, 0xFFF, m.seq, m.seq, 0, true, data⟩
  | .spill lua data => ⟨pua, lua, stream, 0, 0xFFF, m.seq, m.seq, 0, true, data⟩

/-- Free blocks enough for what the write buffer may hold stay: 65,536 units in SLC mode, or, once no more writes are taken, the
units it holds (R112). (DESIGN CHOICE 161; assumption log) -/
def Media.keepsBack (m : Media) : Bool :=
  decide ((if m.exhausted then m.buffer.length else 65536) ≤ (m.liveDies.map m.freeBlocks).sum * m.slotsPer true)

/-- A program may open the stripe that leaves the media as they are: the blocks kept back are for the buffer's own units once
the media are exhausted, and metadata draw on their reserve (R111, R112). -/
def Media.mayOpen (src : UnitSource) (stream : Nat) (n : Media) : Bool :=
  stream == 2 || n.keepsBack || (match src with | .buffered _ => n.exhausted | _ => false)

/-- A page is programmed: its slot, the map and its record, the buffer's unit gone, the row's parity (R100). Units of metadata
and spill have no MAP record. (DESIGN CHOICE 157; assumption log) -/
def Media.program (m : Media) (src : UnitSource) (x : Stripe) (pua page stream : Nat) : Media :=
  let sl := m.slotFor src pua stream
  let a : Media := { m with slots := sl :: m.slots, seq := m.seq + 1 }
  let b : Media := match src with
    | .buffered u => { a with buffer := a.buffer.erase u, lostLuas := a.lostLuas.filter (· != u.lua) }
    | .copied x => { a with fetched := a.fetched.filter (· != x.lua) }
    | _ => a
  let c : Media :=
    if sl.lua = noAddr then b
    else if metaLua ≤ sl.lua then { b with map := mapInsert sl.lua pua b.map }
    else Media.log (.map sl.lua pua sl.seq sl.origSeq sl.wseq sl.dsSlot)
      { b with map := mapInsert sl.lua pua b.map, seq := b.seq + 1 }
  let full := c.rowFull x page
  let d := c.modStripe x fun y => if full then { y with parityRows := y.parityRows ++ [page] } else y
  (d.programmed (1 + flag full)).closeFull x

/-- Where the next unit of a stream that the media manager places itself goes, within some groups: the open stripe of the first
group that has one, in row order, or a new one. (DESIGN CHOICE 157; assumption log) -/
def Media.place (m : Media) (src : UnitSource) (groups : List Nat) (stream now : Nat) :
    Option (Media × Stripe × Nat × Nat) :=
  match groups.findSome? fun g => (m.openStripe g stream).bind fun x =>
      (((m.dataOf x).filter fun (d, b) => m.stateOf d b == .opened).foldl (fun best y =>
        match best with
        | none => some y
        | some z => if (m.slotsIn y.1 y.2).length < (m.slotsIn z.1 z.2).length then some y else best) none).map fun y => (x, y.1, y.2) with
  | some (x, d, b) => some (m, x, d, b)
  | none =>
    groups.findSome? fun g =>
      if (m.openStripe g stream).isSome then none
      else
        (((m.members g).filter fun d => m.parityFor g != some d).head?).bind fun d =>
          (m.allocBlock d stream).bind fun b =>
            ((m.openNew d b stream now).filter (Media.mayOpen src stream)).bind fun n => (n.stripeOf d b).map fun x => (n, x, d, b)

/-- The groups of both media dies, and of one. -/
def Media.groups (m : Media) : List Nat := (List.range m.targets) ++ (List.range m.targets).map (16 + ·)
def Media.groupsOf (m : Media) (k : Nat) : List Nat := (List.range m.targets).map (16 * k + ·)

/-- A metadata or spill unit is programmed, where the stream finds a place. -/
def Media.append (src : UnitSource) (groups : List Nat) (now : Nat) (m : Media) : Media :=
  let stream := m.streamFor src 2
  match m.place src groups stream now with
  | none => m
  | some (n, x, d, b) =>
    let page := (n.slotsIn d b).length
    if n.slotsPer (stream != 3) ≤ page then m else n.program src x (n.puaAt d b page) page stream

/-- The volume labels with the present LAYOUT: the KIND 4 unit in block 0 of every die in service, a closed block of the
metadata stream (R91, R93, R103). -/
def Media.writeLabels (m : Media) : Media :=
  m.liveDies.foldl (fun (n : Media) d =>
    let sl : Slot := ⟨n.puaAt d 0 0, labelLua d, 2, 4, 0xFFF, n.seq, n.seq, 0, true, Config.metaUnit 4 [n.label]⟩
    { (n.setBlock d 0 fun b => { b with stream := 2, slc := true, state := .closed }) with
      slots := sl :: n.slots, seq := n.seq + 1 }) m

/-- Where a unit stands. -/
def Media.puaOf (m : Media) (lua : Nat) : Option Nat := (m.map.find? (·.1 == lua)).map (·.2)

/-- A unit is dropped from the map. -/
def Media.unmap (luas : List Nat) (m : Media) : Media := { m with map := m.map.filter fun e => !luas.contains e.1 }

/-- The spill stream takes a sample's units under the SPILL key, if all find a place (R135, R465). -/
def Media.spillUnits (key : List Byte) : Nat → List Byte → Nat → Media → Option (List Nat × Media)
  | 0, _, _, m => some ([], m)
  | n + 1, bs, now, m =>
    let lua := spillLua m.nextSpill
    let a := Media.append (.spill lua (sealUnit key lua (bs.take unitBytes))) m.groups now { m with nextSpill := m.nextSpill + 1 }
    if (a.puaOf lua).isNone then none
    else (Media.spillUnits key n (bs.drop unitBytes) now a).map fun (ls, b) => (lua :: ls, b)

/-! ### The journal and checkpoints (R90, R113, R114) -/

/-- Map segment of an LUA: 4 MiB of 5-byte entries, none of which straddles two segments (R90).
(DESIGN CHOICE 158; assumption log) -/
def segmentOfLua (lua : Nat) : Nat := lua / 838860

/-- Segments of the map in use. -/
def Media.segments (m : Media) : List Nat :=
  ((m.map.filter fun e => decide (e.1 < metaLua)).map fun e => segmentOfLua e.1).eraseDups

/-- A record's fields, in the order of R114. -/
def JournalRec.fields : JournalRec → List Nat
  | .map lua pua seq origSeq wseq dsSlot => [0, lua, pua, seq, origSeq, wseq, dsSlot]
  | .trim lo hi seq => [1, lo, hi, seq]
  | .block die b stream event seq => [2, die, b, stream, event, seq]
  | .stripe group number stream members parity seq =>
    [3, group, number, stream] ++ members.flatMap (fun x => [x.1, x.2]) ++ [parity, seq]
  | .flush dsSlot wseq seq => [4, dsSlot, wseq, seq]
  | .sealed dsSlot seq => [5, dsSlot, seq]

/-- The SEQ of a record. -/
def JournalRec.seqOf : JournalRec → Nat
  | .map _ _ seq .. | .trim _ _ seq | .block (seq := seq) .. | .stripe _ _ _ _ _ seq | .flush _ _ seq | .sealed _ seq => seq

/-- A journal page: its records and the CRC-32C of the page (R114). -/
def journalPage (rs : List JournalRec) : List Byte :=
  let body := rs.flatMap fun r => Config.journalRecord r.fields
  body ++ leBytes 4 (crc32c body)

/-- The page's CRC holds. -/
def pageCrcOk (bs : List Byte) : Bool :=
  byteField bs (bs.length - 4) 4 == (crc32c (bs.take (bs.length - 4))).toNat

/-- Pending journal records go to the metadata stream, one page, where it finds a place (R114); blocks that waited for them may
be programmed again (R117). -/
def Media.programJournal (now : Nat) (m : Media) : Media :=
  if m.journal.isEmpty then m
  else
    let lua := journalLua m.nextMeta
    let a := Media.append (.metadata 1 lua (journalPage m.journal)) m.groups now { m with nextMeta := m.nextMeta + 1 }
    match a.puaOf lua with
    | none => m
    | some pua =>
      { a with
        journalDone := a.journalDone ++ [⟨pua, m.journal⟩]
        journal := a.journal.drop m.journal.length
        blocks := a.blocks.map fun b => { b with waitJournal := false } }

/-- A dataset's descriptor, and its defect list, are programmed on the metadata stream (R93). -/
def Media.describe (slot now : Nat) (m : Media) : Media :=
  let fields := ((m.partitions.find? (·.dsSlot == slot)).map fun p =>
    [p.dataset.toNat, p.n, p.parts, p.p, p.cls, p.keyCheck.toNat] ++ p.replicas ++ p.wrappedKey.map (·.toNat)).getD []
  m.append (.metadata 0 (descriptorLua slot) (Config.metaUnit 0 fields)) m.groups now
def Media.writeDefects (slot now : Nat) (m : Media) : Media :=
  let fields := ((m.partitions.find? (·.dsSlot == slot)).map fun p =>
    p.defects.flatMap fun x => [x.index, flag x.global, x.cause, x.epoch, x.detail]).getD []
  m.append (.metadata 0 (defectLua slot) (Config.metaUnit 1 fields)) m.groups now

/-- Segments that journal records changed. -/
def changedSegments (rs : List JournalRec) : List Nat :=
  (rs.flatMap fun r =>
    match r with
    | .map lua .. => [segmentOfLua lua]
    | .trim lo hi _ => (List.range (segmentOfLua hi + 1 - segmentOfLua lo)).map (segmentOfLua lo + ·)
    | _ => []).eraseDups

/-- Unit `i` of a segment: its 5-byte entries, LUA after LUA (R90). The 4 bytes that no entry fills read 0. -/
def Media.segmentUnit (m : Media) (seg i : Nat) : List Byte :=
  (List.range unitBytes).map fun b =>
    let at_ := i * unitBytes + b
    if 838860 ≤ at_ / 5 then 0 else BitVec.ofNat 8 ((m.puaOf (seg * 838860 + at_ / 5)).getD noAddr / 256 ^ (at_ % 5))

/-- A segment's 128 units are written. -/
def Media.writeSegment (now : Nat) (m : Media) (seg : Nat) : Media :=
  (List.range 128).foldl (fun n i => n.append (.metadata 2 (segmentLua seg i) (n.segmentUnit seg i)) n.groups now) m

/-- The units of a segment. -/
def Media.segmentUnits (m : Media) (seg : Nat) : List Nat := (List.range 128).filterMap fun i => m.puaOf (segmentLua seg i)

/-- A checkpoint begins: the changed segments are written, and what the root will list is fixed (R113). -/
def Media.beginCheckpoint (changed : List Nat) (now : Nat) (m : Media) : Media :=
  let old := ((m.roots.head?.map (·.2.2.segments)).getD []).filter fun x => !changed.contains x.1
  let a := changed.foldl (Media.writeSegment now) { m with sinceCheckpoint := 0 }
  let c : Checkpoint :=
    { seq := m.seq
      segments := old ++ changed.map fun x => (x, a.segmentUnits x)
      map := m.map.filter fun e => decide (e.1 < metaLua)
      blocks := m.blocks
      pages := m.journalDone.length }
  { a with pendingCheckpoint := some c }

/-- The records since the last checkpoint began. -/
def Media.sinceRoot (m : Media) : List JournalRec :=
  (m.journalDone.drop ((m.roots.head?.map (·.2.2.pages)).getD 0)).flatMap (·.recs) ++ m.journal

/-- What a root lists, as fields. -/
def Checkpoint.fields (c : Checkpoint) : List Nat :=
  [c.seq, c.pages] ++ c.segments.flatMap (fun x => x.1 :: x.2) ++ c.blocks.flatMap fun b =>
    [b.die, b.block, match b.state with | .free => 0 | .opened => 1 | .closed => 2 | .retired => 3, b.stream, b.erases]

/-- The checkpoint's root stands on media die `k`. -/
def Media.hasRoot (m : Media) (k : Nat) (c : Checkpoint) : Bool := m.roots.any fun x => x.1 == k && x.2.2 == c

/-- The root is written on media die `k`, once, where it finds a place. -/
def Media.writeRoot (k now : Nat) (c : Checkpoint) (m : Media) : Media :=
  if m.hasRoot k c then m
  else
    let a := m.append (.metadata 3 (rootLua k) (Config.metaUnit 3 c.fields)) (m.groupsOf k) now
    if a.seq = m.seq then m else { a with roots := (k, (a.puaOf (rootLua k)).getD noAddr, c) :: a.roots }

/-- The root counts once it stands on either media die; once on both, the checkpoint has ended and the journal pages before its
position are freed (R113). -/
def Media.rootDone (med0 med1 : Bool) (now : Nat) (m : Media) : Media :=
  match m.pendingCheckpoint with
  | none => m
  | some c =>
    let a := if med0 then m.writeRoot 0 now c else m
    let b := if med1 then a.writeRoot 1 now c else a
    if b.hasRoot 0 c ∧ b.hasRoot 1 c then
      let gone := (b.journalDone.take c.pages).map (·.pua)
      { b with pendingCheckpoint := none, pagesFreed := max b.pagesFreed c.pages
               map := b.map.filter fun e => !(gone.contains e.2 && decide (metaLua ≤ e.1)) }
    else b

/-! ### Erases and the operations that empty blocks (R96, R98, R101, R105, R117) -/

/-- A copy's parity row is programmed, or its stripe needs no parity any more. -/
def Media.rowSafe (m : Media) (pua : Nat) : Bool :=
  let die := Media.dieOf pua
  let block := m.blockOf pua
  match m.stripeOf die block with
  | none => true
  | some x => x.state != .opened || x.parityRows.contains (pua - m.puaAt die block 0)

/-- A block may be erased: every copy out of it stands, with its parity, and no stripe needs it (R117). -/
def Media.erasable (m : Media) (die block : Nat) : Bool :=
  m.stateOf die block == .closed && (m.validIn die block).isEmpty &&
    ((m.stripeOf die block).map (·.state == .verified)).getD true &&
    (m.slotsIn die block).all fun x => ((m.puaOf x.lua).map m.rowSafe).getD true

/-- Records of copies out of a block that are still pending (R117). -/
def Media.copiesPending (m : Media) (die block : Nat) : Bool :=
  let mine := (m.slotsIn die block).map (·.lua)
  m.journal.any fun r => match r with | .map lua .. => mine.contains lua | _ => false

/-- Slots that a garbage-collected block sets free count for limited ingest on its die (R98). -/
def Media.addCredit (die n : Nat) (m : Media) : Media :=
  { m with ingestCredit := (die, ((m.ingestCredit.find? (·.1 == die)).map (·.2)).getD 0 + n) ::
      m.ingestCredit.filter (·.1 != die) }

/-- A block after its erase. -/
def Media.erase (m : Media) (die block : Nat) : Media :=
  let b := m.block? die block
  let rew := (b.bind (·.drain)) == some .rewrite
  let wait := m.copiesPending die block
  let a := m.modBlock die block fun b =>
    { b with state := .free, slc := false, erases := b.erases + 1, rewrite := false, drain := none, waitJournal := wait
             lastRewrite := if rew then some (b.erases + 1) else b.lastRewrite }
  let c := Media.log (.block die block ((b.map (·.stream)).getD 0) 2 a.seq) { a with
    rewrites := a.rewrites + flag rew
    slots := a.slots.filter fun x => !(Media.dieOf x.pua == die && m.blockOf x.pua == block)
    stripes := (a.stripes.map fun x => { x with members := x.members.filter (· != (die, block)) }).filter fun x =>
      !x.members.isEmpty }
  let d := if (b.bind (·.drain)) = some .gc then c.addCredit die (m.slotsPer ((b.map (·.slc)).getD false)) else c
  d.regionSettle die block

/-- The copies of the blocks that a stripe waits for stand in verified stripes (R101). -/
def Media.copiesVerified (m : Media) (x : Stripe) : Bool :=
  x.waiting.all fun (d, b) => (m.slotsIn d b).all fun y =>
    match m.puaOf y.lua with
    | some pua => pua != y.pua && ((m.stripeOf (Media.dieOf pua) (m.blockOf pua)).map (·.state == .verified)).getD true
    | none => true

/-- The blocks of a die that may be emptied: closed, and needed by no stripe (R98). -/
def Media.victims (m : Media) (die : Nat) : List Block :=
  m.blocks.filter fun b => b.die == die && b.state == .closed && b.drain.isNone && b.block != 0 &&
    ((m.stripeOf die b.block).map (·.state == .verified)).getD true

/-- A block that garbage collection may pick: no metadata block under 60 s old, counted from its opening (R98).
(DESIGN CHOICE 184; assumption log) -/
def Block.collectable (now : Nat) (b : Block) : Bool := b.stream != 2 || decide (b.since + 60000000000 ≤ now)

/-- A rewrite stands before garbage collection on a die (R105). -/
def Media.rewriteWaits (m : Media) (die : Nat) : Bool :=
  m.blocks.any fun b => b.die == die && b.rewrite && b.state == .closed && b.drain.isNone

/-- The least of a list by a measure, the first of equals. (DEDUCED 77; assumption log) -/
def leastBy {α : Type} (f : α → Nat) : List α → Option α
  | [] => none
  | x :: xs => some (xs.foldl (fun best y => if f y < f best then y else best) x)

/-! ### Winners and recovery (R92, R109, R115, R118) -/

/-- A record is a candidate: it decodes, from a die in service or by parity, and no TRIM of a later sequence number took it
(R92). -/
def Media.stands (m : Media) (x : Slot) : Bool :=
  x.ok && (!m.failedDies.contains (Media.dieOf x.pua) || m.rebuildable x.pua) &&
    !m.trims.any fun (lo, hi, n) => decide (lo ≤ x.lua ∧ x.lua ≤ hi ∧ x.origSeq < n)

/-- The winner among the slots of a unit (R92), of those that `keep` admits. -/
def Media.winner (m : Media) (lua : Nat) (keep : Slot → Bool) : Option Slot :=
  (m.slots.filter fun x => x.lua == lua && m.stands x && keep x).foldl (fun best x =>
    match best with
    | none => some x
    | some y => if decide (y.origSeq < x.origSeq ∨ (y.origSeq = x.origSeq ∧ y.seq < x.seq)) then some x else best) none

/-- The records of the journal pages that replay takes: it stops at a page that fails its CRC, or whose first SEQ, that of its
unit, is not greater than that of the page before (R115). (DEDUCED 82; assumption log) -/
def Media.replay (m : Media) : List JournalPage → Nat → List JournalRec
  | [], _ => []
  | p :: ps, last =>
    match m.slots.find? fun x => x.pua == p.pua && x.ok && pageCrcOk x.data with
    | some x => if last < x.seq then p.recs ++ m.replay ps x.seq else []
    | none => []

/-- A block's state at the end of the replayed journal: as the root's table has it, then as BLOCK records say. -/
def blockAt (c : Checkpoint) (recs : List JournalRec) (die block : Nat) : BlockState :=
  let base := ((c.blocks.find? fun b => b.die == die && b.block == block).map (·.state)).getD .free
  recs.foldl (fun st r =>
    match r with
    | .block d b _ ev _ =>
      if d = die ∧ b = block then (match ev with | 0 => .opened | 1 => .closed | 2 => .free | _ => .retired) else st
    | _ => st) base

/-- The newest root, by SEQ, whose CRC is correct on either media die (R115). -/
def Media.rootFor (m : Media) (bad : List Nat) : Option Checkpoint :=
  ((m.roots.filter fun x => !bad.contains x.2.1 && m.slots.any fun y => y.pua == x.2.1 && y.kind == 3 && y.ok).map (·.2.2)).foldl
    (fun best c =>
      match best with
      | none => some c
      | some d => if d.seq < c.seq then some c else best) none

/-- The records of the journal that recovery replays from a root. -/
def Media.replayed (m : Media) (root : Option Checkpoint) : List JournalRec :=
  match root with
  | none => []
  | some c => m.replay (m.journalDone.drop c.pages) 0

/-- The records that recovery considers: all of them in a full scan; otherwise those that the root's segments or the replayed
journal name, and those of the blocks that were open or free at the end of it (R115, R116). -/
def Media.found (m : Media) (root : Option Checkpoint) : Slot → Bool :=
  match root with
  | none => fun _ => true
  | some c =>
    let recs := m.replayed root
    fun x =>
      c.map.contains (x.lua, x.pua) ||
        recs.any (fun r => match r with | .map lua pua _ _ _ _ => lua == x.lua && pua == x.pua | _ => false) ||
        (match blockAt c recs (Media.dieOf x.pua) (m.blockOf x.pua) with | .opened | .free => true | _ => false)

/-- The map of a partition's units, settled by the winner rule: of a sealed one among what recovery found, of another among
its units with WSEQ at most the durable one (R109). -/
def Media.settle (m : Media) (found : Slot → Bool) (p : Partition) : List (Nat × Nat) :=
  ((p.current.flatMap (·.luas)).filterMap fun l =>
    (m.winner l fun x => x.dsSlot == p.dsSlot && (if p.sealed then found x else decide (x.wseq ≤ p.durable))).map fun x =>
      (l, x.pua))

/-- A partition set back to its durable WSEQ (R109). (DEDUCED 81; assumption log) -/
def Partition.setBack (p : Partition) : Partition :=
  { p with samples := p.samples.filter fun x => decide (x.wseq ≤ p.durable), completed := p.durable, lostFrom := none }

/-- Units of an unsealed partition above its durable WSEQ are discarded for good (R109). -/
def Media.discard (slot : Nat) (m : Media) : Media :=
  match m.partitions.find? (·.dsSlot == slot) with
  | none => m
  | some p =>
    if p.sealed then m
    else { m with slots := m.slots.map fun x =>
      if x.dsSlot = slot ∧ p.durable < x.wseq then { x with lua := noAddr, ok := false } else x }

/-- The map of one partition settled again. -/
def Media.settleOne (m : Media) (slot : Nat) : Media :=
  match m.partitions.find? (·.dsSlot == slot) with
  | none => m
  | some p =>
    let mine := (m.slots.filter fun x => x.dsSlot == slot && decide (x.lua < metaLua)).map (·.lua)
    let a := m.discard slot
    { a with map := (a.settle (fun _ => true) p).foldl (fun a e => mapInsert e.1 e.2 a) (m.map.filter fun e => !mine.contains e.1) }

/-- The map rebuilt from every partition; of the metadata, the descriptors and defect lists stand. -/
def Media.settleAll (found : Slot → Bool) (m : Media) : Media :=
  let lists := ((m.slots.filter fun x => x.kind == 0 && decide (metaLua ≤ x.lua ∧ x.lua < journalLua 0)).map (·.lua)).eraseDups
  let kept := lists.filterMap fun l => (m.winner l fun _ => true).map fun x => (l, x.pua)
  { m with map := (m.partitions.flatMap (m.settle found) ++ kept).foldl (fun a e => mapInsert e.1 e.2 a) [] }

/-- A page that power loss tore (R118): a parity page leaves its row; a data page of an open block fails, and is rebuilt where
its row's parity stands; the page being programmed is spent. -/
def Media.tear (m : Media) (pua : Nat) : Media :=
  let die := Media.dieOf pua
  let block := m.blockOf pua
  let page := pua - m.puaAt die block 0
  match m.stripeOf die block with
  | none => m
  | some x =>
    if x.state ≠ .opened then m
    else if x.parity = die then m.modStripe x fun y => { y with parityRows := y.parityRows.filter (· != page) }
    else if m.slots.any (·.pua == pua) then
      if x.parityRows.contains page && m.othersLive x die then m
      else { m with slots := m.slots.map fun y => if y.pua = pua then { y with ok := false } else y }
    else if page = (m.slotsIn die block).length then
      { m with slots := ⟨pua, noAddr, x.stream, 0, 0xFFF, 0, 0, 0, false, []⟩ :: m.slots }
    else m

/-- What power loss or a reset takes from the media manager: everything in HBM, and defect entries not yet durable
(R78, R498). -/
def Media.powerLoss (m : Media) : Media :=
  { m with
    mounted := false, unsupported := none, map := [], buffer := [], journal := [], pendingCheckpoint := none
    folding := false, stagingFull := false, reloadSegments := [], full := false
    blocks := m.blocks.map fun b =>
      { b with drain := if b.state = .retired then b.drain else none, waitJournal := false }
    partitions := m.partitions.map fun p => { p with defects := (p.defects.filter (·.durable)).map fun x => { x with made := none } } }

/-- Recovery (R115): the layout of the label; what power loss tore; every unsealed partition set back and its later units
discarded; the map settled from the newest correct root; the counter one above every sequence number found; blocks found
neither valid nor erased erased again; and, on native media, a new checkpoint. (DEDUCED 82; assumption log) -/
def Media.recover (m : Media) (badRoots : List Nat) (torn : List Nat) (wiped : List (Nat × Nat)) (now : Nat) : Media :=
  let t := torn.foldl Media.tear { m with mounted := true, qsLayout := m.label == 1 }
  let root := t.rootFor badRoots
  let a : Media := { t with fullScan := root.isNone }
  let found := a.found root
  let b : Media := { a with
    partitions := a.partitions.map fun p =>
      if p.sealed then p
      else { p.setBack with nextWseq := max p.durable (a.slots.foldl (fun n x => if x.dsSlot = p.dsSlot then max n x.wseq else n) 0) + 1 } }
  let c := ((b.partitions.map (·.dsSlot)).foldl (fun n i => Media.discard i n) b).settleAll found
  let seen := (c.slots.filter (·.ok)).map (·.seq) ++ (a.replayed root).map (·.seqOf) ++ (root.map (·.seq)).toList
  let d : Media := { c with seq := seen.foldl max 0 + 1 }
  let e := wiped.foldl (fun n (die, block) => if n.erasable die block then n.erase die block else n) d
  let f := if e.qsLayout then e else ((e.beginCheckpoint e.segments now).rootDone true true now)
  (f.stagingCheck).refill

/-! ### The STATE field and the health reasons (R119, R120, R366) -/

/-- `SPARE_PM` (R119). -/
def Media.sparePm (m : Media) : Nat :=
  let all := 64 * m.targets * m.sparesPerDie
  if all = 0 then 0 else 1000 * m.spares.sum / all

/-- Mean erases of the native blocks of these dies, per mille of rated endurance. -/
def Media.wearOf (m : Media) (dies : Nat) (of : Nat → Bool) : Nat :=
  let bs := m.blocks.filter fun b => of b.die
  let native := dies * m.geom.blocks - (bs.filter (·.slc)).length
  let cycles := ((bs.filter fun b => !b.slc).map (·.erases)).sum
  if native = 0 ∨ m.geom.rated = 0 then 0 else 1000 * cycles / (native * m.geom.rated)

def Media.wearPm (m : Media) : Nat := m.wearOf (64 * m.targets) fun _ => true

/-- Wear of the die with the most of it, and the die. -/
def Media.wearMax (m : Media) : Nat × Nat :=
  (m.blocks.map (·.die)).eraseDups.foldl (fun best d =>
    let w := m.wearOf 1 (· == d)
    if best.1 < w then (w, d) else best) (0, 0)

/-- (DEDUCED 80; assumption log) -/
def Media.stateBits (m : Media) : Nat :=
  flag m.exhausted + 2 * flag m.qsLayout + 4 * flag m.stagingFull + 8 * flag m.fullScan + 16 * flag m.full +
    32 * flag m.unsupported.isSome

/-- A change of the media; a change of any STATE bit makes one event. -/
def setMedia (f : Media → Media) (s : State) : State :=
  let t := s.modMedia f
  if t.media.stateBits = s.media.stateBits then t else postEvent 4 false (natBytes 2 t.media.stateBits) t

/-- The reasons that follow the spares and the wear. -/
def mediaReasons (s : State) : State :=
  let m := s.media
  let fewest := (leastBy (fun d => m.spares.getD d 0) m.liveDies).getD 0
  let a := if m.targets = 0 then s
    else if m.sparePm ≤ 100 then raiseReason 0x10 100 fewest s
    else clearReason 0x10 0 s
  if 1000 ≤ m.wearMax.1 then raiseReason 0x11 100 m.wearMax.2 a else a

/-- Programs or erases of the media manager: the media after them, and the reasons. -/
def programMedia (f : Media → Media) (s : State) : State := mediaReasons (setMedia f s)

end Sys2Proof.Machine
end

