-- ==== Sys2Proof/Machine/Memory.lean ====
section
/-! DEFINITION. Berth pools (R137 to R143) and the sample caches (R126 to R136). -/

namespace Sys2Proof.Machine

/-! ### Berths -/

/-- Buffer sizes of the pool parts 1S to 5S, then 1H to 8H (R137). -/
def partSizes : List Nat :=
  [4096, 16384, 65536, 262144, 1048576, 4096, 16384, 65536, 262144, 1048576, 4194304, 16777216, 67108864]

/-- The part and the number of buffers a draw of `size` bytes takes (R138, R139); none for size 0. -/
def berthFor (size : Nat) (hbm : Bool) : Option (Nat × Nat) :=
  if size = 0 then none
  else
    let first := if hbm || decide (1048576 < size) then 5 else 0
    match ((List.range 13).filter fun k => decide (first ≤ k) && decide (size ≤ partSizes.getD k 0)).head? with
    | some k => some (k, 1)
    | none => some (12, (size + 67108863) / 67108864)

/-- Buffers of part `k` that owner `o` holds. -/
def Spd.held (d : Spd) (o k : Nat) : Nat := ((d.holds.filter fun h => h.owner == o && h.part == k).map (·.count)).sum

/-- Free buffers of part `k`. -/
def Spd.freeBufs (d : Spd) (k : Nat) : Nat :=
  d.pools.getD k 0 - ((d.holds.filter (·.part == k)).map (·.count)).sum

/-- The reserved minimum m(o, k) (R142). -/
def reserveOf (rs : List Reserve) (o k : Nat) : Nat :=
  ((rs.find? fun r => r.owner == o && r.part == k).map (·.minimum)).getD 0

/-- U of R142: the buffers still owed to the reserves of part `k`. (DESIGN CHOICE 23; assumption log) -/
def Spd.owed (d : Spd) (rs : List Reserve) (k : Nat) : Nat :=
  ((rs.filter (·.part == k)).map fun r => r.minimum - d.held r.owner k).sum

/-- One buffer of part `k` to owner `o` for a request (R142). -/
def Spd.drawOne (rs : List Reserve) (o k : Nat) (req : Option ReqKey) (d : Spd) : Option Spd :=
  if 1 ≤ d.freeBufs k ∧ (d.held o k < reserveOf rs o k ∨ d.owed rs k < d.freeBufs k) then
    some { d with holds := ⟨o, k, 1, req⟩ :: d.holds }
  else none

/-- `n` draws of one buffer in succession (R142). -/
def Spd.drawMany (rs : List Reserve) (o k : Nat) (req : Option ReqKey) : Nat → Spd → Option Spd
  | 0, d => some d
  | n + 1, d => (d.drawOne rs o k req).bind (Spd.drawMany rs o k req n)

/-- A draw of several sizes, whole or not at all; an error names the part that failed (R139). -/
def Spd.draw (rs : List Reserve) (o : Nat) (hbm : Bool) (req : Option ReqKey) : List Nat → Spd → Except Nat Spd
  | [], d => .ok d
  | size :: rest, d =>
    match berthFor size hbm with
    | none => Spd.draw rs o hbm req rest d
    | some (k, n) =>
      match d.drawMany rs o k req n with
      | none => .error k
      | some d' => Spd.draw rs o hbm req rest d'

/-- A failed draw is counted per pool (R140, R488). -/
def drawFailed (n k : Nat) (s : State) : State :=
  let t := s.modSpd n fun d => { d with drawFails := updAt d.drawFails k (· + 1) }
  countFixed n 13 (countPerf n k (setEv .mem 4 t))

/-- A draw on SPD `n`: the state after, or the part that failed. -/
def drawOrPart (n o : Nat) (hbm : Bool) (req : Option ReqKey) (sizes : List Nat) (s : State) : Except Nat State :=
  match (s.spd? n).map (Spd.draw s.fab.reserves o hbm req sizes) with
  | none => .error 0
  | some (.ok d) => .ok (s.modSpd n fun _ => d)
  | some (.error k) => .error k

/-- A draw on SPD `n`: whether it succeeded, and the state after, in which a failure is counted. -/
def drawBerths (n o : Nat) (hbm : Bool) (req : Option ReqKey) (sizes : List Nat) (s : State) : Bool × State :=
  match drawOrPart n o hbm req sizes s with
  | .ok a => (true, a)
  | .error k => (false, drawFailed n k s)

/-- Every buffer a request holds returns to its pool (R141). -/
def releaseBerths (n : Nat) (req : ReqKey) (s : State) : State :=
  s.modSpd n fun d => { d with holds := d.holds.filter fun h => h.req != some req }

/-- The owner number of a stream's rank group (R142). A group that no record names has no reserve, under a number above
those of the chip. (DESIGN CHOICE 23; assumption log) -/
def ownerOf (s : State) (stream group : Nat) : Nat :=
  (s.fab.reserves.find? fun r =>
    r.stream == stream && decide (r.firstGroup ≤ group) && decide (group ≤ r.lastGroup)).map (·.owner) |>.getD
      (256 + stream)

/-! ### Caches -/

/-- DEC_SHARE; values above 64 act as 64 (R129). -/
def State.decShare (s : State) : Nat := min 64 (fieldOf s.applied.cfgCache 0 7)

/-- Extents of the decoded cache, and granules of the raw cache (R126, R129). -/
def decRoom (s : State) (d : Spd) : Nat := d.extents * s.decShare / 64
def rawRoom (s : State) (d : Spd) : Nat := 2 * (d.extents - decRoom s d)

def unitsUsed (es : List CacheEntry) : Nat := (es.map (·.units)).sum

/-- What a cache may hold now: while a new split evicts, the growing cache has only what the other has freed (R129). -/
def decSpace (s : State) (d : Spd) : Nat := min (decRoom s d) (d.extents - (unitsUsed d.rawCache + 1) / 2)
def rawSpace (s : State) (d : Spd) : Nat := min (rawRoom s d) (2 * (d.extents - unitsUsed d.decCache))

def CacheEntry.isFor (dsSlot index : Nat) (remote : Bool) (e : CacheEntry) : Bool :=
  e.dsSlot == dsSlot && e.index == index && e.remote == remote

/-- Rank of a key, greater for a later use: finite keys by value, then stale, then INFINITE (R133). -/
def CacheKey.rank : CacheKey → Nat × Nat
  | .finite n => (0, n)
  | .stale => (1, 0)
  | .infinite => (2, 0)

def CacheKey.above (a b : CacheKey) : Bool :=
  decide (b.rank.1 < a.rank.1 ∨ (a.rank.1 = b.rank.1 ∧ b.rank.2 < a.rank.2))

/-- Descending key, equal keys by earliest admission (R132). -/
def evictBefore (a b : CacheEntry) : Bool := a.key.above b.key || (!b.key.above a.key && decide (a.order ≤ b.order))

/-- The shortest leading run that frees `need` units and at least `least` entries. -/
def leadingRun : List CacheEntry → Nat → Nat → Option (List CacheEntry)
  | _, 0, 0 => some []
  | [], _, _ => none
  | e :: es, need, least => (leadingRun es (need - e.units) (least - 1)).map (e :: ·)

/-- The victims whose eviction admits a sample of `k` units and key `key`, if it is admitted (R132). -/
def admitVictims (es : List CacheEntry) (room : Nat) (full : Bool) (k : Nat) (key : CacheKey) :
    Option (List CacheEntry) :=
  let used := unitsUsed es
  if used + k ≤ room ∧ !full then (if key = .infinite then none else some [])
  else
    match leadingRun (sortBy evictBefore (es.filter (·.pins == 0))) (used + k - room) (flag full) with
    | none => none
    | some run => if run.all fun e => e.key.above key then some run else none

/-- What a form's decode depends on beside the sample's bytes. (DESIGN CHOICE 160; assumption log) -/
def Stream.formParams (t : Stream) : Option DecodeParams := if t.cls = 4 then none else some { t.dec with videoDe := 0 }

/-- A cached form serves a stream that would have made the same (R134): of text, one of its own tables and configuration (R221);
otherwise, one made under its own decode parameters. (DESIGN CHOICE 160; assumption log) -/
def formFits (t : Stream) (e : CacheEntry) : Bool := if t.cls = 4 then formMatches t.txt e.form else e.made == t.formParams

/-- Bytes of a form. -/
def Form.size (f : Form) : Nat := f.desc.length + f.data.length

/-- Keep a spill store within its share, dropping the samples used furthest ahead (R135).
(DESIGN CHOICE 79; assumption log) -/
def trimSpill (room : Nat) (es : List CacheEntry) : List CacheEntry :=
  let sorted := sortBy evictBefore es
  match (List.range (sorted.length + 1)).find? fun n => decide (unitsUsed (sorted.drop n) ≤ room) with
  | some n => sorted.drop n
  | none => []

/-- Spill is on: enabled, with a limit, and the media not exhausted (R135, R111). -/
def State.spillOn (s : State) : Bool :=
  bitOf s.applied.cfgCache 7 && s.applied.cfgSpillLimit ≠ 0 && !s.media.exhausted

/-- Extents of the spill share of one serving SPD. -/
def State.spillRoom (s : State) : Nat := s.applied.cfgSpillLimit.toNat * 16384 / max 1 s.servingList.length

/-- The spilled samples of SPD `n` become `keep` of them; the units of the others are dropped.
(DESIGN CHOICE 79; assumption log) -/
def keepSpill (n : Nat) (keep : List CacheEntry → List CacheEntry) (s : State) : State :=
  match s.spd? n with
  | none => s
  | some d =>
    let kept := keep d.spill
    let gone := (d.spill.filter fun e => !kept.contains e).flatMap (·.luas)
    (s.modSpd n fun d => { d with spill := kept }).modMedia fun m => m.unmap gone

/-- An evicted decoded sample with a finite key goes to the spill stream, where a buffer can be drawn for it and its units find
a place (R135, R140, R112). (DESIGN CHOICE 157; assumption log) -/
def spillWrite (n : Nat) (e : CacheEntry) (s : State) : State :=
  let there := ((s.spd? n).map fun d => d.spill.any fun x => x.isFor e.dsSlot e.index e.remote).getD true
  match e.key with
  | .finite _ =>
    if !s.spillOn || there || !s.media.keepsBack then s
    else
      let (ok, t) := drawBerths n 4 true none [e.form.size] s
      if !ok then t
      else
        match s.media.spillUnits (s.sec.spillKey.getD []) ((e.form.size + unitBytes - 1) / unitBytes) (e.form.desc ++ e.form.data) s.mono with
        | none => s
        | some (luas, m) =>
          countPerf n 0x708 (keepSpill n (fun es => trimSpill s.spillRoom ({ e with pins := 0, luas := luas } :: es))
            (programMedia (fun _ => m) s))
  | _ => s

/-- The number of directory entries of an SPD (R127). -/
def Spd.entries (d : Spd) : Nat := d.decCache.length + d.rawCache.length

/-- Offer a sample to a cache of SPD `n` (R127, R132): a buffer for the admission is drawn and returned (R140).
(DESIGN CHOICE 103; assumption log) -/
def cacheAdmit (n : Nat) (dec : Bool) (dsSlot index : Nat) (remote : Bool) (form : Form) (digest : Dword)
    (made : Option DecodeParams) (s : State) : State :=
  match s.spd? n with
  | none => s
  | some d =>
    let bytes := form.size
    let unit := if dec then 65536 else 32768
    let k := (bytes + unit - 1) / unit
    let es := if dec then d.decCache else d.rawCache
    let big := if dec then decide (2 ^ fieldOf s.applied.cfgCache 8 4 < k) else decide (33554432 < bytes)
    if es.any (·.isFor dsSlot index remote) then s
    else
      let (ok, s1) := drawBerths n 5 false none [bytes] s
      let key := cacheKey s dsSlot index remote 64 (-1)
      match (if ok && !big then
          admitVictims es (if dec then decSpace s d else rawSpace s d) (decide (2097152 ≤ d.entries)) k key
        else none) with
      | none => countFixed n 11 (countPerf n 0x705 (if ok then s else s1))
      | some run =>
        let entry : CacheEntry := ⟨dsSlot, index, remote, k, key, d.admitOrder, 0, form, digest, made, [], false, []⟩
        let kept := es.filter fun e => !run.contains e
        let t := s.modSpd n fun d =>
          if dec then
            { d with decCache := kept ++ [entry], admitOrder := d.admitOrder + 1,
                     rawCache := d.rawCache.map fun e => if e.isFor dsSlot index remote then { e with key := .infinite } else e }
          else { d with rawCache := kept ++ [entry], admitOrder := d.admitOrder + 1 }
        let t := t.each run fun e u => (if dec then spillWrite n e else id) (countPerf n 0x706 u)
        countFixed n 10 (countPerf n 0x704 t)

/-- The sample's entry in a cache. -/
def Spd.find (d : Spd) (dec : Bool) (dsSlot index : Nat) (remote : Bool) : Option CacheEntry :=
  (if dec then d.decCache else d.rawCache).find? (·.isFor dsSlot index remote)

/-- A lookup is counted as a hit or a miss (R488). -/
def countLookup (n : Nat) (dec hit : Bool) (s : State) : State :=
  let i := (if dec then 0 else 2) + (if hit then 0 else 1)
  countFixed n (6 + i) (countPerf n (0x700 + i) s)

/-- A hit: the key is recomputed past the position served, and the sample is pinned until it is copied (R128, R133). -/
def cacheHit (n : Nat) (dec : Bool) (dsSlot index : Nat) (remote : Bool) (stream : Nat) (g : Nat) (s : State) : State :=
  let key := cacheKey s dsSlot index remote stream g
  let upd (e : CacheEntry) : CacheEntry :=
    if e.isFor dsSlot index remote then { e with key := key, due := false, pins := e.pins + 1 } else e
  s.modSpd n fun d => if dec then { d with decCache := d.decCache.map upd } else { d with rawCache := d.rawCache.map upd }

/-- A read of a spilled sample recomputes its key (R133, R135). -/
def spillHit (n dsSlot index : Nat) (remote : Bool) (stream : Nat) (g : Nat) (s : State) : State :=
  let key := cacheKey s dsSlot index remote stream g
  s.modSpd n fun d =>
    { d with spill := d.spill.map fun e => if e.isFor dsSlot index remote then { e with key := key, due := false } else e }

/-- The pin of a copied hit is dropped (R128). -/
def cacheUnpin (n : Nat) (dec : Bool) (dsSlot index : Nat) (remote : Bool) (s : State) : State :=
  let upd (e : CacheEntry) : CacheEntry := if e.isFor dsSlot index remote then { e with pins := e.pins - 1 } else e
  s.modSpd n fun d => if dec then { d with decCache := d.decCache.map upd } else { d with rawCache := d.rawCache.map upd }

/-- A sample leaves a cache. -/
def cacheDrop (n : Nat) (dec : Bool) (dsSlot index : Nat) (remote : Bool) (s : State) : State :=
  s.modSpd n fun d =>
    if dec then { d with decCache := d.decCache.filter fun e => !e.isFor dsSlot index remote }
    else { d with rawCache := d.rawCache.filter fun e => !e.isFor dsSlot index remote }

/-- Evict in the order of R132 until a cache fits its room. -/
def shrinkTo (room : Nat) (es : List CacheEntry) : List CacheEntry :=
  match leadingRun (sortBy evictBefore (es.filter (·.pins == 0))) (unitsUsed es - room) 0 with
  | some run => es.filter fun e => !run.contains e
  | none => es.filter fun e => e.pins != 0

/-- The cached and spilled samples of a partition are marked, and a sweep is due, on every SPD (R133). -/
def markKeys (dsSlot : Nat) (f : CacheEntry → CacheEntry) (s : State) : State :=
  let upd (e : CacheEntry) : CacheEntry := if e.dsSlot = dsSlot then f e else e
  s.modFab fun x => { x with spds := x.spds.map fun d =>
    { d with decCache := d.decCache.map upd, rawCache := d.rawCache.map upd, spill := d.spill.map upd, sweep := d.serving } }

/-- The samples of a partition that the sweep recomputes. -/
def dueKeys (dsSlot : Nat) (which : CacheEntry → Bool) (s : State) : State :=
  markKeys dsSlot (fun e => if which e then { e with due := true } else e) s

/-- A seek (R133): what the stream contributed and no sweep has recomputed is stale, and every key of its partition is
recomputed. (DEDUCED 163; assumption log) -/
def staleKeys (dsSlot : Nat) (s : State) : State :=
  markKeys dsSlot (fun e => { e with due := true, key := if e.due then .stale else e.key }) s

/-- KEY_SWEEP_DONE (R133): every key that is stale or due is recomputed. The starting entry is hardware entropy when STRICT
is 0 (R407); it decides only when a key is recomputed, so the completed sweep does not depend on it. -/
def execKeySweepDone (spd : Fin 8) (s : State) : Answer :=
  if !s.clocked spd then .next s else
  match s.spd? spd with
  | none => .next s
  | some d =>
    if !d.sweep then .next s
    else
      let upd (e : CacheEntry) : CacheEntry :=
        if e.due || e.key == .stale then { e with key := cacheKey s e.dsSlot e.index e.remote 64 (-1), due := false } else e
      .next (countFixed spd 12 (countPerf spd 0x707 (s.modSpd spd fun d =>
        { d with decCache := d.decCache.map upd, rawCache := d.rawCache.map upd, spill := d.spill.map upd, sweep := false })))

/-- CACHE_SPLIT_DONE (R129): evictions for the new split, which is not done while pinned samples stand over it; the event
when the last SPD is done. -/
def execCacheSplitDone (spd : Fin 8) (s : State) : Answer :=
  if !s.clocked spd then .next s else
  match s.spd? spd with
  | none => .next s
  | some d =>
    if !d.splitting then .next s
    else
      let dec := shrinkTo (decRoom s d) d.decCache
      let raw := shrinkTo (rawRoom s d) d.rawCache
      let fits := decide (unitsUsed dec ≤ decRoom s d ∧ unitsUsed raw ≤ rawRoom s d)
      let t := s.modSpd spd fun d => { d with splitting := !fits, decCache := dec, rawCache := raw }
      .next (if t.fab.spds.any (·.splitting) then t else setEv .mem 0x40 t)

end Sys2Proof.Machine
end

