-- ==== Sys2Proof/Machine/OperatingPoint.lean ====
section
/-! DEFINITION. Operating points (R429 to R432): the point wanted, the steps of an SPD toward it and the order rule. -/

namespace Sys2Proof.Machine

/-- The point requested in `PWR_CFG.OP` (R398). -/
def State.opRequested (s : State) : Nat := fieldOf s.applied.pwrCfg 0 2

/-- The slower of the requested and the thermal point (R429). -/
def State.opWanted (s : State) : Nat := max s.opRequested s.pwr.thermal

/-- `PWR_STAT.FV_HOLD` (R431). -/
def State.fvHold (s : State) : Bool := s.fab.spds.any fun d => d.freqHeld || d.voltHeld

/-- Throttling is in force while the thermal point is slower than the requested one (R446). -/
def updateThrottle (s : State) : State :=
  let on := decide (s.opRequested < s.pwr.thermal)
  let t := s.modPwr fun p => { p with throttle := on }
  if on && !s.pwr.throttle then setEv .pwr 0x10 t else t

/-- Every serving SPD has arrived at the point being moved to. -/
def opArrived (s : State) : Bool :=
  s.servingList.all fun n =>
    ((s.spd? n).map fun d => d.freqPt == s.pwr.opTarget && d.voltPt == s.pwr.opTarget).getD true

/-- The last serving SPD arrives: OP changes, and deadlines are due to be recomputed (R430, R432, R45). -/
def opSettle (s : State) : State :=
  if opArrived s && s.pwr.op != s.pwr.opTarget then
    setEv .pwr 8 ((s.modPwr fun p => { p with op := p.opTarget }).modTide fun d => { d with recomputeOp := true })
  else s

/-- The frequency switch of an SPD to point `w` needs no more than the present voltage (R430, R431). -/
def Spd.freqMay (w : Nat) (d : Spd) : Bool := decide (d.voltPt ≤ w)

/-- The voltage of point `w` is not below the least voltage of the present frequency. -/
def Spd.voltMay (w : Nat) (d : Spd) : Bool := decide (w ≤ d.freqPt)

/-- Toward a new point, a step stays held while it still waits for the other; one that has nothing left to do, or that may
now go, is held no longer. -/
def Spd.reheld (w : Nat) (d : Spd) : Spd :=
  { d with freqHeld := d.freqHeld && d.freqPt != w && !d.freqMay w, voltHeld := d.voltHeld && d.voltPt != w && !d.voltMay w }

/-- A new point starts to be taken on every SPD (R430); with no SPD serving it is in force at once. -/
def opRetarget (s : State) : State :=
  let t := updateThrottle s
  if t.opWanted = t.pwr.opTarget then t
  else
    let a := t.modFab fun f => { f with spds := f.spds.map (Spd.reheld t.opWanted) }
    opSettle (a.modPwr fun p => { p with opTarget := t.opWanted })

/-- One step of an SPD toward point `w`, and the other step when the order rule held it. -/
def Spd.opStep (w : Nat) (freq : Bool) (d : Spd) : Spd :=
  if freq then
    if d.freqMay w then
      let e := { d with freqPt := w, freqHeld := false }
      if e.voltHeld && e.voltMay w then { e with voltPt := w, voltHeld := false } else e
    else { d with freqHeld := true }
  else if d.voltMay w then
    let e := { d with voltPt := w, voltHeld := false }
    if e.freqHeld && e.freqMay w then { e with freqPt := w, freqHeld := false } else e
  else { d with voltHeld := true }

/-- OP_STEP_DONE (R431). A step that meets no move under way changes nothing; an SPD whose PLLs are off takes none. -/
def execOpStepDone (spd : Fin 8) (freqStep : Bool) (s : State) : Answer :=
  match s.spd? spd with
  | none => .next s
  | some d =>
    if !d.serving || !(d.power.aclk == .pll || d.power.aclk == .gated) || s.pwr.off || (d.freqPt == s.pwr.opTarget && d.voltPt == s.pwr.opTarget) then .next s
    else
      let e := d.opStep s.pwr.opTarget freqStep
      let t := s.modSpd spd fun _ => e
      let held := (e.freqHeld && !d.freqHeld) || (e.voltHeld && !d.voltHeld)
      .next (opSettle (if held then setEv .pwr 0x40 t else t))

end Sys2Proof.Machine
end

