-- ==== Sys2Proof/Machine/Staging.lean ====
section
/-! DEFINITION. Staged configuration and the configuration guard (R378 to R389): groups, arms, boundaries, applies,
the CRC over every applied value. -/

namespace Sys2Proof.Machine

/-- A barrier, a job with an accepted start, a connection or a job keeps a group from being quiescent (R378). -/
def quiescent (g : Nat) (s : State) : Bool :=
  if g = 0 then s.tide.barrier == .idle && (!s.jobActive || !s.run.accepted)
  else if g = 6 ∨ g = 7 then s.egr.conns.isEmpty
  else if g = 10 then true
  else !s.jobActive

def isArmed (g : Nat) (s : State) : Bool := s.arms.any (·.group == g)

/-- The boundary code of group `g` (R383). -/
def boundaryOf (g : Nat) (s : State) : Nat := fieldOf s.rw.grpBnd (2 * g) 2

/-- Every shadow of group `g` becomes its applied value (R378, R380). -/
def StRegs.copyGroup (g : Nat) (sh ap : StRegs) : StRegs :=
  match g with
  | 0 => { ap with tideCfg := sh.tideCfg, tidePeriodInit := sh.tidePeriodInit, tideGuard := sh.tideGuard,
                   tideLostMult := sh.tideLostMult, tideMinInterval := sh.tideMinInterval,
                   tideSyncDelay := sh.tideSyncDelay, tideHbInterval := sh.tideHbInterval, tideLease := sh.tideLease,
                   tideMarkPort := sh.tideMarkPort, tideJobId := sh.tideJobId, tideStartLo := sh.tideStartLo,
                   tideStartHi := sh.tideStartHi }
  | 1 => { ap with cfgCache := sh.cfgCache, cfgSpillLimit := sh.cfgSpillLimit }
  | 2 => { ap with cfgDec := sh.cfgDec }
  | 3 => { ap with cfgXf := sh.cfgXf }
  | 4 => { ap with cfgTxt := sh.cfgTxt }
  | 5 => { ap with cfgPack := sh.cfgPack }
  | 6 => { ap with egrPort := sh.egrPort, egr := sh.egr, egrQuiet := sh.egrQuiet, egrPeerHold := sh.egrPeerHold,
                   egrRevokeMax := sh.egrRevokeMax }
  | 7 => { ap with bw := sh.bw, bwCc := sh.bwCc, bwHist := sh.bwHist, classes := sh.classes }
  | 8 => { ap with sluMap := sh.sluMap, slu := sh.slu }
  | 9 => { ap with cfgDet := sh.cfgDet }
  | 10 => { ap with pwrCfg := sh.pwrCfg, pwrDuskIdle := sh.pwrDuskIdle, pwrLookahead := sh.pwrLookahead,
                    pwrTherm := sh.pwrTherm }
  | _ => ap

/-- Link `m` exists: its port is enabled, and an odd link needs breakout (R267, R298). -/
def linkExists (egrPort : Word) (m : Nat) : Bool :=
  bitOf egrPort (8 + m / 2) && (m % 2 == 0 || bitOf egrPort (m / 2))

/-- Links that the applied port modes take away are down (R267, R268), and congestion credits grown at a link's old rate stand.
(DEDUCED 21; assumption log) -/
def egressApply (old : StRegs) (s : State) : State :=
  let was : State := { s with applied := old }
  let a := s.modEgr fun e => { e with conns := e.conns.map fun c => c.settled (was.classRegs c.onLink c.cls) was }
  downLinks ((List.range 16).filter fun m => bitOf s.egr.linksUp m && !linkExists s.applied.egrPort m) a

/-- A change of TIME_SRC begins with the new source (R32), and a change of a PTP port, of its domain or of its delay mechanism
with a new source on that port (R33). (DEDUCED 21; assumption log) -/
def timeSourceApply (old : Word) (s : State) : State :=
  let cfg := s.applied.tideCfg
  let src := fieldOf cfg 0 2
  if src ≠ fieldOf old 0 2 then
    s.modTide fun d =>
      { d with timeState := if src = 1 ∨ src = 2 then .acquiring else .free, lockPrimary := 0, lockAlt := 0, ppsGood := 0,
               lastPps := none, lastSyncPrimary := none, lastSyncAlt := none, primarySince := none, onAlt := false,
               sourceSince := s.tide.uptime }
  else
    let both := decide (fieldOf cfg 11 9 ≠ fieldOf old 11 9)
    let pri := both || decide (fieldOf cfg 4 3 ≠ fieldOf old 4 3)
    let alt := both || decide (fieldOf cfg 7 4 ≠ fieldOf old 7 4)
    s.modTide fun d =>
      { d with
        lockPrimary := if pri then 0 else d.lockPrimary
        lastSyncPrimary := if pri then none else d.lastSyncPrimary
        primarySince := if pri then none else d.primarySince
        lockAlt := if alt then 0 else d.lockAlt
        lastSyncAlt := if alt then none else d.lastSyncAlt
        onAlt := d.onAlt && bitOf cfg 10
        timeState := if src = 1 ∧ (if d.onAlt then alt else pri) then .acquiring else d.timeState
        sourceSince := if src = 1 ∧ (if d.onAlt then alt else pri) then d.uptime else d.sourceSince }

/-- What an apply of one group sets going, beside the copy. (DEDUCED 21; assumption log) -/
def groupEffect (g : Nat) (old : StRegs) (s : State) : State :=
  match g with
  | 0 => timeSourceApply old.tideCfg s
  | 1 =>
    let a := s.each (List.range 8) fun n t => keepSpill n (trimSpill s.spillRoom) t
    if fieldOf old.cfgCache 0 7 = fieldOf s.applied.cfgCache 0 7 then a
    else a.modFab fun f => { f with spds := f.spds.map fun d => { d with splitting := d.serving } }
  | 6 => egressApply old s
  | 7 => bwApply old s
  | 8 => sluApply (!s.jobActive) old s
  | 10 => opRetarget s
  | _ => s

/-- MISMATCH follows its condition; its rise sets `GRD_EVT` (R386). -/
def guardCheck (s : State) : State :=
  let g := s.guard
  let m := g.refValid && !g.pending && g.done && g.crc != g.committed
  let t := s.modGuard fun g => { g with mismatch := m }
  if m && !g.mismatch then setEv .grd 1 t else t

/-- Every apply sets PENDING, and a computation is due (R385, R386). (DEDUCED 29; assumption log) -/
def guardApply (s : State) : State :=
  guardCheck (s.modGuard fun g => { g with pending := true, busy := true, computing := false, done := false })

/-- The groups apply together in one cycle (R380). -/
def applyGroups (gs : List Nat) (s : State) : State :=
  if gs.isEmpty then s
  else
    let stepped := s.arms.any fun a => gs.contains a.group && a.boundary == 2
    let t := { s with
      applied := gs.foldl (fun ap g => StRegs.copyGroup g s.shadow ap) s.applied
      arms := s.arms.filter fun a => !gs.contains a.group }
    let t := setEv .cfg (BitVec.ofNat 32 (((List.range 11).map fun g => flag (gs.contains g) * 2 ^ g).sum)) t
    let t := guardApply (t.each gs fun g => groupEffect g s.applied)
    if stepped then setEv .tide 0x800 t else t

/-- The STEP boundary of an arm has fallen (R49), in STEP_STATE LOST too. (DESIGN CHOICE 198; assumption log) -/
def stepDue (s : State) (a : Arm) : Bool :=
  let reached := if a.step = 0 then decide (a.since < s.tide.accepts) else decide (a.step ≤ s.tide.step)
  s.tide.stepState != .none && reached && decide (a.phase ≤ ((s.now : Int) - s.tide.startTime).toNat)

/-- The BATCH boundary of an arm falls before the first request of this batch (R380). -/
def batchDue (stream batch : Nat) (a : Arm) : Bool :=
  a.boundary == 1 && a.stream == stream && decide (a.batch ≤ batch) && !a.begun.contains batch

/-- A mismatch holds every boundary but an IMMEDIATE apply with no job active (R387). -/
def frozen (s : State) (a : Arm) : Bool := s.guard.mismatch && !(a.boundary == 0 && !s.jobActive)

/-- The boundaries of these arms fall: those the guard holds stay armed, the others apply together. -/
def takeBoundaries (due : Arm → Bool) (s : State) : State :=
  let fall := s.arms.filter due
  let held := fall.filter (frozen s)
  let go := (fall.filter fun a => !frozen s a).map (·.group)
  applyGroups go (if held.isEmpty then s else setEv .grd 4 s)

/-- Arm one group, or refuse it (R379). -/
def armGroup (g : Nat) (s : State) : State :=
  let b := boundaryOf g s
  let stream := fieldOf s.rw.applyStream 0 6
  let refused := isArmed g s || b == 3 || (b == 0 && !quiescent g s) ||
    (b == 1 && !(s.run.streams.any fun t => t.num == stream))
  if refused then setEv .cfg 0x10000 s
  else
    { s with arms := s.arms ++ [{
        group := g, boundary := b, stream := stream
        batch := s.rw.applyBatchLo.toNat + s.rw.applyBatchHi.toNat * 2 ^ 32
        step := s.rw.tideApplyStepLo.toNat + fieldOf s.rw.tideApplyStepHi 0 16 * 2 ^ 32
        phase := s.rw.tideApplyPhase.toNat
        begun := (s.run.batches.filter fun x => x.stream == stream && x.begun).map (·.num)
        since := s.tide.accepts }] }

/-- The groups a mask names, ascending. -/
def groupsOf (m : BitVec 11) : List Nat := (List.range 11).filter (bitOf m)

/-- `CFG_APPLY` with CANCEL = 0: each named group is armed or refused. -/
def armGroups (m : BitVec 11) (s : State) : State := s.each (groupsOf m) armGroup

/-- `CFG_APPLY` with CANCEL = 1: every named group is disarmed, its shadows stand (R379). -/
def cancelGroups (m : BitVec 11) (s : State) : State :=
  { s with arms := s.arms.filter fun a => !(groupsOf m).contains a.group }

/-! ### The guard's input (R385) -/

/-- The 32 words addressed directly, in ascending offset. -/
def StRegs.direct (r : StRegs) : List Word :=
  [r.cfgDet, r.tideCfg, r.tidePeriodInit, r.tideGuard, r.tideLostMult, r.tideMinInterval, r.tideSyncDelay,
   r.tideHbInterval, r.tideLease, r.tideMarkPort, r.tideJobId, r.tideStartLo, r.tideStartHi, r.cfgCache,
   r.cfgSpillLimit, r.cfgDec, r.cfgXf, r.cfgTxt, r.cfgPack, r.egrPort, r.egr, r.egrQuiet, r.egrPeerHold,
   r.egrRevokeMax, r.bw, r.bwCc, r.bwHist, r.sluMap, r.pwrCfg, r.pwrDuskIdle, r.pwrLookahead, r.pwrTherm]

def ClassRegs.words (c : ClassRegs) : List Word := [c.class0, c.class1, c.rate, c.burst, c.qRate, c.qBurst]

def SluList.words (l : SluList) : List Word :=
  [l.list, l.baseLo, l.baseHi] ++ l.entries.flatMap fun e => [e.gate, e.dur]

/-- The 2,860 words of the guard's input. -/
def StRegs.words (r : StRegs) : List Word :=
  r.direct ++ r.classes.flatMap ClassRegs.words ++ r.slu.flatMap SluList.words

/-- The value a computation over the applied values gives. -/
def guardCrc (s : State) : Word := crc32c (s.applied.words.flatMap (leBytes 4))

/-! ### Commands -/

/-- CFG_ARM (R379). -/
def execCfgArm (writer : Owner) (groups : BitVec 11) (s : State) : Answer := .next (s.byOwner writer (armGroups groups))

/-- CFG_CANCEL (R379). -/
def execCfgCancel (writer : Owner) (groups : BitVec 11) (s : State) : Answer := .next (s.byOwner writer (cancelGroups groups))

/-- STEP_BOUNDARY_APPLY (R49). -/
def execStepBoundaryApply (s : State) : Answer :=
  .next (takeBoundaries (fun a => a.boundary == 2 && stepDue s a) s)

/-- GUARD_COMPUTE_START (R385). -/
def execGuardComputeStart (s : State) : Answer := .next (s.modGuard fun g => { g with computing := true })

/-- GUARD_COMPUTE_DONE (R385, R386). -/
def execGuardComputeDone (s : State) : Answer :=
  if s.guard.computing then
    .next (guardCheck (s.modGuard fun g => { g with crc := guardCrc s, computing := false, busy := false, done := true }))
  else .next s

/-- The commit of R386, refused while any group is armed. -/
def guardCommit (s : State) : State :=
  if !s.arms.isEmpty then setEv .grd 2 s
  else guardCheck (s.modGuard fun g => { g with committed := s.rw.grdRef, refValid := true, pending := false })

/-- GUARD_COMMIT (R386). -/
def execGuardCommit (writer : Owner) (s : State) : Answer := .next (s.byOwner writer guardCommit)

end Sys2Proof.Machine
end

