-- ==== Sys2Proof/Machine/Tide.lean ====
section
/-! DEFINITION. The Tide (chapter 2): time sources, step starts, the period estimate, the barrier and the snapshots. -/

namespace Sys2Proof.Machine

/-! ### Registers of the Tide configuration -/

def State.timeSrc (s : State) : Nat := fieldOf s.applied.tideCfg 0 2
def State.stepSrc (s : State) : Nat := fieldOf s.applied.tideCfg 2 2
def State.ptpPort (s : State) : Nat := fieldOf s.applied.tideCfg 4 3
def State.ptpAlt (s : State) : Nat := fieldOf s.applied.tideCfg 7 3
def State.ptpAltEn (s : State) : Bool := bitOf s.applied.tideCfg 10

/-- `TIDE_START_STEP` (R59). -/
def State.startStep (s : State) : Nat :=
  s.applied.tideStartLo.toNat + fieldOf s.applied.tideStartHi 0 16 * 2 ^ 32

/-- `TIDE_LOST_MULT`; 0 and 1 act as 2 (R59). -/
def State.lostMult (s : State) : Nat := max 2 (fieldOf s.applied.tideLostMult 0 4)

/-- `TIDE_MIN_INTERVAL` in ns. -/
def State.minInterval (s : State) : Int := s.applied.tideMinInterval.toNat * 1000

/-- Phase (R31): ns since the last accepted start, saturating at 2^40 − 1; 0 before the first (R47). -/
def State.phase (s : State) : Nat :=
  if s.tide.stepState = .none then 0 else min (2 ^ 40 - 1) ((s.now : Int) - s.tide.startTime).toNat

/-- The last accepted step, 0 before the first. -/
def State.step (s : State) : Nat := if s.tide.stepState = .none then 0 else s.tide.step

/-- The step a start without a number takes (R34, R37). -/
def State.nextStep (s : State) : Nat :=
  if s.tide.stepState = .none then s.startStep else (s.tide.step + 1) % 2 ^ 48

/-! ### Step starts (R36 to R41) -/

/-- A seventeenth interval displaces the oldest (R38). -/
def pushInterval (w : List Nat) (i : Option Nat) : List Nat :=
  match i with
  | none => w
  | some v => let l := w ++ [v]; l.drop (l.length - 16)

def stateOfWindow (w : List Nat) : StepState := if w.length < 16 then .seeded else .tracking

/-- Steps 1 and 2 of R39: step and origin are set, the interval entered, STEP_STATE set (R41).
(DEDUCED 14; assumption log) -/
def Tide.accept (step : Nat) (t : Int) (interval : Option Nat) (restart : Bool) (seq : Option Nat) (period : Nat)
    (d : Tide) : Tide :=
  let w := pushInterval (if restart then [] else d.window) interval
  { d with
    step := step, startTime := t, window := w
    seed := if restart then some period else some (d.seed.getD period)
    stepState := stateOfWindow w
    lastSeq := if seq.isSome then seq else d.lastSeq
    recent := (step :: d.recent).take 16
    accepts := d.accepts + 1
    recomputeDue := true }

/-- An accepted step start, the event of R39, in which every STEP boundary that has arrived falls. It also wakes the SPDs
(R435). -/
def acceptStart (step : Nat) (t : Int) (interval : Option Nat) (restart : Bool) (seq : Option Nat) (evt : Word)
    (s : State) : State :=
  let a := (setEv .tide evt (s.modTide (·.accept step t interval restart seq s.period))).modRun fun r => { r with accepted := true }
  let b := sluStepStart t a
  wake 2 true (takeBoundaries (fun x => x.boundary == 2 && stepDue b x) b)

/-- A mark discarded as malformed, foreign or too early (R35, R36). -/
def rejectMark (s : State) : State := setEv .tide 4 (s.modTide fun d => { d with markRejects := d.markRejects + 1 })

/-- A step candidate is judged (R36). (DEDUCED 15; assumption log) -/
def judge (step : Nat) (t : Int) (restart : Bool) (seq : Option Nat) (s0 : State) : State :=
  let fresh := s0.tide.afterRelease
  let s := s0.modTide fun d => { d with afterRelease := false }
  let d := s.tide
  if restart then acceptStart step t none true seq 8 s
  else if d.stepState = .none then acceptStart step t none false seq 0 s
  else
    let j : Int := (step : Int) - d.step
    let gap := t - d.startTime
    let enter (v : Int) : Option Nat := if fresh || d.stepState == .lost then none else some v.toNat
    if j ≤ 0 then
      if seq.isSome ∧ seq = d.lastSeq then s else setEv .tide 2 s
    else if gap < (if j ≤ 64 then j * s.minInterval else s.minInterval) then rejectMark s
    else if j = 1 then acceptStart step t (enter gap) false seq 0 s
    else if j ≤ 64 then acceptStart step t (enter (gap / j)) false seq 1 s
    else acceptStart step t none false seq 1 s

/-- The estimator's window is cleared and its seed is the present estimate (R38, R41). -/
def restartEstimator (s : State) : State :=
  let p := s.period
  s.modTide fun d =>
    { d with window := [], seed := some p, stepState := if d.stepState = .tracking then .seeded else d.stepState }

/-- The fields of a 32-byte step-mark message that passes R35: step, whether RESTART, TS_VALID with START, SEQ. -/
def parseMark (jobId : Word) (m : List Byte) : Option (Nat × Bool × Option Nat × Nat) :=
  let ty := byteField m 14 1
  if m.length = 32 ∧ byteField m 0 4 = 0x54444D4B ∧ byteField m 4 4 = jobId.toNat ∧
      byteField m 28 4 = (crc32c (m.take 28)).toNat ∧ (ty = 1 ∨ ty = 2) then
    some (byteField m 8 6, ty == 2, if byteField m 15 1 % 2 = 1 then some (byteField m 16 8) else none,
      byteField m 24 4)
  else none

/-- The pairing distance P / 4 (R37). -/
def pairWindow (s : State) : Nat := s.period / 4

/-- A message is validated and judged, or waits for an edge (R34, R35, R37). (DEDUCED 13; assumption log) -/
def receiveMark (sourceOk : Bool) (msg : List Byte) (rx : Nat) (s : State) : State :=
  if !s.jobOpen then s
  else
    match parseMark s.applied.tideJobId msg, sourceOk with
    | some (step, restart, start, seq), true =>
      let t : Int := ((start.map (min rx)).getD rx : Nat)
      if s.stepSrc = 1 then
        if restart then setEv .tide 8 (restartEstimator s) else s
      else if s.stepSrc = 2 then
        match s.tide.edges.find? fun e => decide ((e.2 : Int) - rx ≤ pairWindow s ∧ (rx : Int) - e.2 ≤ pairWindow s) with
        | some e => judge step e.1 restart (some seq) (s.modTide fun d => { d with edges := d.edges.erase e })
        | none => s.modTide fun d => { d with marks := d.marks ++ [⟨step, restart, t, seq, rx⟩] }
      else judge step t restart (some seq) s
    | _, _ => rejectMark s

/-- STEP_MARK_DATAGRAM (R35): a UDP datagram to another port is no step mark. -/
def execStepMarkDatagram (d : MarkDatagram) (s : State) : Answer :=
  if d.destPort = fieldOf s.applied.tideMarkPort 0 16 then
    .next (receiveMark (((s.run.job.map fun j => j.coords.contains d.source)).getD false) d.payload d.rx.toNat s)
  else .next s

/-- The barrier is released (R51): the start time is the compensated capture less `TIDE_SYNC_DELAY`.
(DEDUCED 15; assumption log) -/
def releaseBarrier (t : Int) (s : State) : State :=
  let evt : Word := if s.tide.barrier = .armed then 0x180 else 0x100
  acceptStart s.startStep t none false none evt
    (s.modTide fun d => { d with barrier := .idle, syncOut := false, afterRelease := true })

/-- SYNC_IN_EDGE (R34, R36, R37, R51, R52); `captured` is the timestamp after the exact compensation of R51. The pin's level
follows its edges (R58), and only a rising one is judged. (DEDUCED 17; assumption log) -/
def execSyncInEdge (captured : Dword) (rising : Bool) (s0 : State) : Answer :=
  let s := s0.modTide fun d => { d with syncIn := rising }
  let c := captured.toNat
  let t : Int := (c : Int) - s.applied.tideSyncDelay.toNat
  if !rising then .next s
  else if s.tide.barrier ≠ .idle then .next (releaseBarrier t s)
  else if !s.jobOpen then .next s
  else if s.stepSrc = 1 then .next (judge s.nextStep t false none s)
  else if s.stepSrc = 2 then
    match s.tide.marks.find? fun m =>
        decide ((m.arrived : Int) - c ≤ pairWindow s ∧ (c : Int) - m.arrived ≤ pairWindow s) with
    | some m => .next (judge m.step t m.restart (some m.seq) (s.modTide fun d => { d with marks := d.marks.erase m }))
    | none => .next (s.modTide fun d => { d with edges := d.edges ++ [(t, c)] })
  else .next s

/-- MARK_PAIR_WINDOW_EXPIRY (R37): the earliest edge or mark whose window has passed is judged alone. -/
def execMarkPairWindowExpiry (s : State) : Answer :=
  let passed (arrived : Nat) : Bool := decide (arrived + pairWindow s < s.now)
  let edge := s.tide.edges.find? fun e => passed e.2
  let mark := s.tide.marks.find? fun m => passed m.arrived
  let edgeFirst := match edge, mark with
    | some e, some m => decide (e.2 ≤ m.arrived)
    | some _, none => true
    | none, _ => false
  match edge, mark, edgeFirst with
  | some e, _, true => .next (judge s.nextStep e.1 false none (s.modTide fun d => { d with edges := d.edges.erase e }))
  | _, some m, _ =>
    .next (judge m.step m.t m.restart (some m.seq)
      (setEv .tide 0x80 (s.modTide fun d => { d with marks := d.marks.erase m })))
  | _, _, _ => .next s

/-- STEP_LOST (R40). (DESIGN CHOICE 2; assumption log) -/
def execStepLost (s : State) : Answer :=
  if (s.tide.stepState = .seeded ∨ s.tide.stepState = .tracking) ∧
      (s.lostMult * s.period : Nat) ≤ (s.now : Int) - s.tide.startTime then
    .next (setEv .tide 0x10 (s.modTide fun d => { d with stepState := .lost }))
  else .next s

/-! ### Time sources (R32, R33) -/

/-- The lock criterion of PTP is met: 16 consecutive offsets within ±100 ns. -/
def ptpLocked (count : Nat) : Bool := decide (16 ≤ count)

/-- A port's source is valid: a Sync message within the last 3 s of uptime. -/
def syncFresh (last : Option Nat) (up : Nat) : Bool := (last.map fun l => decide (up < l + 3000000000)).getD false

/-- A servo offset saturates at ±2^31 − 1 in `TIDE_OFFSET` (R57). -/
def satOffset (o : Int) : Int := max (-(2 ^ 31 - 1)) (min (2 ^ 31 - 1) o)

/-- Local time corrected by the servo, by a free amount (R33 gives no servo law). (DEDUCED 18; assumption log) -/
def disciplineTime (offset : Int) (s : State) : State :=
  { s with
    free := s.free + 1
    tide := { s.tide with
      offset := satOffset offset
      time := ((s.tide.time : Int) + Config.servo s.free).toNat % 2 ^ 64 } }

/-- The lock criterion of a port starts anew when its source is lost. -/
def Tide.unlock (alt : Bool) (d : Tide) : Tide :=
  if alt then { d with lockAlt := 0 } else { d with lockPrimary := 0, primarySince := none }

/-- The active PTP source is lost: failover where an alternative is available, whose lock criterion TIME_STATE does not wait
for, else holdover (R33). (DEDUCED 18, DESIGN CHOICE 197; assumption log) -/
def losePtp (s : State) : State :=
  let t := s.modTide fun d => d.unlock d.onAlt
  if !s.tide.onAlt && s.ptpAltEn && syncFresh s.tide.lastSyncAlt s.mono then
    setEv .tide 0x40 (t.modTide fun d => { d with onAlt := true, sourceSince := s.mono })
  else setEv .tide 0x20 (t.modTide fun d => { d with timeState := .holdover })

/-- The counts of one port after a valid Sync message with this offset: consecutive good ones, none across a gap in which the
source was lost. -/
def Tide.judgeSync (alt : Bool) (offset : Int) (up : Nat) (d : Tide) : Tide :=
  let good := decide (-100 ≤ offset ∧ offset ≤ 100)
  let more (last : Option Nat) (n : Nat) : Nat := if good then min 16 ((if syncFresh last up then n else 0) + 1) else 0
  if alt then { d with lockAlt := more d.lastSyncAlt d.lockAlt, lastSyncAlt := some up }
  else
    let n := more d.lastSyncPrimary d.lockPrimary
    { d with lockPrimary := n, lastSyncPrimary := some up,
             primarySince := if ptpLocked n then some (d.primarySince.getD up) else none }

/-- A Sync message that the clock takes: valid, of the selected domain and delay mechanism (R33, R60). -/
def State.takesSync (m : PtpSync) (s : State) : Bool :=
  m.valid && fieldOf s.applied.tideCfg 11 8 == m.domain.toNat && bitOf s.applied.tideCfg 19 == m.peerDelay

/-- The primary port may still meet the lock criterion in the present Sync interval of the alternative: it lacks one message,
and its last came before the alternative's last. Until then holdover is not left onto the alternative (R33).
(DESIGN CHOICE 155; assumption log) -/
def Tide.primaryMayLead (d : Tide) (up : Nat) : Bool :=
  d.lockPrimary == 15 && syncFresh d.lastSyncPrimary up &&
    decide (d.lastSyncPrimary.getD 0 < d.lastSyncAlt.getD 0)

/-- Holdover ends on a port that meets the lock criterion; PTP_FAILOVER reports a move onto the alternative only, where R33 is
silent. (DESIGN CHOICE 156; assumption log) -/
def leaveHoldover (isAlt : Bool) (offset : Int) (wasAlt : Bool) (s : State) : State :=
  let u := disciplineTime offset (s.modTide fun d => { d with timeState := .locked, onAlt := isAlt, sourceSince := s.mono })
  if isAlt && !wasAlt then setEv .tide 0x40 u else u

/-- PTP_SYNC_RX (R32, R33). (DEDUCED 18, DESIGN CHOICE 156; assumption log) -/
def execPtpSyncRx (port : Fin 8) (msg : PtpSync) (s : State) : Answer :=
  let primary := s.ptpPort = port
  let alt := s.ptpAltEn ∧ s.ptpAlt = port
  if s.timeSrc ≠ 1 ∨ !s.takesSync msg ∨ (¬ primary ∧ ¬ alt) then .next s
  else
    let isAlt := !decide primary
    let offset := msg.offset
    let t := s.modTide (·.judgeSync isAlt offset s.mono)
    let locked := ptpLocked (if isAlt then t.tide.lockAlt else t.tide.lockPrimary)
    if s.tide.timeState = .holdover then
      if locked && !(isAlt && s.tide.primaryMayLead s.mono) then .next (leaveHoldover isAlt offset s.tide.onAlt t) else .next t
    else if isAlt = s.tide.onAlt then
      if s.tide.timeState = .locked ∧ (1000 < offset ∨ offset < -1000) then
        .next (losePtp (t.modTide fun d => { d with offset := satOffset offset }))
      else
        .next (disciplineTime offset (t.modTide fun d =>
          { d with timeState := if locked then .locked else if d.timeState = .locked then .locked else .acquiring }))
    else .next t

/-- TIME_SOURCE_LOST (R32, R33). -/
def execTimeSourceLost (s : State) : Answer :=
  let held := s.tide.timeState = .locked ∨ s.tide.timeState = .acquiring
  if s.timeSrc = 1 ∧ held then
    let last := if s.tide.onAlt then s.tide.lastSyncAlt else s.tide.lastSyncPrimary
    if !syncFresh last s.mono ∧ s.tide.sourceSince + 3000000000 ≤ s.mono then .next (losePtp s) else .next s
  else if s.timeSrc = 2 ∧ held ∧ max s.tide.ppsHeard s.tide.sourceSince + 1500000000 ≤ s.mono then
    .next (setEv .tide 0x20 (s.modTide fun d => { d with timeState := .holdover, ppsGood := 0 }))
  else .next s

/-- PTP_FAILBACK (R33): after 60 s of unbroken lock on the primary port. -/
def execPtpFailback (s : State) : Answer :=
  match s.tide.primarySince with
  | some t0 =>
    if s.timeSrc = 1 ∧ s.ptpAltEn ∧ s.tide.onAlt ∧ t0 + 60000000000 ≤ s.mono ∧ syncFresh s.tide.lastSyncPrimary s.mono then
      .next (setEv .tide 0x40 (s.modTide fun d => { d with onAlt := false, sourceSince := s.mono }))
    else .next s
  | none => .next s

/-- The offset of a PPS edge from the nearest whole second. -/
def ppsOffset (captured : Nat) : Int :=
  let r : Int := captured % 1000000000
  if r < 500000000 then -r else 1000000000 - r

/-- PPS_EDGE (R32): four consecutive edge-to-edge periods within 1 s ± 1 µs lock. The edge is kept in the local time that its
own correction leaves, so that the next period is one of time passed. (DEDUCED 18; assumption log) -/
def execPpsEdge (captured : Dword) (s : State) : Answer :=
  if s.timeSrc ≠ 2 then .next s
  else
    let c := captured.toNat
    let good := (s.tide.lastPps.map fun l =>
      let g : Int := (c : Int) - l - 1000000000
      decide (-1000 ≤ g ∧ g ≤ 1000)).getD false
    let n := if good then min 4 (s.tide.ppsGood + 1) else 0
    .next (disciplineTime (ppsOffset c) (s.modTide fun d =>
      { d with ppsGood := n, lastPps := some ((c : Int) + Config.servo s.free).toNat, ppsHeard := s.mono
               timeState := if n = 4 then .locked else if d.timeState = .free then .acquiring else d.timeState }))

/-! ### Tide control (R50, R57, R61, R62) -/

/-- The snapshot a writer takes (R57). -/
def tideSnapshot (s : State) : TideSnap :=
  ⟨s.step, s.phase, s.now, s.period % 2 ^ 40, (if s.tide.stepState = .none then 0 else s.tide.startTime).toNat % 2 ^ 64⟩

def takeSnap (o : Owner) (s : State) : State :=
  let v := tideSnapshot s
  s.modTide fun d =>
    match o with
    | .portA => { d with snapA := v }
    | .portB => { d with snapB := v }
    | .harbourmaster => { d with snapHm := v }
    | .debug => { d with snapDbg := v }

/-- CANCEL returns an armed or ready barrier to IDLE and deasserts SYNC_OUT (R50). -/
def cancelBarrier (s : State) : State :=
  if s.tide.barrier = .idle then s else s.modTide fun d => { d with barrier := .idle, syncOut := false }

/-- ARM arms an idle barrier (R50). -/
def armBarrier (s : State) : State :=
  if s.tide.barrier = .idle then s.modTide fun d => { d with barrier := .armed } else s

/-- A write of `TIDE_CTL`: SNAP, CANCEL, ARM, RESTART_EST in this order (R62). -/
def tideControl (o : Owner) (v : Word) (s : State) : State :=
  let s := if bitOf v 0 then takeSnap o s else s
  let s := if bitOf v 2 then cancelBarrier s else s
  let s := if bitOf v 1 then armBarrier s else s
  if bitOf v 3 then restartEstimator s else s

/-- TIDE_SNAP (R57). -/
def execTideSnap (owner : Owner) (s : State) : Answer := .next (s.byOwner owner (takeSnap owner))

/-- TIDE_CANCEL (R50). -/
def execTideCancel (owner : Owner) (s : State) : Answer := .next (s.byOwner owner cancelBarrier)

/-- TIDE_ARM (R50). -/
def execTideArm (owner : Owner) (s : State) : Answer := .next (s.byOwner owner armBarrier)

/-- TIDE_RESTART_EST (R41). -/
def execTideRestartEst (owner : Owner) (s : State) : Answer := .next (s.byOwner owner restartEstimator)

/-- BARRIER_READY (R50): every batch of the start step has its trailer acknowledged, also where none is formed.
(DESIGN CHOICE 199; assumption log) -/
def execBarrierReady (s : State) : Answer :=
  if s.tide.barrier = .armed ∧ (s.run.batches.all fun b => b.dlStep != s.startStep || b.headerAcked) then
    .next (s.modTide fun d => { d with barrier := .ready, syncOut := true })
  else .next s

/-- The Tide at JOB_SETUP and at JOB_END (R38, R41): no step, no window, the seed of the configuration.
(DEDUCED 14; assumption log) -/
def tideNewJob (s : State) : State :=
  s.modTide fun d =>
    { d with stepState := .none, step := 0, startTime := 0, window := [], seed := none, lastSeq := none,
             afterRelease := false, recent := [], edges := [], marks := [], recomputeDue := false, recomputeOp := false }

end Sys2Proof.Machine
end

