-- ==== Sys2Proof/Machine/HostPorts.lean ====
section
/-! DEFINITION. Host ports, mailboxes and semaphores (R321 to R342), the per-port reset (R325, R335, R339, R370) and the
restart of the Harbourmaster (R334, R339, R370, R500). -/

namespace Sys2Proof.Machine

/-! ### Lookup -/

def Hosts.mbxs (h : Hosts) : Port → List Mailbox
  | .a => h.mbxA
  | .b => h.mbxB

def State.mbx (m : MbxId) (s : State) : Mailbox := (s.host.mbxs m.set).getD m.n Mailbox.reset

def State.modMbx (m : MbxId) (f : Mailbox → Mailbox) (s : State) : State :=
  s.modHost fun h =>
    match m.set with
    | .a => { h with mbxA := updAt h.mbxA m.n f }
    | .b => { h with mbxB := updAt h.mbxB m.n f }

def State.sem (k : Nat) (s : State) : Sem := s.host.sems.getD k ⟨none, none⟩

def State.modSem (k : Nat) (f : Sem → Sem) (s : State) : State :=
  s.modHost fun h => { h with sems := updAt h.sems k f }

/-- The mailboxes of a set. -/
def setOf (p : Port) : List MbxId := (List.finRange 16).map fun n => ⟨p, n⟩

/-- An owner reaches a set: any but the other port (R326), whose accesses arrive. -/
def reaches (o : Owner) (p : Port) (s : State) : Bool := o != p.other.owner && s.heard o

/-! ### The RS rule (R7, R338) -/

/-- Reads that reach a lock in one cycle: who acquires it, who holds it after, and the winner the unit remembers. Among
several readers the last winner goes last, and else the lowest owner number wins. -/
def rsGrant (readers : List Owner) (holder last : Option Owner) : Option Owner × Option Owner × Option Owner :=
  match holder, [Owner.portA, .portB, .harbourmaster, .debug].filter readers.contains with
  | some h, _ => (none, some h, last)
  | none, [] => (none, none, last)
  | none, [r] => (some r, some r, last)
  | none, r :: r' :: _ =>
    let w := if last = some r then r' else r
    (some w, some w, some w)

/-- What one reader receives: 0 when it acquires, else the holder's number. -/
def rsValue (winner holder : Option Owner) (o : Owner) : Word :=
  if winner = some o then 0 else BitVec.ofNat 32 ((holder.map (·.number)).getD 0)

/-! ### Mailboxes (R328 to R333) -/

/-- Bits of `MBX_Xnn_EVT` (R342). -/
def evtEmpty : Nat := 0
def evtReply : Nat := 1
def evtAborted : Nat := 2
def evtIgnored : Nat := 3

/-- An event of a mailbox, with its message: none while debug or the Harbourmaster holds the lock (R333). -/
def mbxEvent (m : MbxId) (bit : Nat) (s : State) : State :=
  let b := s.mbx m
  let t := s.modMbx m fun b => { b with evt := b.evt ||| bit32 bit }
  if bit < 3 ∧ bitOf b.int (8 + bit) ∧ b.lock ≠ some .harbourmaster ∧ b.lock ≠ some .debug then
    sendMsix m.set (fieldOf b.int 0 8) t
  else t

/-- MBX_LOCK_READ (R328, R338): every reader's answer goes out; the other port reads all ones (R326). -/
def execMbxLockRead (readers : List Owner) (m : MbxId) (s : State) : Answer :=
  let b := s.mbx m
  let (w, h, l) := rsGrant (readers.filter (reaches · m.set s)) b.lock b.lastContest
  let t := s.modMbx m fun b => { b with lock := h, lastContest := l }
  .next (t.each readers fun o u =>
    u.emit (.value o (if reaches o m.set s then rsValue w h o else 0xFFFFFFFF)))

/-- An acknowledgement (R332): the buffer clears and the mailbox is IDLE. -/
def Mailbox.acknowledge (b : Mailbox) : Mailbox := { b with buf := 0, state := .idle }

/-- A lock that no owner holds: the Harbourmaster's while it starts (R328). -/
def freeLock (s : State) : Option Owner := if s.host.fwReady then none else some .harbourmaster

/-- A release by the holder (R328). -/
def mbxRelease (writer : Owner) (m : MbxId) (value : Word) (s : State) : State :=
  let b := s.mbx m
  if !reaches writer m.set s || b.lock != some writer || value != 0 then s
  else
    match b.state with
    | .idle => s.modMbx m fun b => { b with lock := freeLock s }
    | .reply | .aborted => s.modMbx m fun b => { b.acknowledge with lock := freeLock s }
    | .posted | .taken => mbxEvent m evtIgnored s

/-- MBX_LOCK_RELEASE (R328). -/
def execMbxLockRelease (writer : Owner) (m : MbxId) (value : Word) (s : State) : Answer :=
  .next (mbxRelease writer m value s)

/-- A write to BUF, DBL or CTL: from the other port nothing; from another than the holder, or in a state the action does
not fit, IGNORED is set (R326, R328). -/
def mbxAct (writer : Owner) (m : MbxId) (fits : Mailbox → Bool) (act : State → State) (s : State) : State :=
  if !reaches writer m.set s then s
  else if (s.mbx m).lock == some writer && fits (s.mbx m) then act s
  else mbxEvent m evtIgnored s

/-- One word of a 64-byte buffer replaced. -/
def setWord (buf : BitVec 512) (i : Nat) (v : Word) : BitVec 512 :=
  (buf &&& ~~~((0xFFFFFFFF#512) <<< (32 * i))) ||| ((v.setWidth 512) <<< (32 * i))

/-- A write of one buffer word (R330). -/
def mbxWriteBuf (writer : Owner) (m : MbxId) (word : Nat) (value : Word) (s : State) : State :=
  mbxAct writer m (·.state == .idle) (·.modMbx m fun b => { b with buf := setWord b.buf word value }) s

/-- MBX_BUF_WRITE (R330). -/
def execMbxBufWrite (writer : Owner) (m : MbxId) (word : Fin 16) (value : Word) (s : State) : Answer :=
  .next (mbxWriteBuf writer m word value s)

/-- A host command is pending: a self-test that is paused waits 1 ms from its end again (R368). -/
def Hosts.stirTest (h : Hosts) : Hosts := { h with selfTest := h.selfTest.map fun t => { t with quietSince := none } }

/-- A doorbell reaches IOD0: it takes its place, and it is a wake (R352, R369, R435). -/
def ringBell (v : Via) (tail : Nat) (s : State) : State :=
  wake 1 true (s.modHost fun h => { h.stirTest with bells := h.bells ++ [(v, h.stamp, tail)], stamp := h.stamp + 1 })

/-- A mailbox doorbell (R329). -/
def mbxRing (writer : Owner) (m : MbxId) (s : State) : State :=
  mbxAct writer m (·.state == .idle)
    (fun t => ringBell (.mbx m) 0 (t.modMbx m fun b =>
      { b with state := .posted, tag := BitVec.ofNat 16 (fieldOf b.buf 16 16), abortStage := false })) s

/-- MBX_DOORBELL (R329). -/
def execMbxDoorbell (writer : Owner) (m : MbxId) (s : State) : Answer := .next (mbxRing writer m s)

/-- A write of 1 to CTL.ACK (R332). -/
def mbxAcknowledge (writer : Owner) (m : MbxId) (s : State) : State :=
  mbxAct writer m (fun b => b.state == .reply || b.state == .aborted) (·.modMbx m Mailbox.acknowledge) s

/-- MBX_ACK (R332). -/
def execMbxAck (writer : Owner) (m : MbxId) (s : State) : Answer := .next (mbxAcknowledge writer m s)

/-- Firmware takes messages and fetches: it runs, no core of the Harbourmaster is halted (R467), and the device is not
asleep (R369, R503). (DEDUCED 76, PRESUMED 135, DEDUCED 137; assumption log) -/
def State.firmwareServes (s : State) : Bool :=
  s.host.fwReady && s.host.hm == .running && (s.sec.halted.all fun c => decide (c < 128)) && s.pwr.entry.isNone && s.pwr.state != .dusk && s.pwr.state != .night

/-- A command taken from a mailbox or fetched from a Quay. -/
def enqueueCmd (id : CmdId) (entry : BitVec 512) (stamp : Nat) (s : State) : State :=
  s.modHost fun h =>
    { h.stirTest with cmds := h.cmds ++ [⟨id, entry, stamp, h.cmdOrder, .queued, false, false⟩], cmdOrder := h.cmdOrder + 1 }

def Via.isMbx : Via → Bool
  | .mbx _ => true
  | _ => false

/-- MBX_TAKE (R331): the POSTED mailboxes go in the order of their doorbells. -/
def execMbxTake (m : MbxId) (s : State) : Answer :=
  let b := s.mbx m
  match s.host.bells.find? fun x => Via.isMbx x.1 with
  | none => .next s
  | some (v, stamp, _) =>
    if b.state = .posted ∧ v = .mbx m ∧ s.firmwareServes then
      let t := s.modHost fun h => { h with bells := h.bells.filter (·.1 != .mbx m) }
      .next (countPerf 8 0x209 (mbxEvent m evtEmpty (enqueueCmd ⟨.mbx m, b.tag⟩ b.buf stamp (t.modMbx m fun b => { b with state := .taken }))))
    else .next s

/-- The 64 bytes of a reply (R330, R346): STATUS, TAG, 4 bytes 0, RESULT, 32 bytes 0. -/
def replyBuf (x : Completion) : BitVec 512 :=
  BitVec.ofNat 512 (bytesNat (natBytes 2 x.status ++ leBytes 2 x.id.tag ++ List.replicate 4 0 ++ x.result.take 24))

/-- The ORPHAN bits of a set (R335). -/
def State.modOrphan (p : Port) (run done : Half → Half) (s : State) : State :=
  s.modHost fun h =>
    match p with
    | .a => { h with orphanRunA := run h.orphanRunA, orphanDoneA := done h.orphanDoneA }
    | .b => { h with orphanRunB := run h.orphanRunB, orphanDoneB := done h.orphanDoneB }

/-- The reply of an overtaken command is discarded: DONE is set, and RUNNING falls with the last one of the mailbox. -/
def orphanReply (m : MbxId) (s : State) : State :=
  let more := s.host.cmds.any (fun c => c.id.via == .mbx m && c.orphan) ||
    s.host.replies.any fun x => x.id.via == .mbx m && x.orphan
  let b : Half := (1 : BitVec 16) <<< (m.n : Nat)
  s.modOrphan m.set (fun r => if more then r else r &&& ~~~b) (· ||| b)

/-- MBX_REPLY (R331, R335): the reply is written, or discarded when a port reset has overtaken the command. -/
def execMbxReply (m : MbxId) (s : State) : Answer :=
  match s.host.replies.find? (·.id.via == .mbx m) with
  | none => .next s
  | some x =>
    let t := s.modHost fun h => { h with replies := h.replies.filter (· != x) }
    if x.orphan then .next (targetDone x.order (orphanReply m t))
    else if (t.mbx m).state = .taken then
      .next (targetDone x.order (mbxEvent m evtReply (t.modMbx m fun b => { b with buf := replyBuf x, state := .reply })))
    else .next (targetDone x.order t)

/-! ### Semaphores (R337 to R339) -/

/-- SEM_READ (R338): every reader's answer goes out; one whose access does not arrive reads all ones. -/
def execSemRead (readers : List Owner) (k : Fin 64) (s : State) : Answer :=
  let (w, h, l) := rsGrant (readers.filter s.heard) (s.sem k).owner (s.sem k).lastContest
  .next ((s.modSem k fun _ => ⟨h, l⟩).each readers fun o u =>
    u.emit (.value o (if s.heard o then rsValue w h o else 0xFFFFFFFF)))

/-- A release by the holder; any other write is ignored (R7, R338). -/
def releaseSem (writer : Owner) (k : Nat) (value : Word) (s : State) : State :=
  if (s.sem k).owner = some writer ∧ value = 0 ∧ s.heard writer then s.modSem k fun x => { x with owner := none } else s

/-- SEM_RELEASE (R338). -/
def execSemRelease (writer : Owner) (k : Fin 64) (value : Word) (s : State) : Answer :=
  .next (releaseSem writer k value s)

/-- A reset reaches an owner: its semaphores are released and flagged (R339). -/
def abandonSems (o : Owner) (s : State) : State :=
  s.each (List.range 64) fun k t =>
    if (t.sem k).owner = some o then
      (t.modSem k fun x => { x with owner := none }).modHost fun h => { h with semAbn := h.semAbn ||| ((1 : BitVec 64) <<< k) }
    else t

/-! ### The per-port reset (R325, R335, R370) -/

/-- One mailbox of the port's set (R335). -/
def mbxPortReset (m : MbxId) (s : State) : State :=
  let b := s.mbx m
  if b.lock = some .harbourmaster ∨ b.lock = some .debug then s
  else
    let clear (t : State) : State :=
      t.modMbx m fun b => { b.acknowledge with lock := if b.lock = some m.set.owner then freeLock s else b.lock }
    match b.state with
    | .posted => clear (s.modHost fun h => { h with bells := h.bells.filter (·.1 != .mbx m) })
    | .taken =>
      let mine (v : Via) : Bool := v == .mbx m
      clear ((s.modOrphan m.set (· ||| (1 : BitVec 16) <<< (m.n : Nat)) id).modHost fun h =>
        { h with cmds := h.cmds.map fun c => if mine c.id.via then { c with orphan := true } else c
                 replies := h.replies.map fun x => if mine x.id.via then { x with orphan := true } else x })
    | .idle => s.modMbx m fun b => { b with lock := if b.lock = some m.set.owner then freeLock s else b.lock }
    | .reply | .aborted => clear s

/-- A way that is a Quay of the port, or a secured session on it. -/
def onPort (p : Port) : Via → Bool
  | .quay q => q.port == p
  | .doe d => d == p
  | .mbx _ => false

/-- The Quays of a port are deleted: commands not yet started are never executed, and those started run on with their
completions discarded (R370). -/
def quaysPortReset (p : Port) (s : State) : State :=
  let gone := s.host.quays.filter (·.id.port == p)
  let t := s.modHost fun h =>
    { h with quays := h.quays.filter (·.id.port != p)
             bells := h.bells.filter fun b => !onPort p b.1
             cmds := (h.cmds.filter fun c => !(onPort p c.id.via && c.run == .queued)).map fun c =>
               if onPort p c.id.via then { c with orphan := true } else c }
  let u := t.each (gone.flatMap (·.waiting)) fun x v => targetDone x.order v
  u.each gone fun q v => finishDelete q.id v

/-- The snapshot copy of a port's owner (R325). -/
def clearSnap (p : Port) (s : State) : State :=
  s.modTide fun d => match p with
    | .a => { d with snapA := .reset }
    | .b => { d with snapB := .reset }

/-- A link test holds a PCIe port (R485, R486). -/
def testsPort (p : Port) (s : State) : Bool :=
  s.lt.active && fieldOf s.lt.cfg 0 3 == 1 && fieldOf s.lt.cfg 4 7 == (match p with | .a => 0 | .b => 1)

/-- A link test on a PCIe port stops with the port (R486, R499). (DEDUCED 138; assumption log) -/
def stopPcieTest (p : Port) (s : State) : State :=
  if testsPort p s then
    (s.modLt fun l => { l with state := .stopped, active := false }).modEv fun e => { e with lt := e.lt ||| 1 }
  else s

/-- The per-port reset. (DEDUCED 138; assumption log) -/
def resetPort (p : Port) (cause : PortResetCause) (s : State) : State :=
  let a := (s.modPort p fun h =>
    { h with linkUp := false, d3 := false, perst := cause == .perst || h.perst, vecMask := HostPort.reset.vecMask, vecPend := 0,
             vectors := HostPort.reset.vectors, cfg := PciConfig.reset, events := [], lostNext := false }).each (setOf p) mbxPortReset
  let b := a.modSec fun x => { x with sessions := x.sessions.filter (·.transport != .doe p) }
  stopPcieTest p (clearSnap p (quaysPortReset p (abandonSems p.owner b)))

/-- PORT_RESET (R325). -/
def execPortReset (port : Port) (cause : PortResetCause) (s : State) : Answer := .next (resetPort port cause s)

/-- PERST_RELEASE (R503): the configuration space comes up once the rails are good; the link then trains. -/
def execPerstRelease (port : Port) (s : State) : Answer := .next (s.modPort port fun h => { h with perst := false })

/-- PCIE_LINK_UP (R322, R435): a link trains while PERST_x_N is released and the die has power, before
bring-up has judged it too (R503); an edge wake. (DEDUCED 138; assumption log) -/
def execPcieLinkUp (port : Port) (s : State) : Answer :=
  let h := s.host.port port
  let die := match port with | .a => s.fab.iod0 | .b => s.fab.iod1 || !s.host.broughtUp
  if h.perst ∨ s.pwr.off ∨ s.pwr.testEn ∨ h.linkUp ∨ !die ∨ testsPort port s then .next s
  else .next (wake 3 false (s.modPort port fun h => { h with linkUp := true }))

/-- PCIE_PM_STATE_CHANGE (R322). -/
def execPciePmStateChange (port : Port) (d3 : Bool) (s : State) : Answer :=
  if (s.host.port port).linkUp then .next (s.modPort port fun h => { h with d3 := d3 }) else .next s

/-! ### The Harbourmaster (R328, R334, R500) -/

/-- The Harbourmaster holds every lock that no one else holds. -/
def takeLocks (s : State) : State :=
  s.each (setOf .a ++ setOf .b) fun m t => t.modMbx m fun b => { b with lock := some (b.lock.getD .harbourmaster) }

/-- Its firmware is ready and the locks are released; on the recovery path only those of A00 and B00 (R328, R455). -/
def firmwareReady (s : State) : State :=
  (s.modHost fun h => { h with hm := .running, fwReady := true }).each (setOf .a ++ setOf .b) fun m t =>
    if (t.mbx m).lock = some .harbourmaster ∧ (!t.sec.recovery ∨ m.n = 0) then t.modMbx m fun b => { b with lock := none }
    else t

/-- One mailbox at a restart (R334). -/
def mbxRestart (m : MbxId) (s : State) : State :=
  match (s.mbx m).state with
  | .posted => mbxEvent m evtAborted (s.modMbx m fun b => { b with state := .aborted, abortStage := false })
  | .taken => mbxEvent m evtAborted (s.modMbx m fun b => { b with state := .aborted, abortStage := true })
  | _ => s

/-- Every command that had started ends with INTERRUPTED, its outcome unknown; those of mailboxes end with theirs
(R334, R370). (DEDUCED 75; assumption log) -/
def interruptCmds (s : State) : State :=
  let a := s.modHost fun h =>
    { h with cmds := h.cmds.filter fun c => !Via.isMbx c.id.via
             replies := []
             bells := h.bells.filter fun b => !Via.isMbx b.1
             selfTest := none }
  a.each (a.host.cmds.filter (·.run != .queued)) fun c t => complete c stInterrupted [1] t

/-- The Harbourmaster restarts; the rest of the device goes on (R334, R339, R370, R500). (DEDUCED 75; assumption log) -/
def restartHarbourmaster (s : State) : State :=
  let a := (s.modHost fun h => { h with hm := .restarting, fwReady := false, orphanRunA := 0, orphanRunB := 0 }).each
    (setOf .a ++ setOf .b) mbxRestart
  takeLocks (abandonSems .harbourmaster (interruptCmds a))

/-- HARBOURMASTER_RESTART_DONE (R500): FW_READY returns, and fetching resumes at SQ_HEAD. -/
def execHarbourmasterRestartDone (s : State) : Answer :=
  if s.host.hm = .restarting then .next (firmwareReady s) else .next s

end Sys2Proof.Machine
end

