-- ==== Sys2Proof/Machine/Quays.lean ====
section
/-! DEFINITION. Quays, their doorbells and completions (R347 to R352), GET_EVENT (R366) and SELF_TEST
(R367, R368). -/

namespace Sys2Proof.Machine

/-! ### Errors and doorbells (R349 to R351) -/

def Port.number (p : Port) : Nat := p.owner.number

/-- A Quay enters ERROR and fetches nothing more (R351). (DEDUCED 69; assumption log) -/
def quayError (q : QuayId) (reason : Nat) (s : State) : State :=
  match s.quay? q with
  | none => s
  | some y =>
    if y.error.isSome then s
    else
      let t := (s.modQuay q fun y => { y with error := some reason }).modHost fun h =>
        { h with bells := h.bells.filter (·.1 != .quay q) }
      postEvent 5 false [BitVec.ofNat 8 q.port.owner.number, BitVec.ofNat 8 q.q, BitVec.ofNat 8 reason] t

/-- A DELETE_QUAY of this Quay is under way. -/
def deleting (q : QuayId) (s : State) : Bool := s.host.cmds.any (·.run == .deleteQuay q)

/-- A submission tail doorbell (R350, R351). -/
def ringSq (q : QuayId) (tail : Nat) (s : State) : State :=
  match s.quay? q with
  | none => s
  | some y =>
    if y.sqN ≤ tail then quayError q 1 s
    else if y.error.isSome || deleting q s || tail == y.sqTail then s
    else ringBell (.quay q) tail (s.modQuay q fun y => { y with sqTail := tail })

/-- A completion head doorbell frees slots (R350, R351). -/
def ringCq (q : QuayId) (head : Nat) (s : State) : State :=
  match s.quay? q with
  | none => s
  | some y =>
    if y.cqN ≤ head then quayError q 2 s
    else if y.unconsumed < (head + y.cqN - y.cqHead) % y.cqN then quayError q 3 s
    else s.modQuay q fun y => { y with cqHead := head }

/-- QUAY_SQ_DOORBELL (R350). (DEDUCED 68; assumption log) -/
def execQuaySqDoorbell (q : QuayId) (value : Word) (s : State) : Answer :=
  .next (s.byOwner q.port.owner (ringSq q (fieldOf value 0 16)))

/-- QUAY_CQ_DOORBELL (R350). (DEDUCED 68; assumption log) -/
def execQuayCqDoorbell (q : QuayId) (value : Word) (s : State) : Answer :=
  .next (s.byOwner q.port.owner (ringCq q (fieldOf value 0 16)))

/-! ### Fetch and completion (R347, R350, R352) -/

/-- A fetched entry is a command; one whose tag is in use is refused as soon as its fields have been judged (R347, R353). -/
def takeEntry (q : QuayId) (entry : BitVec 512) (stamp : Nat) (s : State) : State :=
  let id : CmdId := ⟨.quay q, BitVec.ofNat 16 (fieldOf entry 16 16)⟩
  let dup := s.host.cmds.any fun x => x.id == id && !x.orphan && !x.dup
  (enqueueCmd id entry stamp s).modHost fun h =>
    { h with cmds := h.cmds.map fun c => if c.order = s.host.cmdOrder then { c with dup := dup } else c }

/-- QUAY_FETCH (R350): the next entry in ring order, up to the tail of the oldest doorbell; none when the link failed. -/
def execQuayFetch (q : QuayId) (entry : Option (BitVec 512)) (s : State) : Answer :=
  match s.quay? q, s.host.bells.find? (·.1 == .quay q) with
  | some y, some (v, stamp, tail) =>
    if !s.firmwareServes || bellAsleep v s || !s.portReached q.port then .next s
    else
      match entry with
      | none => .next (quayError q 4 s)
      | some e =>
        let head := (y.sqHead + 1) % y.sqN
        let t := s.modQuay q fun y => { y with sqHead := head }
        let u := if head = tail then t.modHost fun h => { h with bells := h.bells.filter (·.2.1 != stamp) } else t
        .next (countPerf 8 0x20A (takeEntry q e stamp u))
  | _, _ => .next s

/-- The 32 bytes of a completion entry (R345). -/
def completionBytes (y : Quay) (x : Completion) : List Byte :=
  natBytes 2 x.status ++ leBytes 2 x.id.tag ++ natBytes 2 y.sqHead ++ [BitVec.ofNat 8 (flag y.phase), 0] ++
    (x.result ++ List.replicate 24 0).take 24

/-- The vector's message, and the count begins again (R352). -/
def quayMessage (q : QuayId) (s : State) : State :=
  match s.quay? q with
  | none => s
  | some y => sendMsix q.port y.vec (s.modQuay q fun y => { y with sinceMsg := 0 })

/-- A completion leaves the Quay: its slot is written and the tail advances. -/
def writeCompletion (q : QuayId) (y : Quay) (x : Completion) (s : State) : State :=
  let tail := (y.cqTail + 1) % y.cqN
  let t := (s.modQuay q fun z =>
    { z with cqTail := tail, phase := if tail = 0 then !z.phase else z.phase, sinceMsg := z.sinceMsg + 1
             msgSince := if z.sinceMsg = 0 then s.mono else z.msgSince }).emit
    (.hostWrite q.port (y.cqBase + 32 * y.cqTail) (completionBytes y x))
  if y.coalCount < y.sinceMsg + 1 then quayMessage q t else t

/-- COMPLETION_WRITE (R350, R351): the oldest completion that waits, once the ring has room.
(DEDUCED 69; assumption log) -/
def execCompletionWrite (q : QuayId) (linkOk : Bool) (s : State) : Answer :=
  match s.quay? q with
  | none => .next s
  | some y =>
    match y.waiting with
    | [] => .next s
    | x :: rest =>
      if y.full || (s.host.port q.port).dmaOff || !s.portReached q.port then .next s
      else
        let t := s.modQuay q fun z => { z with waiting := rest }
        let u := if linkOk then writeCompletion q y x t else quayError q 4 t
        .next (finishDelete q (targetDone x.order u))

/-- CQ_COALESCE_TIMER (R352). -/
def execCqCoalesceTimer (q : QuayId) (s : State) : Answer :=
  match s.quay? q with
  | none => .next s
  | some y =>
    if 1 ≤ y.sinceMsg ∧ y.msgSince + y.coalTime * 1000 ≤ s.mono then .next (quayMessage q s) else .next s

/-! ### CREATE_QUAY and DELETE_QUAY (R348, R365) -/

/-- The Quay an entry names in byte 24, of the port that carries the command. -/
def Cmd.quayArg (c : Cmd) : QuayId := ⟨viaPort c.id.via, Fin.ofNat 64 (c.arg 24 1)⟩

/-- CREATE_QUAY (R348). -/
def execCreateQuay (cmd : CmdId) (s : State) : Answer :=
  runCmd cmd 0x02 (fun c => (s.quay? c.quayArg).isSome) (fun _ => none)
    (fun c t =>
      finish c stSuccess [] (t.modHost fun h => { h with quays := h.quays ++
        [⟨c.quayArg, c.arg 32 8, c.arg 40 8, c.arg 28 2, c.arg 30 2, c.arg 25 1, c.arg 26 1, c.arg 27 1, 0, 0, 0, 0, true,
          none, 0, 0, []⟩] })) s

/-- DELETE_QUAY (R365): of a Quay that exists, is not the carrying one and is not being deleted.
(DEDUCED 65; assumption log) -/
def execDeleteQuay (cmd : CmdId) (s : State) : Answer :=
  runCmd cmd 0x03
    (fun c => (s.quay? c.quayArg).isNone || c.id.via == .quay c.quayArg || deleting c.quayArg s) (fun _ => none)
    (fun c t =>
      finishDelete c.quayArg ((t.setRun c (.deleteQuay c.quayArg)).modHost fun h =>
        { h with bells := h.bells.filter (·.1 != .quay c.quayArg) })) s

/-! ### SELF_TEST (R367, R368): its items stand in HealthTest -/

/-- The last step of a test. -/
def SelfTest.lastStep (t : SelfTest) : Nat := if t.extended then 8 else 6

/-- RESULT of a self-test: outcome, last step, failed items, first failing item. -/
def SelfTest.result (outcome : Nat) (t : SelfTest) : List Byte :=
  [BitVec.ofNat 8 outcome, BitVec.ofNat 8 t.step] ++ natBytes 2 t.failed ++ natBytes 4 t.firstFail

/-- A host command is pending: one rung, waiting or running, a GET_EVENT too, but for the self-test itself and an ABORT that
waits for it. (DEDUCED 73; assumption log) -/
def hostPending (s : State) : Bool :=
  !s.host.bells.isEmpty || s.host.cmds.any fun c =>
    c.run != .selfTest && !(s.host.selfTest.isSome && s.host.cmds.any fun x => x.run == .selfTest && c.run == .abortWait x.order)

/-- SELF_TEST (R367). (DEDUCED 73; assumption log) -/
def execSelfTest (cmd : CmdId) (s : State) : Answer :=
  runPlain cmd 0x06 (fun c t =>
    if t.host.selfTest.isSome then finish c stSelfTestBusy [] t
    else (t.setRun c .selfTest).modHost fun h => { h with selfTest := some ⟨c.id, c.arg 24 1 == 2, 1, false, 0, 0, none, false⟩ }) s

/-! ### GET_EVENT (R366) -/

/-- GET_EVENTs of a port that wait. (DEDUCED 74; assumption log) -/
def waitingEvents (p : Port) (s : State) : List Cmd :=
  s.host.cmds.filter fun c => c.run == .getEvent && viaPort c.id.via == p

/-- RESULT of a GET_EVENT. -/
def AsyncEvent.result (e : AsyncEvent) : List Byte := [BitVec.ofNat 8 e.code, BitVec.ofNat 8 (flag e.lost + 2 * flag e.rise)] ++ e.detail

/-- GET_EVENT (R366): up to 16 wait on a port. -/
def execGetEvent (cmd : CmdId) (s : State) : Answer :=
  runCmd cmd 0x05 (fun c => decide (16 ≤ (waitingEvents (viaPort c.id.via) s).length)) (fun _ => none)
    (fun c t => t.setRun c .getEvent) s

/-- GET_EVENT_COMPLETE (R366): the oldest command that waits takes the oldest event. (DEDUCED 74; assumption log) -/
def execGetEventComplete (port : Port) (s : State) : Answer :=
  match waitingEvents port s, (s.host.port port).events with
  | c :: _, e :: rest => .next (finish c stSuccess e.result (s.modPort port fun h => { h with events := rest }))
  | _, _ => .next s

end Sys2Proof.Machine
end

