-- ==== Sys2Proof/Machine/Cells.lean ====
section
/-! DEFINITION. Byte memories in canonical form: addresses strictly rising, and no entry equal to what an unlisted
address reads as. The job address space (R122, R276) reads zero where nothing is listed (R125). -/

namespace Sys2Proof.Machine

/-- What one address reads as. (DESIGN CHOICE 10; assumption log) -/
def readCell (base : Nat → Byte) (m : List Host.Cell) (a : Nat) : Byte := ((m.find? (·.1 == a)).map (·.2)).getD (base a)

/-- An address written, the canonical form kept. (DESIGN CHOICE 10; assumption log) -/
def writeCell (base : Nat → Byte) (a : Nat) (v : Byte) : List Host.Cell → List Host.Cell
  | [] => if v = base a then [] else [(a, v)]
  | (b, w) :: rest =>
    if b < a then (b, w) :: writeCell base a v rest
    else
      let tail := if b = a then rest else (b, w) :: rest
      if v = base a then tail else (a, v) :: tail

/-- Bytes written from an address on, lowest first. -/
def writeCells (base : Nat → Byte) : Nat → List Byte → List Host.Cell → List Host.Cell
  | _, [], m => m
  | a, v :: vs, m => writeCells base (a + 1) vs (writeCell base a v m)

def readCells (base : Nat → Byte) (m : List Host.Cell) (a n : Nat) : List Byte :=
  (List.range n).map fun i => readCell base m (a + i)

/-- The canonical form holds. -/
def wfCells (base : Nat → Byte) (m : List Host.Cell) : Bool :=
  decide (m.Pairwise fun x y => x.1 < y.1) && m.all fun x => x.2 != base x.1

/-- What an unlisted byte of the job address space reads as. (DESIGN CHOICE 10; assumption log) -/
def zeroBase (_a : Nat) : Byte := 0

/-- The job address space: a byte, a range, and a write of a range. -/
def State.jobByte (a : Nat) (s : State) : Byte := readCell zeroBase s.egr.jobMem a
def State.jobBytes (a n : Nat) (s : State) : List Byte := readCells zeroBase s.egr.jobMem a n
def writeJob (a : Nat) (bs : List Byte) (s : State) : State :=
  s.modEgr fun e => { e with jobMem := writeCells zeroBase a bs e.jobMem }

end Sys2Proof.Machine
end

