-- ==== Sys2Proof/Machine/Cvu.lean ====
section
/-! DEFINITION. The check-value units of the window (R416 to R423). -/

namespace Sys2Proof.Machine

/-- WIDTH: 0 and values above 64 act as 64 (R423). -/
def Cvu.width (c : Cvu) : Nat :=
  let w := fieldOf c.cfg 0 7
  if w = 0 ∨ 64 < w then 64 else w

/-- The bits below WIDTH. -/
def Cvu.maskTo (c : Cvu) (v : Dword) : Dword := BitVec.ofNat 64 (v.toNat % 2 ^ c.width)

/-- RESULT over the present STATE (R417). -/
def Cvu.result (c : Cvu) : Dword :=
  BitVec.ofNat 64 (crcResult c.width (bitOf c.cfg 9) c.xorout.toNat (c.maskTo c.state).toNat)

/-- Bytes fed into STATE (R413, R418). -/
def Cvu.feed (bs : List Byte) (c : Cvu) : Cvu :=
  { c with
    state := BitVec.ofNat 64 (bs.foldl (crcFeed c.width c.poly.toNat (bitOf c.cfg 8)) (c.maskTo c.state).toNat)
    count := (c.count + bs.length) % 2 ^ 64 }

/-- START (R418). -/
def Cvu.start (c : Cvu) : Cvu := { c with state := c.maskTo c.init, count := 0, active := true }

/-- A write to DATA (R418): TAIL bytes of the word, or all four. -/
def Cvu.data (v : Word) (c : Cvu) : Cvu :=
  if c.active then { c.feed (leBytes (if c.tail = 0 then 4 else c.tail) v) with tail := 0 }
  else { c with evt := c.evt ||| 4 }

/-- FINISH of an active unit: whether a compare failed, and the unit after (R418). -/
def Cvu.finish (c : Cvu) : Cvu :=
  let cmp := bitOf c.cfg 10
  let eq := c.result = c.maskTo c.expect
  { c with active := false, matched := if cmp then decide eq else c.matched,
           evt := c.evt ||| 2 ||| (if cmp && !decide eq then 1 else 0) }

/-- The messages of R421 on the ports PORT selects. -/
def cvuMessages (c : Cvu) (s : State) : State :=
  let vec := fieldOf c.cfg 16 8
  let t := if bitOf c.cfg 24 then sendMsix .a vec s else s
  if bitOf c.cfg 25 then sendMsix .b vec t else t

def State.modCvu (n : Nat) (f : Cvu → Cvu) (s : State) : State := { s with cvu := updAt s.cvu n f }

/-- FINISH (R418, R421). -/
def cvuFinish (n : Nat) (s : State) : State :=
  match s.cvu[n]? with
  | none => s
  | some c =>
    if c.active then
      let c' := c.finish
      let t := s.modCvu n fun _ => c'
      if bitOf c.cfg 10 && bitOf c.cfg 11 && c.result != c.maskTo c.expect then cvuMessages c t else t
    else s.modCvu n fun c => { c with evt := c.evt ||| 4 }

/-- A write of `CVU_n_CTL`: START before FINISH; TAIL for the next DATA write. -/
def cvuControl (n : Nat) (v : Word) (s : State) : State :=
  let t := s.modCvu n fun c => { (if bitOf v 0 then c.start else c) with tail := fieldOf v 2 2 }
  if bitOf v 1 then cvuFinish n t else t

/-- CVU_START (R418). -/
def execCvuStart (unit : Fin 8) (s : State) : Answer := .next (s.modCvu unit Cvu.start)

/-- CVU_TAIL (R418). -/
def execCvuTail (unit : Fin 8) (tail : Fin 4) (s : State) : Answer :=
  .next (s.modCvu unit fun c => { c with tail := tail })

/-- CVU_FINISH (R418). -/
def execCvuFinish (unit : Fin 8) (s : State) : Answer := .next (cvuFinish unit s)

/-- CVU_DATA_WRITE (R418). -/
def execCvuDataWrite (unit : Fin 8) (value : Word) (s : State) : Answer := .next (s.modCvu unit (Cvu.data value))

end Sys2Proof.Machine
end

