-- ==== Sys2Proof/Machine/Flags.lean ====
section
/-! DEFINITION. Words composed from the state of a request: the slot flag word (R83). -/

namespace Sys2Proof.Machine

/-- The slot flag word of R83. (DEDUCED 33; assumption log) -/
def slotFlags (r : Request) : Nat :=
  let tries := if r.masked then 7 else r.tryIdx.getD 0
  flag (r.sub && !r.masked) + 2 * flag r.lateSub + 4 * flag r.masked + 8 * flag r.fillPos +
    16 * flag (r.remote && !r.masked) + 32 * flag r.newDefect + 64 * tries + 512 * r.cause

end Sys2Proof.Machine
end

