-- ==== Sys2Proof/Machine/Batches.lean ====
section
/-! DEFINITION. Batches and requests: who receives a batch and where (R72, R283 to R287), deadlines and latest-start
times (R42 to R48), engines (R21, R24), defects and the reserve chain (R78 to R84). -/

namespace Sys2Proof.Machine

/-! ### Lookup -/

def State.batch? (stream num : Nat) (s : State) : Option Batch :=
  s.run.batches.find? fun b => b.stream == stream && b.num == num

def State.modBatch (stream num : Nat) (f : Batch → Batch) (s : State) : State :=
  s.modRun fun r => { r with batches := r.batches.map fun b => if b.stream = stream ∧ b.num = num then f b else b }

def State.req? (k : ReqKey) (s : State) : Option Request := s.run.requests.find? (·.key == k)

def State.modReq (k : ReqKey) (f : Request → Request) (s : State) : State :=
  s.modRun fun r => { r with requests := r.requests.map fun q => if q.key = k then f q else q }

def dropReq (k : ReqKey) (s : State) : State :=
  s.modRun fun r => { r with requests := r.requests.filter fun q => q.key != k }

/-- The partition a stream reads. -/
def State.partFor (t : Stream) (s : State) : Option Partition := s.partSlot t.dsSlot

/-! ### Delivery (R72, R283 to R287) -/

/-- The epoch a batch belongs to: that of its slot 0 (R68). -/
def Stream.batchEpoch (t : Stream) (d : Partition) (b : Nat) : Nat := b * t.b / t.epochLen d

/-- The rank group a batch goes to. -/
def Stream.groupFor (t : Stream) (seed : Dword) (d : Partition) (b : Nat) : Option Group :=
  t.groups.find? (·.group == rankGroup seed t d (t.batchEpoch d b))

/-- The members in service that receive a batch, with their numbers (R283, R291). -/
def Group.receivers (g : Group) (b : Nat) : List (Nat × Member) :=
  ((g.members.zipIdx).filter fun (m, i) => !m.lost && (g.replicate || b % g.members.length == i)).map fun (m, i) => (i, m)

/-- The slot of a member's ring that batch `b` fills (R284). -/
def Group.slotOf (g : Group) (m : Member) (b : Nat) : Nat := (if g.replicate then b else b / g.members.length) % m.d

/-- Batches from one use of a slot to the next (R287). -/
def Group.turn (g : Group) (m : Member) : Nat := if g.replicate then m.d else m.d * g.members.length

/-- The slot of batch `b` is free at a member (R285). (DEDUCED 147; assumption log) -/
def slotFree (t : Stream) (g : Group) (m : Member) (b : Nat) : Bool :=
  decide (b < t.b0 + g.turn m) || m.returns.contains (g.slotOf m b, b)

/-- Lanes in service, ascending (R284). -/
def State.lanesUp (m : Member) (s : State) : List Nat := m.lanes.filter fun i => s.connUp i

/-- The connection that carries a batch's trailer header: the lowest lane in service of its first receiver.
(DEDUCED 56; assumption log) -/
def State.headerLane (t : Stream) (b : Nat) (s : State) : Option Conn :=
  match s.partFor t with
  | none => none
  | some d =>
    ((t.groupFor s.seed d b).map fun g => (g.receivers b).head?).join.bind fun m => (s.lanesUp m.2).head?.bind s.conn?

/-- The stream's last batch number plus one: a batch that would pass the end is not formed (R68). -/
def Stream.batches (t : Stream) (d : Partition) : Nat := t.total d / t.b

/-- The next batch to form, from `b` on: one that some member in service receives (R291). -/
def nextFormed (t : Stream) (seed : Dword) (d : Partition) : Nat → Nat → Option Nat
  | 0, _ => none
  | n + 1, b =>
    match t.groupFor seed d b with
    | some g => if (g.receivers b).isEmpty then nextFormed t seed d n (b + 1) else some b
    | none => nextFormed t seed d n (b + 1)

def State.nextBatch (t : Stream) (s : State) : Option Nat :=
  (s.partFor t).bind fun d => nextFormed t s.seed d (t.batches d - t.next) t.next

/-! ### Deadlines (R42 to R48) -/

/-- D of R42; none before the first accepted start (R47). -/
def State.deadlineAt (step phase : Nat) (s : State) : Option Int :=
  if s.tide.stepState = .none then none
  else some (s.tide.startTime + ((step : Int) - s.tide.step) * s.period + phase)

/-- A budget that scales with ACLK, at an operating point (R23). -/
def opStretch (op n : Nat) : Nat :=
  match op with
  | 0 => n
  | 1 => (n * 5 + 3) / 4
  | 2 => (n * 5 + 2) / 3
  | _ => (n * 5 + 1) / 2

/-- The budgets at the operating point in force: decode, transform or tokenise and pack stretch. -/
def budgetsAt (op : Nat) (bs : List Nat) : List Nat :=
  (bs.zipIdx).map fun (n, i) => if 3 ≤ i ∧ i ≤ 5 then opStretch op n else n

/-- Latest-start times of the seven stages, in the order lookup to egress, from the egress latest-start (R44). -/
def latestFrom (t : Int) : List Nat → List Int
  | [] => []
  | n :: rest =>
    let later := latestFrom t rest
    (later.headD t - n) :: later

/-- The egress latest-start of work of batch `b` with an egress budget, in open time; −1 where no open time stands before D in
its step (R313); none before the first accepted start. (DEDUCED 35; assumption log) -/
def egressStart (t : Stream) (b : Batch) (budget : Nat) (s : State) : Option Int :=
  (s.deadlineAt b.dlStep b.dlPhase).map fun dl =>
    let back (stop : Int) (need : Nat) : Int :=
      match s.headerLane t b.num with
      | some c => latestOpen s c.onLink c.cls stop need
      | none => stop - need
    let start : Int := dl - (if b.dlPhase = 0 then s.period else b.dlPhase : Nat)
    if back dl 1 < start then -1 else back (back dl (3000 + s.applied.tideGuard.toNat)) budget

/-- The latest-start times of a request of batch `b`; empty before the first accepted start.
(DEDUCED 35; assumption log) -/
def latestStarts (t : Stream) (b : Batch) (budgets : List Nat) (s : State) : List Int :=
  let bs := budgetsAt s.pwr.op budgets
  match egressStart t b (bs.getD 6 0) s with
  | none => []
  | some e => latestFrom e (bs.take 6) ++ [e]

/-- The place of a stage in the order of R44. -/
def stageIndex : Stage → Nat
  | .lookup => 0 | .issue => 1 | .flash => 2 | .decode => 3 | .transform => 4 | .pack => 5 | .egress => 6

/-- The stage's latest-start time has come. Before the first start every latest-start counts as past (R47). -/
def Request.due (r : Request) (st : Stage) (now : Nat) : Bool :=
  match r.latest[(stageIndex st)]? with
  | none => true
  | some t => decide (t ≤ now)

/-- The engines of a kind that run requests. -/
def Spd.engines (d : Spd) : EngineKind → List Engine
  | .de => d.de | .te => d.te | .pe => d.pe | .ke => d.ke | .ce => d.ce | _ => []

/-- Engines of a kind in service on an SPD. -/
def State.enginesIn (n : Nat) (k : EngineKind) (s : State) : Nat :=
  ((s.spd? n).map fun d => ((d.engines k).filter (·.state != .out)).length).getD 0

/-- The engines that run a stage of a sample of class `cls`, in the order of R44: decode, transform or tokenise, pack. -/
def stageKind (cls i : Nat) : Option EngineKind :=
  match i with
  | 3 => if cls = 4 then none else some .de
  | 4 => some (if cls = 4 then .ke else .te)
  | 5 => some .pe
  | _ => none

/-- A request of class `cls` has the stage (R44): text has no decode and audio no transform, and a hit in the decoded cache has
no flash stage, its cache read in the decode's place, and no tokenise. (DESIGN CHOICE 154; assumption log) -/
def stageRuns (cls : Nat) (hit : Bool) (i : Nat) : Bool :=
  match i with
  | 2 => !hit
  | 3 => hit || cls != 4
  | 4 => cls != 3 && !(hit && cls == 4)
  | _ => true

/-- Firmware's figures for the seven stages of a request on SPD `n` (R44), for the engines that remain there (R484): a
decoded-cache hit has no flash or decode stage, and its cache read stands where the decode would.
(DESIGN CHOICE 154; assumption log) -/
def stageBudgets (cls : Nat) (size : Option Nat) (hit : Bool) (n : Nat) (s : State) : List Nat :=
  (List.range 7).map fun i =>
    if hit && i == 3 then Config.budget cls size 7 0
    else if !stageRuns cls hit i then 0
    else Config.budget cls size i (((stageKind cls i).map fun k => s.enginesIn n k).getD 0)

/-- Every budget is due to be recomputed (R45, R484). (DESIGN CHOICE 154; assumption log) -/
def budgetsDue (s : State) : State := s.modTide fun d => { d with recomputeOp := true }

/-- The request's sample is not known yet: it waits for a Permutation Unit or walks. -/
def Phase.unmapped : Phase → Bool
  | .waitUnit _ | .walking .. => true
  | _ => false

/-- The stored bytes of a local sample. -/
def Partition.sampleBytes (d : Partition) (i : Nat) : List Byte := ((d.samples.find? (·.index == i)).map (·.bytes)).getD []

/-- The encoded size of a request's sample, where it is known: not before its walk ends, nor of a peer's sample. -/
def Request.size? (d : Partition) (r : Request) : Option Nat :=
  if r.phase.unmapped || r.remote then none else some (d.sampleBytes r.sample).length

/-- The budgets of a request are taken anew for the sample it serves, and its latest-start times with them (R44); a stage
whose new time has not come may arrive again. (DESIGN CHOICE 154; assumption log) -/
def replan (k : ReqKey) (hit : Bool) (s : State) : State :=
  match s.req? k, s.stream? k.stream, s.batch? k.stream k.batch with
  | some r, some t, some b =>
    match s.partFor t with
    | none => s
    | some d =>
      let bs := stageBudgets t.cls (r.size? d) hit r.spd s
      s.modReq k fun q =>
        let u := { q with budgets := bs, cacheHit := hit, latest := latestStarts t b bs s }
        { u with arrived := u.arrived.filter fun st => u.due st s.now }
  | _, _, _ => s

/-- A request becomes at risk, and its batch with it (R48). (DEDUCED 66; assumption log) -/
def markRisk (k : ReqKey) (s : State) : State :=
  match s.req? k with
  | none => s
  | some r =>
    if r.atRisk then s
    else
      countPerf r.spd 0x602 (setEv .tide 0x200
        ((s.modReq k fun q => { q with atRisk := true }).modBatch k.stream k.batch fun b => { b with atRisk := true }))

/-- A stage starts: after its latest-start time the request is at risk (R48). -/
def startStage (k : ReqKey) (st : Stage) (s : State) : State :=
  match s.req? k with
  | none => s
  | some r =>
    match r.latest[(stageIndex st)]? with
    | some t => if t < s.now then markRisk k s else s
    | none => s

/-! ### Engines (R21, R24, R25, R501) -/

def Spd.setEngines (d : Spd) (l : List Engine) : EngineKind → Spd
  | .de => { d with de := l } | .te => { d with te := l } | .pe => { d with pe := l } | .ke => { d with ke := l }
  | .ce => { d with ce := l } | _ => d

/-- Kind codes of reason 0x06 (R480). -/
def engineCode : EngineKind → Nat
  | .de => 0 | .te => 1 | .pe => 2 | .ke => 3 | .ce => 4 | .pu => 5 | .cvu => 6

/-- Engines the reserve keeps (R24). -/
def reserveSize : EngineKind → Nat
  | .de => 8 | .te => 4 | .pe => 2 | .ke => 1 | _ => 0

/-- Numbers of the free engines of a kind. -/
def Spd.freeEngines (d : Spd) (k : EngineKind) : List Nat :=
  ((d.engines k).zipIdx.filter fun (e, _) => e.state == .free).map (·.2)

def State.setEngine (n : Nat) (k : EngineKind) (i : Nat) (f : Engine → Engine) (s : State) : State :=
  s.modSpd n fun d => d.setEngines (updAt (d.engines k) i f) k

/-- An engine starts a request (R488). -/
def takeEngine (n : Nat) (k : EngineKind) (req : ReqKey) (i : Nat) (s : State) : State :=
  countPerf n (0x100 * (engineCode k + 1) + i) (s.setEngine n k i fun e => { e with state := .held req })

/-- A reserve engine is taken (R24, R488). -/
def countReserve (n : Nat) (s : State) : State := countFixed n 4 (countPerf n 0x601 s)

/-- Every engine a request holds on an SPD becomes free. (DEDUCED 22; assumption log) -/
def releaseEngines (n : Nat) (req : ReqKey) (s : State) : State :=
  let free (e : Engine) : Engine := if e.state = .held req then { e with state := .free } else e
  s.modSpd n fun d => { d with de := d.de.map free, te := d.te.map free, pe := d.pe.map free, ke := d.ke.map free }

/-- A request gives back its engines and Berths. -/
def releaseAll (r : Request) (s : State) : State := releaseBerths r.spd r.key (releaseEngines r.spd r.key s)

/-- The pin a request holds on its cached sample is dropped. -/
def unpinReq (r : Request) (s : State) : State :=
  match r.pinned, s.stream? r.key.stream with
  | true, some t => cacheUnpin r.spd r.form.isSome t.dsSlot r.sample r.remote s
  | _, _ => s

/-! ### Defects and the reserve chain (R78 to R84) -/

/-- Epoch and local position of a request's slot. -/
def reqPlace (t : Stream) (d : Partition) (k : ReqKey) : Nat × Nat := t.place d (t.position k.batch k.slot)

/-- The entry of a failed sample, if none stands: the new list and whether one was made. Two failures at one instant make
one entry, of the lower epoch; any other entry that stands keeps its own (R84). A full list takes none. -/
def addDefect (index : Nat) (global : Bool) (cause epoch detail now : Nat) (l : List Defect) : List Defect × Bool :=
  let mine (x : Defect) : Bool := x.index == index && x.global == global
  if l.any mine then
    (l.map fun x => if mine x ∧ x.made = some now then { x with epoch := min x.epoch epoch } else x, false)
  else (l ++ [⟨index, global, cause, epoch, detail, false, some now⟩], true)

/-- Entries a partition's defect list holds (R65). (DEDUCED 39; assumption log) -/
def defectLimit : Nat := 65536

/-- The failure of a sample is recorded, but for LATE, PEER_UNREACHABLE and DEFECT_LISTED (R78, R81, R84).
(DEDUCED 39; assumption log) -/
def recordDefect (k : ReqKey) (t : Stream) (d : Partition) (r : Request) (detail : Nat) (s : State) : State :=
  let cause := detail / 256
  if cause = 6 ∨ cause = 8 ∨ cause = 9 then s
  else
    let (l, made) := addDefect r.sample r.remote cause (reqPlace t d k).1 detail s.mono d.defects
    if !made then s.modPart d.dsSlot fun p => { p with defects := l }
    else if defectLimit ≤ d.defects.length then raiseReason 0x15 0 d.dsSlot s
    else
      ((s.modPart d.dsSlot fun p => { p with defects := l }).modReq k fun q => { q with newDefect := true }).modBatch
        k.stream k.batch fun b => { b with newDefects := k.slot :: b.newDefects }

/-- A candidate that R79 rejects without a request: the failed sample itself, which a fill position has not, or one that a
defect entry in effect lists. -/
def candidateRejected (seed : Dword) (t : Stream) (d : Partition) (e l v : Nat) : Bool :=
  (!t.isFill d l && v == orderValue seed t d e l) || d.listed (t.sampleOf d v).1 (t.sampleOf d v).2 e

/-- The phase of a request that delivers no sample: a text slot waits for its placement, another is packed.
(DEDUCED 43; assumption log) -/
def maskedPhase (t : Stream) : Phase := if t.cls = 4 then .waitPlace else .pack

/-- All eight candidates are rejected: the slot is masked (R81). -/
def maskSlot (key : ReqKey) (t : Stream) (s : State) : State :=
  s.modReq key fun q => { q with masked := true, tryIdx := some 7, sub := false, phase := maskedPhase t }

/-- The value of a position or candidate takes passes of a Permutation Unit: not in a sequential order, nor over one sample
(R69). -/
def walkNeeded (t : Stream) (d : Partition) (k : Option Nat) : Bool := decide (1 < t.space d) && !(k.isNone && t.order == 0)

/-- Candidate `k`, of order value `v`, serves the slot: it is requested with the slot's own deadline (R79). -/
def serveCandidate (key : ReqKey) (t : Stream) (d : Partition) (k v : Nat) (s : State) : State :=
  let (i, remote) := t.sampleOf d v
  replan key false (s.modReq key fun q =>
    { q with tryIdx := some k, sample := i, remote := remote, spd := s.homeOf i, phase := .ready, given := false, deFaults := 0
             xfFaults := 0, packFaults := 0, resMism := 0, berthFails := 0, avoid := none, avoidTe := none, avoidPe := none
             sub := q.sub || (!q.fillPos && !q.given) })

/-- A request waits for a unit to walk its position or a candidate. -/
def waitForUnit (key : ReqKey) (k : Option Nat) (s : State) : State :=
  s.modReq key fun q => { q with phase := .waitUnit k, spd := s.batchHome key.batch }

/-- The reserve chain from candidate `k` on (R79): a candidate whose value needs a walk waits for a unit. -/
def chainAt (key : ReqKey) (t : Stream) (d : Partition) : Nat → Nat → State → State
  | 0, _, s => maskSlot key t s
  | fuel + 1, k, s =>
    if walkNeeded t d (some k) then waitForUnit key (some k) s
    else
      let (e, l) := reqPlace t d key
      let v := candidate s.seed t d e l k
      if candidateRejected s.seed t d e l v then chainAt key t d fuel (k + 1) s else serveCandidate key t d k v s

/-- A value is known: the own sample at its home, or a candidate, which is tried unless R79 rejects it; one that a recorded
decision names is taken as given (R29). -/
def endWalk (key : ReqKey) (t : Stream) (d : Partition) (k : Option Nat) (v : Nat) (s : State) : State :=
  let (e, l) := reqPlace t d key
  match k with
  | none =>
    let (i, remote) := t.sampleOf d v
    replan key false (s.modReq key fun q => { q with sample := i, remote := remote, spd := s.homeOf i, phase := .ready })
  | some j =>
    let given := ((s.req? key).map (·.given)).getD false
    if !given && candidateRejected s.seed t d e l v then chainAt key t d (7 - j) (j + 1) s else serveCandidate key t d j v s

/-- A request as it is admitted. -/
def newRequest (k : ReqKey) (spd : Nat) (budgets : List Nat) (latest : List Int) (fill : Bool) (phase : Phase) :
    Request where
  key := k
  spd := spd
  tryIdx := none
  fillPos := fill
  sample := 0
  remote := false
  peerIdx := 0
  peerTag := 0
  peerSoft := false
  peerSince := 0
  peerCrc := 0
  phase := phase
  des := []
  te := none
  pe := none
  ke := none
  te2 := none
  pe2 := none
  arrived := []
  latest := latest
  budgets := budgets
  cacheHit := false
  atRisk := false
  cause := 0
  lateSub := false
  sub := false
  newDefect := false
  berthFails := 0
  deFaults := 0
  xfFaults := 0
  packFaults := 0
  resMism := 0
  avoid := none
  avoidTe := none
  avoidPe := none
  chunks := 0
  tok := .start
  masked := false
  given := false
  encoded := []
  window := none
  form := none
  spill := none
  pinned := false
  decDigest := 0
  xfForm := none
  xfDigest := 0
  firstRow := 0
  firstPlace := 0

/-- In a re-run, a recorded decision is taken as given (R29): its candidate is walked, or the slot is masked. -/
def applyDecision (k : ReqKey) (t : Stream) (d : Partition) (x : Decision) (s : State) : State :=
  let a := s.modReq k fun q =>
    { q with tryIdx := some x.tryIdx, cause := x.cause, lateSub := true, sub := x.sub, given := true }
  if x.masked then maskSlot k t a
  else if walkNeeded t d (some x.tryIdx) then waitForUnit k (some x.tryIdx) a
  else
    let (e, l) := reqPlace t d k
    endWalk k t d (some x.tryIdx) (candidate s.seed t d e l x.tryIdx) a

/-- A slot's request enters the ready list: it waits for a unit, or its value needs no walk (R69, R71, R80). -/
def enterSlot (t : Stream) (d : Partition) (b : Batch) (slot : Nat) (s : State) : State :=
  let k : ReqKey := ⟨Fin.ofNat 64 t.num, b.num, slot⟩
  let (e, l) := reqPlace t d k
  let try_ : Option Nat := if t.isFill d l then some 0 else none
  let bs := stageBudgets t.cls none false (s.batchHome b.num) s
  let r := newRequest k (s.batchHome b.num) bs (latestStarts t b bs s) (t.isFill d l) (.waitUnit try_)
  let a := s.modRun fun x => { x with requests := x.requests ++ [{ r with newDefect := b.newDefects.contains slot }] }
  match b.decisions.find? (·.slot == slot) with
  | some x => applyDecision k t d x a
  | none =>
    if walkNeeded t d try_ then a
    else if try_.isSome then chainAt k t d 8 0 a
    else endWalk k t d none (orderValue s.seed t d e l) a

/-- Every slot of a batch enters. -/
def enterSlots (t : Stream) (d : Partition) (b : Batch) (s : State) : State :=
  s.each (List.range t.b) (enterSlot t d b)

/-! ### A request that starts again -/

/-- The current point after the placed segments (R226). -/
def pointAfter (p : TextParams) (placed : List (Nat × Nat × Nat × Nat)) : Nat × Nat :=
  placed.foldl (fun pt x => (placeSegment p x.1 x.2.2.2 pt).2) (0, 0)

/-- A placed text slot gives up its place, and every later slot with it (R226, R228): later requests wait for their placement
again, and later slots that were packed enter again. (DESIGN CHOICE 170; assumption log) -/
def unplace (k : ReqKey) (s : State) : State :=
  match s.batch? k.stream k.batch, s.stream? k.stream with
  | some b, some t =>
    match s.partFor t with
    | none => s
    | some p =>
      if !(b.placed.any (·.1 == k.slot)) then s
      else
        let kept := b.placed.filter fun x => decide (x.1 < k.slot)
        let later := (b.placed.filter fun x => decide (k.slot < x.1)).map (·.1)
        let packed := later.filter fun j => (s.req? ⟨k.stream, k.batch, j⟩).isNone
        let a := s.modBatch k.stream k.batch fun b =>
          { b with placed := kept, point := pointAfter t.txt kept, entries := b.entries.filter fun e => !packed.contains e.1 }
        let c := a.modRun fun r =>
          { r with requests := r.requests.map fun q =>
              if q.key.stream = k.stream ∧ q.key.batch = k.batch ∧ later.contains q.key.slot ∧ q.phase = .pack then
                { q with phase := .waitPlace }
              else q }
        c.each packed (enterSlot t p b)
  | _, _ => s

/-- A request returns to its ready list: at its next issue it starts from the first step (R140, R161). A masked slot has nothing
to issue, and waits to be placed or packed again. -/
def backToReady (k : ReqKey) (s : State) : State :=
  match s.req? k with
  | none => s
  | some r =>
    let start : Phase := match r.masked, s.stream? k.stream with
      | true, some t => maskedPhase t
      | _, _ => .ready
    unplace k ((unpinReq r (releaseAll r s)).modReq k fun q =>
      { q with phase := start, des := [], te := none, pe := none, ke := none, te2 := none, pe2 := none, encoded := [], form := none, pinned := false, spill := none,
               xfForm := none, window := none, chunks := 0, tok := .start, peerIdx := 0, peerSoft := false })

/-- A running request's draw fails (R140). -/
def berthRetry (k : ReqKey) (s : State) : State :=
  match s.req? k with
  | none => s
  | some r => countPerf r.spd 0x604 (setEv .mem 8 (backToReady k s))

/-- The request gives back what it holds and moves to candidate `from_` of its chain, or its slot is masked (R79, R81). -/
def chainFrom (key : ReqKey) (from_ : Nat) (s : State) : State :=
  match s.req? key, s.stream? key.stream with
  | some _, some t =>
    match s.partFor t with
    | none => s
    | some d => chainAt key t d (8 - from_) from_ (backToReady key s)
  | _, _ => s

/-- The next candidate after the one that failed. -/
def chainNext (key : ReqKey) (s : State) : State :=
  match s.req? key with
  | none => s
  | some r => chainFrom key (match r.tryIdx with | some k => k + 1 | none => 0) s

/-- A request's sample fails with a detail; `soft` when that depended on timing (R78, R79, R83). -/
def failSample (key : ReqKey) (detail : Nat) (soft : Bool) (s : State) : State :=
  match s.req? key, s.stream? key.stream with
  | some r, some t =>
    match s.partFor t with
    | none => s
    | some d =>
      let own := r.tryIdx.isNone && !r.fillPos
      let a := if detail / 256 = 9 then s else countDeferred s
      let b := recordDefect key t d r detail a
      chainNext key (b.modReq key fun q =>
        { q with cause := if own then detail / 256 else q.cause, lateSub := q.lateSub || soft })
  | _, _ => s

end Sys2Proof.Machine
end

