-- ==== Sys2Proof/Machine/Pilot.lean ====
section
/-! DEFINITION. The Pilot (R25 to R30, R43 to R48, R71): admission of positions, the walk of a Permutation Unit, issue,
latest-start times, deadline substitution, and the rewrite of the maps after an SPD is lost. -/

namespace Sys2Proof.Machine

/-! ### Permutation Units (R71, R425) -/

/-- Positions in long walks on a unit: more than 32 passes. -/
def longWalks (n : Nat) (s : State) : Nat :=
  (s.run.requests.filter fun r =>
    r.spd == n && (match r.phase with | .walking _ _ p _ => decide (32 ≤ p) | _ => false)).length

/-- A Permutation Unit that a position may be admitted to. -/
def permRoom (n : Nat) (s : State) : Bool :=
  s.serving n && !(((s.spd? n).map (·.puOut)).getD true) && decide (longWalks n s < 8)

/-- The unit of the batch home, or of the lowest-numbered serving SPD with room (R71). -/
def permUnit (b : Nat) (s : State) : Option Nat :=
  if permRoom (s.batchHome b) s then some (s.batchHome b) else (List.range 8).find? fun n => permRoom n s

/-- Engines out of service on the module, Permutation Units and Check-Value Units among them. -/
def enginesOut (s : State) : Nat :=
  (s.fab.spds.map fun d =>
    ([d.de, d.te, d.pe, d.ke, d.ce].map fun l => (l.filter (·.state == .out)).length).sum + flag d.puOut + d.cvuOut.length).sum +
    s.fab.checkOut.length

/-- An engine has left service: reason ENGINE_OUT at the count of the module (R480). -/
def engineOutReason (die : Nat) (k : EngineKind) (i : Nat) (s : State) : State :=
  countReason 0x06 (min 100 (10 * enginesOut s)) (die * 256 + engineCode k * 16 + i % 16) false s

/-- A batch as it is formed. -/
def newBatch (stream num : Nat) (plan : Plan) (home : Nat) : Batch where
  stream := stream
  num := num
  dlStep := plan.dlStep
  dlPhase := plan.dlPhase
  strict := false
  timelock := false
  begun := false
  atRisk := false
  missed := false
  home := home
  entries := []
  placed := []
  point := (0, 0)
  decisions := []
  newDefects := []
  rerun := false
  headerHeld := false
  headers := []
  headerSent := false
  headerAcked := false
  tokens := []
  ocReported := false

/-- The counters of a walk: of the own position, or of candidate `k` (R69, R79). -/
def reqWalk (seed : Dword) (t : Stream) (d : Partition) (e l : Nat) (k : Option Nat) : WalkCtx :=
  match k with
  | some j => walkCtx seed t d 5 j (t.isFill d l) e
  | none => walkCtx seed t d 6 0 false e

/-- Batch `num` of a stream is formed, if it is the next (R68, R291), and its positions enter the ready lists.
(DESIGN CHOICE 4; assumption log) -/
def formBatch (t : Stream) (d : Partition) (num : Nat) (plan : Plan) (s : State) : State :=
  let b := newBatch t.num num plan (s.batchHome num)
  enterSlots t d b ((s.modRun fun r => { r with batches := r.batches ++ [b] }).modStream t.num fun u =>
    { u with next := num + 1, dlSteps := plan.dlStep :: u.dlSteps })

/-- A batch may be formed: its stream runs and it is the next. -/
def mayForm (k : ReqKey) (t : Stream) (s : State) : Bool :=
  s.jobOpen && s.pilotsRun && (s.batch? k.stream k.batch).isNone && t.state == .running &&
    s.nextBatch t == some k.batch

/-- Ready-list order (R25): latest-start time, batch, stream, slot. (DEDUCED 40; assumption log) -/
def readyBefore (a b : Request) : Bool :=
  let key (r : Request) : Int × Nat × Nat × Nat := (r.latest.headD (-1), r.key.batch, r.key.stream, r.key.slot)
  let x := key a
  let y := key b
  decide (x.1 < y.1 ∨ (x.1 = y.1 ∧ (x.2.1 < y.2.1 ∨ (x.2.1 = y.2.1 ∧
    (x.2.2.1 < y.2.2.1 ∨ (x.2.2.1 = y.2.2.1 ∧ x.2.2.2 < y.2.2.2))))))

/-- The request waits for a unit. -/
def Request.waits (r : Request) : Bool :=
  match r.phase with
  | .waitUnit _ => true
  | _ => false

/-- A waiting position goes to this unit next: the unit has its turn, and no position of the same batch home stands before it
in the ready list (R25, R71). -/
def mayAdmit (r : Request) (spd : Nat) (s : State) : Bool :=
  s.run.job.isSome && s.pilotsRun && r.waits && permUnit r.key.batch s == some spd &&
    !(s.run.requests.any fun q =>
      q.waits && s.batchHome q.key.batch == s.batchHome r.key.batch && readyBefore q r)

/-- A waiting position is admitted: its walk begins at the input of R69, R79 and R80. -/
def beginWalk (req : ReqKey) (spd : Nat) (s : State) : State :=
  match s.req? req, s.stream? req.stream with
  | some r, some t =>
    match s.partFor t, r.phase with
    | some d, .waitUnit k =>
      s.modReq req fun q => { q with phase := .walking k (t.input d (reqPlace t d req).2) 0 false, spd := spd }
    | _, _ => s
  | _, _ => s

/-- PERM_POSITION_ADMIT (R71): the batch of the position is formed where it is not, and the position is admitted to the unit
when its turn has come. (DESIGN CHOICE 4; assumption log) -/
def execPermPositionAdmit (req : ReqKey) (spd : Fin 8) (plan : Plan) (s : State) : Answer :=
  match s.stream? req.stream with
  | none => .next s
  | some t =>
    match s.partFor t with
    | none => .next s
    | some d =>
      let u := if mayForm req t s then formBatch t d req.batch plan s else s
      match u.req? req with
      | none => .next u
      | some r => .next (u.onlyIf (mayAdmit r spd u) (beginWalk req spd))

/-- A Permutation Unit leaves service, and its positions wait for another unit (R425, R71). -/
def permUnitFails (n : Nat) (s : State) : State :=
  let a := engineOutReason n .pu 0 (countContained (s.modSpd n fun d => { d with puOut := true }))
  a.each s.run.requests fun r u =>
    match r.phase with
    | .walking k .. => u.onlyIf (r.spd == n) (waitForUnit r.key k)
    | _ => u

/-- PERM_PASS_DONE (R71, R425): a unit without its clock computes nothing (R427). -/
def execPermPassDone (req : ReqKey) (agree : Bool) (s : State) : Answer :=
  match s.req? req, s.stream? req.stream with
  | some r, some t =>
    match r.phase, s.partFor t with
    | .walking k x n retried, some d =>
      if !s.clocked r.spd then .next s
      else if !agree then
        let a := countPerf r.spd 0x802 s
        if retried then .next (permUnitFails r.spd a)
        else .next (countCorrected r.spd (a.modReq req fun q => { q with phase := .walking k x n true }))
      else
        let (e, l) := reqPlace t d req
        let y := (reqWalk s.seed t d e l k).pass (halfWidth (t.space d)) x
        let a := countPerf r.spd 0x800 s
        if y < t.space d then .next (endWalk req t d k y a)
        else
          let b := a.modReq req fun q => { q with phase := .walking k y (n + 1) retried }
          .next (if n + 1 = 32 then countFixed r.spd 14 (countPerf r.spd 0x801 b) else b)
    | _, _ => .next s
  | _, _ => .next s

/-! ### Issue (R21, R24 to R26, R46, R47, R82, R140) -/

/-- The engines a request takes: kind and number (R21). -/
def enginesNeeded (t : Stream) : List (EngineKind × Nat) :=
  match t.cls with
  | 1 => [(.de, 1), (.te, 1), (.pe, 1)]
  | 2 => [(.de, t.dec.videoDe), (.te, 1), (.pe, 1)]
  | 3 => [(.de, 1), (.pe, 1)]
  | _ => [(.ke, 1), (.pe, 1)]

/-- Free engines of a kind that a request may use, the one that faulted left out (R161, R224). -/
def usable (d : Spd) (k : EngineKind) (r : Request) : List Nat :=
  (d.freeEngines k).filter fun i => !(decide (k = .de ∨ k = .ke) && r.avoid == some i)

/-- Enough engines are free: the reserve counts only for a request whose latest-start time has arrived (R24), and a
restarted transform stage takes the next Transform Engine first (R195). -/
def enginesFree (d : Spd) (t : Stream) (r : Request) (s : State) : Bool :=
  (enginesNeeded t).all fun (k, n) =>
    let spare := if r.due .lookup s.now then 0 else reserveSize k
    decide (n + spare ≤ (d.freeEngines k).length) && decide (n ≤ (usable d k r).length) &&
      !(k == .te && s.run.requests.any fun q => q.spd == r.spd && q.phase == .waitXf)

/-- The receivers' slots are free for the batch (R285). -/
def slotsFree (t : Stream) (d : Partition) (num : Nat) (s : State) : Bool :=
  match t.groupFor s.seed d num with
  | none => false
  | some g => !(g.receivers num).isEmpty && (g.receivers num).all fun (i, m) =>
      slotFree t g m num || (s.batch? t.num num).any fun b => b.tokens.contains i

/-- The deadline is near enough: within two periods (R26) and two steps (R46), or the start step before the first start
(R47). -/
def timeOpen (b : Batch) (s : State) : Bool :=
  match s.deadlineAt b.dlStep b.dlPhase with
  | none => b.dlStep == s.startStep
  | some dl => decide (dl - 2 * s.period ≤ s.now) && decide (b.dlStep ≤ s.tide.step + 2)

/-- Debug has halted every Pilot of an SPD (R467): 16 cores per SPD. (PRESUMED 135; assumption log) -/
def pilotsHalted (n : Nat) (s : State) : Bool := (List.range 16).all fun i => s.sec.halted.contains (16 * n + i)

/-- A request could be issued now, its draws and the order apart. (DEDUCED 137; assumption log) -/
def issuable (r : Request) (s : State) : Bool :=
  match s.stream? r.key.stream, s.batch? r.key.stream r.key.batch, s.spd? r.spd with
  | some t, some b, some d =>
    match s.partFor t with
    | none => false
    | some p =>
      r.phase == .ready && d.serving && !pilotsHalted r.spd s && s.pilotsRun && !(t.cls == 4 && d.textReload) &&
        slotsFree t p r.key.batch s && timeOpen b s && enginesFree d t r s
  | _, _, _ => false

/-- The request is the first of its ready list that can be issued. One ordered list for each SPD stands for the lists of its 16
Pilots, among which R25 divides nothing; one that stays there after a failed draw bars those behind it (R140).
(DEDUCED 40, DESIGN CHOICE 153, DESIGN CHOICE 204; assumption log) -/
def mayIssue (r : Request) (s : State) : Bool :=
  issuable r s && !(s.run.requests.any fun q => q.spd == r.spd && readyBefore q r && issuable q s)

/-- The boundary of an armed group falls now: IMMEDIATE after its arm, STEP by R49, BATCH when the request that may issue
next is the first of a batch that qualifies. (DESIGN CHOICE 2; assumption log) -/
def boundaryFalls (s : State) (a : Arm) : Bool :=
  a.boundary == 0 || (a.boundary == 2 && stepDue s a) ||
    s.run.requests.any fun r =>
      batchDue r.key.stream r.key.batch a && mayIssue r s &&
        !(s.run.batches.any fun b => b.stream == (r.key.stream : Nat) && b.num == r.key.batch && b.begun)

/-- GROUP_APPLY (R380, R387). -/
def execGroupApply (groups : BitVec 11) (s : State) : Answer :=
  .next (takeBoundaries (fun a => bitOf groups a.group && boundaryFalls s a) s)

/-- A batch's first request issues: its BATCH boundaries fall, and the modes of R408 and R411 are fixed. -/
def beginBatch (k : ReqKey) (s : State) : State :=
  match s.batch? k.stream k.batch with
  | none => s
  | some b =>
    if b.begun then s
    else
      let a := takeBoundaries (batchDue k.stream k.batch) s
      a.modBatch k.stream k.batch fun b =>
        { b with begun := true, strict := bitOf a.applied.cfgDet 0, timelock := bitOf a.applied.cfgDet 1 }

/-- The output buffers of R262 and R198, drawn with the set at issue: the transform output, and the packed output. -/
def outputDraws (t : Stream) : List Nat :=
  let pack := match t.pack.tensors.head? with
    | none => 0
    | some f =>
      if t.cls = 4 then (t.pack.tensors.map fun f => t.txt.sampleMax * (fmtBits f.fmt / 8)).sum
      else (shareBytes f.fmt t.dataElems).1 + (shareBytes f.fmt t.dataElems).2
  let frames := if t.cls = 2 then t.dec.clipLen else 1
  (if t.cls ≤ 2 then [32 + 4 * (t.xf.outW * t.xf.outH * frames * t.pack.packC)] else []) ++ [pack]

/-- Where a lookup finds a request's sample: decoded cache, spill, raw cache, or nowhere. -/
inductive Found where
  | decoded (e : CacheEntry)
  | spilled (e : CacheEntry)
  | raw (e : CacheEntry)
  | missing
  deriving DecidableEq, Repr

def lookupSample (t : Stream) (p : Partition) (r : Request) (d : Spd) : Found :=
    match (d.find true p.dsSlot r.sample r.remote).filter (formFits t) with
  | some e => .decoded e
  | none =>
    match (d.spill.find? fun e => e.isFor p.dsSlot r.sample r.remote && formFits t e) with
    | some e => .spilled e
    | none =>
      match d.find false p.dsSlot r.sample r.remote with
      | some e => .raw e
      | none => .missing

/-- Bytes the request's input takes: its form, its encoded bytes, or nothing yet for a remote sample. -/
def inputBytes (p : Partition) (r : Request) : Found → Nat
  | .decoded e => e.form.size
  | .spilled e => e.form.size
  | .raw e => e.form.data.length
  | .missing => if r.remote then 0 else (p.sampleBytes r.sample).length

/-- The connections of the peers that hold a partition, in order. -/
def peersFor (t : Stream) (d : Partition) (r : Request) : List Nat :=
  ((t.peers.find? (·.1 == r.sample % d.parts)).map (·.2)).getD []

/-- The 64 bytes of a PEER_REQ (R293). -/
def peerReqBytes (kind tag : Nat) (job : Word) (dataset : Dword) (index offset len : Nat) : List Byte :=
  let head := natBytes 4 0x51525051 ++ natBytes 1 kind ++ natBytes 1 0 ++ natBytes 2 tag ++ leBytes 4 job ++ natBytes 4 0 ++
    leBytes 8 dataset ++ natBytes 8 index ++ natBytes 8 offset ++ natBytes 4 len ++ natBytes 16 0
  head ++ leBytes 4 (crc32c head)

/-- Every peer of the list has failed once (R74). -/
def peersExhausted (k : ReqKey) (s : State) : State :=
  match s.req? k, s.stream? k.stream, s.batch? k.stream k.batch with
  | some r, some t, some b =>
    match s.partFor t with
    | none => s
    | some d =>
      let dead := (peersFor t d r).all fun c => !s.connUp c
      if !(b.strict || b.rerun) || !r.peerSoft || dead then failSample k 0x0800 r.peerSoft s
      else s.modReq k fun q => { q with peerSince := s.mono }
  | _, _, _ => s

/-- The request asks its peers from the present one on; a connection in error counts as a failed peer (R294). -/
def askPeers (k : ReqKey) : Nat → State → State
  | 0, s => peersExhausted k s
  | fuel + 1, s =>
    match s.req? k, s.stream? k.stream with
    | some r, some t =>
      match s.partFor t with
      | none => s
      | some d =>
        match (peersFor t d r)[r.peerIdx]? with
        | none => peersExhausted k s
        | some c =>
          if s.connUp c then
            let tag := s.free % 65536
            let msg := peerReqBytes 1 tag s.applied.tideJobId t.dataset r.sample 0 0
            postSend c (.peerReq k) msg ({ s with free := s.free + 1 }.modReq k fun q => { q with peerTag := tag })
          else
            askPeers k fuel (setEv .egr 0x200 (s.modReq k fun q =>
              { q with peerIdx := q.peerIdx + 1, peerSoft := true }))
    | _, _ => s

/-- A peer has failed; the next one is asked. -/
def peerFailed (k : ReqKey) (soft : Bool) (s : State) : State :=
  askPeers k 1024 (setEv .egr 0x200 (s.modReq k fun q => { q with peerIdx := q.peerIdx + 1, peerSoft := q.peerSoft || soft }))

/-- The engines are taken, lowest numbers first; each that comes out of the reserve is counted (R24).
(DEDUCED 22; assumption log) -/
def takeEngines (t : Stream) (r : Request) (s : State) : State :=
  s.each (enginesNeeded t) fun (k, n) u =>
    match u.spd? r.spd with
    | none => u
    | some d =>
      let ids := (usable d k r).take n
      let fromReserve := n + reserveSize k - (d.freeEngines k).length
      let a := (u.each ids fun i v => takeEngine r.spd k r.key i v).each (List.range (min n fromReserve)) fun _ v => countReserve r.spd v
      a.modReq r.key fun q =>
        match k with
        | .de => { q with des := ids }
        | .te => { q with te := ids.head? }
        | .pe => { q with pe := ids.head? }
        | .ke => { q with ke := ids.head? }
        | _ => q

/-- The issue pointer of a stream moves; a new epoch makes its INFINITE keys due for a sweep (R130, R133). -/
def advanceIssue (t : Stream) (p : Partition) (k : ReqKey) (s : State) : State :=
  let g : Int := t.position k.batch k.slot
  let old := t.issued.getD (-1)
  let a := s.modStream t.num fun u => { u with issued := some (max old g) }
  if old < g ∧ (old + 1) / (t.epochLen p : Int) < (g + 1) / (t.epochLen p : Int) then
    dueKeys t.dsSlot (fun e => (nextUse s.seed t p e.index e.remote old).isNone) a
  else a

/-- A request starts on what its lookup found. One that had the budgets of a hit takes those of a miss (R44). -/
def startFound (t : Stream) (p : Partition) (r : Request) (f : Found) (s : State) : State :=
  let g := t.position r.key.batch r.key.slot
  let go (ph : Phase) (u : State) : State := u.modReq r.key fun q => { q with phase := ph }
  let miss (u : State) : State := u.onlyIf r.cacheHit (replan r.key false)
  match f with
  | .decoded e =>
    startStage r.key .decode (go .cacheRead (replan r.key true
      ((cacheHit r.spd true p.dsSlot r.sample r.remote t.num g s).modReq r.key fun q =>
        { q with form := some e.form, pinned := true, decDigest := e.digest })))
  | .spilled e =>
    startStage r.key .flash (go .flash ((spillHit r.spd p.dsSlot r.sample r.remote t.num g (miss s)).modReq r.key fun q =>
      { q with spill := some e }))
  | .raw e =>
    startStage r.key (if t.cls = 4 then .transform else .decode) (go (if t.cls = 4 then .tokenise else .decode)
      ((cacheHit r.spd false p.dsSlot r.sample r.remote t.num g (miss s)).modReq r.key fun q =>
        { q with encoded := e.form.data, pinned := true }))
  | .missing =>
    if r.remote then askPeers r.key 1024 (startStage r.key .flash (go .peerWait (miss s)))
    else startStage r.key .flash (go .flash (miss s))

/-- The misses of an issue's lookups are counted; a hit counts once its extents are copied, for one that fails makes it a miss
(R123, R488). -/
def countFound (n : Nat) (f : Found) (s : State) : State :=
  match f with
  | .decoded _ => s
  | .spilled _ | .raw _ => countLookup n true false s
  | .missing => countLookup n false false (countLookup n true false s)

/-- An issue that passed every condition: the draw, then the batch's boundaries if it is its first request, the engines, the
first stage. A failed draw leaves the request in its list and the batch as it was (R140). -/
def issueNow (t : Stream) (p : Partition) (r : Request) (s : State) : State :=
  let begun := beginBatch r.key s
  match begun.spd? r.spd with
  | none => s
  | some d =>
    let held := r.form.map Form.size
    let found := lookupSample t p r d
    let group := ((t.groupFor s.seed p r.key.batch).map (·.group)).getD 0
    match drawOrPart r.spd (ownerOf s t.num group) false (some r.key)
        ((held.getD (inputBytes p r found)) :: outputDraws t) begun with
    | .error part => drawFailed r.spd part s
    | .ok a =>
      let b := advanceIssue t p r.key (takeEngines t r (countFixed r.spd 2 (countPerf r.spd 0x600
        (startStage r.key .lookup (startStage r.key .issue a)))))
      if held.isSome then startStage r.key .decode (b.modReq r.key fun q => { q with phase := .cacheRead })
      else startFound t p r found (countFound r.spd found b)

/-- REQUEST_ISSUE (R25). An own sample in an entry in effect fails without a read (R78), and such a candidate is rejected (R79),
but for one that a recorded decision names (R29). -/
def execRequestIssue (req : ReqKey) (s : State) : Answer :=
  match s.req? req, s.stream? req.stream with
  | some r, some t =>
    match s.partFor t with
    | none => .next s
    | some p =>
      if !mayIssue r s then .next s
      else if r.form.isNone && !r.given && p.listed r.sample r.remote (reqPlace t p req).1 then
        .next (if r.tryIdx.isNone then failSample req 0x0900 false (beginBatch req s) else chainNext req s)
      else .next (issueNow t p r s)
  | _, _ => .next s

/-! ### Latest-start times (R45, R48, R82) -/

/-- A stage of a request has started. -/
def Request.started (r : Request) : Stage → Bool
  | .lookup | .issue | .flash => !(r.phase == .ready) && !r.phase.unmapped
  | .decode => [Phase.decode, .cacheRead, .tokenise, .transform, .waitXf, .waitPlace, .pack, .done].contains r.phase
  | .transform => [Phase.transform, .tokenise, .waitPlace, .pack, .done].contains r.phase
  | .pack => [Phase.pack, .done].contains r.phase
  | .egress => r.phase == .done

/-- The first candidate found in the decoded cache of its home SPD (R82). A candidate that R79 rejects for its index or an
entry in effect is passed over, and so is the one the request is trying. (DEDUCED 36; assumption log) -/
def cachedCandidate (t : Stream) (p : Partition) (k : ReqKey) (r : Request) (s : State) : Option (Nat × Nat × Bool × CacheEntry) :=
  let (e, l) := reqPlace t p k
  (List.range 8).findSome? fun n =>
    let v := candidate s.seed t p e l n
    let (i, remote) := t.sampleOf p v
    if candidateRejected s.seed t p e l v || (!r.phase.unmapped && i == r.sample && remote == r.remote) then none
    else
      ((s.spd? (s.homeOf i)).bind fun d =>
        (d.find true p.dsSlot i remote).filter fun c => d.serving && formFits t c).map fun c =>
          (n, i, remote, c)

/-- The decode or tokenise output is not complete: neither before the walk, nor in the ready list, nor while it is read. -/
def Request.undecoded (r : Request) : Bool :=
  match r.phase with
  | .waitUnit _ | .walking .. => true
  | .ready => r.form.isNone
  | .flash | .peerWait | .decode | .tokenise => true
  | _ => false

/-- Deadline substitution (R82). -/
def deadlineSub (t : Stream) (p : Partition) (k : ReqKey) (r : Request) (s : State) : State :=
  match cachedCandidate t p k r s with
  | none => s
  | some (n, i, remote, c) =>
    let home := s.homeOf i
    let a := cacheHit home true p.dsSlot i remote t.num (t.position k.batch k.slot) (backToReady k s)
    replan k true (countPerf home 0x603 (a.modReq k fun q =>
      { q with tryIdx := some n, sample := i, remote := remote, spd := home, form := some c.form, pinned := true, given := false
               decDigest := c.digest, lateSub := true, sub := false, cause := 6, avoid := none, avoidTe := none, avoidPe := none }))

/-- Strict mode of a batch: as its first issue fixed it, or as applied where none of its requests has issued (R408). -/
def Batch.strictNow (b : Batch) (s : State) : Bool := if b.begun then b.strict else bitOf s.applied.cfgDet 0

/-- LATEST_START_REACHED (R48, R82). -/
def execLatestStartReached (req : ReqKey) (stage : Stage) (s : State) : Answer :=
  match s.req? req, s.stream? req.stream, s.batch? req.stream req.batch with
  | some r, some t, some b =>
    match r.latest[(stageIndex stage)]?, s.partFor t with
    | some at_, some p =>
      if (s.now : Int) < at_ ∨ r.arrived.contains stage then .next s
      else
        let a := s.modReq req fun q => { q with arrived := stage :: q.arrived }
        let c := if !stageRuns t.cls r.cacheHit (stageIndex stage) || r.started stage || decide (at_ = s.now) then a
          else markRisk req a
        if stage = .pack ∧ !b.strictNow s ∧ !b.rerun ∧ !r.masked ∧ r.undecoded then .next (deadlineSub t p req r c)
        else .next c
    | _, _ => .next s
  | _, _, _ => .next s

/-- DEADLINE_RECOMPUTE_DONE (R45, R484): every deadline, budget and latest-start time; a stage whose new time has not come may
arrive again (R82). -/
def execDeadlineRecomputeDone (s : State) : Answer :=
  if !s.pilotsRun then .next s else
  if !s.tide.recomputeDue && !s.tide.recomputeOp then .next s
  else
    .next ((s.modTide fun d => { d with recomputeDue := false, recomputeOp := false }).modRun fun x =>
      { x with requests := x.requests.map fun r =>
        match s.stream? r.key.stream, s.batch? r.key.stream r.key.batch with
        | some t, some b =>
          let bs := ((s.partFor t).map fun d => stageBudgets t.cls (r.size? d) r.cacheHit r.spd s).getD r.budgets
          let u := { r with budgets := bs, latest := latestStarts t b bs s }
          { u with arrived := u.arrived.filter fun st => u.due st s.now }
        | _, _ => r })

/-! ### Peers that wait (R74) -/

/-- PEER_ROUND_RETRY (R74): 100 µs after the last failure of a round, in strict mode. -/
def execPeerRoundRetry (req : ReqKey) (s : State) : Answer :=
  match s.req? req, s.stream? req.stream with
  | some r, some t =>
    match s.partFor t with
    | none => .next s
    | some d =>
      if r.phase = .peerWait ∧ (peersFor t d r).length ≤ r.peerIdx ∧ r.peerSince + 100000 ≤ s.mono then
        .next (askPeers req 1024 (s.modReq req fun q => { q with peerIdx := 0, peerSoft := false }))
      else .next s
  | _, _ => .next s

/-- PEER_READ_GIVE_UP (R74): `TIDE_GUARD` past the stage's latest-start with no answer, out of strict mode.
(DEDUCED 44; assumption log) -/
def execPeerReadGiveUp (req : ReqKey) (s : State) : Answer :=
  match s.req? req, s.batch? req.stream req.batch with
  | some r, some b =>
    match r.latest[(2 : Nat)]? with
    | some at_ =>
      if r.phase = .peerWait ∧ !b.strict ∧ !b.rerun ∧ at_ + s.applied.tideGuard.toNat ≤ s.now ∧
          !(s.anyWr fun w => w == .peerRead req) then
        .next (failSample req 0x0800 true s)
      else .next s
    | none => .next s
  | _, _ => .next s

/-- DEFECT_ENTRY_DURABLE (R78): the defect list is programmed, which QS media do not take (R103).
(DESIGN CHOICE 174; assumption log) -/
def execDefectEntryDurable (dsSlot : Nat) (index : Nat) (global : Bool) (s : State) : Answer :=
  if s.media.qsLayout then .next s
  else
    .next (programMedia (Media.writeDefects dsSlot s.mono) (s.modPart dsSlot fun p =>
      { p with defects := p.defects.map fun x => if x.index = index ∧ x.global = global then { x with durable := true } else x }))

/-! ### Loss of an SPD (R28 to R30) -/

/-- Every request that an SPD holds is abandoned: it waits, with nothing held, until the rewritten map gives it its new home
(R29). -/
def abandonOn (n : Nat) (s : State) : State :=
  s.each s.run.requests fun r u =>
    if r.spd ≠ n then u
    else
      match r.phase with
      | .walking k .. | .waitUnit k => waitForUnit r.key k u
      | _ => backToReady r.key u

/-- Entries that named the lost SPD go to the serving SPDs in turn, in ascending entry order (R28). -/
def rewriteMap (lost : Nat) (serving : List Nat) : Nat → List Nat → List Nat
  | _, [] => []
  | turn, e :: es =>
    if e = lost then serving.getD (turn % max 1 serving.length) lost :: rewriteMap lost serving (turn + 1) es
    else e :: rewriteMap lost serving turn es

/-- An unreleased batch whose home was lost starts over (R29). -/
def Batch.startOver (home : Nat) (b : Batch) : Batch :=
  { b with home := home, entries := [], placed := [], point := (0, 0), rerun := true, headerHeld := false, headers := [], headerSent := false,
           headerAcked := false }

/-- HOME_MAP_APPLY (R28, R29, R30): the oldest rewrite under way applies, with the SPDs that served at its loss.
(DESIGN CHOICE 2; assumption log) -/
def execHomeMapApply (s : State) : Answer :=
  match s.fab.rewrites with
  | [] => .next s
  | (lost, serving) :: rest =>
    let a := s.modFab fun f =>
      { f with rewrites := rest, homeMap := rewriteMap lost serving 0 f.homeMap, homes := serving }
    -- the batch homes follow the new list, and a batch whose home is lost is re-run in full
    let again (b : Batch) : Bool := b.home == lost || !s.serving b.home
    let c := a.modRun fun x =>
      { x with batches := x.batches.map fun b => if again b then b.startOver (a.batchHome b.num) else { b with home := a.batchHome b.num } }
    let rerun (k : ReqKey) : Bool := s.run.batches.any fun b => b.stream == (k.stream : Nat) && b.num == k.batch && again b
    let d := c.each s.run.requests fun r u =>
      if rerun r.key then dropReq r.key (unpinReq r (releaseAll r u))
      else if r.spd = lost then
        match r.phase with
        | .walking k .. | .waitUnit k => waitForUnit r.key k u
        | _ => (backToReady r.key u).modReq r.key fun q =>
            { q with spd := u.homeOf q.sample, avoid := none, avoidTe := none, avoidPe := none }
      else u
    -- every slot of a re-run batch enters again (R29)
    .next (d.each (d.run.batches.filter fun b => s.run.batches.any fun x => x.stream == b.stream && x.num == b.num && again x)
      fun b u =>
        match u.stream? b.stream with
        | none => u
        | some t =>
          match u.partFor t with
          | none => u
          | some p => enterSlots t p b u)

end Sys2Proof.Machine
end

