-- ==== Sys2Proof/Machine/Stages.lean ====
section
/-! DEFINITION. The stages of a request: flash read, decode, transform, tokenise, placement and pack, with their engine
faults, residue mismatches and check-value units (chapters 4, 6 to 9, R426). -/

namespace Sys2Proof.Machine

/-! ### Failures with a detail (R159, R171, R203, R222, R234, R260, R266) -/

def setLast (engine spd detail : Nat) : Word := BitVec.ofNat 32 (engine * 2 ^ 19 + spd * 2 ^ 16 + detail)

def decodeFail (r : Request) (detail : Nat) (s : State) : State :=
  failSample r.key detail false (setEv .dec (decodeEvent detail) (s.modCnt fun c =>
    { c with decLast := setLast 0 r.spd detail }))

def xfFail (r : Request) (detail : Nat) (s : State) : State :=
  failSample r.key detail false (setEv .xf (if detail = 0x701 then 2 else 0) (s.modCnt fun c =>
    { c with xfLast := setLast (r.te.getD 0) r.spd detail }))

def txtFail (r : Request) (detail : Nat) (s : State) : State :=
  failSample r.key detail false (setEv .txt (if detail / 256 = 4 then 4 else if detail / 256 = 5 then 2 else 0)
    (s.modCnt fun c => { c with txtLast := setLast (r.ke.getD 0) r.spd detail }))

def packFail (r : Request) (detail : Nat) (s : State) : State :=
  failSample r.key detail false (setEv .pack (if detail = 0x40C then 8 else 0) (s.modCnt fun c =>
    { c with packLast := setLast (r.pe.getD 0) r.spd detail }))

/-- A request moves to a phase whose stage starts now. -/
def enterPhase (k : ReqKey) (ph : Phase) (st : Stage) (s : State) : State :=
  startStage k st (s.modReq k fun q => { q with phase := ph })

/-- A draw of a running request in its stream's share (R142). -/
def reqDrawBerths (r : Request) (t : Stream) (p : Partition) (sizes : List Nat) (s : State) : Bool × State :=
  drawBerths r.spd (ownerOf s t.num (((t.groupFor s.seed p r.key.batch).map (·.group)).getD 0)) false (some r.key) sizes s

/-! ### Decode (R156, R160, R166) -/

/-- The draws of a slot's position (R81, R404). -/
def slotDraw (seed : Dword) (t : Stream) (p : Partition) (k : ReqKey) : Draw :=
  fun purpose stage element => drawBlock seed (p.global (reqPlace t p k).2) (reqPlace t p k).1 purpose stage element

/-- How step 2 of R156 ends. -/
inductive Unwrapped where
  | payload (bytes : List Byte)
  | fails (detail : Nat)
  | noRoom
  deriving DecidableEq, Repr

/-- Step 2 of R156, layer by layer: the header and its limits, the draw of its output, what unwrapping and verifying show. A
WRAP code of AUTO that finds no wrapper ends the list (R148), and a second tar is one layer too many (R157). -/
def runWraps (r : Request) (t : Stream) (p : Partition) :
    List Nat → Bool → List Byte → State → Unwrapped × State
  | [], _, bs, s => (.payload bs, s)
  | c :: cs, tar, bs, s =>
    if c = 0 then runWraps r t p cs tar bs s
    else
      match wrapKind c bs with
      | none => (.payload bs, s)
      | some k =>
        if k = .tar ∧ tar then (.fails 0x405, s)
        else
          match openLayer k t.dec.member bs with
          | .error d => (.fails d, s)
          | .ok l =>
            let (ok, a) := reqDrawBerths r t p [l.buffer k] s
            if !ok then (.noRoom, a)
            else
              match l.body with
              | some d => (.fails d, a)
              | none => runWraps r t p cs (tar || k == .tar) l.out a

/-- The crop window of a video sample, drawn before its decode from the frame index (R179). -/
def videoWindow (t : Stream) (d : Draw) (h : PayloadHdr) : Option Region :=
  match h with
  | .video h => some (cropWindow t.xf d h.w h.h)
  | _ => none

/-- Output region of R166, while `CFG_DEC.ROI_EN` is 1. -/
def roiOf (s : State) (window : Option Region) : Option Region :=
  if bitOf s.applied.cfgDec 0 then window.map fun (x, y, w, h) => evenRegion x y w h else none

/-- A frame whose reconstruct set passes FALLBACK_PCT percent of its units is decoded in full (R166, R167, R171).
(DEDUCED 48; assumption log) -/
def roiFallback (s : State) (p : DecodeParams) (roi : Option Region) (w0 : Nat) (h : PayloadHdr) (units : List FrameUnits) : Bool :=
  let limit := min 100 (fieldOf s.applied.cfgDec 8 7)
  match roi, h with
  | some region, .video h =>
    let fs := (decodedFrames h (clipFrames p w0 h)).zip units
    (reconstructSets region (clipNumbers p w0 h) fs fs.length []).any fun (u, set) =>
      limit == 0 || decide (limit * (u.cols * u.rows) < 100 * set.length)
  | _, _ => false

/-- Bytes of the horizontal-pass buffer (R198): the output width before quarter rotation, by the cropped height.
(DEDUCED 45; assumption log) -/
def passBuffer (t : Stream) (d : Draw) (window : Option Region) (f : Form) : Nat :=
  if t.xf.kernel = 0 then 0
  else
    let q := quarterOf t.xf d
    let w := if q = 1 ∨ q = 3 then t.xf.outH else t.xf.outW
    let win := window.getD (cropWindow t.xf d (f.field 4 4) (f.field 8 4))
    4 * w * win.2.2.2 * xfChannels t.xf f

/-! ### Engines of a stage (R24, R161, R195, R196, R201, R203, R264, R501) -/


/-- The times of the last 24 h, with the present one. -/
def within24h (now : Nat) (ts : List Nat) : List Nat := now :: ts.filter fun t => decide (now < t + dayNs)

/-- An engine leaves service; of a Transform Engine the event says so (R203). -/
def engineOut (n : Nat) (k : EngineKind) (i : Nat) (s : State) : State :=
  engineOutReason n k i (budgetsDue (s.onlyIf (k == .te) (setEv .xf 8)))

/-- A fault of an engine: CONTAINED; it resets, or after three faults within 24 h leaves service. The request it held. -/
def engineFault (n : Nat) (k : EngineKind) (i : Nat) (s : State) : Option ReqKey × State :=
  match (s.spd? n).bind fun d => (d.engines k)[i]? with
  | none => (none, s)
  | some e =>
    match e.state with
    | .out | .resetting => (none, s)
    | st =>
      let faults := within24h s.mono e.faults
      let third := decide (3 ≤ faults.length)
      let a := countContained (s.setEngine n k i fun e => { e with faults := faults, state := if third then .out else .resetting })
      (match st with | .held q => some q | _ => none, if third then engineOut n k i a else a)

/-- A restarted or divided stage takes an engine: the reserve may be used whatever the latest-start time (R24, R195). -/
def takeRestart (n : Nat) (k : EngineKind) (key : ReqKey) (i : Nat) (s : State) : State :=
  match s.spd? n with
  | none => s
  | some d =>
    (takeEngine n k key i s).onlyIf (decide ((d.freeEngines k).length ≤ reserveSize k)) (countReserve n)

/-- A Transform Engine that another request waits for: it takes the next one released, ahead of every other (R195). -/
def awaited (r : Request) (i : Nat) (s : State) : Bool :=
  s.run.requests.any fun q => q.key != r.key && q.spd == r.spd && q.phase == .waitXf && q.avoidTe != some i

/-- The lowest free engine of a request's home that a restart may take: not the one that faulted, and no Transform Engine
that another request waits for. -/
def freeOther (r : Request) (k : EngineKind) (avoid : Option Nat) (s : State) : Option Nat :=
  ((((s.spd? r.spd).map fun d => d.freeEngines k).getD []).filter fun i => avoid != some i && !(k == .te && awaited r i s)).head?

/-- An at-risk request of a batch out of strict mode divides its stage over a second free engine, where SPLIT_EN allows it
(R201, R264). (DESIGN CHOICE 34; assumption log) -/
def divideStage (key : ReqKey) (k : EngineKind) (splitEn : Bool) (s : State) : State :=
  match s.req? key, s.batch? key.stream key.batch with
  | some r, some b =>
    match freeOther r k (if k = .te then r.avoidTe else r.avoidPe) s with
    | none => s
    | some i =>
      s.onlyIf (r.atRisk && !b.strict && splitEn) fun u =>
        (takeRestart r.spd k key i u).modReq key fun q => if k = .te then { q with te2 := some i } else { q with pe2 := some i }
  | _, _ => s

/-- A stage has ended: its second engine is free again. -/
def freeSecond (r : Request) (k : EngineKind) (s : State) : State :=
  match (if k = .te then r.te2 else r.pe2) with
  | none => s
  | some i =>
    (s.setEngine r.spd k i fun e => if e.state = .held r.key then { e with state := .free } else e).modReq r.key fun q =>
      if k = .te then { q with te2 := none } else { q with pe2 := none }

/-- A pack stage without an engine takes a free one, if there is one (R261). -/
def packTakes (key : ReqKey) (s : State) : State :=
  match s.req? key with
  | none => s
  | some r =>
    match freeOther r .pe r.avoidPe s with
    | none => s
    | some i =>
      s.onlyIf (r.phase == .pack && !r.masked && r.pe.isNone) fun u =>
        (takeRestart r.spd .pe key i u).modReq key fun q => { q with pe := some i }

/-- The pack stage of a request begins. (DESIGN CHOICE 34; assumption log) -/
def enterPack (key : ReqKey) (s : State) : State :=
  divideStage key .pe (bitOf s.applied.cfgPack 0) (packTakes key (enterPhase key .pack .pack s))

/-- The transform stage starts, or starts again, from its input: on the engine the request still holds, on another free one,
or on the next that is released (R195). `left` is the engine that failed. (DEDUCED 42; assumption log) -/
def restartTransform (key : ReqKey) (left : Option Nat) (s : State) : State :=
  match s.req? key with
  | none => s
  | some r =>
    let avoid := left.orElse fun _ => r.avoidTe
    match [r.te, r.te2].find? fun e => e.isSome && e != left with
    | some e => s.modReq key fun q => { q with te := e, te2 := none, avoidTe := avoid, phase := .transform }
    | none =>
      match freeOther r .te avoid s with
      | some i =>
        (takeRestart r.spd .te key i s).modReq key fun q =>
          { q with te := some i, te2 := none, avoidTe := avoid, phase := .transform }
      | none => s.modReq key fun q => { q with te := none, te2 := none, avoidTe := avoid, phase := .waitXf }

/-- The transform stage of a request begins. An engine that faulted before the stage is replaced first (R196).
(DESIGN CHOICE 34; assumption log) -/
def enterTransform (key : ReqKey) (s : State) : State :=
  let a := startStage key .transform s
  if ((a.req? key).map (·.te.isSome)).getD false then
    divideStage key .te (bitOf a.applied.cfgXf 0) (a.modReq key fun q => { q with phase := .transform })
  else restartTransform key none a

/-- The transform stage begins: the channel check of R243 before the first pass, then the horizontal-pass buffer. -/
def startTransform (r : Request) (t : Stream) (p : Partition) (f : Form) (s : State) : State :=
  if xfChannels t.xf f ≠ t.pack.packC then packFail r 0x40C s
  else
    let (ok, a) := reqDrawBerths r t p [passBuffer t (slotDraw s.seed t p r.key) r.window f] s
    if ok then enterTransform r.key a else berthRetry r.key a

/-- What follows a decoded or tokenised form, however it was found: the transform with its checks and draws, the placement of
a text slot, or the pack of audio. -/
def takeForm (r : Request) (t : Stream) (p : Partition) (f : Form) (s : State) : State :=
  if t.cls ≤ 2 then startTransform r t p f s
  else if t.cls = 4 then s.modReq r.key fun q => { q with phase := .waitPlace }
  else enterPack r.key s

/-- A raw-cache hit has been read: it counts, and its pin is dropped (R128). -/
def rawReadDone (r : Request) (s : State) : State :=
  if r.pinned && r.form.isNone then
    (unpinReq r (countLookup r.spd false true s)).modReq r.key fun q => { q with pinned := false }
  else s

/-- The frame index that a sample's raw-cache entry keeps (R164). -/
def keptIndex (n dsSlot index : Nat) (remote : Bool) (s : State) : Option (List VideoFrame) :=
  (((s.spd? n).bind fun d => d.find false dsSlot index remote).map (·.frames)).filter (!·.isEmpty)

/-- A frame index built by a decode is kept with the sample's raw-cache entry. -/
def keepIndex (n dsSlot index : Nat) (remote : Bool) (hdr : PayloadHdr) (s : State) : State :=
  match hdr with
  | .video h =>
    s.modSpd n fun d =>
      { d with rawCache := d.rawCache.map fun e => if e.isFor dsSlot index remote then { e with frames := h.frames } else e }
  | _ => s

/-- The headers a decode works from: the frame index kept, where there is one. -/
def indexedHdr (kept : Option (List VideoFrame)) (q : Parsed) : Parsed :=
  match q.hdr, kept with
  | .video h, some fs => { q with hdr := .video { h with frames := fs } }
  | _, _ => q

/-- The decode of a payload that passed steps 1 to 6: step 7, step 8, the digest, the offer to the decoded cache. A video
clip depends on its position and is never offered (R126). (DESIGN CHOICE 5, DEDUCED 41; assumption log) -/
def finishDecode (r : Request) (t : Stream) (p : Partition) (window : Option Region) (q : Parsed) (bs : List Byte) (i : DecodeInput)
    (s : State) : State :=
  let roi := roiOf s window
  let w0 := (slotDraw s.seed t p r.key 1 0xF0 0).word 0
  let (ok, a) := reqDrawBerths r t p (decodeDraws t.dec roi q.hdr i.working) s
  if !ok then berthRetry r.key a
  else
    match payloadValues t.dec roi w0 q bs i with
    | .error d => decodeFail r d a
    | .ok vs =>
      let form := decodeForm t.dec roi w0 q.hdr i.content vs
      let digest := crc64 (form.desc ++ form.data)
      let b := (a.onlyIf (roiFallback s t.dec roi w0 q.hdr i.units) (setEv .dec 0x10)).modReq r.key fun q =>
        { q with form := some form, decDigest := digest, window := window }
      let c := if window.isSome then b else cacheAdmit r.spd true p.dsSlot r.sample r.remote form digest t.formParams b
      takeForm { r with window := window } t p form c

/-- Steps 3 to 8 of R156 on an unwrapped payload. -/
def decodePayload (r : Request) (t : Stream) (p : Partition) (bs : List Byte) (inp : DecodeInput) (s : State) : State :=
  match headPayload t.dec bs inp.moreFrames with
  | .error d => decodeFail r d s
  | .ok parsed =>
    let q := indexedHdr (keptIndex r.spd p.dsSlot r.sample r.remote s) parsed
    let a := keepIndex r.spd p.dsSlot r.sample r.remote q.hdr s
    let draw := slotDraw s.seed t p r.key
    let window := videoWindow t draw q.hdr
    match headLimits t.dec (roiOf s window) ((draw 1 0xF0 0).word 0) inp.working q.hdr with
    | some d => decodeFail r d a
    | none => finishDecode r t p window q bs inp a

/-- DECODE_DONE (R156). -/
def execDecodeDone (req : ReqKey) (inp : DecodeInput) (s : State) : Answer :=
  match s.req? req, s.stream? req.stream with
  | some r, some t =>
    match s.partFor t with
    | none => .next s
    | some p =>
      if r.phase ≠ .decode then .next s
      else
        let a := rawReadDone r s
        if r.encoded.isEmpty then .next (decodeFail r 0x201 a)
        else
          match runWraps r t p t.dec.wrap false r.encoded a with
          | (.fails d, b) => .next (decodeFail r d b)
          | (.noRoom, b) => .next (berthRetry req b)
          | (.payload bs, b) => .next (decodePayload r t p bs inp b)
  | _, _ => .next s

/-! ### Flash read (R104 to R106, R135) -/

/-- A codeword is decoded: by a hard-decision read of at most 240 errors, by the soft read, or, where parity stands, by a
rebuild. (DEDUCED 46; assumption log) -/
def cwDecoded (rebuild : Bool) (c : CodewordResult) : Bool :=
  match c.step with
  | none => false
  | some 3 => true
  | some 4 => rebuild
  | some _ => decide (c.errors ≤ 240)

/-- A read of a unit asks for a rewrite of its block (R105). -/
def cwWearing (c : CodewordResult) : Bool := c.step != some 1 || decide (168 < c.errors)

/-- A codeword took step 2, and step 3. -/
def cwRetried (c : CodewordResult) : Bool := c.step != some 1
def cwSoft (c : CodewordResult) : Bool := c.step != some 1 && c.step != some 2

/-- Reads at the package's retry levels that a unit took: those of the codeword that took the most, 7 at most (R104). -/
def retryReads (cs : List CodewordResult) : Nat :=
  (cs.map fun c => if cwSoft c then 7 else if cwRetried c then max 1 (min 7 c.retries) else 0).foldl max 0

/-- The counts of a unit's eight codewords, and the schedule of its block (R105, R119); each corrected codeword is a CORRECTED
error of the media die (R475). -/
def countUnit (pua : Nat) (cs : List CodewordResult) (s : State) : State :=
  let die := Media.dieOf pua
  let block := s.media.blockOf pua
  let rebuild := s.media.rebuildable pua
  let fixed := cs.filter fun c => cwDecoded rebuild c && decide (0 < c.errors)
  let a := s.each fixed fun _ t => countCorrected (mediaPerf die) t
  a.modMedia fun m =>
    { m with
      corrCw := m.corrCw + fixed.length
      uncorrCw := m.uncorrCw + (cs.filter fun c => !cwDecoded rebuild c).length
      retryReads := m.retryReads + flag (cs.any cwRetried)
      blocks := if cs.any cwWearing then
          m.blocks.map fun b => if b.die = die ∧ b.block = block then { b with rewrite := true } else b
        else m.blocks }

/-- `n` occurrences of an event. -/
def countPerfN (die code n : Nat) (s : State) : State := s.each (List.range n) fun _ u => countPerf die code u

/-- The media die's events of a unit's read (R488): the array reads, the retry and soft reads of R104, the parity rebuild,
and the codewords corrected and uncorrectable. (DEDUCED 30; assumption log) -/
def countUnitPerf (pua : Nat) (cs : List CodewordResult) (s : State) : State :=
  let m := mediaPerf (Media.dieOf pua)
  let soft := 2 * flag (cs.any cwSoft)
  let rebuilt := s.media.rebuildable pua && cs.any fun c => c.step == some 4
  let fixed := (cs.filter fun c => cwDecoded (s.media.rebuildable pua) c && decide (0 < c.errors)).length
  let lost := (cs.filter fun c => !cwDecoded (s.media.rebuildable pua) c).length
  countPerfN m 0x107 lost (countPerfN m 0x106 fixed (countPerfN m 0x105 (flag rebuilt)
    (countPerfN m 0x104 soft (countPerfN m 0x103 (retryReads cs)
      (countPerfN m (localChannel (Media.dieOf pua)) (1 + retryReads cs + soft) s)))))

/-- The units a request reads: those of its sample, or of its spilled form. -/
def readUnits (p : Partition) (r : Request) : List Nat :=
  match r.spill with
  | some e => e.luas
  | none => ((p.samples.find? (·.index == r.sample)).map (·.luas)).getD []

/-- Every unit of a read stands, and its codewords decode. -/
def readGood (luas : List Nat) (units : List (Nat × List CodewordResult)) (s : State) : Bool :=
  luas.all (fun l => !s.media.lostLuas.contains l && (s.media.puaOf l).isSome) &&
    units.all fun (l, cs) => cs.all (cwDecoded (((s.media.puaOf l).map s.media.rebuildable).getD false))

/-- FLASH_READ_DONE (R104): the codewords of every unit of the sample, eight to a unit, in order. A spilled form goes on
without a decode, and is not offered to the decoded cache again (R135); where its units fail it is dropped, and the sample
itself is read (R134). (DESIGN CHOICE 164, DESIGN CHOICE 205; assumption log) -/
def execFlashReadDone (req : ReqKey) (results : List CodewordResult) (s : State) : Answer :=
  match s.req? req, s.stream? req.stream with
  | some r, some t =>
    match s.partFor t with
    | none => .next s
    | some p =>
      let luas := readUnits p r
      if r.phase ≠ .flash ∨ (luas.any fun l => s.media.reloadSegments.contains (segmentOfLua l)) then .next s
      else
        let units := luas.zip (cutGroups 8 results)
        let a := s.each units fun (l, cs) u =>
          match u.media.puaOf l with | some pua => countUnit pua cs (countUnitPerf pua cs u) | none => u
        match r.spill with
        | some e =>
          if readGood luas units s then
            let b := a.modReq req fun q => { q with spill := none, form := some e.form, decDigest := e.digest }
            .next (takeForm { r with spill := none, form := some e.form, decDigest := e.digest } t p e.form b)
          else
            let b := (keepSpill r.spd (fun es => es.filter fun x => !x.isFor e.dsSlot e.index e.remote) a).modReq req fun q =>
              { q with spill := none }
            .next (if r.remote then askPeers req 1024 (b.modReq req fun q => { q with phase := .peerWait }) else b)
        | none =>
          if !readGood luas units s then .next (failSample req 0x0100 false a)
          else
            let bytes := p.sampleBytes r.sample
            let b := cacheAdmit r.spd false p.dsSlot r.sample false ⟨[], bytes⟩ 0 none a
            let c := b.modReq req fun q => { q with encoded := bytes }
            .next (enterPhase req (if t.cls = 4 then .tokenise else .decode) (if t.cls = 4 then .transform else .decode) c)
  | _, _ => .next s

/-- CACHE_READ_DONE (R44): the extents are copied, the hit counts and the pin is dropped (R128); the next stage starts. -/
def execCacheReadDone (req : ReqKey) (s : State) : Answer :=
  match s.req? req, s.stream? req.stream with
  | some r, some t =>
    match s.partFor t, r.form with
    | some p, some f =>
      if r.phase ≠ .cacheRead then .next s
      else .next (takeForm { r with pinned := false } t p f
        ((unpinReq r (countLookup r.spd true true s)).modReq req fun q => { q with pinned := false }))
    | _, _ => .next s
  | _, _ => .next s

/-! ### Engine faults (R161, R195, R196, R224, R261, R501) -/

/-- DECODE_ENGINE_FAULT (R161). (DEDUCED 42; assumption log) -/
def execDecodeEngineFault (spd : Fin 8) (engine : Fin 48) (s : State) : Answer :=
  if !s.clocked spd then .next s else
  let (held, a) := engineFault spd .de engine s
  let b := setEv .dec 8 a
  match held.bind b.req? with
  | none => .next b
  | some r =>
    if 1 ≤ r.deFaults then .next (decodeFail r 0x209 b)
    else .next ((backToReady r.key b).modReq r.key fun q => { q with deFaults := q.deFaults + 1, avoid := some engine })

/-- TXT_ENGINE_FAULT (R224). (DEDUCED 42; assumption log) -/
def execTxtEngineFault (spd : Fin 8) (engine : Fin 8) (s : State) : Answer :=
  if !s.clocked spd then .next s else
  let (held, a) := engineFault spd .ke engine s
  let b := setEv .txt 8 a
  match held.bind b.req? with
  | none => .next b
  | some r =>
    if 1 ≤ r.deFaults then .next (txtFail r 0x20A b)
    else .next ((backToReady r.key b).modReq r.key fun q => { q with deFaults := q.deFaults + 1, avoid := some engine })

/-- RESIDUE_MISMATCH (R195). -/
def execResidueMismatch (spd : Fin 8) (engine : Fin 32) (s : State) : Answer :=
  if !s.clocked spd then .next s else
  match (s.spd? spd).bind fun d => d.te[(engine : Nat)]? with
  | none => .next s
  | some e =>
    match e.state with
    | .held key =>
      let times := within24h s.mono e.mismatches
      let out := decide (max 1 (fieldOf s.applied.cfgXf 8 4) ≤ times.length)
      let a := countCorrected spd (countPerf spd 0x900 (setEv .xf 1 (s.modCnt fun c => { c with xfResCnt := c.xfResCnt + 1 })))
      let b := a.setEngine spd .te engine fun e => { e with mismatches := times, state := if out then .out else .free }
      let c := if out then engineOut spd .te engine b else b
      match c.req? key with
      | none => .next c
      | some r =>
        if r.phase ≠ .transform then .next c
        else if 1 ≤ r.resMism then .next (xfFail r 0x701 c)
        else .next (restartTransform key (some engine) (c.modReq key fun q => { q with resMism := q.resMism + 1 }))
    | _ => .next s

/-- XF_ENGINE_FAULT (R196): a stage under way starts again on another engine; before its stage, a request gives the engine up
and its stage takes another. (DEDUCED 42; assumption log) -/
def execXfEngineFault (spd : Fin 8) (engine : Fin 32) (s : State) : Answer :=
  if !s.clocked spd then .next s else
  let (held, a) := engineFault spd .te engine s
  let b := setEv .xf 4 a
  match held.bind b.req? with
  | none => .next b
  | some r =>
    if 1 ≤ r.xfFaults then .next (xfFail r 0x702 b)
    else
      let c := b.modReq r.key fun q => { q with xfFaults := q.xfFaults + 1 }
      .next (if r.phase = .transform then restartTransform r.key (some (engine : Nat)) c
        else c.modReq r.key fun q => { q with te := none, avoidTe := some engine })

/-- TRANSFORM_RESTART (R195): a waiting transform stage takes the engine that became free. -/
def execTransformRestart (req : ReqKey) (engine : Fin 32) (s : State) : Answer :=
  match s.req? req with
  | none => .next s
  | some r =>
    let free := ((s.spd? r.spd).map fun d => (d.freeEngines .te).contains (engine : Nat)).getD false
    if r.phase = .waitXf ∧ free ∧ r.avoidTe ≠ some (engine : Nat) then
      .next ((takeRestart r.spd .te req engine s).modReq req fun q => { q with te := some (engine : Nat), phase := .transform })
    else .next s

/-- PACK_ENGINE_FAULT (R261): the stage goes on from its input on the other engine it holds, on a free one, or on the next that
is free. (DEDUCED 42; assumption log) -/
def execPackEngineFault (spd : Fin 8) (engine : Fin 16) (s : State) : Answer :=
  if !s.clocked spd then .next s else
  let (held, a) := engineFault spd .pe engine s
  let b := setEv .pack 0x10 a
  match held.bind b.req? with
  | none => .next b
  | some r =>
    if 1 ≤ r.packFaults then .next (packFail r 0x703 b)
    else
      let other := ([r.pe, r.pe2].find? fun e => e.isSome && e != some (engine : Nat)).getD none
      let c := b.modReq r.key fun q => { q with pe := other, pe2 := none, packFaults := q.packFaults + 1, avoidPe := some engine }
      match other, freeOther r .pe (some engine) b with
      | none, some i => .next ((takeRestart r.spd .pe r.key i c).modReq r.key fun q => { q with pe := some i })
      | _, _ => .next c

/-- ENGINE_RESET_DONE (R501). A pack stage that waits takes a Pack Engine that came back. -/
def execEngineResetDone (spd : Fin 8) (kind : EngineKind) (engine : Nat) (passed : Bool) (s : State) : Answer :=
  if !s.clocked spd then .next s else
  match (s.spd? spd).bind fun d => (d.engines kind)[engine]? with
  | none => .next s
  | some e =>
    if e.state ≠ .resetting then .next s
    else if passed then
      let a := s.setEngine spd kind engine fun e => { e with state := .free }
      .next (a.each (a.run.requests.filter fun r => kind == .pe && r.spd == (spd : Nat)) fun r => packTakes r.key)
    else .next (engineOut spd kind engine (s.setEngine spd kind engine fun e => { e with state := .out }))

/-- A unit of an SPD that has no clock computes nothing (R427). -/
def unitGated (s : State) : CheckUnit → Bool
  | .spd n _ => !s.clocked n
  | .window _ | .media .. => false

/-- CVU_PARITY_ERROR (R426): a window unit loses its calculation; a unit of an SPD or media die is a CONTAINED error of that
die, and the stage it served starts again from its input. -/
def execCvuParityError (unit : CheckUnit) (req : Option ReqKey) (s : State) : Answer :=
  match unit with
  | .window n => .next (s.modCvu n fun c => { c with active := false, evt := c.evt ||| 4 })
  | .spd .. | .media .. =>
    if unitGated s unit then .next s else
    let a := countContained s
    .next (match req with
      | none => a
      | some k => a.modReq k fun q => { q with chunks := 0, tok := .start })

/-! ### Transform (R176, R200) -/

/-- TRANSFORM_DONE (R176). -/
def execTransformDone (req : ReqKey) (s : State) : Answer :=
  match s.req? req, s.stream? req.stream with
  | some r, some t =>
    match s.partFor t, r.form with
    | some p, some f =>
      if r.phase ≠ .transform then .next s
      else
        let out := transformForm t.xf (slotDraw s.seed t p req) r.window f
        .next (enterPack req ((freeSecond r .te s).modReq req fun q =>
          { q with xfForm := some out, xfDigest := crc64 (out.desc ++ out.data) }))
    | _, _ => .next s
  | _, _ => .next s

/-! ### Text (R211, R218 to R226) -/

/-- Chunks of a stored text sample. -/
def chunkCount (r : Request) : Nat := (r.encoded.length + 32767) / 32768

/-- The text tables of an SPD are loading again: its Tokeniser Engines wait (R123). -/
def textWaits (n : Nat) (s : State) : Bool := ((s.spd? n).map (·.textReload)).getD false

/-- TOKENISE_CHUNK (R211): the next 32 KiB pass through the context. -/
def execTokeniseChunk (req : ReqKey) (s : State) : Answer :=
  match s.req? req, s.stream? req.stream with
  | some r, some t =>
    if r.phase = .tokenise ∧ r.chunks < chunkCount r ∧ !textWaits r.spd s then
      let chunk := (r.encoded.drop (32768 * r.chunks)).take 32768
      let ctx := nextContext s t.txt r.tok chunk
      .next (s.modReq req fun q => { q with chunks := q.chunks + 1, tok := ctx })
    else .next s
  | _, _ => .next s

/-- VOCAB_LINE_FILL (R218): the line that missed is held; a full cache drops its oldest line.
(DEDUCED 47; assumption log) -/
def execVocabLineFill (spd : Fin 8) (engine : Fin 8) (line : Nat) (s : State) : Answer :=
  if !s.clocked spd then .next s else
  match s.spd? spd with
  | none => .next s
  | some d =>
    if d.vocab.contains ((engine : Nat), line) then .next s
    else .next ((s.modCnt fun c => { c with txtMiss := c.txtMiss + 1 }).modSpd spd fun d =>
      { d with vocab := holdLine engine line d.vocab })

/-- TOKENISE_DONE (R220, R222). -/
def execTokeniseDone (req : ReqKey) (s : State) : Answer :=
  match s.req? req, s.stream? req.stream with
  | some r, some t =>
    match s.partFor t with
    | none => .next s
    | some p =>
      if r.phase ≠ .tokenise ∨ r.chunks < chunkCount r ∨ textWaits r.spd s then .next s
      else
        let (us, replaced) := r.tok.finish t.txt
        let a := (rawReadDone r s).onlyIf (decide (0 < replaced)) (setEv .txt 1)
        match tokenise s t.txt r.encoded us replaced with
        | .error d => .next (txtFail r d a)
        | .ok run =>
          let (ok, b) := reqDrawBerths r t p [4 * run.normBytes + 32] a
          if !ok then .next (berthRetry req b)
          else
            let form := tokenForm t.txt r.encoded.length run
            let digest := crc64 (form.desc ++ form.data)
            let c := b.modReq req fun q => { q with form := some form, decDigest := digest }
            .next (takeForm r t p form (cacheAdmit r.spd true p.dsSlot r.sample r.remote form digest none c))
  | _, _ => .next s

/-- The segment of a request's slot, and whether tokens were dropped; a masked slot places none, but in ROW mode a full pad row
(R225). (DEDUCED 173; assumption log) -/
def reqSegment (t : Stream) (r : Request) : List Nat × Bool :=
  match r.form with
  | some f => if r.masked then ([], false) else segmentOf t.txt (formTokens f)
  | none => ([], false)

/-- A masked text row (R81): the pad token in every place, segment identifier 0 and position 0. -/
def padRow (p : TextParams) : List (List Nat) :=
  [List.replicate p.rowLen p.pad, List.replicate p.rowLen 0] ++ if p.posOut = 1 then [List.replicate p.rowLen 0] else []

/-- TEXT_PLACEMENT (R226): every lower slot is placed. -/
def execTextPlacement (req : ReqKey) (s : State) : Answer :=
  match s.req? req, s.stream? req.stream, s.batch? req.stream req.batch with
  | some r, some t, some b =>
    if r.phase ≠ .waitPlace ∨ b.placed.length ≠ req.slot then .next s
    else
      let (start, after) := placeSegment t.txt req.slot (reqSegment t r).1.length b.point
      let a := s.modBatch req.stream req.batch fun b =>
        { b with placed := b.placed ++ [(req.slot, start.1, start.2, (reqSegment t r).1.length)], point := after }
      .next (enterPack req (a.modReq req fun q => { q with firstRow := start.1, firstPlace := start.2 }))
  | _, _, _ => .next s

/-! ### Pack (R235 to R260) -/

/-- What a slot's pack gives: writes by lane number, its entry, elements saturated, and a failure detail. -/
structure SlotOut where
  /-- lane choice (slot or row), offset in the region, bytes -/
  writes : List (Nat × Nat × List Byte)
  entry : Entry
  sat : Nat
  detail : Option Nat
  deriving DecidableEq, Repr

/-- The index a slot entry gives (R69, R257). -/
def entrySample (t : Stream) (p : Partition) (r : Request) : Nat :=
  if r.masked then noSample
  else if t.order = 2 ∧ !r.remote then p.global r.sample
  else r.sample

/-- The elements of an image or video slot (R238, R241). -/
def xfValues (t : Stream) (f : Form) : List PackVal :=
  (layoutOrder (t.pack.layout == 1) t.xf.outW t.xf.outH t.pack.packC (f.field 12 2) f.elems.toArray).map fun v =>
    PackVal.ofInt v (t.pack.packExp - 16)

/-- An entry with the fields that every class shares. -/
def baseEntry (t : Stream) (p : Partition) (r : Request) (events : Nat) (digest : Dword) : Entry where
  flags := slotFlags r
  events := events
  sample := entrySample t p r
  firstRow := 0
  firstPlace := 0
  count := 0
  start := 0
  decDigest := if r.masked then 0 else r.decDigest
  xfDigest := if r.masked then 0 else r.xfDigest
  packDigest := digest

/-- A DATA slot (R240, R242, R243). -/
def packData (seed : Dword) (t : Stream) (p : Partition) (r : Request) (f : TensorFmt) : SlotOut :=
  let slot := r.key.slot
  let (e, l) := reqPlace t p r.key
  let word := srWord seed (p.global l) e
  let finish (pk : Packed) (events count start : Nat) : SlotOut :=
    let ev := events + flag (decide (0 < pk.sat))
    ⟨(t.dataWrites slot pk).map fun (o, b) => (slot, o, b),
      { baseEntry t p r ev (crc64 (pk.elems ++ pk.scales)) with count := count, start := start }, pk.sat, none⟩
  if r.masked then finish (packMasked f t.dataElems) 0 0 0
  else if t.cls = 3 then
    match r.form with
    | none => finish (packMasked f t.dataElems) 0 0 0
    | some form =>
      let frames := form.field 4 4
      let start := audioStart t.pack ((slotDraw seed t p r.key 1 3 0).word 0) frames
      let (vs, ev) := audioValues t.pack start form
      let out := finish (packValues f word vs) (ev + specialEvents vs) (min frames t.pack.audioLen) start
      if form.field 2 1 ≠ t.pack.audioCh ∨ (t.pack.audioRate ≠ 0 ∧ form.field 8 4 ≠ t.pack.audioRate) then
        { out with detail := some 0x40C }
      else out
  else
    match r.xfForm with
    | none => finish (packMasked f t.dataElems) 0 0 0
    | some form => finish (packValues f word (xfValues t form)) 0 0 0

/-- A text slot (R225 to R229, R258). A masked row holds no token: its count is 0, and its digest is taken over its pad places
(R81). -/
def packText (t : Stream) (p : Partition) (b : Batch) (r : Request) : SlotOut :=
  let slot := r.key.slot
  let (seg, cut) := reqSegment t r
  let len := t.txt.rowLen
  let start := (r.firstRow, r.firstPlace)
  let lower := (b.placed.filter fun x => decide (x.1 < slot)).map (·.2)
  let row := t.txt.packMode == 0
  let vals := if r.masked && row then padRow t.txt else segmentValues t.txt lower start seg
  let total := t.txt.rows * len
  let before := match lower.getLast? with
    | some (row, place, n) => row * len + place + n
    | none => 0
  let first := r.firstRow * len + r.firstPlace
  let last := slot + 1 == t.b
  let gap := if row then first else min before first
  let stop := if row then first + len else if last then total else first + seg.length
  let events := 8 * flag cut
  ⟨t.textWrites vals gap first stop last,
    { baseEntry t p r events (t.textDigest vals) with
      firstRow := r.firstRow, firstPlace := r.firstPlace, count := seg.length, xfDigest := 0 }, 0, none⟩

def packSlot (seed : Dword) (t : Stream) (p : Partition) (b : Batch) (r : Request) : SlotOut :=
  if t.cls = 4 then packText t p b r
  else packData seed t p r (t.pack.tensors.headD ⟨0, 0, 0, 0⟩)

/-- The members of a batch that still take writes: those without a token for it (R286). -/
def openReceivers (t : Stream) (p : Partition) (b : Batch) (s : State) : List (Nat × Member) :=
  match t.groupFor s.seed p b.num with
  | none => []
  | some g => (g.receivers b.num).filter fun (i, _) => !b.tokens.contains i

/-- The start of a batch's slot at a member (R284). -/
def slotAddr (t : Stream) (p : Partition) (m : Member) (num : Nat) (s : State) : Nat :=
  match t.groupFor s.seed p num with
  | none => m.slotBase
  | some g => m.slotBase + g.slotOf m num * m.stride

/-- Lane `i` mod L of the lanes in service (R284). -/
def laneOf (m : Member) (i : Nat) (s : State) : Option Nat :=
  let ls := s.lanesUp m
  ls[i % max 1 ls.length]?

/-- One write into the slot of a batch at a member. -/
def writeSlot (t : Stream) (p : Partition) (m : Member) (num lane offset : Nat) (owner : WrFor) (bytes : List Byte)
    (budget : Nat) (s : State) : State :=
  match laneOf m lane s with
  | none => s
  | some c => postWrite c owner (slotAddr t p m num s + offset) m.slotRkey bytes none budget s

/-- The slot's writes and its trailer entry go to every member (R255, R284). -/
def sendSlot (t : Stream) (p : Partition) (b : Batch) (slot : Nat) (o : SlotOut) (budget : Nat) (s : State) :
    State :=
  s.each (openReceivers t p b s) fun (_, m) u =>
    writeSlot t p m b.num slot (t.trailer + 64 + 48 * slot) (.entry t.num b.num slot) o.entry.bytes budget
      (u.each o.writes fun (lane, off, bytes) v => writeSlot t p m b.num lane off (.data t.num b.num slot) bytes budget v)

/-- LATE_SUB decisions are reported before the entry is written (R29). -/
def reportDecision (r : Request) (s : State) : State :=
  if r.lateSub then
    s.modBatch r.key.stream r.key.batch fun b =>
      if b.decisions.any (·.slot == r.key.slot) then b
      else { b with decisions := b.decisions ++ [⟨r.key.slot, r.tryIdx.getD 0, r.cause, r.sub, r.masked⟩] }
  else s

/-- Events of a packed slot (R234, R266). -/
def packEvents (cls : Nat) (o : SlotOut) (s : State) : State :=
  let ev := o.entry.events
  let bits := natBits ev 0 3 + 0x20 * natBits ev 3 1
  let a := (setEv .pack (BitVec.ofNat 32 bits) s).onlyIf (cls == 4 && natBits ev 3 1 == 1) (setEv .txt 0x10)
  a.modCnt fun c => { c with packSatCnt := c.packSatCnt + BitVec.ofNat 32 o.sat }

/-- PACK_DONE (R255): the packed bytes and the entry go to egress, and the request is complete. A masked slot, which holds
no engine, is written once its batch may be (R81, R285); a stage whose engine faulted and that found no other takes one now
and starts again (R261). -/
def execPackDone (req : ReqKey) (s : State) : Answer :=
  match s.req? req, s.stream? req.stream, s.batch? req.stream req.batch with
  | some r, some t, some b0 =>
    match s.partFor t with
    | none => .next s
    | some p =>
      if r.phase = .pack ∧ !r.masked ∧ r.pe.isNone then .next (packTakes req s)
      else if r.phase ≠ .pack ∨ (r.masked ∧ !(slotsFree t p req.batch s && timeOpen b0 s)) then .next s
      else
        let o := packSlot s.seed t p b0 r
        match o.detail with
        | some d => .next (packFail r d s)
        | none =>
          let a := reportDecision r (packEvents t.cls o (startStage req .egress (beginBatch req s)))
          let c := sendSlot t p b0 req.slot o (r.budgets.getD 6 0) (a.modBatch req.stream req.batch fun b =>
            { b with entries := b.entries ++ [(req.slot, o.entry)] })
          .next (countFixed r.spd 3 (dropReq req (releaseAll r c)))
  | _, _, _ => .next s

end Sys2Proof.Machine
end

