-- ==== Sys2Proof/Machine/Delivery.lean ====
section
/-! DEFINITION. Delivery of batches (R255, R283 to R291, R411): trailer headers, release tokens, returns, lane and
member loss, the end of a stream. -/

namespace Sys2Proof.Machine

/-! ### Batches that end -/

/-- A batch leaves the device, with every request of it. -/
def dropBatch (stream num : Nat) (s : State) : State :=
  let mine (k : ReqKey) : Bool := k.stream == stream && k.batch == num
  let a := s.each (s.run.requests.filter fun r => mine r.key) fun r u => dropReq r.key (unpinReq r (releaseAll r u))
  a.modRun fun x => { x with batches := x.batches.filter fun b => !(b.stream == stream && b.num == num) }

/-- The last batch of a stream has left: STREAM_ENDED (R68, R364, R366), also where the stream was stopped meanwhile. -/
def endIfDone (stream : Nat) (s : State) : State :=
  match s.stream? stream with
  | none => s
  | some t =>
    if t.state ≠ .ended ∧ (s.nextBatch t).isNone ∧ !(s.run.batches.any (·.stream == stream)) then
      dueKeys t.dsSlot (fun _ => true) (postEvent 6 false ([BitVec.ofNat 8 stream, 0] ++ natBytes 2 0x0308)
        (s.modStream stream fun u => { u with state := .ended, issued := none }))
    else s

/-- A batch whose every member in service holds a token, or that no member in service receives, is released (R75,
R291). -/
def settleBatch (stream num : Nat) (s : State) : State :=
  match s.stream? stream, s.batch? stream num with
  | some t, some b =>
    match s.partFor t with
    | none => s
    | some p => if (openReceivers t p b s).isEmpty then endIfDone stream (dropBatch stream num s) else s
  | _, _ => s

/-! ### The trailer header (R255, R411) -/

def WrFor.dataOf (stream num : Nat) : WrFor → Bool
  | .data t b _ => t == stream && b == num
  | .entry t b _ => t == stream && b == num
  | _ => false

def WrFor.headerOf (stream num : Nat) : WrFor → Bool
  | .header t b => t == stream && b == num
  | _ => false

/-- Connections with tensor or entry writes of a batch unacknowledged, each with the count that completes them. -/
def writesOut (stream num : Nat) (s : State) : List (Nat × Nat) :=
  s.egr.conns.filterMap fun c =>
    let reqs := c.queue.filter (·.request)
    match reqs.reverse.findIdx? fun w => w.owner.dataOf stream num with
    | some k => some (c.idx, (c.count + (reqs.length - k)) % 2 ^ 32)
    | none => none

/-- The header of a batch goes to the lowest lane of each member that has none yet. While one connection still holds
writes of the batch, the header waits for its count (R280); while more do, it does not go.
(DEDUCED 55; assumption log) -/
def postHeader (t : Stream) (p : Partition) (b : Batch) (s : State) : State :=
  let waits := writesOut t.num b.num s
  if 2 ≤ waits.length then s
  else
    let bytes := trailerHeader t (t.batchEpoch p b.num) b
    let a := s.each ((openReceivers t p b s).filter fun x => !b.headers.contains x.1) fun (i, m) u =>
      match (u.lanesUp m).head? with
      | none => u
      | some c =>
        (postWrite c (.header t.num b.num) (slotAddr t p m b.num u + t.trailer) m.slotRkey bytes waits.head? 0 u).modBatch
          t.num b.num fun b => { b with headers := i :: b.headers }
    countFixed b.home 5 (a.modBatch t.num b.num fun b => { b with headerSent := true, headerHeld := false })

/-- H of R411: the header's class has 3,000 ns of open time in [H, D). (DEDUCED 55; assumption log) -/
def holdTime (t : Stream) (b : Batch) (s : State) : Option Int :=
  (s.deadlineAt b.dlStep b.dlPhase).map fun d =>
    match s.headerLane t b.num with
    | some c => latestOpen s c.onLink c.cls d 3000
    | none => d - 3000

/-- TRAILER_HEADER_SEND (R20, R255): every slot has its entry, and the batch home serves. A TIMELOCK batch is held until H;
before the first accepted start there is no H, and it goes at once. (DEDUCED 55; assumption log) -/
def execTrailerHeaderSend (stream : Fin 64) (batch : Nat) (s : State) : Answer :=
  match s.stream? stream, s.batch? stream batch with
  | some t, some b =>
    match s.partFor t with
    | none => .next s
    | some p =>
      if b.headerSent ∨ b.entries.length < t.b ∨ !s.serving b.home then .next s
      else
        match (if b.timelock then holdTime t b s else none) with
        | some h =>
          if (s.now : Int) < h then .next (s.modBatch stream batch fun b => { b with headerHeld := true })
          else .next (postHeader t p b s)
        | none => .next (postHeader t p b s)
  | _, _ => .next s

/-- TIMELOCK_HOLD_EXPIRY (R411). -/
def execTimelockHoldExpiry (stream : Fin 64) (batch : Nat) (s : State) : Answer :=
  match s.stream? stream, s.batch? stream batch with
  | some t, some b =>
    match s.partFor t, holdTime t b s with
    | some p, some h =>
      if b.headerHeld ∧ h ≤ s.now ∧ s.serving b.home then
        .next (postHeader t p b (s.modBatch stream batch fun b => { b with headerHeld := false }))
      else .next s
    | _, _ => .next s
  | _, _ => .next s

/-- The last header of a batch is acknowledged: after D the deadline is missed (R48). -/
def headerAck (stream num : Nat) (s : State) : State :=
  match s.batch? stream num with
  | none => s
  | some b =>
    if !b.headerSent || b.headerAcked || s.anyWr (·.headerOf stream num) then s
    else
      let late := ((s.deadlineAt b.dlStep b.dlPhase).map fun d => decide (d < (s.now : Int))).getD false
      let a := s.modBatch stream num fun b => { b with headerAcked := true, missed := b.missed || late }
      if late && !b.missed then setEv .tide 0x400 (a.modTide fun d => { d with missCnt := d.missCnt + 1 }) else a

/-- What the completion of a work request of the device means. -/
def wrDone (w : Wr) (s : State) : State :=
  match w.owner with
  | .header t b => headerAck t b s
  | _ => s

/-! ### Release tokens (R286, R287) -/

/-- The partition served at a rank group in an epoch (R287). -/
def partOfGroup (seed : Dword) (t : Stream) (p : Partition) (group e : Nat) : Nat :=
  if t.order = 2 then group
  else
    let rho := rankGroup seed t p e + p.parts - p.p
    (group + p.parts - rho % p.parts) % p.parts

/-- The 32 bytes of a release token. -/
def tokenBytes (t : Stream) (p : Partition) (g : Group) (m : Member) (num : Nat) (s : State) : List Byte :=
  let last := t.batches p - 1
  let next := num + g.turn m
  let valid := decide (next ≤ last)
  let node := t.partTable.getD (partOfGroup s.seed t p g.group (t.batchEpoch p next)) 0
  let head := natBytes 4 0x4E4B5451 ++ natBytes 1 1 ++ natBytes 1 (flag valid + 2 * flag (num == last)) ++
    natBytes 1 t.num ++ natBytes 1 (g.slotOf m num) ++ natBytes 8 num ++ natBytes 8 (if valid then next else 0) ++
    natBytes 2 (if valid then node else 0) ++ natBytes 2 0
  head ++ leBytes 4 (crc32c head)

/-- Every write into the member's slot is complete, its header among them, and no lane of it is quiet.
(DEDUCED 56; assumption log) -/
def tokenReady (t : Stream) (b : Batch) (i : Nat) (m : Member) (s : State) : Bool :=
  b.headers.contains i &&
    m.lanes.all fun l =>
      match s.conn? l with
      | none => true
      | some c => !c.quiet && !(c.queue.any fun w => w.owner.dataOf t.num b.num || w.owner.headerOf t.num b.num)

/-- RELEASE_TOKEN_SEND (R20, R286): the batch home issues it. (DEDUCED 56; assumption log) -/
def execReleaseTokenSend (stream : Fin 64) (batch : Nat) (member : Nat) (s : State) : Answer :=
  match s.stream? stream, s.batch? stream batch with
  | some t, some b =>
    match s.partFor t with
    | none => .next s
    | some p =>
      match t.groupFor s.seed p batch, (openReceivers t p b s).find? (·.1 == member) with
      | some g, some (_, m) =>
        match (s.lanesUp m).head? with
        | none => .next s
        | some c =>
          if !b.headerSent || !tokenReady t b member m s || !s.serving b.home then .next s
          else
            let k := g.slotOf m batch
            let a := postWrite c (.token stream batch member) (m.tokenBase + 32 * k) m.tokenRkey (tokenBytes t p g m batch s)
              none 0 s
            let a := a.modStream stream fun u =>
              { u with groups := u.groups.map fun h =>
                  if h.group = g.group then
                    { h with members := updAt h.members member fun m =>
                        { m with returns := m.returns.filter (· != (k, batch)) } }
                  else h }
            let die := 8 + ((s.conn? c).map (·.onLink)).getD 0 / 8
            .next (settleBatch stream batch (countPerf die 0x207 (a.modBatch stream batch fun b =>
              { b with tokens := member :: b.tokens })))
      | _, _ => .next s
  | _, _ => .next s

/-! ### Returns (R288) -/

/-- What a return does to the member record it names. -/
inductive ReturnFate where
  | held (group member : Nat) (entry : Nat × Nat)
  | ignored
  | rejected
  deriving DecidableEq, Repr

/-- A return for batch `num` and slot `k` against one member that the lane serves. The slot is free already where it is a first
use, where a return stands, or where the batch has had its token (R285). -/
def judgeReturn (t : Stream) (p : Partition) (g : Group) (i : Nat) (m : Member) (k num : Nat) (s : State) : ReturnFate :=
  let before := (s.batch? t.num (num - g.turn m)).any fun b => decide (g.turn m ≤ num) && !b.tokens.contains i
  let free := decide (num < t.b0 + g.turn m) || m.returns.contains (k, num) ||
    (decide (num < t.next) && ((s.batch? t.num num).all fun b => b.tokens.contains i))
  if num < t.b0 ∨ t.batches p ≤ num ∨ g.slotOf m num ≠ k ∨ before then .rejected
  else if free then .ignored
  else if m.returns.any (·.1 == k) then .rejected
  else .held g.group i (k, num)

/-- A return SEND of 32 bytes on a connection. -/
def returnFate (conn : Nat) (bs : List Byte) (s : State) : ReturnFate :=
  let num := byteField bs 8 8
  let ok := decide (bs.length = 32 ∧ byteField bs 0 4 = 0x4E545251 ∧ byteField bs 4 1 = 1 ∧
    byteField bs 28 4 = (crc32c (bs.take 28)).toNat ∧ byteField bs 16 4 = s.applied.tideJobId.toNat)
  match ok, s.stream? (byteField bs 6 1) with
  | true, some t =>
    match s.partFor t with
    | none => .rejected
    | some p =>
      match t.groupFor s.seed p num with
      | none => .rejected
      | some g =>
        match (g.receivers num).find? fun x => x.2.lanes.contains conn with
        | none => .rejected
        | some (i, m) => judgeReturn t p g i m (byteField bs 7 1) num s
  | _, _ => .rejected

/-- A return is accepted or held, ignored, or discarded with RETURN_REJECTED. -/
def takeReturn (conn : Nat) (bs : List Byte) (s : State) : State :=
  match returnFate conn bs s with
  | .rejected => setEv .egr 0x100 s
  | .ignored => s
  | .held group i e =>
    countPerf (8 + ((s.conn? conn).map (·.onLink)).getD 0 / 8) 0x208 (s.modStream (byteField bs 6 1) fun u =>
      { u with groups := u.groups.map fun h =>
          if h.group = group then
            { h with members := updAt h.members i fun m => { m with returns := m.returns ++ [e] } }
          else h })

/-! ### Lanes and members lost (R274, R291) -/

/-- QUIET_PERIOD_END (R274). -/
def execQuietPeriodEnd (conn : Nat) (s : State) : Answer :=
  match s.conn? conn with
  | none => .next s
  | some c =>
    if c.quiet ∧ c.quietAt + s.applied.egrQuiet.toNat * 1000 ≤ s.mono then
      .next (s.modConn conn fun c => { c with quiet := false })
    else .next s

/-- A member without a lane in service is lost: the batches that were left to it are released (R291).
(DEDUCED 56; assumption log) -/
def loseMember (stream group i : Nat) (s : State) : State :=
  let a := s.modStream stream fun u =>
    { u with groups := u.groups.map fun h =>
        if h.group = group then { h with members := updAt h.members i fun m => { m with lost := true } } else h }
  let b := postEvent 2 false ([BitVec.ofNat 8 stream, 0] ++ natBytes 2 group ++ natBytes 1 i) (setEv .egr 0x80 a)
  endIfDone stream (b.each (s.run.batches.filter (·.stream == stream)) fun x u =>
    headerAck stream x.num (settleBatch stream x.num u))

/-- Where a work request of a stream writes: into the slots or the tokens of a member. -/
def Member.takes (m : Member) (w : Wr) : Bool :=
  (decide (m.slotBase ≤ w.addr) && decide (w.addr < m.slotBase + m.d * m.stride)) ||
    (decide (m.tokenBase ≤ w.addr) && decide (w.addr < m.tokenBase + 32 * m.d))

/-- The batch a work request belongs to. -/
def WrFor.batch? : WrFor → Option (Nat × Nat)
  | .data t b _ => some (t, b)
  | .entry t b _ => some (t, b)
  | .header t b => some (t, b)
  | .token t b _ => some (t, b)
  | _ => none

def WrFor.stream? : WrFor → Option Nat
  | .data t _ _ => some t
  | .entry t _ _ => some t
  | .header t _ => some t
  | .token t _ _ => some t
  | _ => none

/-- A header that cannot go is owed again to a member. -/
def headerOwed (stream num i : Nat) (s : State) : State :=
  s.modBatch stream num fun b => { b with headers := b.headers.filter (· != i), headerSent := false }

/-- One unacknowledged write of a lost lane is issued again on the member's lowest lane in service; a header is sent
again once every write is acknowledged. (DEDUCED 61; assumption log) -/
def reissue (i : Nat) (lane : Nat) (w : Wr) (s : State) : State :=
  match w.owner with
  | .header t b => headerOwed t b i s
  | o => postWrite lane o w.addr w.rkey w.bytes none w.budget s

/-- The member of a batch's receivers that a lane serves. -/
def laneMember (stream num lane : Nat) (s : State) : Option Nat :=
  match s.stream? stream with
  | none => none
  | some t =>
    match s.partFor t with
    | none => none
    | some p =>
      (t.groupFor s.seed p num).bind fun g => ((g.receivers num).find? fun x => x.2.lanes.contains lane).map (·.1)

/-- A work request that waits for a connection in error: of a batch, it is handled under R291. -/
def Wr.waitsFor (i : Nat) (w : Wr) : Bool := (w.wait.map (·.1)) == some i

/-- Every wait on a connection fails (R280, R295): the headers that waited are owed again.
(DEDUCED 59, DEDUCED 61; assumption log) -/
def failWaits (lost : Nat) (s : State) : State :=
  s.each s.egr.conns fun c u =>
    let bad := c.queue.filter (·.waitsFor lost)
    if bad.isEmpty then u
    else
      (u.modConn c.idx fun c => { c with queue := c.queue.filter fun w => !w.waitsFor lost }).each bad fun w v =>
        match w.owner with
        | .header t b =>
          match laneMember t b c.idx v with
          | some i => headerOwed t b i v
          | none => v
        | _ => v

/-- The connections whose requests wait for one in error and belong to no batch: they enter error with it (R295, R298). -/
def waitersOn (lost : Nat) (s : State) : List Nat :=
  (s.egr.conns.filter fun c => c.error.isNone && c.idx != lost &&
    c.queue.any fun w => w.waitsFor lost && w.owner.batch?.isNone).map (·.idx)

/-- A DELIVERY lane has left service with these work requests unacknowledged. -/
def laneLost (lane : Nat) (ws : List Wr) (s : State) : State :=
  s.each s.run.streams fun t u =>
    u.each t.groups fun g v =>
      v.each (g.members.zipIdx) fun (m, i) x =>
        if m.lost || !m.lanes.contains lane then x
        else
          match (x.lanesUp m).head? with
          | none => loseMember t.num g.group i x
          | some c =>
            openQuiet c (x.each
              (ws.filter fun w => w.owner.stream? == some t.num && m.takes w) fun w y => reissue i c w y)

/-- Members of a stream that have no lane in service are lost (R291). -/
def loseDead (stream : Nat) (s : State) : State :=
  match s.stream? stream with
  | none => s
  | some t =>
    s.each t.groups fun g u =>
      u.each g.members.zipIdx fun (m, i) v =>
        if !m.lost && (v.lanesUp m).isEmpty then loseMember t.num g.group i v else v

end Sys2Proof.Machine
end

