-- ==== Sys2Proof/Machine/Media.lean ====
section
/-! DEFINITION. The media manager at work (chapter 4): programs and erases, retirement and failed dies, the write buffer and
durability, the journal and checkpoints, mount and recovery, and the health log. -/

namespace Sys2Proof.Machine

/-! ### Retirement and exhaustion (R105, R111, R112) -/

/-- Native layout, mounted: programs and erases go on. -/
def Media.writable (m : Media) : Bool := m.mounted && !m.qsLayout

/-- The media becomes exhausted: writes not yet completed fail (R112). -/
def exhaust (s : State) : State :=
  if s.media.exhausted then s
  else
    let a := raiseReason 0x12 100 0 (setMedia (fun m => { m with exhausted := true }) s)
    a.each (a.host.cmds.filter fun c => match c.run with | .writeHeld .. => true | _ => false) fun c t =>
      finish c 0x0404 [] t

/-- After a retirement on a die that had `left` spares: the reasons, and exhaustion (R111). -/
def afterRetirement (left : Nat) (s : State) : State :=
  let a := mediaReasons s
  if a.media.spares.sum = 0 ∨ (left = 0 ∧ a.media.full) then exhaust a else a

/-- A block is retired: its valid units are copied out, and a spare of its die takes its place. -/
def retire (die block : Nat) (s : State) : State :=
  let left := s.media.spares.getD die 0
  afterRetirement left (s.modMedia fun m =>
    (Media.setBlock die block (fun b => { b with state := .retired, drain := some .retire, rewrite := false })
      { m with retired := m.retired + 1, spares := m.spares.set die (left - 1) }).log
        (.block die block (((m.block? die block).map (·.stream)).getD 0) 3 m.seq))

def hourNs : Nat := 3600000000000

/-- Distinct blocks of a die whose program or erase failed within one hour (R102). -/
def Media.failsOf (m : Media) (die now : Nat) : Nat :=
  ((m.blockFails.filter fun f => f.1 == die && decide (now < f.2.2 + hourNs)).map (·.2.1)).eraseDups.length

/-- A program or an erase of a block fails (R102, R105). -/
def failBlock (die block : Nat) (s : State) : State :=
  retire die block (s.modMedia fun m =>
    { m with blockFails := (die, block, s.mono) :: m.blockFails.filter fun f => decide (s.mono < f.2.2 + hourNs) })

/-! ### Programs (R92, R96, R98, R100) -/

/-- The media die's events of a program (R488): a copy out of a block under collection, or one folded from staging. -/
def programPerf (die stream : Nat) (src : UnitSource) (s : State) : State :=
  let gc := match src with
    | .copied x => ((s.media.block? (Media.dieOf x.pua) (s.media.blockOf x.pua)).bind (·.drain)) == some .gc
    | _ => false
  let fold := match src with
    | .copied x => x.stream == 0 && stream != 0 && !gc
    | _ => false
  countPerfN (mediaPerf die) 0x109 (flag gc) (countPerfN (mediaPerf die) 0x108 (flag fold) (countPerf (mediaPerf die) 0x100 s))

/-- Where a program of a stream stands on a block: in its open stripe, or in one that the block opens (R94, R99). -/
def Media.target (m : Media) (die block stream now : Nat) (src : UnitSource) : Option (Media × Stripe) :=
  match m.stripeOf die block with
  | some x =>
    if x.state = .opened ∧ x.stream = stream ∧ x.parity ≠ die ∧ m.stateOf die block = .opened then some (m, x) else none
  | none =>
    if (m.openStripe (groupOfDie die) stream).isSome ∨ src = .filler then none
    else ((m.openNew die block stream now).filter (Media.mayOpen src stream)).bind fun n => (n.stripeOf die block).map fun x => (n, x)

/-- Ingest on a die with under 1% of its blocks free goes at the rate garbage collection frees slots (R98).
(DESIGN CHOICE 161; assumption log) -/
def Media.limited (m : Media) (die : Nat) (src : UnitSource) : Bool :=
  match src with
  | .buffered _ => decide (100 * m.freeBlocks die < m.geom.blocks)
  | _ => false

def Media.creditOf (m : Media) (die : Nat) : Nat := ((m.ingestCredit.find? (·.1 == die)).map (·.2)).getD 0

def Media.useCredit (die : Nat) (m : Media) : Media :=
  { m with ingestCredit := m.ingestCredit.map fun c => if c.1 = die then (die, c.2 - 1) else c }

/-- The HBM buffer that a copy passes through (R138, R142), on the lowest-numbered serving SPD. It is free again once the copy
is programmed. (DESIGN CHOICE 161; assumption log) -/
def copyBuffer (src : UnitSource) (s : State) : Bool × State :=
  match src, s.servingList.head? with
  | .copied _, some n =>
    match drawOrPart n 1 true none [unitBytes] s with
    | .ok _ => (true, s)
    | .error k => (false, drawFailed n k s)
  | _, _ => (true, s)

/-- PROGRAM_DONE (R92): the next page of an open block, or the first of a block that opens a stripe; a failure retires
the block (R105). A program the media manager could not have issued changes nothing. -/
def execProgramDone (die block page : Nat) (src : ProgramSource) (ok : Bool) (s : State) : Answer :=
  let m := s.media
  match m.sourceOf src with
  | none => .next s
  | some u =>
    let stream := m.streamFor u (((m.block? die block).map (·.stream)).getD 3)
    match m.target die block stream s.mono u with
    | none => .next s
    | some (n, x) =>
      if !m.writable ∨ s.dieTested die ∨ page ≠ (n.slotsIn die block).length ∨ n.slotsPer (stream != 3) ≤ page ∨
          (m.limited die u ∧ m.creditOf die = 0) then .next s
      else
        let (drawn, a) := copyBuffer u s
        if !drawn then .next a
        else
          let b := a.modMedia fun _ => if m.limited die u then n.useCredit die else n
          if !ok then .next (failBlock die block b)
          else .next (programMedia (fun k => (k.program u x (k.puaAt die block page) page stream).foldCheck.stagingCheck)
            (programPerf die stream u b))

/-! ### Erases and the operations that empty blocks (R96, R98, R101, R105, R117) -/

/-- ERASE_DONE (R117): a failure retires the block (R105). -/
def execEraseDone (die block : Nat) (ok : Bool) (s : State) : Answer :=
  if !(s.media.writable && s.media.erasable die block) || s.dieTested die then .next s
  else if ok then .next (countPerf (mediaPerf die) 0x101 (programMedia (fun m => (m.erase die block).stagingCheck) s))
  else .next (failBlock die block s)

/-- STRIPE_VERIFY_DONE (R101): the blocks of the members named are scheduled for copying. With none named, and the copies of
those named before verified themselves, the stripe is verified and its parity block released. -/
def execStripeVerifyDone (group stripe : Nat) (badBlocks : List Nat) (s : State) : Answer :=
  match s.media.stripes.find? fun x => x.group == group && x.number == stripe && x.state == .closing with
  | none => .next s
  | some x =>
    let bad := x.members.filter fun y => badBlocks.contains y.1 && y.1 != x.parity
    if x.members.any fun y => s.dieTested y.1 then .next s
    else if bad.isEmpty then
      if s.media.copiesVerified x then
        .next (s.modMedia fun m => m.modStripe x fun y => { y with state := .verified })
      else .next s
    else
      .next (s.modMedia fun m => bad.foldl (fun (n : Media) (d, b) => n.modBlock d b fun y => { y with rewrite := true })
        (m.modStripe x fun y => { y with waiting := (y.waiting ++ bad).eraseDups }))

/-- STAGING_RESIZE (R95): after every GiB written, S is computed again. -/
def execStagingResize (s : State) : Answer :=
  if s.media.sinceStaging < 2 ^ 30 then .next s
  else
    .next (setMedia (fun m =>
      let cap := max 1 m.capacity
      let f := m.valid
      let size := if 95 * cap < 100 * f then 5000 else 60000 - 55000 * 100 * f / (95 * cap)
      Media.stagingCheck { m with sinceStaging := m.sinceStaging - 2 ^ 30, staging := size }) s)

/-- FOLD_START (R96): folding runs whenever staging data exist. -/
def execFoldStart (s : State) : Answer :=
  if s.asleep then .next s else
  if s.media.writable ∧ s.media.foldBacklog ≠ 0 then .next (s.modMedia fun m => { m with folding := true }) else .next s

/-- A block's units are to be copied out. -/
def drainBlock (die block : Nat) (why : Drain) (s : State) : State :=
  s.modMedia fun m => m.modBlock die block fun b => { b with drain := some why }

/-- GC_START (R98): below 3% of free blocks, and behind a rewrite on its die (R105). -/
def execGcStart (die : Nat) (s : State) : Answer :=
  if s.asleep then .next s else
  let m := s.media
  if !m.writable ∨ s.dieTested die ∨ 3 * m.geom.blocks ≤ 100 * m.freeBlocks die ∨ m.rewriteWaits die then .next s
  else
    match leastBy (fun b => (m.validIn die b.block).length) ((m.victims die).filter (Block.collectable s.mono)) with
    | none => .next s
    | some b => .next (drainBlock die b.block .gc s)

/-- STATIC_RELOCATION (R98): at most one block of a die every 10 s. -/
def execStaticRelocation (die : Nat) (s : State) : Answer :=
  if s.asleep then .next s else
  let m := s.media
  let counts := m.blocks.filter (·.die == die) |>.map (·.erases)
  let lowest := if counts.length < m.geom.blocks then 0 else counts.foldl min (counts.headD 0)
  let last := (m.relocAt.find? (·.1 == die)).map (·.2)
  if !m.writable ∨ s.dieTested die ∨ 10 * (counts.foldl max 0 - lowest) ≤ m.geom.rated ∨ !m.keepsBack ∨
      (last.map fun t => decide (s.mono < t + 10000000000)).getD false then .next s
  else
    match leastBy (·.erases) (m.victims die) with
    | none => .next s
    | some b =>
      .next (drainBlock die b.block .relocate (s.modMedia fun m =>
        { m with relocAt := (die, s.mono) :: m.relocAt.filter (·.1 != die) }))

/-- BLOCK_REWRITE_START (R105): a block that needs another rewrite within 50 of its cycles is retired.
(DEDUCED 83; assumption log) -/
def execBlockRewriteStart (die block : Nat) (s : State) : Answer :=
  match s.media.block? die block with
  | none => .next s
  | some b =>
    if !(s.media.writable && b.rewrite && b.state == .closed) || s.dieTested die then .next s
    else if (b.lastRewrite.map fun n => decide (b.erases < n + 50)).getD false then .next (retire die block s)
    else .next (drainBlock die block .rewrite s)

/-! ### The write buffer (R22, R107, R110, R140) -/

/-- Units the buffer holds: 2 GiB. -/
def bufferUnits : Nat := 65536

/-- Units of `n` bytes. -/
def unitsOf (n : Nat) : Nat := (n + unitBytes - 1) / unitBytes

/-- Units a shard takes. (DEDUCED 80; assumption log) -/
def shardUnits (samples : List (List Byte)) : Nat := (samples.map fun b => unitsOf b.length).sum

/-- A shard finds room: beside what the buffer holds, or in an empty buffer that it passes through.
(DEDUCED 80; assumption log) -/
def bufferRoom (samples : List (List Byte)) (s : State) : Bool :=
  s.media.buffer.isEmpty || decide (s.media.buffer.length + shardUnits samples ≤ bufferUnits)

/-- LUAs the samples of a shard add, those of a sample written before being kept. -/
def luasAdded (p : Partition) (first : Nat) (samples : List (List Byte)) : Int :=
  ((samples.zipIdx.map fun (b, i) =>
    (unitsOf b.length : Int) - (((p.samples.find? (·.index == first + i)).map (·.luas.length)).getD 0 : Nat))).sum

/-- The largest encoded sample: 256 MiB. -/
def maxSample : Nat := 2 ^ 28

/-- What a shard's write fails with, in the order of the rules. (DEDUCED 94; assumption log) -/
def writeStatus (p : Partition) (first : Nat) (samples : List (List Byte)) (s : State) : Option Nat :=
  if 2 ^ 24 < samples.length then some 0x0205
  else if samples.any (decide <| maxSample < ·.length) then some 0x0206
  else if s.media.qsLayout then some 0x0402
  else if p.sealed then some 0x0208
  else if 2 ^ 32 ≤ p.nextWseq then some 0x0202
  else if (s.media.capacity : Int) < s.media.valid + luasAdded p first samples then some 0x0403
  else if s.media.exhausted then some 0x0404
  else none

/-- One sample enters the buffer under a WSEQ, in the share of SPD `home`. The LUAs of a sample written before serve it again,
then those that a trim set free, then new ones. (DESIGN CHOICE 183; assumption log) -/
def storeSample (slot wseq index home : Nat) (bs : List Byte) (s : State) : State :=
  match s.partSlot slot with
  | none => s
  | some p =>
    let old := ((p.samples.find? (·.index == index)).map (·.luas)).getD []
    let n := unitsOf bs.length
    let again := s.media.freeLuas.take (n - old.length)
    let fresh := (List.range (n - old.length - again.length)).map (s.media.nextLua + ·)
    let luas := (old ++ again ++ fresh).take n
    (s.modPart slot fun p => { p with samples := ⟨index, wseq, bs, luas⟩ :: p.samples }).modMedia fun m =>
      { m with nextLua := m.nextLua + fresh.length, freeLuas := m.freeLuas.drop again.length
               hostWritten := m.hostWritten + bs.length
               buffer := m.buffer ++ luas.map fun l => ⟨l, slot, wseq, home⟩ }

/-- A shard's data is in the write buffer, on the SPD that is home to its first sample (R22): the partition's next WSEQ is
taken. -/
def storeShard (slot shard first : Nat) (samples : List (List Byte)) (s : State) : Nat × State :=
  match s.partSlot slot with
  | none => (0, s)
  | some p =>
    let w := p.nextWseq
    let a := s.modPart slot fun p =>
      { p with nextWseq := w + 1, completed := w
               shards := (shard, first, samples.length) :: p.shards.filter (·.1 != shard) }
    let b := a.each samples.zipIdx fun (bs, i) t => storeSample slot w (first + i) (s.homeOf first) bs t
    (w, setMedia Media.refill b)

/-- The pool part in which the HBM buffer of a sample on its way in cannot be drawn (R138, R140, R142). Each sample passes
through a buffer of its own, free again once the sample is in the write buffer. (DESIGN CHOICE 161; assumption log) -/
def ingestShort (home : Nat) (samples : List (List Byte)) (s : State) : Option Nat :=
  samples.findSome? fun b =>
    match drawOrPart home 2 true none [b.length] s with
    | .ok _ => none
    | .error k => some k

/-- A shard passes into the write buffer, or waits for room there or for a buffer to pass through (R107, R140). -/
def shardIn (slot shard first : Nat) (samples : List (List Byte)) (s : State) : Option Nat × State :=
  if !bufferRoom samples s then (none, s)
  else
    match ingestShort (s.homeOf first) samples s with
    | some k => (none, drawFailed (s.homeOf first) k s)
    | none =>
      let (w, t) := storeShard slot shard first samples s
      (some w, t)

/-- WRITE_BUFFER_ADMIT (R107): a held write finds room, and completes; what a write fails with may have come about in the
meantime. -/
def execWriteBufferAdmit (cmd : CmdId) (s : State) : Answer :=
  match s.cmd? cmd fun c => match c.run with | .writeHeld .. => true | _ => false with
  | none => .next s
  | some c =>
    match c.run with
    | .writeHeld slot shard first samples =>
      match s.partSlot slot with
      | none => .next (finish c 0x0207 [] s)
      | some p =>
        match writeStatus p first samples s with
        | some st => .next (finish c st [] s)
        | none =>
          match shardIn slot shard first samples s with
          | (some w, t) => .next (finish c stSuccess (natBytes 4 w) t)
          | (none, t) => .next t
    | _ => .next s

/-! ### Durability (R108, R109, R124) -/

/-- Fill every partial row of the open stripes that hold a unit of this partition with filler units (R100, R108). -/
def Media.fillRows (m : Media) (slot : Nat) : Media :=
  (m.stripes.filter fun x => x.state == .opened &&
      m.slots.any fun y => y.dsSlot == slot && x.members.contains (Media.dieOf y.pua, m.blockOf y.pua)).foldl
    (fun (n : Media) x =>
      let most := ((n.dataOf x).map fun (d, b) => (n.slotsIn d b).length).foldl max 0
      (n.dataOf x).foldl (fun (k : Media) (d, b) =>
        (List.range (most - (k.slotsIn d b).length)).foldl (fun (j : Media) _ =>
          let page := (j.slotsIn d b).length
          j.program .filler x (j.puaAt d b page) page x.stream) k) n) m

/-- Every covered unit is programmed. -/
def Media.flushed (m : Media) (slot wseq : Nat) : Bool := m.buffer.all fun u => u.dsSlot != slot || decide (wseq < u.wseq)

/-- The durable WSEQ below the first lost write. -/
def Partition.belowLost (p : Partition) (l : Nat) : Nat :=
  (p.samples.filter fun x => decide (x.wseq < l)).foldl (fun n x => max n x.wseq) (min p.durable (l - 1))

/-- A FLUSH record and the records before it are programmed at once (R108, R114). -/
def flushRecord (slot d : Nat) (s : State) : State :=
  programMedia (fun m => Media.programJournal s.mono (m.log (.flush slot d m.seq))) s

/-- Every other flush under way that covers a lost write of the partition ends as this one does (R124); a seal covers every
completed write. -/
def markLost (slot l d : Nat) (s : State) : State :=
  s.modHost fun h => { h with
    cmds := h.cmds.map fun c =>
      match c.run with
      | .flush x w sealing none => if x = slot ∧ (sealing ∨ l ≤ w) then { c with run := .flush x w sealing (some d) } else c
      | _ => c }

/-- What a partition's flush to WSEQ `w` leaves, and the status with the durable WSEQ. A covered write that was lost sets
the partition back at once. (DEDUCED 81; assumption log) -/
def flushPart (slot w : Nat) (s : State) : Nat × Nat × State :=
  match s.partSlot slot with
  | none => (0x0207, 0, s)
  | some p =>
    let a := programMedia (fun m => Media.programJournal s.mono (m.fillRows slot)) s
    match p.lostFrom.filter (· ≤ w) with
    | some l =>
      let d := p.belowLost l
      let b := (a.modPart slot fun p => Partition.setBack { p with durable := d }).modMedia fun m =>
        { m with buffer := m.buffer.filter (·.dsSlot != slot) }
      (0x0103, d, markLost slot l d (setMedia (fun m => (m.settleOne slot).refill) b))
    | none =>
      let d := max p.durable w
      (stSuccess, d, flushRecord slot d (a.modPart slot fun p => { p with durable := d }))

/-- What a seal finds after its flush (R360). -/
def sealPart (slot d : Nat) (s : State) : Nat × State :=
  match s.partSlot slot with
  | none => (0x0207, s)
  | some p =>
    if p.size = 0 then (0x0201, s)
    else if p.current.length < p.size then (0x020A, s)
    else
      (stSuccess, programMedia (fun m => Media.programJournal s.mono (m.log (.sealed slot m.seq)))
        (s.modPart slot fun p => { p with sealed := true, sealWseq := d, samples := p.current }))

/-- FLUSH_COMPLETE (R108): once every covered unit is programmed, with its parity rows and journal records, for which the flush
waits while the metadata stream finds no place. A seal covers every write completed when it completes (R360). -/
def execFlushComplete (cmd : CmdId) (s : State) : Answer :=
  match s.cmd? cmd fun c => match c.run with | .flush .. => true | _ => false with
  | none => .next s
  | some c =>
    match c.run with
    | .flush _ _ _ (some d) => .next (finish c 0x0103 (natBytes 4 d) s)
    | .flush slot w0 sealing none =>
      let w := if sealing then max w0 (((s.partSlot slot).map (·.completed)).getD 0) else w0
      if !s.media.flushed slot w || s.ltOn 3 then .next s
      else
        let (st, d, a) := flushPart slot w s
        if st ≠ stSuccess then .next (finish c st (natBytes 4 d) a)
        else
          let (st2, b) := if sealing then sealPart slot d a else (st, a)
          if b.media.journal.isEmpty then .next (finish c st2 (natBytes 4 d) b) else .next s
    | _ => .next s

/-- Writes whose data lay in a share of the write buffer, both copies of which are gone (R124).
(DEDUCED 81; assumption log) -/
def loseBuffer (spd : Nat) (s : State) : State :=
  let lost := s.media.buffer.filter (·.spd == spd)
  if lost.isEmpty then s
  else
    let a := s.modMedia fun m =>
      { m with
        buffer := m.buffer.filter (·.spd != spd)
        partitions := m.partitions.map fun p =>
          match (lost.filter (·.dsSlot == p.dsSlot)).map (·.wseq) with
          | [] => p
          | w :: ws => { p with lostFrom := some ((ws ++ p.lostFrom.toList).foldl min w) } }
    setEv .mem 0x20 (countContained a)

/-! ### The journal, checkpoints and the map (R90, R113, R114) -/

/-- JOURNAL_PROGRAM (R114). -/
def execJournalProgram (s : State) : Answer :=
  if s.media.writable && !s.ltOn 3 then .next (programMedia (Media.programJournal s.mono) s) else .next s

/-- CHECKPOINT_START (R113): after 4 GiB programmed, every segment changed since the last one is written. -/
def execCheckpointStart (s : State) : Answer :=
  if s.asleep then .next s else
  let m := s.media
  if !m.writable ∨ s.ltOn 3 ∨ m.sinceCheckpoint < 2 ^ 32 ∨ m.pendingCheckpoint.isSome then .next s
  else .next (programMedia (Media.beginCheckpoint (changedSegments m.sinceRoot) s.mono) s)

/-- CHECKPOINT_ROOT_DONE (R113). (DEDUCED 82; assumption log) -/
def execCheckpointRootDone (med0 med1 : Bool) (s : State) : Answer :=
  .next (if s.ltOn 3 then s else programMedia (Media.rootDone med0 med1 s.mono) s)

/-- MAP_SEGMENT_RELOAD_DONE (R90). (DEDUCED 86; assumption log) -/
def execMapSegmentReloadDone (segment : Nat) (s : State) : Answer :=
  .next (if s.ltOn 3 then s else s.modMedia fun m => { m with reloadSegments := m.reloadSegments.filter (· != segment) })

/-- MAP_MIRROR_RECOPY_DONE (R90): each segment of a lost SPD has two copies again. -/
def execMapMirrorRecopyDone (spd : Fin 8) (s : State) : Answer :=
  .next (s.onlyIf (!s.spdTested spd) fun a => a.modFab fun f =>
    { f with mapRecopy := f.mapRecopy.filter (· != spd), oneCopy := f.oneCopy.filter fun x => x.2.2 != spd })

/-! ### Mount and recovery (R88, R102, R103, R109, R115, R502) -/

/-- The mount is refused: the reason, and every held command ends (R88, R120, R502).
(DEDUCED 64, DESIGN CHOICE 183; assumption log) -/
def refuseMount (die : Nat) (check : MountCheck) (s : State) : State :=
  let held := s.host.cmds.filter fun c => c.run == .queued && heldByMount c s
  let a := setMedia (fun m => { m with unsupported := some (die, check) }) s
  (fatalError 0x14 die a).each held fun c t => finish c 0x0401 [] t

/-- The media's reasons, evaluated from what persists (R480). -/
def mountReasons (s : State) : State :=
  let a := clearReason 0x14 0 s
  let b := if a.media.exhausted then raiseReason 0x12 100 0 a else a
  let c := b.each b.media.failedDies fun d t => raiseReason 0x13 100 d t
  let e := c.each (c.media.partitions.filter fun p => decide (65536 ≤ p.defects.length)) fun p t => raiseReason 0x15 0 p.dsSlot t
  mediaReasons e

/-! ### Temperature and the health log (R119) -/

/-- The bin of a temperature. -/
def tempBin (t : Int) : Nat := if t < 0 then 0 else min 23 ((t / 5).toNat + 1)

/-- MEDIA_TEMP_SAMPLE (R119). -/
def execMediaTempSample (temp0 temp1 : Int) (s : State) : Answer :=
  .next (s.modMedia fun m =>
    { m with tempBins := updAt m.tempBins (tempBin (max temp0 temp1)) fun n => min (n + 1) (2 ^ 32 - 1) })

def satBytes (n v : Nat) : List Byte := natBytes n (min v (256 ^ n - 1))

/-- The 176 bytes of the log. -/
def Media.healthLog (m : Media) : List Byte :=
  let body := natBytes 4 1 ++ satBytes 2 m.sparePm ++ satBytes 2 m.wearPm ++ satBytes 2 m.wearMax.1 ++
    natBytes 2 m.stateBits ++ satBytes 4 m.retired ++ satBytes 8 m.corrCw ++ satBytes 8 m.uncorrCw ++
    satBytes 8 m.retryReads ++ satBytes 8 m.rewrites ++ satBytes 8 (m.foldBacklog * unitBytes) ++
    satBytes 8 m.hostWritten ++ satBytes 8 m.mediaWritten ++ m.tempBins.flatMap (satBytes 4) ++ natBytes 4 0
  body ++ leBytes 4 (crc32c body)

end Sys2Proof.Machine
end

