-- ==== Sys2Proof/Machine/Replicas.lean ====
section
/-! DEFINITION. Reads of shard ranges from peers (R292 to R294): the rebuild of a failed die's units from replicas (R102), the
shards of a COPY_FROM_PEER, and the mount that finds dies failed. -/

namespace Sys2Proof.Machine

/-! ### Shard ranges read from peers (R292 to R294) -/

def State.modFetches (f : List Fetch → List Fetch) (s : State) : State := s.modEgr fun e => { e with fetches := f e.fetches }

/-- The read of this name becomes what `f` makes of it. -/
def State.modFetch (id : FetchId) (f : Fetch → Fetch) (s : State) : State :=
  s.modFetches (·.map fun x => if x.id = id then f x else x)

/-- The read of this name ends. -/
def dropFetch (id : FetchId) (s : State) : State := s.modFetches (·.filter (·.id != id))

/-- Bytes of the range asked next: at most 256 MiB (R293). -/
def Fetch.ask (x : Fetch) : Nat := min (2 ^ 28) (x.length - x.bytes.length)

/-- The PEER_REQ of KIND 2 to one peer. -/
def askFetch (x : Fetch) (c : Nat) (s : State) : State :=
  let tag := s.free % 65536
  postSend c (.fetchReq tag)
    (peerReqBytes 2 tag s.applied.tideJobId x.dataset x.shard (x.offset + x.bytes.length) x.ask)
    ({ s with free := s.free + 1 }.modFetch x.id fun y => { y with state := .asked, tag := tag, part := [] })

/-- No peer is left: a unit is lost (R102), and the command of a shard will end with its failure. -/
def fetchExhausted (x : Fetch) (s : State) : State :=
  match x.id with
  | .unit lua => dropFetch x.id (s.modMedia fun m => { m with lostLuas := m.lostLuas ++ [lua] })
  | .shard _ => s.modFetch x.id fun y => { y with state := .failed }

/-- The oldest read that waits is begun, where none is under way: it asks the first of its peers that is in service, each in
error counting as a failed peer. -/
def pumpFetches : Nat → State → State
  | 0, s => s
  | n + 1, s =>
    if s.egr.fetches.any (·.state == .asked) then s
    else
      match s.egr.fetches.find? (·.state == .queued) with
      | none => s
      | some x =>
        match x.peers with
        | [] => pumpFetches n (fetchExhausted x s)
        | c :: cs =>
          if s.connUp c then askFetch x c s
          else pumpFetches n (setEv .egr 0x200 (s.modFetch x.id fun y => { y with peers := cs }))

/-- Every read that can begin does. -/
def goFetch (s : State) : State := pumpFetches ((s.egr.fetches.map fun x => x.peers.length + 1).sum + 1) s

/-- The peer asked has failed (R294): the next one is asked. -/
def fetchFailed (x : Fetch) (s : State) : State :=
  goFetch (setEv .egr 0x200 (s.modFetch x.id fun y => { y with peers := y.peers.tail, state := .queued, part := [] }))

/-- The read that asked this peer under a tag. -/
def State.fetchAt (i tag : Nat) (s : State) : Option Fetch :=
  s.egr.fetches.find? fun x => x.state == .asked && x.tag == tag && x.peers.head? == some i

/-- A range has arrived whole: the next one is asked, or the read is complete. A unit may then be written anew (R102). -/
def fetchArrived (x : Fetch) (s : State) : State :=
  let whole := x.bytes ++ x.part
  if whole.length < x.length then goFetch (s.modFetch x.id fun y => { y with bytes := whole, part := [], state := .queued })
  else
    match x.id with
    | .unit lua => goFetch (dropFetch x.id (s.modMedia fun m => { m with fetched := m.fetched ++ [lua] }))
    | .shard _ => goFetch (s.modFetch x.id fun y => { y with bytes := whole, part := [], state := .complete })

/-- Reads from a connection in error try their next peer (R294). -/
def fetchConnFailed (i : Nat) (s : State) : State :=
  s.each (s.egr.fetches.filter fun x => x.state == .asked && x.peers.head? == some i) fetchFailed

/-! ### A die fails (R102) -/

/-- Where a unit lies in its shard: shard number, byte offset and length; none for a unit of no shard. -/
def Partition.unitRange (p : Partition) (lua : Nat) : Option (Nat × Nat × Nat) :=
  (p.current.find? (·.luas.contains lua)).bind fun x =>
    (p.shards.find? fun sh => decide (sh.2.1 ≤ x.index ∧ x.index < sh.2.1 + sh.2.2)).map fun (k, first, _) =>
      let before := ((List.range (x.index - first)).map fun j => (p.sampleBytes (first + j)).length).sum
      let at_ := unitBytes * x.luas.findIdx (· == lua)
      (k, before + at_, min unitBytes (x.bytes.length - at_))

/-- The read of a unit from the replicas of its partition, if any is named. -/
def replicaFetch (x : Slot) (s : State) : Option Fetch :=
  (s.partSlot x.dsSlot).bind fun p =>
    if p.replicas.any s.connUp then
      (p.unitRange x.lua).map fun (k, at_, len) => ⟨.unit x.lua, p.replicas, 0, p.dataset, k, at_, len, .queued, [], [], 0⟩
    else none

/-- The units of failed dies that are neither in parity's reach nor read, being read or lost already. -/
def Media.orphans (m : Media) (reading : List Nat) : List Slot :=
  m.slots.filter fun x =>
    m.failedDies.contains (Media.dieOf x.pua) && m.isValid x && x.kind != 4 && !m.rebuildable x.pua &&
      !m.fetched.contains x.lua && !m.lostLuas.contains x.lua && !reading.contains x.lua

/-- LUAs of units that are being read from a replica. -/
def State.unitsRead (s : State) : List Nat :=
  s.egr.fetches.filterMap fun x => match x.id with | .unit l => some l | .shard _ => none

/-- Units of failed dies that parity no longer rebuilds are read from a replica, or lost (R102).
(DEDUCED 84; assumption log) -/
def rescueUnits (s : State) : State :=
  let os := s.media.orphans s.unitsRead
  let gone := (os.filter fun x => (replicaFetch x s).isNone).map (·.lua)
  goFetch ((s.modFetches (· ++ os.filterMap fun x => replicaFetch x s)).modMedia fun m => { m with lostLuas := m.lostLuas ++ gone })

/-- A die fails: its blocks are retired, its share leaves the capacity, and its units are rebuilt, read or lost. The health
log's count of retired blocks leaves those of a failed die out. (DEDUCED 84, DESIGN CHOICE 185; assumption log) -/
def failDie (die : Nat) (s : State) : State :=
  let m := s.media
  let a := setMedia (fun m =>
    let mine := m.blocks.filter fun b => b.die == die && b.state != .retired
    mine.foldl (fun (n : Media) b => n.log (.block die b.block b.stream 3 n.seq)) (Media.refill { m with
      failedDies := m.failedDies ++ [die]
      spares := m.spares.set die 0
      blocks := m.blocks.map fun b => if b.die = die then { b with state := .retired, drain := some .dieFailed } else b })) s
  afterRetirement (m.spares.getD die 0) (raiseReason 0x13 100 die (rescueUnits a))

/-- A die in service fails. -/
def dropDie (die : Nat) (s : State) : State :=
  if s.media.hasDie die ∧ !s.media.failedDies.contains die then failDie die s else s

/-- FLASH_DIE_FAILED (R102): a die that completed no reset, or with failures on more than 64 distinct blocks within one hour.
(DEDUCED 84; assumption log) -/
def execFlashDieFailed (die : Nat) (noReset : Bool) (s : State) : Answer :=
  if s.media.mounted ∧ (noReset ∨ 64 < s.media.failsOf die s.mono) then .next (dropDie die s) else .next s

/-- FLASH_TRAINING_TIMER (R86, R102): training sets the data rate inside the channel's PHY, which no state shows; each target
whose retraining fails is a failed die. (DEDUCED 85; assumption log) -/
def execFlashTrainingTimer (channel : Fin 64) (failed : List (Fin 16)) (s : State) : Answer :=
  if s.media.mounted then .next (s.each failed fun f t => dropDie (16 * channel + f) t) else .next s

/-! ### Mount and recovery (R102, R115) -/

/-- RECOVERY_DONE (R115): the media mount, or the mount is refused; dies that failed training at it are failed (R102).
(DEDUCED 64, DEDUCED 139; assumption log) -/
def execRecoveryDone (badRoots torn : List Nat) (wiped : List (Nat × Nat)) (s : State) : Answer :=
  if s.media.mounted ∨ s.media.unsupported.isSome ∨ !s.host.fwReady ∨ s.sec.recovery ∨ !s.host.broughtUp ∨ s.ltOn 3 then .next s
  else
    match s.media.mountFail with
    | some (d, k) => .next (refuseMount d k s)
    | none =>
      let a := mountReasons (setMedia (fun m => m.recover badRoots torn wiped s.mono) s)
      .next (a.each a.media.untrained dropDie)

end Sys2Proof.Machine
end

