-- ==== Sys2Proof/Machine/Egress.lean ====
section
/-! DEFINITION. Egress transport (R267 to R282, R292 to R295): Moorings and access checks, connections in error, packets
received, acknowledgements and retries, links, heartbeats, and the peer-read protocol. -/

namespace Sys2Proof.Machine

/-! ### Moorings (R275 to R279) -/

def State.mooring? (i : Nat) (s : State) : Option Mooring := s.egr.moorings.find? (·.idx == i)

def State.modMooring (i : Nat) (f : Mooring → Mooring) (s : State) : State :=
  s.modEgr fun e => { e with moorings := e.moorings.map fun m => if m.idx = i then f m else m }

/-- The first index of the address-space keys (R276). -/
def spaceKey : Nat := 64512

/-- The key of a Mooring: index above, generation below. -/
def Mooring.key (m : Mooring) : Word := BitVec.ofNat 32 (m.idx * 65536 + m.gen)

/-- The Mooring whose index and generation a key names. -/
def State.keyed (key : Word) (s : State) : Option Mooring :=
  (s.mooring? (fieldOf key 16 16)).filter fun m => m.gen == fieldOf key 0 16

/-- The generation after: 1 to 65,535, never 0. -/
def nextGen (g : Nat) : Nat := if g = 65535 then 1 else g + 1

/-- JOB_SPACE of one SPD, bytes (R122, R276). -/
def State.jobSpace (s : State) : Nat := (s.run.job.map (·.jobSpace)).getD 0

/-- The SPDs that hold bytes of a range of job addresses. -/
def spdsOf (space va len : Nat) : List Nat :=
  if space = 0 ∨ len = 0 then [] else (List.range 8).filter fun n => decide (va / space ≤ n) && decide (n ≤ (va + len - 1) / space)

/-- The request a peer's serve Mooring presents. -/
def State.serveOf (i : Nat) (s : State) : Option Serve :=
  s.egr.conns.findSome? fun c => c.serves.find? fun v => v.ready && v.key == i

/-- The checks of R277, in order; rights are READ 1 and WRITE 2. -/
def mayAccess (c : Conn) (key : Word) (va len right : Nat) (s : State) : Bool :=
  match s.keyed key with
  | none => false
  | some m =>
    m.state == .valid && m.pd == c.pd && natBits m.rights (right - 1) 1 == 1 &&
      decide (m.base ≤ va ∧ va + len ≤ m.base + m.len) &&
      (if m.serve then ((s.serveOf m.idx).map fun v => s.serving v.spd).getD false
       else (spdsOf s.jobSpace va len).all s.serving)

/-- Bytes behind a Mooring: of a served Berth, or of the job address space. (DESIGN CHOICE 53; assumption log) -/
def mooringBytes (m : Mooring) (va len : Nat) (s : State) : List Byte :=
  if m.serve then (((s.serveOf m.idx).map (·.bytes)).getD []).drop (va - m.base) |>.take len
  else s.jobBytes va len

/-- Buffers of an owner that no request holds return to their pool (R141). -/
def returnBuffers (n o size : Nat) (s : State) : State :=
  match berthFor size true with
  | none => s
  | some (k, cnt) =>
    s.modSpd n fun d => { d with holds := (List.range cnt).foldl (fun hs _ => hs.erase (Hold.mk o k 1 none)) d.holds }

/-- A Mooring becomes FREE (R278); a served Berth goes back with it (R292). -/
def freeMooring (i : Nat) (s : State) : State :=
  let a : State := match s.serveOf i with
    | none => s
    | some v =>
      (returnBuffers v.spd 3 v.bytes.length s).modEgr fun e =>
        { e with conns := e.conns.map fun c => { c with serves := c.serves.filter fun w => !(w.ready && w.key == i) } }
  a.modMooring i fun m => { m with state := .free, gen := nextGen m.gen, inflight := [] }

/-- A revocation begins (R278). -/
def beginRevoke (i : Nat) (s : State) : State := s.modMooring i fun m => { m with state := .revoking, since := s.mono }

/-- Revoke a serve Mooring: at once when nothing is in flight (R292). -/
def revokeServe (i : Nat) (s : State) : State :=
  match s.mooring? i with
  | none => s
  | some m => if m.inflight.isEmpty then setEv .egr 0x10 (freeMooring i s) else beginRevoke i s

/-- One message of a connection through a Mooring has ended. -/
def endMessage (conn : Nat) (key : Word) (s : State) : State :=
  s.modMooring (fieldOf key 16 16) fun m => { m with inflight := m.inflight.erase conn }

/-! ### Connections in error (R291, R294, R295) -/

/-- A request that waits for this peer tries the next one (R294). -/
def peerConnFailed (i : Nat) (s : State) : State :=
  s.each s.run.requests fun r u =>
    match u.stream? r.key.stream, u.req? r.key with
    | some t, some q =>
      match u.partFor t with
      | none => u
      | some p => if q.phase = .peerWait ∧ (peersFor t p q)[q.peerIdx]? = some i then peerFailed q.key true u else u
    | _, _ => u

/-- What a connection served goes back to its pools. -/
def dropServes (c : Conn) (s : State) : State :=
  s.each c.serves fun v u =>
    if v.ready then freeMooring v.key u
    else (returnBuffers v.spd 3 v.bytes.length u).modConn c.idx fun c => { c with serves := c.serves.filter (· != v) }

/-- One connection enters error, and its waits fail. -/
def connErrorOne (i reason : Nat) (s : State) : State :=
  match s.conn? i with
  | none => s
  | some c =>
    if c.error.isSome then s
    else
      let a := (dropServes c s).modEgr fun e =>
        { e with moorings := e.moorings.map fun m => { m with inflight := m.inflight.filter (· != i) } }
      let b := (a.modConn i fun c =>
        { c with error := some reason, queue := [], rxMsg := none, rxWait := [], resident := false, loading := false, timerMissed := false,
                 rnrWait := false, quiet := false }).modCnt fun x =>
        { x with egrLastErr := BitVec.ofNat 32 (reason * 2 ^ 18 + i) }
      let d := failWaits i (setEv .egr 4 b)
      if c.peer then fetchConnFailed i (peerConnFailed i d) else laneLost i (c.queue.filter (·.request)) d

/-- Connections enter error, and with them those whose requests waited for one of them and belong to no batch: reason 8
(R280, R295, R298). -/
def connErrors : Nat → List (Nat × Nat) → State → State
  | 0, _, s => s
  | _, [], s => s
  | fuel + 1, (i, reason) :: rest, s => connErrors fuel (rest ++ (waitersOn i s).map (·, 8)) (connErrorOne i reason s)

/-- A connection enters error (R295). (DEDUCED 59, DEDUCED 61; assumption log) -/
def connError (i reason : Nat) (s : State) : State :=
  connErrors (s.egr.conns.length * s.egr.conns.length + 1) [(i, reason)] s

/-- A FATAL error takes every connection with it: its links are down for good (R296).
(DESIGN CHOICE 191; assumption log) -/
def fatalLoss (code loc : Nat) (s : State) : State :=
  (fatalError code loc s).each s.egr.conns fun c u => connError c.idx 6 u

/-! ### Acknowledgements and retries (R270, R280) -/

/-- The extended PSN at or after `base` that a 24-bit PSN names. -/
def extPsn (base : Nat) (psn : BitVec 24) : Nat := base + (psn.toNat + (2 ^ 24 - base % 2 ^ 24)) % 2 ^ 24

/-- Everything before `una` is acknowledged. -/
def ackUpTo (i una : Nat) (s : State) : State :=
  match s.conn? i with
  | none => s
  | some c =>
    let r := c.ackTo una s.mono
    (s.modConn i fun _ => r.2).each r.1 wrDone

/-- A connection's link is down and no other path stands. -/
def noPath (c : Conn) (s : State) : Bool := !bitOf s.egr.linksUp c.onLink

/-- A timeout or a sequence error: go back, or fail when the retries are used up. -/
def retryOrFail (i : Nat) (s : State) : State :=
  match s.conn? i with
  | none => s
  | some c =>
    if fieldOf s.applied.egr 4 3 ≤ c.retries then connError i (if noPath c s then 6 else 1) s
    else goBack i (s.modConn i fun c => { c with retries := c.retries + 1 })

/-- The acknowledgement timer of R270, ns. -/
def ackLimit (s : State) : Nat := 4096 * 2 ^ fieldOf s.applied.egr 0 4

/-- ACK_TIMEOUT (R270); out of residence it takes effect on the return (R315). -/
def execAckTimeout (conn : Nat) (s : State) : Answer :=
  match s.conn? conn with
  | none => .next s
  | some c =>
    if c.error.isSome ∨ c.sentEnd ≤ c.sqUna ∨ c.rnrWait ∨ s.mono < c.ackAt + ackLimit s then .next s
    else if c.resident then .next (retryOrFail conn s)
    else .next (s.modConn conn fun c => { c with timerMissed := true })

/-- RNR_RETRY_TIMER (R270). -/
def execRnrRetryTimer (conn : Nat) (s : State) : Answer :=
  match s.conn? conn with
  | none => .next s
  | some c => if c.rnrWait then .next (goBack conn (s.modConn conn fun c => { c with rnrWait := false })) else .next s

/-- WAIT_SATISFIED (R280): the frames of the requests that waited are ready now (R317). -/
def execWaitSatisfied (conn : Nat) (s : State) : Answer :=
  .next (s.modConn conn fun c =>
    let met : List Wr := c.queue.map fun w : Wr => if w.wait.any (waitMet s) then { w with wait := none } else w
    let new := (readyMask false c.queue).zip (readyMask false met)
    Conn.woken c { c with queue := (met.zip new).map fun (w, a, b) => if b && !a then { w with posted := s.mono } else w } s)

/-! ### Packets received (R269 to R271, R277, R281, R282) -/

/-- A bypass frame goes out on the connection's link, unless the transmitters are off (R477); an RNR NAK carries the timer
code for 10.24 µs (R271, R300). (PRESUMED 51; assumption log) -/
def answer (i what : Nat) (psn : BitVec 24) (s : State) : State :=
  let m := ((s.conn? i).map (·.onLink)).getD 0
  s.onlyIf (!s.egr.txOff) (·.emit (.bypass ⟨m, linkMac m, i, what, psn.toNat, if what = 4 then 10240 else 0⟩))

def dieOfConn (i : Nat) (s : State) : Nat := 8 + ((s.conn? i).map (·.onLink)).getD 0 / 8

/-- A PSN against the expected one: expected, before it within the 2^23 window, or after it (R271). -/
inductive PsnPlace where
  | expected
  | past (ext : Nat)
  | future
  deriving DecidableEq, Repr

def psnPlace (c : Conn) (psn : BitVec 24) : PsnPlace :=
  let d := (psn.toNat + (2 ^ 24 - c.rqPsn % 2 ^ 24)) % 2 ^ 24
  if d = 0 then .expected else if 2 ^ 23 ≤ d then .past (c.rqPsn - (2 ^ 24 - d)) else .future

/-- An extended PSN of a protected connection at its limit (R282). -/
def keyExhausted (i : Nat) (s : State) : State := connError i 9 (setEv .egr 0x400 s)

/-- The expected PSN moves on past the packet received. -/
def advanceRq (i n : Nat) (s : State) : State :=
  match s.conn? i with
  | none => s
  | some c =>
    let a := s.modConn i fun c => { c with rqPsn := c.rqPsn + n }
    if c.encKey ≠ 0 ∧ 2 ^ 48 - 1 ≤ c.rqPsn then keyExhausted i a else a

/-- One more packet refused and counted (R269). -/
def countRefused (s : State) : State := s.modEgr fun e => { e with refused := e.refused + 1 }

/-- A request the table of R269 refuses. (PRESUMED 51; assumption log) -/
def invalidRequest (i : Nat) (psn : BitVec 24) (s : State) : State := connError i 5 (answer i 2 psn s)

/-- An access the checks of R277 refuse. (PRESUMED 51; assumption log) -/
def refuseAccess (i : Nat) (psn : BitVec 24) (s : State) : State :=
  let a := answer i 3 psn (s.modCnt fun x => { x with egrAccerrCnt := x.egrAccerrCnt + 1 })
  connError i 4 (countPerf (dieOfConn i s) 0x204 (setEv .egr 8 a))

/-- A packet of a message under way at an address, with bytes left: its bytes land, and the last one ends the message. -/
def landWrite (i : Nat) (psn : BitVec 24) (key : Word) (at_ left : Nat) (last : Bool) (bs : List Byte) (s : State) :
    State :=
  if left < bs.length ∨ (last ∧ bs.length ≠ left) then invalidRequest i psn s
  else
    let a := writeJob at_ bs s
    let b := a.modConn i fun c =>
      { c with rxMsg := if last then none else some (key, at_ + bs.length, left - bs.length), msn := c.msn + flag last }
    advanceRq i 1 (if last then answer i 0 psn (endMessage i key b) else b)

/-- The RDMA WRITE packets of R277. -/
def rxWrite (c : Conn) (w : Wire) (key : Word) (va len : Nat) (first last : Bool) (bs : List Byte) (s : State) : State :=
  let i := c.idx
  match psnPlace c w.psn with
  | .past _ => answer i 0 w.psn s
  | .future => answer i 1 (BitVec.ofNat 24 c.rqPsn) s
  | .expected =>
    if first then
      if c.rxMsg.isSome then invalidRequest i w.psn s
      else if mayAccess c key va len 2 s then
        landWrite i w.psn key va len last bs (s.modMooring (fieldOf key 16 16) fun m => { m with inflight := m.inflight ++ [i] })
      else refuseAccess i w.psn s
    else
      match c.rxMsg with
      | some (k, at_, left) => landWrite i w.psn k at_ left last bs s
      | none => invalidRequest i w.psn s

/-- The response to an RDMA READ: key 0 for a repeated one, which no Mooring counts.
(DESIGN CHOICE 53; assumption log) -/
def postResponse (c : Conn) (ext va : Nat) (key : Word) (bs : List Byte) (s : State) : State :=
  let n := c.packets bs.length
  postWr c.idx ⟨.response, .response, va, key, bs, n, n, some ext, none, 0, 0, bs.length⟩ s

/-- The RDMA READ requests of R271 and R277. (DESIGN CHOICE 53, DESIGN CHOICE 177; assumption log) -/
def rxRead (c : Conn) (w : Wire) (key : Word) (va len : Nat) (s : State) : State :=
  let i := c.idx
  match psnPlace c w.psn with
  | .future => answer i 1 (BitVec.ofNat 24 c.rqPsn) s
  | .past ext =>
    match (s.keyed key).filter (·.state != .free) with
    | some m => postResponse c ext va 0 (mooringBytes m va len s) s
    | none => answer i 3 w.psn s
  | .expected =>
    if c.rxMsg.isSome then invalidRequest i w.psn s
    else if mayAccess c key va len 1 s then
      match s.keyed key with
      | none => s
      | some m =>
        let a := (s.modMooring m.idx fun m => { m with inflight := m.inflight ++ [i] }).modConn i fun c => { c with msn := c.msn + 1 }
        advanceRq i (c.packets len) (postResponse c c.rqPsn va key (mooringBytes m va len s) a)
    else refuseAccess i w.psn s

/-! ### The peer-read protocol (R292 to R294) -/

/-- The 64 bytes of a PEER_RSP. -/
def peerRspBytes (status tag va : Nat) (key : Word) (len : Nat) (crc : Word) : List Byte :=
  let head := natBytes 4 0x53525051 ++ natBytes 1 status ++ natBytes 1 0 ++ natBytes 2 tag ++ natBytes 8 va ++
    leBytes 4 key ++ natBytes 4 0 ++ natBytes 8 len ++ leBytes 4 crc ++ natBytes 24 0
  head ++ leBytes 4 (crc32c head)

def peerRefuse (i tag status : Nat) (s : State) : State := postSend i (.peerRsp tag) (peerRspBytes status tag 0 0 0 0) s

/-- The 32 bytes of a PEER_DONE. -/
def peerDoneBytes (tag : Nat) : List Byte :=
  let head := natBytes 4 0x4E445051 ++ natBytes 2 tag ++ natBytes 22 0
  head ++ leBytes 4 (crc32c head)

/-- The samples of a shard back to back. (DEDUCED 58; assumption log) -/
def Partition.shardBytes (p : Partition) (first count : Nat) : List Byte :=
  (List.range count).flatMap fun j => p.sampleBytes (first + j)

/-- The bytes a PEER_REQ names, with the SPD that serves them; none when the device does not hold them.
(DEDUCED 58; assumption log) -/
def peerBytes (dataset : Dword) (kind index offset len : Nat) (s : State) : Option (Nat × List Byte) :=
  let ps := s.media.partitions.filter (·.dataset == dataset)
  if kind = 1 then
    (ps.find? fun p => index % p.parts == p.p && p.samples.any (·.index == index / p.parts)).map fun p =>
      (s.homeOf (index / p.parts), p.sampleBytes (index / p.parts))
  else if kind = 2 then
    ps.findSome? fun p =>
      match p.shards.find? (·.1 == index) with
      | none => none
      | some (_, first, count) =>
        let bs := p.shardBytes first count
        if offset + len ≤ bs.length ∧ len ≤ 268435456 then some (s.homeOf first, (bs.drop offset).take len) else none
  else none

/-- The device holds a partition of the dataset under a job key whose check value is another (R466). -/
def peerKeyBad (dataset : Dword) (s : State) : Bool :=
  s.media.partitions.any fun p => p.dataset == dataset && ((s.sec.jobKey.map keyCheck) != some p.keyCheck)

/-- A PEER_REQ arrives: refused by status, or held in order of arrival with its Berth drawn.
(DEDUCED 57; assumption log) -/
def takePeerReq (c : Conn) (bs : List Byte) (s : State) : State :=
  let tag := byteField bs 6 2
  let kind := byteField bs 4 1
  let dataset := BitVec.ofNat 64 (byteField bs 16 8)
  let index := if kind = 1 then byteField bs 24 6 else byteField bs 24 4
  if byteField bs 8 4 ≠ s.applied.tideJobId.toNat ∨ peerKeyBad dataset s then peerRefuse c.idx tag 4 s
  else
    match peerBytes dataset kind index (byteField bs 32 8) (byteField bs 40 4) s with
    | none => peerRefuse c.idx tag 1 s
    | some (n, data) =>
      if 64 ≤ c.serves.length then peerRefuse c.idx tag 3 s
      else
        let (ok, a) := drawBerths n 3 true none [data.length] s
        if ok then
          a.modConn c.idx fun c =>
            { c with serves := c.serves ++ [⟨tag, dataset, kind, index, byteField bs 32 8, data.length, false, 0, data, 0, n⟩] }
        else peerRefuse c.idx tag 3 a

/-- The serve Mooring of a filled Berth, at an address that the device chooses. (DESIGN CHOICE 54; assumption log) -/
def serveMooring (i n : Nat) (v : Serve) (s : State) : State :=
  let (va, a) := s.draw
  let gen := ((s.mooring? n).map (·.gen)).getD 1
  let m : Mooring := ⟨n, gen, 0, va.toNat, v.length, 1, .valid, [], true, 0⟩
  let b := a.modEgr fun e => { e with moorings := e.moorings.filter (·.idx != n) ++ [m] }
  postSend i (.peerRsp v.tag) (peerRspBytes 0 v.tag va.toNat m.key v.length (crc32c v.bytes))
    (b.modConn i fun c => { c with serves := c.serves.map fun w =>
      if w = v then { w with ready := true, key := n, sentAt := s.mono } else w })

/-- The lowest ordinary Mooring index not in use (R276). (DESIGN CHOICE 54; assumption log) -/
def freeIndex (s : State) : Option Nat :=
  let used := (s.egr.moorings.filter (·.state != .free)).map (·.idx)
  (List.range (used.length + 1)).find? fun i => !used.contains i && decide (i < spaceKey)

/-- PEER_SERVE_READY (R292): the oldest request not yet answered. (DEDUCED 58; assumption log) -/
def execPeerServeReady (conn : Nat) (tag : Half) (mediaFailed : Bool) (s : State) : Answer :=
  match s.conn? conn with
  | none => .next s
  | some c =>
    match c.serves.find? fun v => !v.ready with
    | none => .next s
    | some v =>
      let drop (u : State) : State :=
        (returnBuffers v.spd 3 v.bytes.length u).modConn conn fun c => { c with serves := c.serves.erase v }
      if v.tag ≠ tag.toNat then .next s
      else if mediaFailed then .next (peerRefuse conn v.tag 2 (drop s))
      else
        match freeIndex s with
        | some n => .next (serveMooring conn n v s)
        | none => .next (peerRefuse conn v.tag 3 (drop s))

/-- The request that asked this peer under a tag. -/
def peerRequest (i tag : Nat) (s : State) : Option Request :=
  s.run.requests.find? fun r =>
    r.phase == .peerWait && r.peerTag == tag &&
      match s.stream? r.key.stream with
      | none => false
      | some t => match s.partFor t with
        | none => false
        | some p => (peersFor t p r)[r.peerIdx]? == some i

/-- A PEER_RSP to a read of a shard range: the range is read, or the next peer is asked. -/
def takeFetchRsp (c : Conn) (bs : List Byte) (x : Fetch) (s : State) : State :=
  if byteField bs 4 1 ≠ 0 ∨ byteField bs 24 8 ≠ x.ask then fetchFailed x s
  else
    postWr c.idx (c.readWr (.fetchRead x.tag) (byteField bs 8 8) (BitVec.ofNat 32 (byteField bs 16 4)) x.ask)
      (s.modFetch x.id fun y => { y with part := [], crc := BitVec.ofNat 32 (byteField bs 32 4) })

/-- A PEER_RSP arrives: the range is read into a Berth, or the next peer is asked. -/
def takePeerRsp (c : Conn) (bs : List Byte) (s : State) : State :=
  let tag := byteField bs 6 2
  match peerRequest c.idx tag s with
  | none =>
    match s.fetchAt c.idx tag with
    | none => s
    | some x => takeFetchRsp c bs x s
  | some r =>
    let status := byteField bs 4 1
    let len := byteField bs 24 8
    if status ≠ 0 then peerFailed r.key (status == 3) s
    else
      match s.stream? r.key.stream with
      | none => s
      | some t =>
        match s.partFor t with
        | none => s
        | some p =>
          let (ok, a) := reqDrawBerths r t p [len] s
          if !ok then berthRetry r.key (postSend c.idx .peerDone (peerDoneBytes tag) a)
          else
            postWr c.idx (c.readWr (.peerRead r.key) (byteField bs 8 8) (BitVec.ofNat 32 (byteField bs 16 4)) len)
              (a.modReq r.key fun q => { q with encoded := [], peerCrc := BitVec.ofNat 32 (byteField bs 32 4) })

/-- A PEER_DONE arrives: the serve Mooring is revoked. -/
def takePeerDone (c : Conn) (bs : List Byte) (s : State) : State :=
  match c.serves.find? fun v => v.ready && v.tag == byteField bs 4 2 with
  | none => s
  | some v => revokeServe v.key s

/-- PEER_HOLD_EXPIRY (R292, R297). -/
def execPeerHoldExpiry (conn : Nat) (tag : Half) (s : State) : Answer :=
  match (s.conn? conn).bind fun c => c.serves.find? fun v => v.ready && v.tag == tag.toNat with
  | none => .next s
  | some v =>
    if v.sentAt + max 200 s.applied.egrPeerHold.toNat * 1000 ≤ s.mono then .next (revokeServe v.key s) else .next s

/-- The read of a shard range from a peer ends: complete with the CRC of the PEER_RSP, or the peer has failed (R294). -/
def fetchReadDone (conn : Nat) (x : Fetch) (complete : Bool) (s : State) : State :=
  let done (u : State) : State := postSend conn .peerDone (peerDoneBytes x.tag) u
  if !complete then
    fetchFailed x (done (s.modConn conn fun c => { c with queue := c.queue.filter fun w => w.owner != .fetchRead x.tag }))
  else if s.anyWr (· == .fetchRead x.tag) ∨ s.anyWr (· == .fetchReq x.tag) then s
  else if crc32c x.part ≠ x.crc then fetchFailed x (done s)
  else fetchArrived x (done s)

/-- PEER_READ_DONE (R294): the range is complete and its CRC is that of the PEER_RSP, or the peer has failed. -/
def execPeerReadDone (conn : Nat) (tag : Half) (complete : Bool) (s : State) : Answer :=
  match peerRequest conn tag.toNat s with
  | none =>
    match s.fetchAt conn tag.toNat with
    | none => .next s
    | some x => .next (fetchReadDone conn x complete s)
  | some r =>
    match s.stream? r.key.stream with
    | none => .next s
    | some t =>
      let done (u : State) : State := postSend conn .peerDone (peerDoneBytes tag.toNat) u
      if !complete then
        let a := s.modConn conn fun c => { c with queue := c.queue.filter fun w => w.owner != .peerRead r.key }
        .next (peerFailed r.key true (done a))
      else if s.anyWr (· == .peerRead r.key) ∨ s.anyWr (· == .peerReq r.key) then .next s
      else if crc32c r.encoded ≠ r.peerCrc then .next (peerFailed r.key false (done s))
      else
        let a := cacheAdmit r.spd false t.dsSlot r.sample true ⟨[], r.encoded⟩ 0 none (done s)
        .next (enterPhase r.key (if t.cls = 4 then .tokenise else .decode) (if t.cls = 4 then .transform else .decode) a)

/-! ### Messages and answers -/

/-- A SEND of at most 64 bytes: a return on a delivery lane; on a peer connection, what its MAGIC says, when its length
and CRC hold. (DEDUCED 57; assumption log) -/
def takeMessage (c : Conn) (bs : List Byte) (s : State) : State :=
  if !c.peer then takeReturn c.idx bs s
  else
    let magic := byteField bs 0 4
    let whole (n : Nat) : Bool := bs.length == n && byteField bs (n - 4) 4 == (crc32c (bs.take (n - 4))).toNat
    if magic = 0x51525051 ∧ whole 64 then takePeerReq c bs s
    else if magic = 0x53525051 ∧ whole 64 then takePeerRsp c bs s
    else if magic = 0x4E445051 ∧ whole 32 then takePeerDone c bs s
    else s

/-- The SENDs of R271: each takes a receive credit, which comes back once its message has been taken.
(DESIGN CHOICE 176; assumption log) -/
def rxMessage (c : Conn) (w : Wire) (bs : List Byte) (s : State) : State :=
  match psnPlace c w.psn with
  | .past _ => answer c.idx 0 w.psn s
  | .future => answer c.idx 1 (BitVec.ofNat 24 c.rqPsn) s
  | .expected =>
    if 64 < bs.length then invalidRequest c.idx w.psn (countRefused s)
    else if c.rxMsg.isSome then invalidRequest c.idx w.psn s
    else if c.credits = 0 then answer c.idx 4 w.psn s
    else
      takeMessage c bs (advanceRq c.idx 1 (answer c.idx 0 w.psn (s.modConn c.idx fun c =>
        { c with credits := c.credits - 1, msn := c.msn + 1 })))

/-- A NAK Sequence Error resends; every other NAK puts the connection in error (R269, R270). -/
def rxNak (c : Conn) (w : Wire) (code : Nat) (s : State) : State :=
  let ext := extPsn c.sqUna w.psn
  if c.sentEnd ≤ ext then s
  else
    let a := ackUpTo c.idx ext s
    if code = 0 then retryOrFail c.idx a else connError c.idx (if code = 2 then 3 else 5) a

/-- An RNR NAK is retried `RNR_RETRY` times, 7 without limit (R270). -/
def rxRnr (c : Conn) (w : Wire) (s : State) : State :=
  let ext := extPsn c.sqUna w.psn
  if c.sentEnd ≤ ext then s
  else
    let a := ackUpTo c.idx ext s
    let limit := fieldOf s.applied.egr 7 3
    let used := ((a.conn? c.idx).map (·.rnrRetries)).getD 0
    if limit ≠ 7 ∧ limit ≤ used then connError c.idx 2 a
    else a.modConn c.idx fun c => { c with rnrWait := true, rnrRetries := c.rnrRetries + 1 }

/-- An RDMA READ response: in order it is taken; one that skips a packet goes back. -/
def rxReadRsp (c : Conn) (w : Wire) (bs : List Byte) (s : State) : State :=
  let ext := extPsn c.sqUna w.psn
  match c.queue.find? fun q => q.kind == .read && q.left == 0 &&
      (q.psn.map fun p => decide (p ≤ ext ∧ ext < p + q.total)).getD false with
  | none => s
  | some q =>
    let start := q.psn.getD 0
    let a := ackUpTo c.idx start s
    let una := ((a.conn? c.idx).map (·.sqUna)).getD 0
    if ext ≠ una then (if una < ext then retryOrFail c.idx a else a)
    else
      let finished := decide (ext + 1 = start + q.total)
      let b := a.modConn c.idx fun c =>
        { c with sqUna := ext + 1, ackAt := s.mono, retries := 0, count := (c.count + flag finished) % 2 ^ 32,
                 queue := if finished then c.queue.filter fun x => !(x.kind == .read && x.psn == q.psn) else c.queue }
      let d := match q.owner with
        | .peerRead k => b.modReq k fun r => { r with encoded := r.encoded ++ bs }
        | .fetchRead tag => b.modFetches (·.map fun x => if x.tag = tag ∧ x.state = .asked then { x with part := x.part ++ bs } else x)
        | _ => b
      if c.encKey ≠ 0 ∧ 2 ^ 48 - 1 ≤ ext then keyExhausted c.idx d else d

/-- A CNP received cuts the connection's rate; one within 20 µs of the cut is ignored (R306). -/
def rxCnp (c : Conn) (s : State) : State :=
  let a := countPerf (dieOfConn c.idx s) 0x201 (s.modConn c.idx fun c =>
    { c with ccTimer := s.mono, ccBucket := ccNow c s, ccSince := s.mono })
  if (c.ccCut.map fun t => decide (s.mono < t + 20000)).getD false then a
  else
    let f := max (max 1 (fieldOf s.applied.bwCc 0 16)) (3 * c.ccRate / 4)
    a.modConn c.idx fun c => { c with ccRate := f, ccCut := some s.mono }

/-- A refused packet on a connection (R269). -/
def rxBad (c : Conn) (kind : RefusedKind) (s : State) : State :=
  let a := countRefused s
  match kind with
  | .otherTransport | .qp1Mad => a
  | _ => invalidRequest c.idx (BitVec.ofNat 24 c.rqPsn) a

/-- A CE-marked packet is answered by a CNP, at most one per connection every 4 µs (R269). -/
def sendCnp (c : Conn) (ce : Bool) (s : State) : State :=
  if ce && !((c.lastCnpSent.map fun t => decide (s.mono < t + 4000)).getD false) then
    countPerf (dieOfConn c.idx s) 0x202 (answer c.idx 5 0 (s.modConn c.idx fun c => { c with lastCnpSent := some s.mono }))
  else s

/-- The CE mark of a packet. -/
def RxPacket.ce : RxPacket → Bool
  | .write w _ _ _ _ _ _ | .read w _ _ _ | .ack w | .nak w _ | .rnr w | .readRsp w _ _ | .message w _ => w.ce
  | .cnp ce | .bad _ ce => ce

/-- The payload of a packet. -/
def RxPacket.payload : RxPacket → List Byte
  | .write _ _ _ _ _ _ bs | .readRsp _ _ bs | .message _ bs => bs
  | _ => []

/-- The packet's frame has an 802.1Q tag. -/
def RxPacket.tagged : RxPacket → Bool
  | .write w _ _ _ _ _ _ | .read w _ _ _ | .ack w | .nak w _ | .rnr w | .readRsp w _ _ | .message w _ => w.vlan
  | .cnp _ | .bad .. => false

/-- The packet carries a payload, which a tag protects; one without is in clear (R281). -/
def RxPacket.protected (p : RxPacket) : Bool := !p.payload.isEmpty

/-- The tag of a protected payload fails (R281, R282). -/
def RxPacket.tagFails (c : Conn) : RxPacket → Bool
  | .write w _ _ _ _ _ bs | .readRsp w _ bs | .message w bs => c.encKey != 0 && !bs.isEmpty && !w.tagOk
  | _ => false

/-- A packet whose tag fails is dropped and counted, and the eighth in a row is an error (R282). -/
def dropTagged (c : Conn) (s : State) : State :=
  let a := countPerf (dieOfConn c.idx s) 0x205 (s.modConn c.idx fun c => { c with tagFails := c.tagFails + 1 })
  if 8 ≤ c.tagFails + 1 then connError c.idx 9 a else a

/-- What a packet that stands does on its connection. -/
def process (c : Conn) (p : RxPacket) (s : State) : State :=
  match p with
  | .write w key va len first last bs => rxWrite c w key va len first last bs s
  | .read w key va len => rxRead c w key va len s
  | .ack w =>
    let ext := extPsn c.sqUna w.psn
    if c.sentEnd ≤ ext then s else ackUpTo c.idx (ext + 1) s
  | .nak w code => rxNak c w code s
  | .rnr w => rxRnr c w s
  | .readRsp w _ bs => rxReadRsp c w bs s
  | .cnp _ => rxCnp c s
  | .bad kind _ => rxBad c kind s
  | .message w bs => rxMessage c w bs s

/-- A packet is processed on a connection. -/
def deliver (i : Nat) (p : RxPacket) (s : State) : State :=
  match s.conn? i with
  | none => s
  | some c =>
    if c.error.isSome then s
    else if p.tagFails c then dropTagged c s
    else
      let a := sendCnp c p.ce (s.modConn i fun c => if p.protected then { c with tagFails := 0 } else c)
      match a.conn? i with
      | some d => process d p a
      | none => a

/-- The receive credits of a connection come back (R271). -/
def restoreCredits (i : Nat) (s : State) : State := s.modConn i fun c => { c with credits := 64 }

/-- The packet is the first of a READ's responses. -/
def Conn.firstRsp (c : Conn) (w : Wire) : Bool :=
  c.queue.any fun q => q.kind == .read && (q.psn.map fun p => p % 2 ^ 24 == w.psn.toNat).getD false

/-- Bytes behind the BTH of a packet beside its payload: RETH 16, AETH 4, and the 16 reserved bytes of a CNP. -/
def RxPacket.extension (c : Conn) : RxPacket → Nat
  | .write _ _ _ _ first _ _ => 16 * flag first
  | .read .. | .cnp _ => 16
  | .ack _ | .nak .. | .rnr _ => 4
  | .readRsp w last _ => 4 * flag (last || c.firstRsp w)
  | .message .. | .bad .. => 0

/-- The length of a packet's frame from its destination address to its FCS (R267, R301): Ethernet, IP, UDP, BTH, ICRC and FCS,
its extension headers, its payload filled up to words, the tag of a protected payload, and an 802.1Q tag.
(DESIGN CHOICE 52; assumption log) -/
def RxPacket.size (c : Conn) (p : RxPacket) : Nat :=
  let n := p.payload.length
  62 + (if isIpv4 c.gid then 0 else 20) + p.extension c + n + (4 - n % 4) % 4 +
    (if c.encKey = 0 ∨ n = 0 then 0 else 16) + 4 * flag p.tagged

/-- Bytes in the receive buffer of an I/O die, 0 or 1 (R315). (DESIGN CHOICE 52; assumption log) -/
def bufferUsed (die : Nat) (s : State) : Nat :=
  ((s.egr.conns.filter fun c => c.onLink / 8 == die).map fun c => (c.rxWait.map (·.size c)).sum).sum

/-- The priority with flow control that a connection's class has (R307). -/
def State.priorityOf (c : Conn) (s : State) : Option Nat := (s.classRegs c.onLink c.cls).priority

/-- Bytes in the receive buffer of an I/O die that belong to one priority. (DESIGN CHOICE 52; assumption log) -/
def priorityUsed (die prio : Nat) (s : State) : Nat :=
  ((s.egr.conns.filter fun c => c.onLink / 8 == die && s.priorityOf c == some prio).map fun c =>
    (c.rxWait.map (·.size c)).sum).sum

/-- A packet of `c` has entered the receive buffer: where what its priority holds there passes three quarters of it, the
priority is paused (R307); `was` is the state before. (DESIGN CHOICE 52; assumption log) -/
def pfcRise (c : Conn) (was s : State) : State :=
  match s.priorityOf c with
  | none => s
  | some k =>
    if priorityUsed (c.onLink / 8) k was ≤ 786432 ∧ 786432 < priorityUsed (c.onLink / 8) k s then
      s.emit (.pfc c.onLink (linkMac c.onLink) k)
    else s

/-- A packet needs an SPD: a return, a PEER_REQ, a Mooring access or another message; the I/O dies handle the rest alone (R433,
R435). -/
def RxPacket.needsSpd : RxPacket → Bool
  | .write .. | .read .. | .readRsp .. | .message .. => true
  | .ack _ | .nak .. | .rnr _ | .cnp _ | .bad .. => false

/-- A packet arrives on a connection: processed when its context is resident and no SPD it needs sleeps, else held in the
receive buffer, which drops it when full (R315); work for an SPD is a wake (R435). A frame over 9,216 bytes is not accepted
(R267). (DESIGN CHOICE 52; assumption log) -/
def receive (i : Nat) (p : RxPacket) (s : State) : State :=
  match s.conn? i with
  | none => s
  | some c =>
    if c.error.isSome || s.egr.txOff || !bitOf s.egr.linksUp c.onLink || decide (9216 < p.size c) then s
    else
      let needs := p.needsSpd || !c.resident
      let a := (countPerf (8 + c.onLink / 8) (0x100 + c.onLink) s).onlyIf needs (wake 3 true)
      if c.resident && !(needs && a.asleep) then restoreCredits i (deliver i p a)
      else if bufferUsed (c.onLink / 8) a + p.size c ≤ 1048576 then
        pfcRise c a (overcommitRise (a.modConn i fun c => { c with rxWait := c.rxWait ++ [p] }))
      else a

/-- A context becomes resident: the packets that waited, then a timeout that fell meanwhile (R315).
(DESIGN CHOICE 52, DESIGN CHOICE 176; assumption log) -/
def becomeResident (i : Nat) (s : State) : State :=
  match s.conn? i with
  | none => s
  | some c =>
    let a := restoreCredits i ((s.modConn i fun c => { c with resident := true, rxWait := [], timerMissed := false }).each c.rxWait
      fun p u => deliver i p u)
    if c.timerMissed then retryOrFail i a else a

/-- RX_RDMA_WRITE (R277). -/
def execRxRdmaWrite (conn : Nat) (wire : Wire) (key : Word) (va length : Nat) (first last : Bool) (payload : List Byte)
    (s : State) : Answer := .next (receive conn (.write wire key va length first last payload) s)

/-- RX_RDMA_READ (R277). -/
def execRxRdmaRead (conn : Nat) (wire : Wire) (key : Word) (va length : Nat) (s : State) : Answer :=
  .next (receive conn (.read wire key va length) s)

/-- RX_ACK (R270). -/
def execRxAck (conn : Nat) (wire : Wire) (s : State) : Answer := .next (receive conn (.ack wire) s)

/-- RX_NAK (R270). (PRESUMED 51; assumption log) -/
def execRxNak (conn : Nat) (wire : Wire) (code : Nat) (s : State) : Answer := .next (receive conn (.nak wire code) s)

/-- RX_RNR_NAK (R270). -/
def execRxRnrNak (conn : Nat) (wire : Wire) (s : State) : Answer := .next (receive conn (.rnr wire) s)

/-- RX_READ_RESPONSE (R280). -/
def execRxReadResponse (conn : Nat) (wire : Wire) (last : Bool) (payload : List Byte) (s : State) : Answer :=
  .next (receive conn (.readRsp wire last payload) s)

/-- RX_CNP (R306). -/
def execRxCnp (conn : Nat) (ce : Bool) (s : State) : Answer := .next (receive conn (.cnp ce) s)

/-- RX_REFUSED_PACKET (R269); one that names no connection is counted and dropped. -/
def execRxRefusedPacket (conn : Option Nat) (kind : RefusedKind) (ce : Bool) (s : State) : Answer :=
  match conn with
  | some i => .next (receive i (.bad kind ce) s)
  | none => .next (countRefused s)

/-- RETURN_RX (R288). -/
def execReturnRx (conn : Nat) (wire : Wire) (payload : List Byte) (s : State) : Answer :=
  .next (receive conn (.message wire payload) s)

/-- PEER_REQ_RX (R292). -/
def execPeerReqRx (conn : Nat) (wire : Wire) (payload : List Byte) (s : State) : Answer :=
  .next (receive conn (.message wire payload) s)

/-- PEER_RSP_RX (R292). -/
def execPeerRspRx (conn : Nat) (wire : Wire) (payload : List Byte) (s : State) : Answer :=
  .next (receive conn (.message wire payload) s)

/-- PEER_DONE_RX (R292). -/
def execPeerDoneRx (conn : Nat) (wire : Wire) (payload : List Byte) (s : State) : Answer :=
  .next (receive conn (.message wire payload) s)

/-! ### Links and paths (R268, R274) -/

/-- A link is declared down (R268); `conf` is the confidence of its reason, if it raises one (R480). -/
def downLink (m : Nat) (conf : Option Nat) (s : State) : State :=
  if !bitOf s.egr.linksUp m then s
  else
    downLinks [m] (match conf with
      | some c => raiseReason 0x05 c m s
      | none => s)

/-- LINK_DOWN (R268, R480). (DEDUCED 62; assumption log) -/
def execLinkDown (link : Fin 16) (ownSerdes : Bool) (s : State) : Answer :=
  .next (downLink link (some (if ownSerdes then 100 else 25)) s)

/-- LINK_UP (R268): a link that exists, with the transmitters on, 100 ms after firmware is ready (R502, R506);
none on the recovery path (R455). (DEDUCED 138; assumption log) -/
def execLinkUp (link : Fin 16) (s : State) : Answer :=
  if s.pwr.off || s.sec.recovery || s.host.hm == .boot || bitOf s.egr.linksUp link || s.egr.txOff || !linkExists s.applied.egrPort link || (decide (8 ≤ (link : Nat)) && !s.fab.iod1) || decide (s.mono < s.egr.linksFrom) then
    .next s
  else
    .next (wake 3 false (clearReason 0x05 link (setEv .egr 2 (s.modEgr fun e =>
      { e with linksUp := e.linksUp ||| (1 <<< (link : Nat)), upSince := e.upSince.set link s.mono }))))

/-- The connection stands at a work-request boundary: no request is partly sent. -/
def Conn.atBoundary (c : Conn) : Bool := c.queue.all fun w => w.left == 0 || w.psn.isNone

/-- PATH_MIGRATE_BACK (R274): LINK has been up for 1 s. (DEDUCED 60; assumption log) -/
def execPathMigrateBack (conn : Nat) (s : State) : Answer :=
  match s.conn? conn with
  | none => .next s
  | some c =>
    if c.error.isNone ∧ c.onAlt ∧ bitOf s.egr.linksUp c.link ∧ s.egr.upSince.getD c.link 0 + 1000000000 ≤ s.mono ∧
        c.atBoundary then
      .next (changePath conn false s)
    else .next s

/-! ### Heartbeats (R53 to R56) -/

/-- `TIDE_HB_INTERVAL` in ns; 0 acts as 1 µs (R59). -/
def State.hbInterval (s : State) : Nat := max 1 s.applied.tideHbInterval.toNat * 1000

def timeCode : TimeState → Nat
  | .free => 0 | .acquiring => 1 | .locked => 2 | .holdover => 3

def stepCode : StepState → Nat
  | .none => 0 | .seeded => 1 | .tracking => 2 | .lost => 3

/-- The 32 bytes of a heartbeat record. (PRESUMED 140; assumption log) -/
def heartbeatBytes (c : Conn) (s : State) : List Byte :=
  let st := timeCode s.tide.timeState + 4 * stepCode s.tide.stepState + 16 * s.hlth.grade
  let head := natBytes 8 (c.hbSeq + 1) ++ natBytes 6 s.step ++ natBytes 2 st ++ natBytes 5 s.phase ++ natBytes 3 0 ++
    leBytes 4 s.applied.tideLease ++ natBytes 2 ((s.run.job.map (·.node)).getD 0)
  head ++ (leBytes 4 (crc32c head)).take 2

/-- HEARTBEAT_SEND (R53, R54, R56). (DESIGN CHOICE 179; assumption log) -/
def execHeartbeatSend (conn : Nat) (s : State) : Answer :=
  match s.conn? conn with
  | none => .next s
  | some c =>
    if c.error.isSome ∨ s.mono < c.hbAt ∨ s.hlth.grade = 3 ∨ s.jobStopped then .next s
    else
      let a := postWrite conn .heartbeat c.hbVa c.hbRkey (heartbeatBytes c s) none 0 s
      .next (countPerf (dieOfConn conn s) 0x206 (a.modConn conn fun c =>
        { c with hbSeq := c.hbSeq + 1, hbAt := c.hbAt + s.hbInterval }))

end Sys2Proof.Machine
end

