-- ==== Sys2Proof/Machine/Breakwater.lean ====
section
/-! DEFINITION. Breakwater (R299 to R307, R311, R314 to R317): which frame a link sends next, shapers and congestion
rates, priority flow control, and the residence of connection contexts. -/

namespace Sys2Proof.Machine

/-! ### Lengths and rates -/

/-- Bytes of packet `k` of a work request, with their offset. -/
def Wr.packetBytes (c : Conn) (w : Wr) (k : Nat) : Nat × List Byte :=
  match w.kind with
  | .read => (0, [])
  | _ => (k * c.payload, (w.bytes.drop (k * c.payload)).take c.payload)

/-- Bytes of a packet beside Ethernet, IPv4, UDP, BTH, ICRC and FCS: the RETH of a WRITE's first packet and of a READ, the
AETH of a response's first and last one, the tag of a protected payload (R281).
(PRESUMED 50, PRESUMED 140; assumption log) -/
def Wr.extension (c : Conn) (w : Wr) (k : Nat) : Nat :=
  (match w.kind with
   | .write => if k = 0 then 16 else 0
   | .read => 16
   | .send => 0
   | .response => if k = 0 ∨ k + 1 = w.total then 4 else 0) +
  (if c.encKey = 0 ∨ (w.packetBytes c k).2.isEmpty then 0 else 16)

/-- Bytes that fill a payload up to whole words. -/
def padOf (n : Nat) : Nat := (4 - n % 4) % 4

/-- The charged length of packet `k` of a work request: the frame from its destination address to its FCS, and the overhead
(R301). -/
def Wr.chargedAt (c : Conn) (w : Wr) (k : Nat) (s : State) : Nat :=
  (w.packetBytes c k).2.length + padOf (w.packetBytes c k).2.length + 62 + (if isIpv4 c.gid then 0 else 20) + w.extension c k +
    4 * flag (bitOf (s.classRegs c.onLink c.cls).class0 20) + fieldOf s.applied.bw 0 6

/-- The place of the next packet of a work request. -/
def Wr.nextPacket (w : Wr) : Nat := if w.kind = .read then 0 else w.total - w.left

/-- The charged length of the next frame of a work request. (PRESUMED 50; assumption log) -/
def charged (c : Conn) (w : Wr) (s : State) : Nat := w.chargedAt c w.nextPacket s

/-- Charged bytes that a queue holds. -/
def queueCharged (c : Conn) (s : State) : Nat :=
  (c.readyWrs.map fun w =>
    ((List.range w.left).map fun j => w.chargedAt c (w.nextPacket + j) s).sum).sum

/-- The time a frame takes on a link, in whole ns. (DEDUCED 49; assumption log) -/
def frameNs (m len : Nat) (s : State) : Nat := (len * 8000 + s.linkRate m - 1) / s.linkRate m

/-! ### Eligible queues (R302 to R306) -/

/-- A peer read that has not begun, and may not any more: `CFG_EGR_PEER_HOLD` − 100 µs have passed since the PEER_RSP (R292). -/
def Wr.tooLate (w : Wr) (s : State) : Bool :=
  w.kind == .read && w.psn.isNone && decide (w.posted + max 200 s.applied.egrPeerHold.toNat * 1000 < s.mono + 100000)

/-- The first request with packets to send, when nothing holds it: no wait, no RNR, and at most 16 READs (R270, R280). -/
def Conn.nextRequest (c : Conn) (s : State) : Option (Wr × Nat) :=
  (c.queue.zipIdx.find? fun (w, _) => w.request && w.left != 0 && !w.tooLate s).filter fun (w, _) =>
    w.wait.isNone && !c.rnrWait && (w.kind != .read || w.psn.isSome || decide (c.readsOut < 16))

/-- The next work request of a queue that may send: its oldest response or its next request. -/
def Conn.nextWr (c : Conn) (s : State) : Option (Wr × Nat) :=
  match c.queue.zipIdx.find? fun (w, _) => !w.request && w.left != 0, c.nextRequest s with
  | some a, some b => if a.2 < b.2 then some a else some b
  | some a, none => some a
  | none, b => b

/-- Queues of a class of a link that hold a packet and may send by R304 or R305. (DEDUCED 49; assumption log) -/
def eligible (m k : Nat) (s : State) : List Conn :=
  let g := s.classRegs m k
  let token := !bitOf g.class0 0
  s.egr.conns.filter fun c =>
    c.error.isNone && c.resident && c.onLink == m && c.cls == k && (c.nextWr s).isSome && ccOpen c s &&
      (!token || g.qRate == 0 || decide (0 ≤ tokenNow c s))

/-- The queue a class serves next: round robin from the last, or the least start tag. -/
def pickQueue (m k : Nat) (s : State) : Option Conn :=
  let cs := sortBy (fun a b => decide (a.idx ≤ b.idx)) (eligible m k s)
  if bitOf (s.classRegs m k).class0 0 then
    cs.foldl (fun best c =>
      match best with
      | none => some c
      | some b => if c.vtag < b.vtag then some c else some b) none
  else (cs.find? fun c => decide ((s.classRun m k).last ≤ c.idx)).orElse fun _ => cs.head?

/-- The predicted start that restarts a STEP-aligned list while no accepted start stands (R310). -/
def predictedCut (r : SluRun) (s : State) : Option Int :=
  if r.stepAligned ∧ (s.tide.stepState = .none ∨ s.tide.stepState = .lost) then some (r.origin + s.period) else none

/-- A class of a link that may send now: its queue, and the charged length of its next frame. -/
def pickClass (m k : Nat) (s : State) : Option (Conn × Wr × Nat × Nat) :=
  match pickQueue m k s with
  | none => none
  | some c =>
    match c.nextWr s with
    | none => none
    | some (w, j) =>
      let len := charged c w s
      let gate := ((s.bw.lists[s.bw.linkList.getD m 0]?).map fun r =>
        r.mayStart k s.period s.now (predictedCut r s) (frameNs m len s)).getD true
      if gate && !((s.classRun m k).paused && (s.classRegs m k).pfc) && classOpen m k s then some (c, w, j, len) else none

/-- Deficit round robin (R302): the class being served goes on while its deficit covers its next frame; each class the
turn reaches receives WEIGHT × 512 bytes. -/
def drrTurn (weight : Nat → Nat) (need : Nat → Option Nat) : Nat → Nat → (Nat → Int) → Option (Nat × (Nat → Int))
  | 0, _, _ => none
  | fuel + 1, k, d =>
    match need k with
    | some len =>
      if (len : Int) ≤ d k then some (k, d)
      else
        let k' := (k + 1) % 8
        drrTurn weight need fuel k' fun x => if x = k' ∧ (need k').isSome then d x + weight k' * 512 else d x
    | none =>
      let k' := (k + 1) % 8
      drrTurn weight need fuel k' fun x => if x = k' ∧ (need k').isSome then d x + weight k' * 512 else d x

def weightOf (g : ClassRegs) : Nat := max 1 (fieldOf g.class0 2 8)

/-- The class a link serves, with the deficits of its classes after the turn. -/
def pickTurn (m : Nat) (s : State) : Option (Nat × List Int) :=
  let strict (k : Nat) : Bool := bitOf (s.classRegs m k).class0 1
  let held (k : Nat) : Int := if (eligible m k s).isEmpty then 0 else (s.classRun m k).deficit
  let keep := (List.range 8).map held
  match (List.range 8).reverse.find? fun k => strict k && (pickClass m k s).isSome with
  | some k => some (k, keep)
  | none =>
    let need (k : Nat) : Option Nat := if strict k then none else (pickClass m k s).map fun x => x.2.2.2
    (drrTurn (fun k => weightOf (s.classRegs m k)) need 512 (s.bw.drr.getD m 7) held).map fun (k, d) =>
      (k, (List.range 8).map fun x => if x = k then d x - ((need k).getD 0 : Nat) else d x)

/-! ### A frame goes out -/

/-- Bin of a histogram whose bin 1 begins at 2^`first` (R317). -/
def histBin (first v : Nat) : Nat := if v < 2 ^ first then 0 else min 15 (Nat.log2 v - first + 1)

/-- One count into a bin, saturating at 32 bits. -/
def histCount (first v : Nat) (h : List Nat) : List Nat := updAt h (histBin first v) fun n => min (2 ^ 32 - 1) (n + 1)

/-- Every SAMPLE_N-th frame of a queue is sampled (R317). -/
def sampleFrame (posted : Nat) (s : State) (c : Conn) : Conn :=
  if !bitOf s.applied.bw 16 then c
  else
    let n := max 1 (min 65536 (fieldOf s.applied.bwHist 0 17))
    if c.sampleTick + 1 < n then { c with sampleTick := c.sampleTick + 1 }
    else
      { c with sampleTick := 0, soj := histCount 7 (s.mono - posted) c.soj, depth := histCount 10 (queueCharged c s) c.depth }

/-- The work request at a place after one packet of it; a request that begins takes its PSNs. -/
def sentWr (c : Conn) (j : Nat) (now : Nat) : Conn :=
  match c.queue[j]? with
  | none => c
  | some w =>
    let fresh := w.request && w.psn.isNone
    let w' := { w with left := w.left - 1, psn := some (w.psn.getD c.sqPsn) }
    let q := if !w.request && w'.left == 0 then c.queue.eraseIdx j else c.queue.set j w'
    { c with queue := q, sqPsn := if fresh then c.sqPsn + w.total else c.sqPsn,
             ackAt := if w.request && decide (c.sentEnd ≤ c.sqUna) then now else c.ackAt }

/-- AckReq goes with the last packet of a request and with every 32nd of its packets (R270).
(DESIGN CHOICE 175; assumption log) -/
def Wr.ackReq (w : Wr) (k : Nat) : Bool := w.request && (w.kind == .read || k + 1 == w.total || (k + 1) % 32 == 0)

/-- The nonce of R281: the slot's salt, the direction, 0x00 and the extended PSN, big-endian; none on a connection without a
key. -/
def sealNonce (c : Conn) (ext : Nat) (s : State) : Option (BitVec 256 × List Byte) :=
  if c.encKey = 0 then none
  else (s.sec.connKeys.find? (·.1 == c.encKey)).map fun (_, key, salt) =>
    (key, leBytes 4 salt ++ [0, 0] ++ (natBytes 6 ext).reverse)

/-- The operation code of packet `k` of a work request on a reliable connection. -/
def Wr.opcode (w : Wr) (k : Nat) : Nat :=
  let part (only first middle last : Nat) : Nat :=
    if w.total = 1 then only else if k = 0 then first else if k + 1 = w.total then last else middle
  match w.kind with
  | .write => part 0x0A 0x06 0x07 0x08
  | .send => part 0x04 0x00 0x01 0x02
  | .read => 0x0C
  | .response => part 0x10 0x0D 0x0E 0x0F

/-- The BTH of a packet, with the RETH of a WRITE's first packet and of a READ, and the AETH of a response's first and last one,
as sent. (PRESUMED 50; assumption log) -/
def transportBytes (c : Conn) (w : Wr) (k ext : Nat) : List Byte :=
  let pad := padOf (w.packetBytes c k).2.length
  let bth := bigBytes 1 (w.opcode k) ++ bigBytes 1 (0x40 + 16 * pad) ++ bigBytes 2 0xFFFF ++ bigBytes 1 0 ++ bigBytes 3 c.qpn ++
    bigBytes 1 (128 * flag (w.ackReq k)) ++ bigBytes 3 ext
  let reth := bigBytes 8 w.addr ++ bigBytes 4 w.rkey.toNat ++ bigBytes 4 w.dmaLen
  let aeth := bigBytes 1 0x1F ++ bigBytes 3 c.msn
  bth ++ match w.kind with
    | .write => if k = 0 then reth else []
    | .read => reth
    | .send => []
    | .response => if k = 0 ∨ k + 1 = w.total then aeth else []

/-- The payload as it is sent: on a protected connection the ciphertext and the tag, over the BTH and any RETH or AETH as
sent; a packet without a payload is in clear (R281). -/
def sealedBytes (c : Conn) (w : Wr) (ext : Nat) (bs : List Byte) (s : State) : List Byte :=
  if bs.isEmpty then []
  else
    match sealNonce c ext s with
    | none => bs
    | some (key, nonce) => gcmSeal (leBytes 32 key) nonce (transportBytes c w w.nextPacket ext) bs

/-- The address of a link of one family, as PORT_CONFIG set it (R267, R365); all zeros before.
(DESIGN CHOICE 192; assumption log) -/
def State.linkAddress (m : Nat) (v6 : Bool) (s : State) : Nat :=
  ((s.egr.linkAddr.find? fun x => x.1 == m && x.2.1 == v6).map (·.2.2.1.toNat)).getD 0

/-- The invariant CRC of a packet: CRC-32 over eight bytes of ones, the IP and UDP headers with the fields that change on
the way as ones, and the BTH with its reserved byte as ones, to the end of the payload as sent (R281).
(PRESUMED 50, DESIGN CHOICE 192; assumption log) -/
def icrc (m : Nat) (c : Conn) (transport payload : List Byte) (s : State) : Word :=
  let body := transport.take 4 ++ [0xFF] ++ transport.drop 5 ++ payload ++ List.replicate (padOf payload.length) 0
  let udpLen := 8 + body.length + 4
  let udp := bigBytes 2 (Config.udpSource c.idx).toNat ++ bigBytes 2 4791 ++ bigBytes 2 udpLen ++ [0xFF, 0xFF]
  let ip := if isIpv4 c.gid then
      [0x45, 0xFF] ++ bigBytes 2 (20 + udpLen) ++ bigBytes 2 (Config.ipv4Id c.idx s.free).toNat ++ bigBytes 2 0x4000 ++
        [0xFF, 17, 0xFF, 0xFF] ++ bigBytes 4 (s.linkAddress m false) ++ bigBytes 4 c.gid.toNat
    else
      [0x6F, 0xFF, 0xFF, 0xFF] ++ bigBytes 2 udpLen ++ [17, 0xFF] ++ bigBytes 16 (s.linkAddress m true) ++ bigBytes 16 c.gid.toNat
  crc32 (List.replicate 8 0xFF ++ ip ++ udp ++ body)

/-- What a packet shows beside its payload (R307). -/
def frameHdr (m : Nat) (c : Conn) (w : Wr) (ext len : Nat) (s : State) : FrameHdr :=
  let g := s.classRegs m c.cls
  { link := m, mac := linkMac m, dscp := fieldOf g.class0 10 6, ect0 := true
    tag := if bitOf g.class0 20 then some (fieldOf g.class0 16 3, fieldOf g.class1 0 12) else none
    conn := c.idx, psn := ext % 2 ^ 24, ackReq := w.ackReq w.nextPacket, len := len - fieldOf s.applied.bw 0 6
    nonce := if (w.packetBytes c w.nextPacket).2.isEmpty then none else (sealNonce c ext s).map (·.2)
    transport := transportBytes c w w.nextPacket ext
    icrc := icrc m c (transportBytes c w w.nextPacket ext) (sealedBytes c w ext (w.packetBytes c w.nextPacket).2 s) s }

/-- The frame of a work request leaves on its link: PSNs, credits, tags, the output, the histograms. -/
def sendFrame (m k : Nat) (c : Conn) (w : Wr) (j len : Nat) (s : State) : State :=
  let first := w.psn.getD c.sqPsn
  let ext := first + w.nextPacket
  let (o, bs) := w.packetBytes c w.nextPacket
  let h := frameHdr m c w ext len s
  let g := s.classRegs m k
  let token := !bitOf g.class0 0
  let a := (s.emit (.frame h)).onlyIf (w.kind != .read) (·.emit (.rdma c.idx (w.addr + o) (sealedBytes c w ext bs s)))
  let b := a.modConn c.idx fun x =>
    sampleFrame w.posted s { sentWr x j s.mono with
      tokenCredit := if token ∧ g.qRate ≠ 0 then tokenNow c s - (len * 8000 : Nat) else x.tokenCredit
      tokenSince := if token then s.mono else x.tokenSince
      ccBucket := if c.ccRate = 65536 then x.ccBucket else ccNow c s - (len * 8000 * 65536 : Nat)
      ccSince := s.mono
      vtag := if token then x.vtag else x.vtag + len }
  let d := b.modBw fun x =>
    { x with classes := updAt x.classes (m * 8 + k) fun r =>
        { r with credit := if g.rate = 0 then r.credit else classCredit m k s - (len * 8000 : Nat), since := s.mono
                 vtime := if token then r.vtime else c.vtag, last := c.idx + 1 } }
  let e := countPerf (8 + m / 8) m d
  let f := if w.kind = .response ∧ w.left ≤ 1 ∧ w.rkey ≠ 0 then endMessage c.idx w.rkey e else e
  if c.encKey ≠ 0 ∧ 2 ^ 48 - 1 ≤ ext then keyExhausted c.idx f else f

/-- FRAME_TX_DONE (R302). -/
def execFrameTxDone (link : Fin 16) (s : State) : Answer :=
  let m := (link : Nat)
  if s.egr.txOff || !bitOf s.egr.linksUp m then .next s
  else
    let deficits (ds : List Int) (t : State) : State := t.modBw fun x =>
      { x with classes := x.classes.mapIdx fun i r => if i / 8 = m then { r with deficit := ds.getD (i % 8) 0 } else r }
    match pickTurn m s with
    | none => .next (deficits ((List.range 8).map fun k =>
        if (eligible m k s).isEmpty then 0 else (s.classRun m k).deficit) s)
    | some (k, ds) =>
      match pickClass m k s with
      | none => .next s
      | some (c, w, j, len) =>
        let strict := bitOf (s.classRegs m k).class0 1
        .next (sendFrame m k c w j len (deficits ds (if strict then s else
          s.modBw fun x => { x with drr := x.drr.set m k })))

/-- PFC_RX (R307): pause or resume of the classes whose PCP is the priority; PFC_EN without TAG has no effect. -/
def execPfcRx (link : Fin 16) (priority : Fin 8) (pause : Bool) (s : State) : Answer :=
  .next (s.modBw fun x =>
    { x with classes := x.classes.mapIdx fun i r =>
        let w := ((s.applied.classes[i]?).map (·.class0)).getD 0
        if i / 8 = (link : Nat) ∧ bitOf w 19 ∧ bitOf w 20 ∧ fieldOf w 16 3 = (priority : Nat) then { r with paused := pause }
        else r })

/-- CC_RATE_RECOVER (R306). -/
def execCcRateRecover (conn : Nat) (s : State) : Answer :=
  match s.conn? conn with
  | none => .next s
  | some c =>
    let step := 1000 * max 1 (fieldOf s.applied.bwCc 16 8)
    if c.error.isNone ∧ c.ccRate < 65536 ∧ c.ccTimer + step ≤ s.mono then
      .next (s.modConn conn fun c =>
        { c with ccBucket := ccNow c s, ccSince := s.mono, ccRate := min 65536 (c.ccRate + 1024), ccTimer := c.ccTimer + step })
    else .next s

/-- SHAPER_CREDIT_RESTORED (R303, R304, R306): the credits of a class and its queues stand at the present time. -/
def execShaperCreditRestored (link : Fin 16) (cls : Fin 8) (s : State) : Answer :=
  let m := (link : Nat)
  let k := (cls : Nat)
  let a := s.modBw fun x =>
    { x with classes := updAt x.classes (m * 8 + k) fun r => { r with credit := classCredit m k s, since := s.mono } }
  .next (a.modEgr fun e =>
    { e with conns := e.conns.map fun c =>
        if c.onLink = m ∧ c.cls = k then
          { c with tokenCredit := tokenNow c s, tokenSince := s.mono, ccBucket := ccNow c s, ccSince := s.mono }
        else c })

/-! ### Residence (R314 to R316) -/

def State.residents (s : State) : List Conn := s.egr.conns.filter fun c => c.resident || c.loading

/-- CONTEXT_LOAD_DONE (R314): a free place, or that of an inactive context; a context whose copies are both lost is not loaded.
(DESIGN CHOICE 193; assumption log) -/
def execContextLoadDone (conn : Nat) (s : State) : Answer :=
  if s.asleep then .next s else
  match s.conn? conn with
  | none => .next s
  | some c =>
    if !c.active || c.resident || c.loading || c.copies.isEmpty then .next s
    else if s.residents.length < 4096 then .next (becomeResident conn s)
    else
      match s.residents.find? fun x => !x.active with
      | some x => .next (becomeResident conn (s.modConn x.idx fun x => { x with resident := false, loading := false }))
      | none => .next s

/-- The earliest egress latest-start of a connection's unsent work, and the batch it is of (R313, R315).
(DEDUCED 62; assumption log) -/
def workStart (c : Conn) (s : State) : Option (Int × Nat × Nat) :=
  let all := (c.queue.filter fun w => w.left != 0).filterMap fun w =>
    match w.owner.batch? with
    | none => none
    | some (t, b) =>
      match s.stream? t, s.batch? t b with
      | some st, some bt => (egressStart st bt w.budget s).map fun e => (e, t, b)
      | _, _ => none
  all.foldl (fun best x =>
    match best with
    | none => some x
    | some y => if x.1 < y.1 then some x else some y) none

/-- A connection's key in local time (R315): a waiting packet, its work, its acknowledgement timer; none last of all. -/
def residenceKey (c : Conn) (s : State) : Option Int :=
  if !c.rxWait.isEmpty then some 0
  else
    match workStart c s with
    | some (e, _) => some e
    | none => if c.sqUna < c.sentEnd then some ((s.now : Int) + ((c.ackAt + ackLimit s : Nat) - s.mono)) else none

/-- A key before another, equal keys by the lower connection index. -/
def keyBefore (a b : Option Int × Nat) : Bool :=
  match a.1, b.1 with
  | some x, some y => decide (x < y ∨ (x = y ∧ a.2 ≤ b.2))
  | some _, none => true
  | none, some _ => false
  | none, none => decide (a.2 ≤ b.2)

/-- The pairs of R315 whose non-resident key is the earlier: connection in, connection out. -/
def swapPairs (s : State) : List (Nat × Nat) :=
  let keyed (cs : List Conn) : List (Option Int × Nat) := cs.map fun c => (residenceKey c s, c.idx)
  let out := sortBy keyBefore (keyed (s.egr.conns.filter fun c => c.active && !c.resident && !c.loading && !c.copies.isEmpty))
  let in_ := sortBy (fun a b => keyBefore b a) (keyed s.residents)
  ((out.zip in_).filter fun (a, b) => keyBefore a b && a.1 != b.1).map fun (a, b) => (a.2, b.2)

/-- An active connection that cannot send by its latest start: its batch is at risk, and is reported once (R316). -/
def reportRisk (firstSend : Int) (c : Conn) (s : State) : State :=
  match workStart c s with
  | none => s
  | some (e, t, n) =>
    match s.batch? t n with
    | none => s
    | some b =>
      if firstSend ≤ e then s
      else
        let a := setEv .tide 0x200 (s.modBatch t n fun b => { b with atRisk := true })
        let d := setEv .bw 2 (a.modCnt fun x => { x with bwOcLast := BitVec.ofNat 32 c.idx })
        if b.ocReported then d
        else
          postEvent 1 false (natBytes 3 (c.idx + t * 2 ^ 18) ++ natBytes 8 n ++ natBytes 6 b.dlStep ++ natBytes 5 b.dlPhase)
            (d.modBatch t n fun b => { b with ocReported := true })

/-- One swap: out at once, in from the next boundary. -/
def swapOne (p : Nat × Nat) (s : State) : State :=
  let a := s.modConn p.2 fun c => { c with resident := false, loading := false }
  countPerf (dieOfConn p.1 s) 0x203 ((a.modConn p.1 fun c => { c with loading := true }).modCnt fun x =>
    { x with bwSwapCnt := x.bwSwapCnt + 1 })

/-- The boundary of a slice of 2,000 ns (R315, R316). -/
def sliceBoundary (s : State) : Answer :=
  let a := s.each (s.egr.conns.filter (·.loading)) fun c u =>
    becomeResident c.idx (u.modConn c.idx fun c => { c with loading := false })
  let few := decide (a.activeConns ≤ 4096)
  let b := a.modBw fun x => { x with overcommit := x.overcommit && !x.overSlices, overSlices := few }
  if few then .next b
  else
    let pairs := swapPairs b
    let d := (b.each (pairs.take 256) swapOne).onlyIf (decide (256 < pairs.length)) (setEv .bw 8)
    .next (d.each (d.egr.conns.filter fun c => c.active && !c.resident) fun c u =>
      reportRisk ((s.now : Int) + (if c.loading then 2000 else 4000)) c u)

/-- SLICE_BOUNDARY: the slice clock, common to both I/O dies, passes a multiple of 2,000 ns. -/
def execSliceBoundary (s : State) : Answer :=
  if s.mono / 2000 ≤ s.bw.slice then .next s else sliceBoundary (s.modBw fun b => { b with slice := s.mono / 2000 })

/-- CONN_CONTEXT_RECOPY_DONE (R273): the contexts with one copy left have two again. -/
def execConnContextRecopyDone (spd : Fin 8) (s : State) : Answer :=
  if s.fab.contextRecopy.contains (spd : Nat) then
    .next ((s.modFab fun f => { f with contextRecopy := f.contextRecopy.filter (· != (spd : Nat)) }).modEgr fun e =>
      { e with conns := e.conns.map fun c =>
          if c.copies.length < 2 ∧ (!c.copies.isEmpty ∨ c.resident) then { c with copies := contextPlace c.idx s.servingList } else c })
  else .next s

end Sys2Proof.Machine
end

