-- ==== Sys2Proof/Machine/Losses.lean ====
section
/-! DEFINITION. Losses and memory errors: Slipway edges (R15 to R17), dies and stacks (R27, R30, R136), uncorrectable and
corrected memory errors (R123, R124), and the clear at the end of a job (R125). -/

namespace Sys2Proof.Machine

/-! ### Slipway edges (R15, R16, R17, R440) -/

/-- A die is in service. -/
def State.dieUp (d : Nat) (s : State) : Bool := s.fab.dieUp d

def State.modEdge (e : Nat) (f : Edge → Edge) (s : State) : State := s.modFab fun x => { x with edges := updAt x.edges e f }

/-- Edges with a state. -/
def State.edgeWhere (s : State) (p : Edge → Bool) (e : Nat) : Bool := ((s.fab.edges[e]?).map p).getD false

/-- A link test holds an edge out of service (R486). -/
def testsEdge (e : Nat) (s : State) : Bool := s.edgeWhere (·.tested) e

/-- Flits of a class that have arrived from one die at another. -/
def Fabric.arrived (f : Fabric) (c : TrafficClass) (src dst : Nat) : Nat :=
  ((f.flits.find? (·.1 == (c, src, dst))).map (·.2)).getD 0

/-- A flit at its destination: it arrives in its place, and one that comes before a predecessor's retry waits for its own
(R16). (DESIGN CHOICE 151; assumption log) -/
def arriveFlit (c : TrafficClass) (src dst place : Nat) (s : State) : State :=
  if place = s.fab.arrived c src dst then
    s.modFab fun f => { f with flits := ((c, src, dst), place + 1) :: f.flits.filter (·.1 != (c, src, dst)) }
  else s

/-- A flit at a die that is not its destination goes out on the next edge of its route (R17, R18). -/
def forwardFlit (at_ dst : Nat) (k : FlitKind) (s : State) : State :=
  match s.fab.route at_ dst with
  | some (_ :: m :: _) => ((edgeBetween at_ m).map fun e => s.emit (.flit e (decide (at_ < m)) k)).getD s
  | _ => s

/-- What a good flit does to its edge: it is heard, it brings a down edge back, and PARK and UNPARK set the sideband. -/
def Edge.hear (fromLow : Bool) (k : FlitKind) (now : Nat) (e : Edge) : Edge :=
  let both := !e.up || k == .unpark
  { e with
    up := true
    since := if e.up then e.since else now
    parked := match k with | .park => true | .unpark => false | _ => e.parked
    lowHeard := if both || !fromLow then now else e.lowHeard
    highHeard := if both || fromLow then now else e.highHeard }

/-- SLIPWAY_FLIT_RX (R16, R17, R440): a flit that fails its CRC is retried, a CORRECTED error of the edge's SPD; a good one
arrives at its destination or goes on. An edge under test carries none (R486), and an SPD behind isolation sends none (R441).
(DEDUCED 90; assumption log) -/
def execSlipwayFlitRx (edge : Fin 42) (fromLow : Bool) (kind : FlitKind) (crcOk : Bool) (s : State) : Answer :=
  if testsEdge edge s ∨ s.clamped (if fromLow then (edgeEnds edge).1 else (edgeEnds edge).2) then .next s
  else if !crcOk then .next (countCorrected (edgeEnds edge).1 (countPerf (edgeEnds edge).1 0x903 s))
  else
    let a := s.modEdge edge (Edge.hear fromLow kind s.mono)
    let here := if fromLow then (edgeEnds edge).2 else (edgeEnds edge).1
    match kind with
    | .traffic c src dst place =>
      .next (if here = dst then arriveFlit c src dst place a else forwardFlit here dst kind a)
    | .idle | .park | .unpark => .next a

/-- IDLE_FLIT_TIMER (R17): an idle flit goes out from one end, unless the edge is parked. -/
def execIdleFlitTimer (edge : Fin 42) (fromLow : Bool) (s : State) : Answer :=
  let from_ := if fromLow then (edgeEnds edge).1 else (edgeEnds edge).2
  if s.edgeWhere (!·.parked) edge ∧ !s.clamped from_ ∧ s.dieUp from_ then
    .next (s.emit (.flit edge fromLow .idle))
  else .next s

/-! ### Loss of a die or a stack (R14, R27 to R30, R90, R136) -/

/-- With its last SPD the device is graded failed (R30). -/
def lastSpdCheck (s : State) : State := if s.servingList.isEmpty then fatalLoss 0x22 0 s else s

/-- The home SPD of a map segment (R90): that of the shard whose unit its lowest LUA in use maps.
(DESIGN CHOICE 158; assumption log) -/
def segmentHome (seg : Nat) (s : State) : Nat :=
  let lowest := ((s.media.map.filter fun e => segmentOfLua e.1 == seg).map (·.1)).head?
  (lowest.bind fun l => s.media.partitions.findSome? fun p =>
    (p.samples.find? fun x => x.luas.contains l).map fun x => s.homeOf x.index).getD 0

/-- The SPD that holds the mirror of the segments of SPD `n`, among those that serve (R90). -/
def mirrorOf (n : Nat) (serving : List Nat) : Option Nat :=
  ((List.range 8).map fun i => (n + 4 + i) % 8).find? fun m => m != n && serving.contains m

/-- Where the copies of a segment stand. -/
def segmentCopies (seg : Nat) (serving : List Nat) (s : State) : List Nat :=
  match s.fab.oneCopy.find? (·.1 == seg) with
  | some x => [x.2.1]
  | none => let n := segmentHome seg s; n :: (mirrorOf n serving).toList

/-- The SPD's copies of map segments and contexts are to be copied again from the others; a segment without another copy is
loaded from flash (R90, R273). `serving` are the SPDs that served before. (DEDUCED 86; assumption log) -/
def loseCopies (n : Nat) (serving : List Nat) (s : State) : State :=
  let hit := s.media.segments.filter fun g => (segmentCopies g serving s).contains n
  let left (g : Nat) : Option Nat := ((segmentCopies g serving s).filter (· != n)).head?
  let gone := hit.filter fun g => (left g).isNone
  let a := s.modEgr fun e => { e with conns := e.conns.map fun c => { c with copies := c.copies.filter (· != n) } }
  (a.modFab fun f =>
    { f with
      mapRecopy := f.mapRecopy ++ [n], contextRecopy := f.contextRecopy ++ [n]
      oneCopy := (f.oneCopy.filter fun x => !hit.contains x.1) ++ hit.filterMap fun g => (left g).map fun h => (g, h, n) }).modMedia
    fun m => { m with reloadSegments := (m.reloadSegments ++ gone).eraseDups }

/-- The units of the write buffer that lay on an SPD are lost, without an error of their own. -/
def loseBufferQuiet (n : Nat) (s : State) : State :=
  { loseBuffer n s with hlth := s.hlth }

/-- What a lost SPD held for peers goes back. -/
def loseServes (n : Nat) (s : State) : State :=
  s.each s.egr.conns fun c t => t.each (c.serves.filter fun v => v.ready && v.spd == n) fun v u =>
    (revokeServe v.key u).modConn c.idx fun c => { c with serves := c.serves.filter fun x => x.tag != v.tag }

/-- A lost die's counters stand, and its DIE_STALE bit is set (R490). (DEDUCED 139; assumption log) -/
def staleDie (d : Nat) (s : State) : State := s.modPmc fun p => { p with stale := p.stale ||| ((1 : BitVec 12) <<< d) }

/-- The SPDs that serve once `n` is lost (R28): one lost at the same instant, or while the rewrite is in progress, still
stands in the list of the event before its own (R30). -/
def State.servingWithout (n : Nat) (s : State) : List Nat := s.servingList.filter (· != n)

/-- An SPD is declared lost, with its stacks, engines and cache extents; the rewrite of the home map begins.
(DEDUCED 91; assumption log) -/
def loseSpd (n : Nat) (s : State) : State :=
  if !s.serving n then s
  else
    let a := countContained ((keepSpill n (fun _ => []) s).modFab fun f =>
      { f with
        spds := updAt f.spds n fun d =>
          { d with serving := false, decCache := [], rawCache := [], holds := [], extents := 0, sweep := false,
                   splitting := false, textReload := false, vocab := [], freqHeld := false, voltHeld := false }
        stackLost := f.stackLost ||| ((7 : BitVec 24) <<< (3 * n))
        stackRebuild := f.stackRebuild &&& ~~~((7 : BitVec 24) <<< (3 * n))
        rewrites := f.rewrites ++ [(n, s.servingWithout n)] })
    -- the staging buffer is in the firmware region of SPD0 (R456)
    let b := (loseServes n (loseCopies n s.servingList (loseBufferQuiet n a))).onlyIf (n == 0) fun t =>
      t.modSec fun x => { x with staged := none }
    lastSpdCheck (opSettle (raiseReason 0x01 100 n (budgetsDue (staleDie n (abandonOn n b)))))

/-- An I/O die 1 loss takes Port B and the links of E4 to E7 (R27). (DEDUCED 91; assumption log) -/
def loseIod1 (s : State) : State :=
  if !s.fab.iod1 then s
  else
    let a := resetPort .b .linkDown (countContained (s.modFab fun f => { f with iod1 := false }))
    raiseReason 0x04 100 0 ((staleDie 9 a).each (List.range 8) fun i t => downLink (8 + i) none t)

/-- A media die loss is FATAL (R27). -/
def loseMed (k : Nat) (s : State) : State :=
  if !s.dieUp (10 + k) then s
  else fatalLoss 0x21 k (staleDie (10 + k) <| s.modFab fun f => if k = 0 then { f with med0 := false } else { f with med1 := false })

/-- What a Keel holds when its die is gone: its fuses only; the NOR stands. (DESIGN CHOICE 152; assumption log) -/
def Security.gone (x : Security) : Security :=
  { Security.reset with
    keyHash := x.keyHash, revoke := x.revoke, svnMin := x.svnMin, lifecycle := x.lifecycle, deviceSeed := x.deviceSeed, nor := x.nor
    cert := x.cert, debug := .locked }

/-- With I/O die 0 the Harbourmaster, the Keel, the always-on domain and Port A are gone: a FATAL error, the grade failed,
and nothing that reports it (R27, R30, R477, R480). (DESIGN CHOICE 152; assumption log) -/
def loseIod0 (s : State) : State :=
  if !s.fab.iod0 then s
  else
    { s with
      fab := { s.fab with iod0 := false }
      egr := { s.egr with txOff := true }
      host := { s.host with hm := .boot, fwReady := false, portA := { s.host.portA with linkUp := false } }
      sec := s.sec.gone
      aon := Aon.reset
      hlth := { s.hlth with reasons := s.hlth.reasons ++ [⟨0x20, 100, 0⟩], grade := 3, replace := true
                            errFatal := sat48 (s.hlth.errFatal + 1) } }

/-- The die whose every edge is down is lost. -/
def loseDie (d : Nat) (s : State) : State :=
  if d < 8 then loseSpd d s
  else if d = 8 then loseIod0 s else if d = 9 then loseIod1 s else loseMed (d - 10) s

/-- Every edge of a die is down. -/
def dieSilent (d : Nat) (s : State) : Bool := s.dieUp d && (edgesOf d).all fun e => s.edgeWhere (!·.up) e

/-- One end of an edge has seen no flit for 2 µs (R17). -/
def Edge.silent (now : Nat) (x : Edge) : Bool := x.up && !x.parked && decide (min x.lowHeard x.highHeard + 2000 ≤ now)

/-- EDGE_SILENCE_TIMEOUT (R17): the edges whose silence is judged at one instant are down. A die left without an edge is
lost; the edges between dies in service raise EDGE_DOWN (R481). (DEDUCED 90; assumption log) -/
def execEdgeSilenceTimeout (edges : List (Fin 42)) (s : State) : Answer :=
  let down := edges.filter fun e => s.edgeWhere (Edge.silent s.mono) e && !testsEdge e s
  let a := s.each down fun e t => t.modEdge e fun x => { x with up := false }
  let b := a.each ((List.range 12).filter fun d => dieSilent d a) loseDie
  .next (b.each down fun e t =>
    if t.dieUp (edgeEnds e).1 && t.dieUp (edgeEnds e).2 then raiseReason 0x03 100 e (countContained t) else t)

/-- Which samples of a cache had a part on a lost place, the manual does not say: a free value decides for each.
(DESIGN CHOICE 87; assumption log) -/
def dropSome : List CacheEntry → Nat → List CacheEntry
  | [], _ => []
  | e :: es, k => if bitOf (Config.fresh k) 0 then dropSome es (k + 1) else e :: dropSome es (k + 1)

/-- A request loses the cached sample it was copying: the lookup counts as a miss and it goes on from the flash read, at
once or, where it has not issued, at its next issue (R123, R136). -/
def readCold (r : Request) (s : State) : State :=
  let b := replan r.key false ((countLookup r.spd r.form.isSome false s).modReq r.key fun q =>
    { q with form := none, encoded := [], pinned := false, tok := .start, chunks := 0
             phase := if r.phase = .ready then .ready else if r.remote then .peerWait else .flash })
  if r.remote ∧ r.phase ≠ .ready then askPeers r.key 1024 b else b

/-- The sample that a request has pinned is in the cache of SPD `n` no longer. -/
def Request.pinGone (n : Nat) (s : State) (r : Request) : Bool :=
  r.pinned && r.spd == n && (((s.stream? r.key.stream).bind fun t =>
    (s.spd? n).bind fun d => d.find r.form.isSome t.dsSlot r.sample r.remote).isNone)

/-- Samples with a part on a lost stack or row leave both caches, which keep `left` extents; a request that was copying one
reads it cold. (DESIGN CHOICE 87; assumption log) -/
def dropFromCaches (n left : Nat) (s : State) : State :=
  match s.spd? n with
  | none => s
  | some d =>
    let k := s.free
    let e : Spd := { d with extents := left, decCache := dropSome d.decCache k
                            rawCache := dropSome d.rawCache (k + d.decCache.length) }
    let a := { s with free := k + d.decCache.length + d.rawCache.length }.modSpd n fun _ =>
      { e with decCache := shrinkTo (decRoom s e) e.decCache, rawCache := shrinkTo (rawRoom s e) e.rawCache }
    a.each (a.run.requests.filter (Request.pinGone n a)) readCold

/-- Stacks of an SPD that stand. -/
def stacksLeft (n : Nat) (s : State) : Nat := ((List.range 3).filter fun j => !bitOf s.fab.stackLost (3 * n + j)).length

/-- Copies that SPD `n` holds of a segment homed on `h`: the primary, or the mirror (R90). -/
def copiesOn (n h : Nat) (serving : List Nat) : Nat :=
  (if h = n then 1 else 0) + (if mirrorOf h serving = some n then 1 else 0)

/-- Entries of a map segment, within the logical capacity. -/
def segmentEntries (m : Media) (seg : Nat) : Nat := min 838860 (m.capacity - 838860 * seg)

/-- Map segments of SPD `n`, primary and mirror: 5 bytes per LUA and copy, of the segments homed and mirrored there; the LUAs of
segments that map no unit yet count as homed evenly on the SPDs that serve (R90, R122).
(DESIGN CHOICE 158; assumption log) -/
def mapBytes (n : Nat) (s : State) : Nat :=
  let serving := s.servingList
  let used := s.media.segments
  let rest := s.media.capacity - (used.map (segmentEntries s.media)).sum
  5 * ((used.map fun g => segmentEntries s.media g * copiesOn n (segmentHome g s) serving).sum +
    (rest * (serving.map fun h => copiesOn n h serving).sum + serving.length - 1) / max 1 serving.length)

/-- The extents that the rebuild after a stack loss takes: of the copies on stack `j` of SPD `n` with `k` stacks, the
firmware's, the write-buffer share's, and its part of the map segments (R122, R136). -/
def rebuildExtents (n j k : Nat) (s : State) : Nat :=
  let bytes := (if j ≤ 1 then 2 ^ 30 else 0) + (if 1 ≤ j then 2 ^ 28 else 0) + mapBytes n s / k
  (bytes + 65535) / 65536

/-- Both copies of a write-buffer share are gone when the second of its stacks is lost before the first one's is rebuilt (R122,
R124). -/
def shareGone (n j : Nat) (s : State) : Bool :=
  (j == 1 && bitOf s.fab.stackRebuild (3 * n + 2)) || (j == 2 && bitOf s.fab.stackRebuild (3 * n + 1))

/-- A stack is declared lost (R27, R136). -/
def loseStack (i : Nat) (s : State) : State :=
  let n := i / 3
  if bitOf s.fab.stackLost i ∨ !s.serving n then s
  else
    let k := stacksLeft n s
    let bit : BitVec 24 := (1 : BitVec 24) <<< i
    let a := raiseReason 0x02 100 i (countContained (setEv .mem 0x10 (s.modFab fun f => { f with stackLost := f.stackLost ||| bit })))
    if k = 1 then loseSpd n a
    else
      let ext := ((s.spd? n).map (·.extents)).getD 0
      ((dropFromCaches n (ext * (k - 1) / k - rebuildExtents n (i % 3) k s) a).onlyIf (shareGone n (i % 3) s) (loseBuffer n)).modFab
        fun f => { f with stackRebuild := f.stackRebuild ||| bit }

/-- HBM_STACK_LOST (R136). -/
def execHbmStackLost (stack : Fin 24) (s : State) : Answer := 
  if !s.clocked (stack / 3) then .next s else
  .next (loseStack stack s)

/-- STACK_REBUILD_DONE (R136). -/
def execStackRebuildDone (stack : Fin 24) (s : State) : Answer :=
  if !s.clocked (stack / 3) then .next s else
  .next (s.modFab fun f => { f with stackRebuild := f.stackRebuild &&& ~~~((1 : BitVec 24) <<< (stack : Nat)) })

/-! ### Memory errors (R123, R124) -/

/-- A row is retired to a spare row of its stack, or, with none left, its extents leave the caches, which shrink by the one
extent it lies in. (DESIGN CHOICE 88, DEDUCED 89; assumption log) -/
def retireRow (r : HbmRow) (s : State) : State :=
  if s.fab.rowsRetired.contains r then s
  else
    let used := (s.fab.rowsRetired.filter (·.stack == r.stack)).length
    let a := s.modFab fun f => { f with rowsRetired := f.rowsRetired ++ [r], rowCe := f.rowCe.filter (·.1 != r) }
    if used < Config.spareRows r.stack then a
    else
      let n := r.stack / 3
      raiseReason 0x07 60 r.stack (setEv .mem 0x80 (dropFromCaches n (((s.spd? n).map (·.extents)).getD 0 - 1) a))

/-- MEMORY_CE (R123): corrected in line; the third correction of a row within 24 h retires it. -/
def execMemoryCe (spd : Fin 8) (row : Option HbmRow) (s : State) : Answer :=
  if !s.clocked spd then .next s else
  let a := countCorrected spd (countPerf spd (if row.isSome then 0x902 else 0x901) s)
  match row with
  | none => .next a
  | some r =>
    let recent := a.fab.rowCe.filter fun x => decide (s.mono < x.2 + dayNs)
    if 2 ≤ (recent.filter (·.1 == r)).length then .next (retireRow r (a.modFab fun f => { f with rowCe := recent }))
    else .next (a.modFab fun f => { f with rowCe := recent ++ [(r, s.mono)] })

/-- A request is running: it has been issued and holds Berths. -/
def Request.running (r : Request) : Bool :=
  match r.phase with
  | .waitUnit _ | .walking .. | .ready | .done => false
  | _ => true

/-- A Berth of a running request fails (R123): it is issued again, or its sample is abandoned with cause LATE. STRICT is that
with which its batch began (R408); a re-run abandons none, for it makes no substitution of its own that depends on timing
(R29). -/
def berthError (spd : Nat) (k : ReqKey) (s : State) : State :=
  match s.req? k with
  | none => s
  | some r =>
    if !r.running ∨ r.spd ≠ spd then s
    else
      let b? := s.batch? k.stream k.batch
      let limit := if (b?.map (·.strict)).getD false then 8 else 3
      let rerun := (b?.map (·.rerun)).getD false
      let a := (backToReady k s).modReq k fun q => { q with berthFails := q.berthFails + 1 }
      if !rerun ∧ limit ≤ r.berthFails + 1 then failSample k 0x0600 true a else countCorrected spd a

/-- A request is copying a cached sample. -/
def Request.reads (n : Nat) (dec : Bool) (dsSlot index : Nat) (remote : Bool) (s : State) (r : Request) : Bool :=
  r.pinned && r.form.isSome == dec && r.spd == n && r.sample == index && r.remote == remote &&
    ((s.stream? r.key.stream).map (·.dsSlot)) == some dsSlot

/-- A cached sample fails as it is read (R123): it is dropped, and for each request that was reading it the lookup counts as a
miss and it goes on from the flash read. -/
def cacheError (n : Nat) (dec : Bool) (dsSlot index : Nat) (remote : Bool) (s : State) : State :=
  let a := countCorrected n (cacheDrop n dec dsSlot index remote s)
  a.each (s.run.requests.filter (Request.reads n dec dsSlot index remote s)) readCold

/-- The READ whose response has the byte at `va` still to send, of a serve Mooring or, for none, of the job address space. -/
def Conn.reading (serve : Option Nat) (va : Nat) (s : State) (c : Conn) : Option Wr :=
  c.queue.find? fun w =>
    w.kind == .response && decide (w.addr + (w.bytes.length - w.left) ≤ va ∧ va < w.addr + w.bytes.length) &&
      (((s.keyed w.rkey).filter (·.serve)).map (·.idx)) == serve

/-- The accesses that met an uncorrectable error at `va` end: no further response goes for the READ, and its connection is
in error (R277). `nak` says that a remote access error answers, as in the job address space (R123).
(DEDUCED 186; assumption log) -/
def readError (serve : Option Nat) (va : Nat) (nak : Bool) (s : State) : State :=
  s.each s.egr.conns fun c t =>
    match c.reading serve va s with
    | none => t
    | some w => connError c.idx 4 (t.onlyIf nak (answer c.idx 3 (BitVec.ofNat 24 (w.psn.getD c.rqPsn))))

/-- The SPD whose memory reports an error: that of the stack, or of the Berth SRAM. -/
def ueSpd (place : MemPlace) (row : Option HbmRow) : Nat :=
  match row, place with
  | some r, _ => r.stack / 3
  | none, .berth n _ | none, .serveBerth n .. | none, .cacheExtent n .. | none, .mapSegment n .. | none, .firmware n
  | none, .writeBuffer n _ | none, .textTables n => n
  | none, .jobSpace _ => 0

/-- MEMORY_UE (R123): `row` is the HBM row, none for Berth SRAM. -/
def execMemoryUe (place : MemPlace) (row : Option HbmRow) (s : State) : Answer :=
  if !s.clocked (ueSpd place row) then .next s else
  let a := setEv .mem (if row.isSome then 2 else 1) s
  let b := match place with
    | .berth spd (some k) => berthError spd k a
    | .berth spd none => countCorrected spd a
    | .serveBerth spd m va => countCorrected spd (a.onlyIf row.isSome (readError (some m) va false))
    | .cacheExtent spd dec slot index remote => cacheError spd dec slot index remote a
    | .mapSegment spd seg both =>
      countCorrected spd (if both then a.modMedia fun m => { m with reloadSegments := (seg :: m.reloadSegments).eraseDups } else a)
    | .firmware spd => countCorrected spd a
    | .writeBuffer spd both => if both then loseBuffer spd a else countCorrected spd a
    | .textTables spd => countCorrected spd (a.modSpd spd fun d => { d with textReload := true })
    | .jobSpace va => countContained (readError none va true (setEv .mem 2 a))
  match row with
  | some r => .next (retireRow r b)
  | none => .next b

/-- PATROL_SCRUB (R123): the scrub reads and corrects, and yields to every other access; an error it meets is a MEMORY_CE or
a MEMORY_UE. The pass starts at the lowest address under the applied STRICT, else at `start`, the hardware's entropy (R407).
(DESIGN CHOICE 179; assumption log) -/
def execPatrolScrub (hbm : Bool) (start : Nat) (s : State) : Answer :=
  if !s.pilotsRun then .next s else
  let at_ := if bitOf s.applied.cfgDet 0 then 0 else start
  .next (s.modFab fun f => if hbm then { f with scrubHbm := at_ } else { f with scrubSram := at_ })

/-- TEXT_TABLE_RELOAD_DONE (R123). -/
def execTextTableReloadDone (spd : Fin 8) (s : State) : Answer :=
  if !s.clocked spd then .next s else
  .next (s.modSpd spd fun d => { d with textReload := false })

/-! ### The end-of-job clear (R125, R359) -/

/-- Nothing of the job is left in an SPD; pool counts change at job setup alone (R143). -/
def Spd.cleared (d : Spd) : Spd :=
  { d with holds := [], decCache := [], rawCache := [], spill := [], extents := 0, sweep := false, textReload := false,
           vocab := [] }

/-- JOB_CLEAR_DONE (R125): the next job may be set up, the JOB_CLEARED event is posted, and JOB_END completes. -/
def execJobClearDone (s : State) : Answer :=
  if !s.run.clearing then .next s
  else
    let id := s.jobId
    let t := s.each (List.range 8) fun n u => keepSpill n (fun _ => []) u
    let a := { t with
      run := { JobRun.reset with endedId := id }
      fab := { t.fab with spds := t.fab.spds.map Spd.cleared }
      egr := { t.egr with jobMem := [] } }
    let b := postEvent 7 false (leBytes 4 id) a
    .next (b.each (b.host.cmds.filter (·.run == .jobEnd)) fun c t => finish c stSuccess [] t)

end Sys2Proof.Machine
end

