-- ==== Sys2Proof/Machine/HealthTest.lean ====
section
/-! DEFINITION. The health record on SMBus, the items of a self-test (R367, R368) and the counting windows of health reasons
(R480, R483), link tests (R485, R486), performance counters and bandwidth windows (R489 to R491). -/

namespace Sys2Proof.Machine

/-! ### SMBus (R483, R518) -/

/-- The answer of the management interface needs V3P3_AON and I/O die 0 (R477, R518). (DEDUCED 129; assumption log) -/
def smbusAnswers (s : State) : Bool := s.pwr.v3p3 && s.fab.iod0

/-- Links that carry LINK_DOWN. -/
def linksCarryingDown (s : State) : Nat :=
  ((List.range 16).map fun m => flag (s.hlth.reasons.any (·.isFor 0x05 m)) * 2 ^ m).sum

/-- Bits of the active reasons, by code. -/
def activeBits (rs : List Reason) : Nat := ((List.range 64).map fun i => flag (rs.any (·.code == i)) * 2 ^ i).sum

/-- The dies in service, as in `DIES` of the record. -/
def diesServing (s : State) : Nat :=
  (s.servingList.map (2 ^ ·)).sum + 256 * flag s.fab.iod1 + 512 * flag s.fab.med0 + 1024 * flag s.fab.med1

/-- Bytes 1 to 27 of the record once firmware has reported FW_READY. -/
def healthBody (s : State) : List Byte :=
  let top := (topReason s.hlth.reasons).getD ⟨0, 0, 0⟩
  natBytes 1 (s.hlth.grade + 4 * flag s.hlth.replace + 8 * flag s.hlth.degraded) ++ natBytes 2 (diesServing s) ++
    natBytes 8 (activeBits s.hlth.reasons) ++ natBytes 1 top.code ++ natBytes 1 top.conf ++
    natBytes 2 s.media.failedDies.length ++ natBytes 4 s.fab.stackLost.toNat ++ natBytes 2 (linksCarryingDown s) ++
    natBytes 2 0 ++ leBytes 4 s.hlth.seq

/-- The health record: VERSION 1, and every other field 0 until FW_READY (R518). -/
def healthRecord (s : State) : List Byte :=
  let head := natBytes 1 1 ++ (if s.host.fwReady then healthBody s else natBytes 27 0)
  head ++ leBytes 4 (crc32c head)

/-- SMBUS_HEALTH_READ. -/
def execSmbusHealthRead (s : State) : Answer :=
  .next (if smbusAnswers s then s.emit (.smbus (healthRecord s)) else s)

/-- SMBUS_ALERT_CLEAR: ALERT_N is released. -/
def execSmbusAlertClear (s : State) : Answer :=
  .next (if smbusAnswers s then s.modHlth fun h => { h with alertPend := false } else s)

/-- SMBUS_ARA: while ALERT_N is low the device answers with its own address, 0x64 to 0x67; ALERT_N stays low.
(DEDUCED 129; assumption log) -/
def execSmbusAra (s : State) : Answer :=
  .next (if smbusAnswers s && s.hlth.alertPend then s.emit (.smbus [BitVec.ofNat 8 (0x64 + Config.smbStraps.toNat)]) else s)

/-! ### Counting windows (R480) -/

/-- HEALTH_REASON_TIMER: an edge has carried flits for 1 s; a counting window has moved on, and its reason follows what is left
in it. (DEDUCED 131; assumption log) -/
def execHealthReasonTimer (code location : Nat) (s : State) : Answer :=
  if code = 0x03 then
    if s.edgeWhere (·.up) location && decide ((((s.fab.edges[location]?).map (·.since)).getD 0) + 1000000000 ≤ s.mono) then
      .next (clearReason 0x03 location s)
    else .next s
  else if code = 0x08 then .next (corrReason s)
  else if code = 0x09 then .next (lockstepReason location s)
  else if code = 0x0B then .next (tripReason s)
  else .next s

/-! ### Self-test items (R367, R368) -/

/-- An item whose target is under a link test waits until the test stops (R368, R486): the die of a flash read, the SPD of
an HBM pattern or of a map comparison. -/
def itemWaits (step item : Nat) (s : State) : Bool :=
  match step with
  | 5 | 8 => s.spdTested item
  | 6 | 7 => s.dieTested item
  | _ => false

/-- SELF_TEST_ITEM_DONE (R367, R368): one item of the step under way; the last item of the last step ends the test. The
units that step 7 reads count, and schedule rewrites, as every read does (R105). -/
def execSelfTestItemDone (passed : Bool) (item : Nat) (lastOfStep : Bool) (reads : List (Nat × List CodewordResult)) (s : State) :
    Answer :=
  match s.host.selfTest, s.host.cmds.find? (·.run == .selfTest) with
  | some t, some c =>
    if t.paused || itemWaits t.step item s then .next s
    else
      let a := s.each (if t.step = 7 then reads else []) fun (pua, cs) u => countUnit pua cs (countUnitPerf pua cs u)
      let u := if passed then t else { t with failed := t.failed + 1, firstFail := if t.failed = 0 then item else t.firstFail }
      if lastOfStep ∧ u.aborted then
        .next (finish c stCancelled (u.result 2) (a.modHost fun h => { h with selfTest := none }))
      else if lastOfStep ∧ u.step = u.lastStep then
        .next (finish c stSuccess (u.result (flag (u.failed != 0))) (a.modHost fun h => { h with selfTest := none }))
      else
        let v := { u with step := if lastOfStep then u.step + 1 else u.step, paused := hostPending a, quietSince := none }
        .next (a.modHost fun h => { h with selfTest := some v })
  | _, _ => .next s

/-- SELF_TEST_RESUME (R368): no host command has been pending for 1 ms. (DEDUCED 73; assumption log) -/
def execSelfTestResume (s : State) : Answer :=
  match s.host.selfTest with
  | some t =>
    if hostPending s || !((t.quietSince.map fun q => decide (q + 1000000 ≤ s.mono)).getD false) then .next s
    else .next (s.modHost fun h => { h with selfTest := some { t with paused := false } })
  | none => .next s

/-! ### Link tests (R485, R486) -/

/-- TYPE, INDEX and MODE of a configuration. -/
def ltType (cfg : Word) : Nat := fieldOf cfg 0 3
def ltIndex (cfg : Word) : Nat := fieldOf cfg 4 7

/-- Lanes of a target (R485). -/
def ltLanes (cfg : Word) (s : State) : Nat :=
  match ltType cfg with
  | 0 => if bitOf s.applied.egrPort (ltIndex cfg / 2) then 4 else 8
  | 1 => 4
  | 3 => 8
  | _ => 32

/-- The target is lost, or there is none of that index. (DEDUCED 126; assumption log) -/
def ltAbsent (cfg : Word) (s : State) : Bool :=
  let i := ltIndex cfg
  match ltType cfg with
  | 0 => decide (16 ≤ i) || (i % 2 == 1 && !bitOf s.applied.egrPort (i / 2)) || (decide (8 ≤ i) && !s.fab.iod1)
  | 1 => decide (2 ≤ i) || (i == 1 && !s.fab.iod1)
  | 2 => !s.edgeWhere (·.up) i
  | 3 => decide (64 ≤ i) || !s.dieUp (10 + i / 32) || s.media.targets == 0
  | _ => decide (24 ≤ i) || bitOf s.fab.stackLost i

/-- The port a PCIe target is tested from: the other one, or debug. -/
def ltFromOutside (writer : Owner) (i : Nat) : Bool :=
  match writer with
  | .debug => true
  | .portA => i == 1
  | .portB => i == 0
  | .harbourmaster => false

/-- Why a START is refused, if it is: a code of `HW_LT_STAT.REFUSE`. (DEDUCED 125; assumption log) -/
def ltRefusal (writer : Owner) (cfg : Word) (s : State) : Option Nat :=
  let ty := ltType cfg
  if s.lt.active then some 5
  else if 5 ≤ ty ∨ (ty = 3 ∧ !bitOf cfg 14) then some 3
  else if ltAbsent cfg s then some 4
  else if 2 ≤ ty ∧ s.jobActive then some 2
  else if ty = 0 ∧ bitOf s.applied.egrPort (8 + ltIndex cfg / 2) then some 1
  else if ty = 1 ∧ !ltFromOutside writer (ltIndex cfg) then some 1
  else none

/-- A test begins: the target leaves service, a PCIe port's link and a Slipway edge at once (R486).
(DEDUCED 125; assumption log) -/
def ltBegin (s : State) : State :=
  let cfg := s.rw.ltCfg
  let a := s.modLt fun _ => ⟨.sync, true, 0, cfg, 0, List.replicate 32 0, 0⟩
  if ltType cfg = 1 then a.modPort (if ltIndex cfg = 0 then .a else .b) fun h => { h with linkUp := false }
  else if ltType cfg = 2 then a.modEdge (ltIndex cfg) fun e => { e with tested := true }
  else a

/-- START. (DEDUCED 125; assumption log) -/
def ltStart (writer : Owner) (s : State) : State :=
  match ltRefusal writer s.rw.ltCfg s with
  | some r =>
    (s.modLt fun l => { l with state := .refused, refuse := r }).modEv fun e => { e with lt := e.lt ||| 4 }
  | none => ltBegin s

/-- STOP: the target returns; a PCIe port's test ends with a per-port reset. How many bits were checked follows from time
the model does not keep: a free value. (DEDUCED 126; assumption log) -/
def ltStop (s : State) : State :=
  if !s.lt.active then s
  else
    let (v, a) := s.draw
    let b := (a.modLt fun l => { l with state := .stopped, active := false, bits := v.toNat % 2 ^ 48 }).modEv fun e =>
      { e with lt := e.lt ||| 1 }
    if ltType s.lt.cfg = 1 then resetPort (if ltIndex s.lt.cfg = 0 then .a else .b) .linkDown b
    else if ltType s.lt.cfg = 2 then
      b.modEdge (ltIndex s.lt.cfg) fun e => { e with tested := false, lowHeard := s.mono, highHeard := s.mono }
    else b

def lockedLane (l : LinkTest) (i : Nat) : Bool := bitOf l.lock i

/-- INJECT: one error on the checker of every locked lane. (DEDUCED 126; assumption log) -/
def ltInject (s : State) : State :=
  if !s.lt.active then s
  else s.modLt fun l => { l with errs := l.errs.zipIdx.map fun (n, i) => if lockedLane l i then min (2 ^ 32 - 1) (n + 1) else n }

/-- LT_START. -/
def execLtStart (writer : Owner) (s : State) : Answer := .next (s.byOwner writer (ltStart writer))

/-- LT_STOP. -/
def execLtStop (writer : Owner) (s : State) : Answer := .next (s.byOwner writer ltStop)

/-- LT_INJECT. -/
def execLtInject (writer : Owner) (s : State) : Answer := .next (s.byOwner writer ltInject)

/-- LT_LANE_LOCK: RUNNING once every lane has locked. -/
def execLtLaneLock (lane : Fin 32) (s : State) : Answer :=
  if !s.lt.active ∨ ltLanes s.lt.cfg s ≤ lane then .next s
  else
    .next (s.modLt fun l =>
      let lock := l.lock ||| (1 <<< (lane : Nat))
      let all := (List.range (ltLanes s.lt.cfg s)).all (bitOf lock)
      { l with lock := lock, state := if all then .running else l.state })

/-- LT_LOCK_LOST: the lane's sixteen errors were counted while it was locked. (DEDUCED 126; assumption log) -/
def execLtLockLost (lane : Fin 32) (s : State) : Answer :=
  if !s.lt.active ∨ !lockedLane s.lt lane then .next s
  else
    .next ((s.modLt fun l =>
      { l with lock := l.lock &&& ~~~((1 : Word) <<< (lane : Nat)), errs := updAt l.errs lane fun n => min (2 ^ 32 - 1) (n + 16) }).modEv
        fun e => { e with lt := e.lt ||| 2 })

/-! ### Performance counters (R490, R491) -/

def pmcFreeze (s : State) : State := s.modPmc fun p => { p with frozen := true }
def pmcUnfreeze (s : State) : State := s.modPmc fun p => { p with frozen := false }

/-- `PMC_BW_WIN` is written: back-to-back windows start now (R491). -/
def writeBwWin (v : Word) (s : State) : State := (s.modRw fun r => { r with pmcBwWin := v }).modPmc fun p => { p with bwSince := s.mono }

/-- Every live counter and OVF bit of a die to 0. -/
def DieCounters.clear (d : DieCounters) : DieCounters :=
  { d with cnt := d.cnt.map fun _ => 0, evsel := d.evsel.map (· &&& ~~~(0x4000 : Word)), fixOvf := 0 }

def pmcClear (s : State) : State := s.modPmc fun p => { p with dies := p.dies.map DieCounters.clear }

/-- The counters and OVF bits of a die copied into its snapshot bank. -/
def DieCounters.takeSnap (d : DieCounters) : DieCounters :=
  { d with snap := d.cnt
           snapOvf := d.evsel.map (bitOf · 14) ++ (List.range (d.cnt.length - d.evsel.length)).map (bitOf d.fixOvf) }

/-- SNAP: a die that does not answer, lost or in Night, keeps its bank; one written while SNAP_BUSY is ignored.
(DEDUCED 127; assumption log) -/
def pmcSnap (answering : BitVec 12) (s : State) : State :=
  if s.pmc.snapBusy then s
  else
    let ok (d : Nat) : Bool := bitOf answering d && s.dieUp d && !(decide (d < 8) && s.pwr.state == .night)
    let stale : BitVec 12 := BitVec.ofNat 12 (((List.range 12).map fun d => flag (!ok d) * 2 ^ d).sum)
    s.modPmc fun p =>
      { p with snapBusy := true, stale := stale, partialSnap := stale != 0, bwSnap := p.bw
               dies := p.dies.zipIdx.map fun (x, d) => if ok d then x.takeSnap else x }

/-- PMC_FREEZE. -/
def execPmcFreeze (s : State) : Answer := .next (pmcFreeze s)

/-- PMC_UNFREEZE. -/
def execPmcUnfreeze (s : State) : Answer := .next (pmcUnfreeze s)

/-- PMC_SNAP. -/
def execPmcSnap (answering : BitVec 12) (s : State) : Answer := .next (pmcSnap answering s)

/-- PMC_CLEAR. -/
def execPmcClear (s : State) : Answer := .next (pmcClear s)

/-- PMC_SNAP_DONE. -/
def execPmcSnapDone (s : State) : Answer :=
  if !s.pmc.snapBusy then .next s
  else
    let bits : Word := if s.pmc.partialSnap then 5 else 1
    .next ((s.modPmc fun p => { p with snapBusy := false, snapValid := true }).modEv fun e => { e with pmc := e.pmc ||| bits })

/-- The length of a bandwidth window in ns; values above 1,000,000 µs act as that (R494). -/
def bwWindowNs (s : State) : Nat := min 1000000 s.rw.pmcBwWin.toNat * 1000

/-- PMC_BW_WIN_WRITE: the windows start at the write, or 0 stops them. -/
def execPmcBwWinWrite (value : Word) (s : State) : Answer := .next (writeBwWin value s)

/-- PMC_BW_WINDOW_END: at the end of a window its 296 values are latched, unless frozen, and the next window follows.
(DESIGN CHOICE 206; assumption log) -/
def execPmcBwWindowEnd (bytes : List (Nat × Nat)) (s : State) : Answer :=
  if s.rw.pmcBwWin = 0 ∨ s.mono < s.pmc.bwSince + bwWindowNs s then .next s
  else
    let a := s.modPmc fun p => { p with bwSince := p.bwSince + bwWindowNs s }
    if s.pmc.frozen then .next a
    else
      .next (a.modPmc fun p =>
        { p with bwSeq := p.bwSeq + 1
                 bw := (List.range 148).map fun k =>
                   let x := bytes.getD k (0, 0)
                   (x.1 % 2 ^ 48, x.2 % 2 ^ 48) })

end Sys2Proof.Machine
end

