-- ==== Sys2Proof/Machine/Power.lean ====
section
/-! DEFINITION. Power states (R433 to R444): the idle test, entry into Dusk and Night, wakes and exits. -/

namespace Sys2Proof.Machine

/-! ### Idle (R433, R434) -/

/-- A request is in flight, or a batch whose first request has issued awaits the acknowledgement of its header.
(DEDUCED 109; assumption log) -/
def inFlight (s : State) : Bool :=
  (s.run.requests.any fun r => r.running) || s.run.batches.any fun b => b.begun && !b.headerAcked

/-- The media manager has an operation in progress or queued. (DEDUCED 109; assumption log) -/
def Media.busy (m : Media) : Bool :=
  !m.buffer.isEmpty || !m.journal.isEmpty || m.folding || m.pendingCheckpoint.isSome || !m.reloadSegments.isEmpty ||
    m.stripes.any (·.state == .closing) || m.blocks.any fun b =>
      b.rewrite || (b.drain.isSome && (b.state != .retired || (m.slotsIn b.die b.block).any m.isValid))

/-- Media recovery is still to run (R502). -/
def recovering (s : State) : Bool := !s.media.mounted && s.media.unsupported.isNone && !s.sec.recovery

/-- The device is idle; a core that debug has halted keeps it out of idle (R467). (DEDUCED 109; assumption log) -/
def isIdle (s : State) : Bool :=
  !inFlight s && !(s.run.requests.any fun r => issuable r s) && !s.media.busy && !recovering s && !hostPending s &&
    s.host.selfTest.isNone && (s.egr.conns.all fun c => c.serves.isEmpty && c.rxWait.isEmpty) && s.sec.halted.isEmpty

/-- The request stands in a ready list: it is ready, or waits for a unit or walks in one (R71). -/
def Request.listed (r : Request) : Bool :=
  match r.phase with
  | .ready | .waitUnit _ | .walking .. => true
  | _ => false

/-- The first three terms of T_next: latest-start times of the ready lists, times at which requests become issuable under
R26, deadlines of pending batches. None of them exists before the first step start (R47).
(DEDUCED 110; assumption log) -/
def workTerms (s : State) : List Int :=
  let pend := s.run.batches.filter fun b => !b.headerAcked
  let dls : List Int := pend.filterMap fun b => s.deadlineAt b.dlStep b.dlPhase
  (if s.tide.stepState = .none then [] else (s.run.requests.filter Request.listed).filterMap fun r => r.latest.head?) ++
    ((dls.map fun t : Int => t - 2 * s.period).filter fun t => decide ((s.now : Int) < t)) ++ dls

/-- The fourth term: the predicted next step start. (DEDUCED 110; assumption log) -/
def stepTerm (s : State) : List Int := if s.tide.stepState = .none then [] else [s.tide.startTime + s.period]

/-- The least of a list of times. (DEDUCED 110; assumption log) -/
def earliest : List Int → Option Int
  | [] => none
  | t :: ts => some (ts.foldl min t)

/-- T_next is at least `PWR_LOOKAHEAD` µs away. -/
def farAway (s : State) : Bool :=
  (workTerms s ++ stepTerm s).all fun t => decide ((s.now : Int) + s.applied.pwrLookahead.toNat * 1000 ≤ t)

/-- A level wake holds (R435); a thermal one, until the next sample. (DEDUCED 112; assumption log) -/
def levelWake (s : State) : Bool :=
  !s.pwr.wakeN || s.pwr.crossed || s.tide.recomputeDue || !s.host.bells.isEmpty || s.egr.conns.any fun c => !c.rxWait.isEmpty

/-! ### Entry (R434, R436 to R440) -/

/-- The device has been idle long enough, and nothing is near. -/
def mayEnterDusk (s : State) : Bool :=
  s.pwr.state == .noon && s.pwr.entry.isNone && !s.pwr.off && bitOf s.applied.pwrCfg 2 && isIdle s && farAway s &&
    !levelWake s && ((s.pwr.idleSince.map fun t => decide (t + s.applied.pwrDuskIdle.toNat * 1000 ≤ s.mono)).getD false)

/-- DUSK_ENTRY_START (R434): the drain begins, with the wake timer 10 µs before the work terms. -/
def execDuskEntryStart (s : State) : Answer :=
  if mayEnterDusk s then
    .next (s.modPwr fun p =>
      { p with entry := some (false, .drain), heldWake := false
               tideTimer := (earliest (workTerms s)).map fun t => (t - 10000).toNat })
  else .next s

/-- ENTRY_COMMIT (R436): the commit point at the end of the drain. -/
def execEntryCommit (s : State) : Answer :=
  match s.pwr.entry with
  | some (night, .drain) => .next (s.modPwr fun p => { p with entry := some (night, .closing), commitAt := s.mono })
  | _ => .next s

/-- An entry is complete: the state is taken, and a held wake begins the exit at once (R436). -/
def entered (st : PowerState) (s : State) : State :=
  let a := s.modPwr fun p => { p with state := st, entry := none, exiting := false, heldWake := false }
  a.onlyIf s.pwr.heldWake beginExit

/-- DUSK_ENTRY_DONE (R427, R438): the clocks of the serving SPDs are gated and their stacks powered down. -/
def execDuskEntryDone (s : State) : Answer :=
  match s.pwr.entry with
  | some (false, .closing) | some (false, .completing) =>
    let a := s.each s.servingList fun n t => t.modPower n SpdPower.doze
    .next (setEv .pwr 1 (entered .dusk (a.modPwr fun p => { p with duskSince := s.mono })))
  | _ => .next s

/-- Every mounted die has at least 3% of its blocks free (R98). -/
def gcMet (s : State) : Bool := s.media.liveDies.all fun d => decide (s.media.geom.blocks * 3 ≤ s.media.freeBlocks d * 100)

/-- What the passage from Dusk to Night asks for. -/
def mayEnterNight (s : State) : Bool :=
  s.pwr.state == .dusk && !s.pwr.exiting && s.pwr.entry.isNone && s.run.job.isNone && !s.run.clearing &&
    s.egr.conns.isEmpty && s.media.buffer.isEmpty && s.media.foldBacklog == 0 && gcMet s &&
    decide (s.pwr.duskSince + 1000000000 ≤ s.mono)

/-- NIGHT_ENTRY_START (R439): a phase-3 completion. -/
def execNightEntryStart (s : State) : Answer :=
  if mayEnterNight s then
    .next (s.modPwr fun p => { p with entry := some (true, .completing), heldWake := false })
  else .next s

/-- NIGHT_ENTRY_DONE (R440): every serving SPD takes the six steps. -/
def execNightEntryDone (s : State) : Answer :=
  match s.pwr.entry with
  | some (true, .completing) => .next (setEv .pwr 2 (entered .night (nightEntry s)))
  | _ => .next s

/-! ### Wakes and exits (R435, R438, R443) -/

/-- WAKE_N_EDGE (R435): the low level is a wake. -/
def execWakeNEdge (low : Bool) (s : State) : Answer :=
  let a := s.modPwr fun p => { p with wakeN := !low }
  .next (if low then wake 0 true a else a)

/-- TIDE_WAKE_TIMER (R434). (DEDUCED 110; assumption log) -/
def execTideWakeTimer (s : State) : Answer :=
  match s.pwr.tideTimer with
  | none => .next s
  | some t => if t ≤ s.now then .next (wake 2 true (s.modPwr fun p => { p with tideTimer := none })) else .next s

/-- Back in Noon: the idle time counts from zero (R438). -/
def toNoon (s : State) : State :=
  s.modPwr fun p => { p with state := .noon, exiting := false, heldWake := false, tideTimer := none, idleSince := none }

/-- What waited for the SPDs in the receive buffers is handled (R435). -/
def takeHeld (s : State) : State := s.each (s.egr.conns.filter fun c => c.resident && !c.rxWait.isEmpty) fun c t => becomeResident c.idx t

/-- DUSK_EXIT_DONE (R438). -/
def execDuskExitDone (s : State) : Answer :=
  if s.pwr.state = .dusk ∧ s.pwr.exiting ∧ s.pwr.entry.isNone then
    let a := s.each s.servingList fun n t => t.modPower n SpdPower.rouse
    .next (takeHeld (setEv .pwr 4 (toNoon a)))
  else .next s

/-- Every serving SPD starts with its clock and voltage at the point in force: step 7 of R440 (R444).
(DEDUCED 113; assumption log) -/
def startAtPoint (s : State) : State :=
  let w := s.opWanted
  let a := (exitStepAll 7 s.servingList s).modFab fun f =>
    { f with spds := f.spds.map fun d => { d with freqPt := w, voltPt := w, freqHeld := false, voltHeld := false } }
  opSettle (a.modPwr fun p => { p with opTarget := w })

/-- NIGHT_EXIT_DONE (R440, R443): what is left of the steps, the clocks at the requested point, Noon.
(DEDUCED 113, DESIGN CHOICE 195; assumption log) -/
def execNightExitDone (s : State) : Answer :=
  if s.pwr.state = .night ∧ s.pwr.exiting ∧ s.pwr.entry.isNone then
    .next (takeHeld (setEv .pwr 4 (toNoon (startAtPoint (finishExit s)))))
  else .next s

end Sys2Proof.Machine
end

