-- ==== Sys2Proof/Machine/DatasetCommands.lean ====
section
/-! DEFINITION. The dataset and media commands (R360 to R362, R365): creation, ingest, flush, seal, deletion, format,
the defect list, the status and health reads, and the copy from a peer. -/

namespace Sys2Proof.Machine

def stLayout : Nat := 0x0402
def stUnsupported : Nat := 0x0401
def stUnknown : Nat := 0x0207

/-- The partition a command names: dataset in bytes 24 to 31, p in bytes 32 and 33. -/
def Cmd.part (c : Cmd) (s : State) : Option Partition := s.partOf (BitVec.ofNat 64 (c.arg 24 8)) (c.arg 32 2)

/-- The security state of a command that needs the job key of its partition (R466). (DEDUCED 93; assumption log) -/
def keyReason (p : Option Partition) (s : State) : Option Nat :=
  match s.sec.jobKey with
  | none => some 4
  | some k => p.bind fun p => if p.keyCheck = keyCheck k then none else some 5

/-- A dataset command: a refused mount, then its meaning. -/
def onMedia (f : Cmd → State → State) (c : Cmd) (s : State) : State :=
  if s.media.unsupported.isSome then finish c stUnsupported [] s else f c s

/-- A dataset command on a partition the device holds. -/
def onPart (f : Cmd → Partition → State → State) : Cmd → State → State :=
  onMedia fun c s =>
    match c.part s with
    | none => finish c stUnknown [] s
    | some p => f c p s

/-! ### DATASET_CREATE (R65, R360, R465) -/

/-- `n` fresh bytes. -/
def drawBytes : Nat → State → List Byte × State
  | 0, s => ([], s)
  | n + 1, s =>
    let (w, a) := s.draw
    let (bs, b) := drawBytes n a
    (w.setWidth 8 :: bs, b)

/-- What a creation fails with, in the order of the rules. (DEDUCED 93; assumption log) -/
def createStatus (c : Cmd) (s : State) : Option Nat :=
  if 2 ^ 48 < c.arg 32 8 then some 0x0202
  else if c.arg 40 2 = 0 ∨ 16384 < c.arg 40 2 ∨ c.arg 40 2 ≤ c.arg 42 2 then some 0x0203
  else if (s.partOf (BitVec.ofNat 64 (c.arg 24 8)) (c.arg 42 2)).isSome then some 0x020B
  else if 4096 ≤ s.media.partitions.length then some 0x0204
  else if s.media.qsLayout then some stLayout
  else if s.media.exhausted then some 0x0404
  else none

/-- The lowest dataset slot not in use. -/
def Media.freeSlot (m : Media) : Nat :=
  ((List.range 4096).find? fun i => !m.partitions.any (·.dsSlot == i)).getD 0

/-- A new partition with its key, and that key as wrapped under the job key (R465). -/
def newPartition (c : Cmd) (slot : Nat) (replicas : List Nat) (check : Dword) (key wrapped : List Byte) : Partition where
  dsSlot := slot
  dataset := BitVec.ofNat 64 (c.arg 24 8)
  n := c.arg 32 8
  parts := c.arg 40 2
  p := c.arg 42 2
  cls := c.arg 44 1
  replicas := replicas
  sealed := false
  sealWseq := 0
  nextWseq := 1
  completed := 0
  durable := 0
  lostFrom := none
  shards := []
  samples := []
  defects := []
  keyCheck := check
  wrappedKey := wrapped
  xtsKey := key

/-- Words of 32 bits in a buffer. -/
def wordsOf (bs : List Byte) (n : Nat) : List Nat := (List.range n).map fun i => byteField bs (4 * i) 4

/-- DATASET_CREATE: the replica peers are connection indices of 4 bytes. (DEDUCED 82, DEDUCED 93; assumption log) -/
def execDatasetCreate (cmd : CmdId) (data : HostData) (s : State) : Answer :=
  runDataSec cmd 0x20 data (fun c _ => c.dlen % 4 != 0) (fun _ _ => if s.sec.jobKey.isNone then some 4 else none)
    (fun c bs t => onMedia (fun c t =>
      match createStatus c t with
      | some st => finish c st [] t
      | none =>
        let (key, a) := drawBytes 64 t
        let check := ((t.sec.jobKey).map keyCheck).getD 0
        let wrapped := ((t.sec.jobKey).map fun k => aesWrap (leBytes 32 k) key).getD []
        let p := newPartition c t.media.freeSlot (wordsOf bs (c.dlen / 4)) check key wrapped
        finish c stSuccess [] (programMedia (fun m =>
          Media.describe p.dsSlot t.mono { m with partitions := m.partitions ++ [p] }) a)) c t) s

/-! ### WRITE (R65, R107, R110, R361) -/

/-- The samples of a shard's buffer: a table of lengths, then the bytes. -/
def cutSamples : List Nat → List Byte → List (List Byte)
  | [], _ => []
  | n :: ns, bs => bs.take n :: cutSamples ns (bs.drop n)

/-- A WRITE's field errors: its range, then its table against its buffer. (DEDUCED 94; assumption log) -/
def writeBad (c : Cmd) (bs : Option (List Byte)) (s : State) : Bool :=
  let n := c.arg 48 4
  decide (n ≤ 2 ^ 24) &&
    (((c.part s).map fun p => decide (p.size < c.arg 40 8 + n)).getD false ||
      match bs with
      | none => false
      | some b =>
        let lens := wordsOf b n
        decide (b.length < 4 * n) || (lens.all (decide <| · ≤ maxSample) && decide (4 * n + lens.sum ≠ b.length)))

/-- WRITE: it completes when its data is in the write buffer, and is held while the buffer has no room, or the data no buffer to
pass through. -/
def execWrite (cmd : CmdId) (data : HostData) (s : State) : Answer :=
  runDataSec cmd 0x21 data (fun c bs => writeBad c bs s) (fun c _ => keyReason (c.part s) s)
    (fun c bs t => onPart (fun c p t =>
      if 2 ^ 24 < c.arg 48 4 then finish c 0x0205 [] t
      else
        let lens := wordsOf bs (c.arg 48 4)
        if lens.any (decide <| maxSample < ·) then finish c 0x0206 [] t
        else
          let samples := cutSamples lens (bs.drop (4 * c.arg 48 4))
          match writeStatus p (c.arg 40 8) samples t with
          | some st => finish c st [] t
          | none =>
            match shardIn p.dsSlot (c.arg 36 4) (c.arg 40 8) samples t with
            | (some w, a) => finish c stSuccess (natBytes 4 w) a
            | (none, a) => a.setRun c (.writeHeld p.dsSlot (c.arg 36 4) (c.arg 40 8) samples)) c t) s

/-! ### FLUSH, SEAL and DATASET_DELETE (R63, R108, R360) -/

/-- FLUSH begins: it covers every write completed so far. -/
def execFlush (cmd : CmdId) (s : State) : Answer :=
  runPlain cmd 0x22 (onPart fun c p t =>
    if t.media.qsLayout then finish c stLayout (natBytes 4 p.durable) t
    else t.setRun c (.flush p.dsSlot p.completed false none)) s

/-- SEAL begins: of a partition already sealed it answers the WSEQ that the seal recorded. -/
def execSealPartition (cmd : CmdId) (s : State) : Answer :=
  runCmd cmd 0x23 (fun _ => false) (fun c => keyReason (c.part s) s) (onPart fun c p t =>
    if p.sealed then finish c stSuccess (natBytes 4 p.sealWseq) t
    else if t.media.qsLayout then finish c stLayout (natBytes 4 p.durable) t
    else t.setRun c (.flush p.dsSlot p.completed true none)) s

/-- The LUAs of a partition are trimmed (R92, R110): they are free for other data, and every older candidate is gone. -/
def Media.trimAll (luas : List Nat) (m : Media) : Media :=
  let b : Media := { m with
    map := m.map.filter fun e => !luas.contains e.1
    lostLuas := m.lostLuas.filter fun l => !luas.contains l
    freeLuas := m.freeLuas ++ luas }
  luas.foldl (fun (n : Media) l =>
    Media.log (.trim l l n.seq) { n with seq := n.seq + 1, trims := (l, l, n.seq) :: n.trims.filter (·.1 != l) }) b

/-- A partition goes: its LUAs are trimmed, and its samples leave the caches. -/
def deletePartition (p : Partition) (s : State) : State :=
  let luas := (p.samples.flatMap (·.luas)).eraseDups
  let a := programMedia (fun m =>
    ((Media.trimAll luas { m with
      partitions := m.partitions.filter (·.dsSlot != p.dsSlot)
      buffer := m.buffer.filter (·.dsSlot != p.dsSlot) }).unmap [descriptorLua p.dsSlot, defectLua p.dsSlot]
      |> Media.programJournal s.mono).refill) s
  let b := a.each (List.range 8) fun n t => keepSpill n (·.filter (·.dsSlot != p.dsSlot)) t
  let e := b.modFab fun f => { f with spds := f.spds.map fun d =>
    { d with decCache := d.decCache.filter (·.dsSlot != p.dsSlot), rawCache := d.rawCache.filter (·.dsSlot != p.dsSlot) } }
  clearReason 0x15 p.dsSlot e

/-- DATASET_DELETE: a partition that a stream of the job reads stays, and so does one on QS media, which take no program (R103).
(DEDUCED 82, DEDUCED 95, DESIGN CHOICE 174; assumption log) -/
def execDatasetDelete (cmd : CmdId) (s : State) : Answer :=
  runPlain cmd 0x24 (onPart fun c p t =>
    if t.run.streams.any (·.dsSlot == p.dsSlot) then finish c 0x0307 [] t
    else if t.media.qsLayout then finish c stLayout [] t
    else finish c stSuccess [] (deletePartition p t)) s

/-! ### FORMAT (R92, R103, R111) -/

/-- The media after a format to the native layout: every block but the retired ones is erased, block 0 of each die takes its
label (R103), and the staging region has its size for empty media. A failed die is in service again (R480).
(DEDUCED 96; assumption log) -/
def Media.formatted (m : Media) : Media :=
  let n : Media := { Media.reset with
    mounted := true
    targets := m.targets
    geom := m.geom
    regionBase := m.geom.blocks * 60000 / 1000000
    blocks := m.blocks.map fun b =>
      if b.state = .retired ∧ !m.failedDies.contains b.die then { b with drain := none }
      else
        { b with state := .free, slc := false, erases := b.erases + 1, rewrite := false, lastRewrite := none, drain := none
                 waitJournal := false }
    spares := (List.range 1024).map fun d =>
      if m.hasDie d then
        m.sparesPerDie - (m.blocks.filter fun b => b.die == d && b.state == .retired && !m.failedDies.contains d).length else 0 }
  n.writeLabels.programmed n.liveDies.length

/-- FORMAT: no job may run over the media; its datasets go, and the reasons that stood on them.
(DEDUCED 95, DEDUCED 96; assumption log) -/
def execFormat (cmd : CmdId) (s : State) : Answer :=
  runPlain cmd 0x0A (onMedia fun c t =>
    if t.jobActive then finish c stJobActive [] t
    else
      let a := setMedia Media.formatted t
      let b := (a.each (t.media.partitions.map (·.dsSlot)) fun i u => clearReason 0x15 i u).each t.media.failedDies fun d u =>
        clearReason 0x13 d u
      finish c stSuccess [] (mediaReasons (clearReason 0x12 0 (clearReason 0x11 0 b)))) s

/-! ### What the media report (R119, R361, R362) -/

/-- The 16 bytes of a defect entry. -/
def defectRecord (e : Defect) : List Byte :=
  natBytes 6 e.index ++ natBytes 1 (e.cause % 16 + 16 * flag e.global) ++ [0] ++ natBytes 4 e.epoch ++ natBytes 2 e.detail ++
    [0, 0]

/-- DEFECT_LIST: whole entries from the start index, as many as the buffer holds. -/
def execDefectList (cmd : CmdId) (data : HostData) (s : State) : Answer :=
  runData cmd 0x25 data (fun _ _ => false) (fun c _ t => onPart (fun c p t =>
    let es := (p.defects.drop (c.arg 36 4)).take (c.dlen / 16)
    finish c stSuccess
      (natBytes 4 p.defects.length ++ natBytes 4 es.length ++ [BitVec.ofNat 8 (flag (decide (65536 ≤ p.defects.length)))])
      (c.writeData data (es.flatMap defectRecord) t)) c t) s

/-- The 24 bytes of an unsealed partition. -/
def statusRecord (p : Partition) : List Byte :=
  leBytes 8 p.dataset ++ natBytes 2 p.p ++ [0, 0] ++ natBytes 4 p.durable ++ natBytes 4 p.completed ++ natBytes 4 0

/-- MEDIA_STATUS. -/
def execMediaStatus (cmd : CmdId) (data : HostData) (s : State) : Answer :=
  runData cmd 0x26 data (fun _ _ => false) (fun c _ t => onMedia (fun c t =>
    let bs := ((t.media.partitions.filter fun p => !p.sealed).flatMap statusRecord).take c.dlen
    finish c stSuccess (natBytes 4 bs.length) (c.writeData data bs t)) c t) s

/-- MEDIA_HEALTH: answered whether or not the media are mounted. -/
def execMediaHealth (cmd : CmdId) (data : HostData) (s : State) : Answer :=
  runData cmd 0x27 data (fun _ _ => false) (fun c _ t =>
    let bs := t.media.healthLog.take c.dlen
    finish c stSuccess (natBytes 4 bs.length) (c.writeData data bs t)) s

end Sys2Proof.Machine
end

