-- ==== Sys2Proof/Machine/Sha.lean ====
section
/-! DEFINITION. SHA-256 (FIPS 180-4) and the verification of RSASSA-PSS (RFC 8017), which R452 to R463 name and do not
restate. -/

namespace Sys2Proof.Machine

/-- A number whose most significant byte stands first (R10). -/
def bytesBE (bs : List Byte) : Nat := bytesNat bs.reverse

/-- The round constants of SHA-256. -/
def shaK : List Nat :=
  [0x428A2F98, 0x71374491, 0xB5C0FBCF, 0xE9B5DBA5, 0x3956C25B, 0x59F111F1, 0x923F82A4, 0xAB1C5ED5] ++
  [0xD807AA98, 0x12835B01, 0x243185BE, 0x550C7DC3, 0x72BE5D74, 0x80DEB1FE, 0x9BDC06A7, 0xC19BF174] ++
  [0xE49B69C1, 0xEFBE4786, 0x0FC19DC6, 0x240CA1CC, 0x2DE92C6F, 0x4A7484AA, 0x5CB0A9DC, 0x76F988DA] ++
  [0x983E5152, 0xA831C66D, 0xB00327C8, 0xBF597FC7, 0xC6E00BF3, 0xD5A79147, 0x06CA6351, 0x14292967] ++
  [0x27B70A85, 0x2E1B2138, 0x4D2C6DFC, 0x53380D13, 0x650A7354, 0x766A0ABB, 0x81C2C92E, 0x92722C85] ++
  [0xA2BFE8A1, 0xA81A664B, 0xC24B8B70, 0xC76C51A3, 0xD192E819, 0xD6990624, 0xF40E3585, 0x106AA070] ++
  [0x19A4C116, 0x1E376C08, 0x2748774C, 0x34B0BCB5, 0x391C0CB3, 0x4ED8AA4A, 0x5B9CCA4F, 0x682E6FF3] ++
  [0x748F82EE, 0x78A5636F, 0x84C87814, 0x8CC70208, 0x90BEFFFA, 0xA4506CEB, 0xBEF9A3F7, 0xC67178F2]

/-- A rotation of a 32-bit word to the right. -/
def rotr (n x : Nat) : Nat := (x >>> n) ||| ((x <<< (32 - n)) % 2 ^ 32)

/-- The next word of the message schedule; the schedule is held last word first. -/
def shaNextWord (w : List Nat) : Nat :=
  let x := w.getD 14 0
  let y := w.getD 1 0
  let s0 := rotr 7 x ^^^ rotr 18 x ^^^ (x >>> 3)
  let s1 := rotr 17 y ^^^ rotr 19 y ^^^ (y >>> 10)
  (w.getD 15 0 + s0 + w.getD 6 0 + s1) % 2 ^ 32

/-- The eight working words. -/
structure ShaState where
  a : Nat
  b : Nat
  c : Nat
  d : Nat
  e : Nat
  f : Nat
  g : Nat
  h : Nat
  deriving DecidableEq, Repr

/-- One round with its constant and its schedule word. -/
def shaRound (s : ShaState) (k w : Nat) : ShaState :=
  let s1 := rotr 6 s.e ^^^ rotr 11 s.e ^^^ rotr 25 s.e
  let ch := (s.e &&& s.f) ^^^ ((2 ^ 32 - 1 - s.e) &&& s.g)
  let t1 := s.h + s1 + ch + k + w
  let s0 := rotr 2 s.a ^^^ rotr 13 s.a ^^^ rotr 22 s.a
  let maj := (s.a &&& s.b) ^^^ (s.a &&& s.c) ^^^ (s.b &&& s.c)
  ⟨(t1 + s0 + maj) % 2 ^ 32, s.a, s.b, s.c, (s.d + t1) % 2 ^ 32, s.e, s.f, s.g⟩

/-- The words of a block, big-endian, last word first. -/
def blockWords (bs : List Byte) : List Nat := ((List.range 16).map fun i => bytesBE ((bs.drop (4 * i)).take 4)).reverse

/-- A block is taken in. -/
def shaBlock (s : ShaState) (bs : List Byte) : ShaState :=
  let w0 := blockWords bs
  let w := (List.range 48).foldl (fun w _ => shaNextWord w :: w) w0
  let r := (shaK.zip w.reverse).foldl (fun t x => shaRound t x.1 x.2) s
  ⟨(s.a + r.a) % 2 ^ 32, (s.b + r.b) % 2 ^ 32, (s.c + r.c) % 2 ^ 32, (s.d + r.d) % 2 ^ 32, (s.e + r.e) % 2 ^ 32,
   (s.f + r.f) % 2 ^ 32, (s.g + r.g) % 2 ^ 32, (s.h + r.h) % 2 ^ 32⟩

/-- The message with its padding and its length in bits. -/
def shaPadded (m : List Byte) : List Byte :=
  m ++ [0x80] ++ List.replicate ((119 - m.length % 64) % 64) 0 ++
    (List.range 8).map fun i => BitVec.ofNat 8 (m.length * 8 / 2 ^ (8 * (7 - i)))

/-- SHA-256 of a message, its first byte the highest. (PRESUMED 181; assumption log) -/
def sha256 (m : List Byte) : BitVec 256 :=
  let p := shaPadded m
  let r := (List.range (p.length / 64)).foldl (fun s i => shaBlock s ((p.drop (64 * i)).take 64))
    ⟨0x6A09E667, 0xBB67AE85, 0x3C6EF372, 0xA54FF53A, 0x510E527F, 0x9B05688C, 0x1F83D9AB, 0x5BE0CD19⟩
  BitVec.ofNat 256 ([r.a, r.b, r.c, r.d, r.e, r.f, r.g, r.h].foldl (fun x w => x * 2 ^ 32 + w) 0)

/-- The bytes of a hash, as SHA-256 writes them. -/
def hashBytes (h : BitVec 256) : List Byte := (leBytes 32 h).reverse

/-- A number in `n` bytes, the most significant first. -/
def beBytes (n v : Nat) : List Byte := (natBytes n v).reverse

/-- MGF1 with SHA-256: `n` bytes. -/
def mgf1 (seed : List Byte) (n : Nat) : List Byte :=
  ((List.range ((n + 31) / 32)).flatMap fun i => hashBytes (sha256 (seed ++ beBytes 4 i))).take n

/-- The public RSA operation with the exponent 65,537. -/
def rsaPublic (x n : Nat) : Nat := ((List.range 16).foldl (fun y _ => y * y % n) x) * x % n

/-- RSASSA-PSS verification with a 3,072-bit modulus, SHA-256, MGF1 with SHA-256 and a 32-byte salt (R452).
(PRESUMED 181; assumption log) -/
def pssVerifies (modulus : Nat) (msg : List Byte) (sig : Nat) : Bool :=
  let em := rsaPublic sig modulus
  let bs := beBytes 384 em
  let h := (bs.drop 351).take 32
  let db := ((bs.take 351).zip (mgf1 h 351)).zipIdx.map fun ((x, y), i) => if i = 0 then (x ^^^ y) &&& 0x7F else x ^^^ y
  decide (modulus / 2 ^ 3071 = 1) && decide (sig < modulus) && decide (em < 2 ^ 3071) && bs.getD 383 0 == 0xBC &&
    (db.take 318).all (· == 0) && db.getD 318 0 == 1 &&
    h == hashBytes (sha256 (List.replicate 8 0 ++ hashBytes (sha256 msg) ++ db.drop 319))

/-- The key hash of a signed block: SHA-256 of its modulus and of the exponent (R452). -/
def modulusHash (bs : List Byte) : BitVec 256 := sha256 ((bs.drop 128).take 384 ++ [0, 1, 0, 1])

/-- The signature of a signed block over its bytes 0 to 511 (R452, R460, R469). -/
def blockSigned (bs : List Byte) : Bool :=
  pssVerifies (bytesBE ((bs.drop 128).take 384)) (bs.take 512) (bytesBE ((bs.drop 512).take 384))

end Sys2Proof.Machine
end

