-- ==== Sys2Proof/Machine/JobCommands.lean ====
section
/-! DEFINITION. The commands of the device and the job: IDENTIFY, PORT_CONFIG, JOB_SETUP, JOB_END, ABORT and STEP_MARK (R354,
R356 to R359, R365). -/

namespace Sys2Proof.Machine

/-! ### IDENTIFY and PORT_CONFIG -/

/-- Flash dies mounted (R396). -/
def Media.dies (m : Media) : Nat := if m.mounted then 64 * m.targets - m.failedDies.length else 0

/-- The node identifier of the active job (R396). -/
def State.node (s : State) : Nat := (s.run.job.map (·.node)).getD 0

/-- The mask of the serving SPDs. -/
def State.servingMask (s : State) : Nat := (s.servingList.map (2 ^ ·)).sum

/-- IDENTIFY: Salsia version 1.0. -/
def execIdentify (cmd : CmdId) (s : State) : Answer :=
  runPlain cmd 0x01 (fun c t =>
    finish c stSuccess (natBytes 2 0x0100 ++ leBytes 4 t.sec.fwVer ++ natBytes 2 t.node ++ natBytes 1 t.servingMask ++
      natBytes 1 t.hlth.grade ++ natBytes 2 t.media.dies) t) s

/-- A link exists in the present breakout modes (R267, R299). (DEDUCED 105; assumption log) -/
def linkInMode (s : State) (m : Nat) : Bool := decide (m < 16) && (m % 2 == 0 || bitOf s.applied.egrPort (m / 2))

/-- PORT_CONFIG: the IPv4 or IPv6 address of a link. -/
def execPortConfig (cmd : CmdId) (s : State) : Answer :=
  runCmd cmd 0x09 (fun c => !linkInMode s (c.arg 24 1)) (fun _ => none) (fun c t =>
    let link := c.arg 24 1
    let v6 := c.arg 25 1 == 1
    finish c stSuccess [] (t.modEgr fun e =>
      { e with linkAddr := (link, v6, BitVec.ofNat 128 (bytesBE (c.bytes 32 16)), c.arg 48 1) ::
          e.linkAddr.filter fun x => !(x.1 == link && x.2.1 == v6) })) s

/-! ### JOB_SETUP (R122, R143, R356, R357, R526) -/

/-- A count of the descriptor, or the default of R137. -/
def poolCount (v default : Nat) : Nat := if v = 0xFFFFFFFF then default else v

/-- A reserve record (R357). -/
def reserveAt (bs : List Byte) (o : Nat) : Reserve :=
  ⟨byteField bs o 1, byteField bs (o + 1) 1, byteField bs (o + 2) 1, byteField bs (o + 4) 2, byteField bs (o + 6) 2,
    byteField bs (o + 8) 4⟩

def Reserve.bad (r : Reserve) : Bool := decide (r.owner < 16 ∨ 12 < r.part ∨ 63 < r.stream ∨ r.lastGroup < r.firstGroup)

/-- The records of a descriptor, in order. (DEDUCED 98; assumption log) -/
def reservesOf (bs : List Byte) : List Reserve :=
  (List.range (byteField bs 84 2)).map fun i => reserveAt bs (96 + 16 * byteField bs 6 2 + 12 * i)

/-- One record for each owner and pool part: a repeated one replaces the record before it.
(DEDUCED 98; assumption log) -/
def settleReserves (rs : List Reserve) : List Reserve :=
  rs.foldl (fun a r => a.filter (fun x => !(x.owner == r.owner && x.part == r.part)) ++ [r]) []

/-- A descriptor with a field out of range. (DEDUCED 98; assumption log) -/
def descriptorBad (bs : List Byte) : Bool :=
  let coordN := byteField bs 6 2
  let reserveN := byteField bs 84 2
  let rs := reservesOf bs
  decide (bs.length < 96) || byteField bs 0 4 == 0 || byteField bs 4 2 / 2 ^ 14 != 0 ||
    !(decide (1 ≤ coordN ∧ coordN ≤ 8)) || decide (8192 < byteField bs 16 4) || decide (32768 < byteField bs 20 4) ||
    decide (4096 < reserveN) || byteField bs 86 10 != 0 || decide (bs.length < 96 + 16 * coordN + 12 * reserveN) ||
    rs.any Reserve.bad ||
    ((List.range reserveN).any fun i => byteField bs (99 + 16 * coordN + 12 * i) 1 != 0) ||
    rs.any fun r => rs.any fun q =>
      q.owner == r.owner && !(q.stream == r.stream && q.firstGroup == r.firstGroup && q.lastGroup == r.lastGroup)

/-- The job a descriptor sets up. (DEDUCED 98; assumption log) -/
def parseJob (bs : List Byte) : Job where
  id := BitVec.ofNat 32 (byteField bs 0 4)
  node := byteField bs 4 2
  seed := BitVec.ofNat 64 (byteField bs 8 8)
  textSpace := byteField bs 16 4 * 2 ^ 20
  jobSpace := byteField bs 20 4 * 2 ^ 20
  seconds := byteField bs 24 8
  coords := (List.range (byteField bs 6 2)).map fun i => BitVec.ofNat 128 (bytesBE ((bs.drop (96 + 16 * i)).take 16))
  pools := poolDefaults.zipIdx.map fun (d, i) => poolCount (byteField bs (32 + 4 * i) 4) d
  reserves := settleReserves (reservesOf bs)
  descriptor := bs

/-- Bytes of some pool parts. -/
def poolBytes (pools : List Nat) (first last : Nat) : Nat :=
  ((List.range (last - first)).map fun i => pools.getD (first + i) 0 * partSizes.getD (first + i) 0).sum

/-- What the fixed regions of R122 leave of the 48 GB of each stack that SPD `n` has. -/
def cacheBytes (n : Nat) (j : Job) (s : State) : Int :=
  (48000000000 * stacksLeft n s : Nat) -
    (2 * 2 ^ 30 + mapBytes n s + 2 * 2 ^ 28 + 2 ^ 28 + j.textSpace + poolBytes j.pools 5 13 + j.jobSpace : Nat)

/-- What a job setup fails with. -/
def setupStatus (j : Job) (s : State) : Option Nat :=
  if s.run.job.isSome ∨ s.run.clearing then some stJobActive
  else if 960 * 2 ^ 20 < poolBytes j.pools 0 5 then some 0x0101
  else if s.servingList.any fun n => decide (cacheBytes n j s < 4 * 2 ^ 30) then some 0x0101
  else if (List.range 13).any fun k => decide (j.pools.getD k 0 < ((j.reserves.filter (·.part == k)).map (·.minimum)).sum) then
    some 0x0102
  else none

/-- The sample home map at job start (R19). -/
def startMap (serving : List Nat) : List Nat :=
  ((List.range 8).filter fun n => !serving.contains n).foldl (fun m lost => rewriteMap lost serving 0 m)
    ((List.range 4096).map (· % 8))

/-- The SPDs as the job finds them: its pools, empty caches. -/
def jobSpd (j : Job) (extents : Nat) (d : Spd) : Spd :=
  if d.serving then { d.cleared with pools := j.pools, extents := extents, drawFails := List.replicate 13 0 } else d

/-- The time of day that the descriptor gives, for the sources that take it (R32). (DEDUCED 92; assumption log) -/
def setTimeOfDay (j : Job) (s : State) : State :=
  let sec := j.seconds * 1000000000
  let t := if s.timeSrc = 1 then s.now else if s.timeSrc = 2 then (sec + s.now % 1000000000) % 2 ^ 64 else sec % 2 ^ 64
  s.modTide fun d => { d with
    time := t
    lastPps := d.lastPps.map fun l => (t + l + (2 ^ 64 - d.time % 2 ^ 64)) % 2 ^ 64 }

/-- The job begins. -/
def beginJob (j : Job) (s : State) : State :=
  let serving := s.servingList
  let (key, a) := drawBytes 64 s
  let b : State := { a with
    run := { JobRun.reset with job := some j }
    fab := { a.fab with spds := a.fab.spds.zipIdx.map fun (d, n) => jobSpd j ((cacheBytes n j a).toNat / 65536) d
                        homeMap := startMap serving, homes := serving, rewrites := [], reserves := j.reserves }
    sec := { a.sec with spillKey := some key }
    shadow := { a.shadow with tideJobId := j.id }
    applied := { a.applied with tideJobId := j.id } }
  guardApply (setEv .cfg 1 ((tideNewJob (setTimeOfDay j b)).modTide fun d => { d with missCnt := 0 }))

/-- JOB_SETUP. -/
def execJobSetup (cmd : CmdId) (data : HostData) (s : State) : Answer :=
  runData cmd 0x10 data (fun _ bs => (bs.map descriptorBad).getD false) (fun c bs t =>
    let j := parseJob bs
    match setupStatus j t with
    | some st => finish c st [] t
    | none => finish c stSuccess [] (beginJob j t)) s

/-! ### JOB_END (R359, R382, R464) -/

/-- Steps 1 to 3: the barrier and the streams stop, the batches go, STEP_STATE is NONE again (R41), and every Mooring is
revoked. (DEDUCED 99; assumption log) -/
def stopJob (s : State) : State :=
  let a := s.each s.run.requests fun r u => unpinReq r (releaseAll r u)
  let b := tideNewJob <| cancelBarrier (a.modRun fun r =>
    { r with requests := [], batches := [], streams := r.streams.map fun t => { t with state := .stopped } })
  b.each (b.egr.moorings.filter (·.state == .valid)) fun m u =>
    if m.inflight.isEmpty then setEv .egr 0x10 (freeMooring m.idx u) else beginRevoke m.idx u

/-- Steps 4 and 5: every connection goes, the keys are destroyed, and the clear of R125 begins. -/
def clearJob (s : State) : State :=
  let a := s.each s.egr.conns fun c u => connError c.idx 10 u
  ((a.modEgr fun e => { e with conns := [] }).modSec fun x =>
    { x with jobKey := none, connKeys := [], spillKey := none }).modRun fun r => { r with clearing := true, requests := [], batches := [] }

/-- A job end goes on as far as it can: it waits for earlier job-scoped commands, then for the revocations.
(DEDUCED 99; assumption log) -/
def jobEndOn (s : State) : State :=
  if !s.jobStopped || s.run.clearing then s
  else
    let a := stopJob s
    if a.egr.moorings.any (·.state == .revoking) then a else clearJob a

/-- JOB_END takes effect at acceptance: every group is disarmed, and no job-scoped command starts any more.
(DEDUCED 99; assumption log) -/
def execJobEnd (cmd : CmdId) (s : State) : Answer :=
  runPlain cmd 0x11 (fun c t =>
    if t.run.job.isNone then finish c stNoJob [] t
    else jobEndOn (({ t with arms := [] }.modRun fun r => { r with ending := true }).setRun c .jobEnd)) s

/-! ### ABORT (R354) -/

/-- The way an ABORT names: a Quay, or a mailbox of the same port. -/
def Cmd.targetVia (c : Cmd) : Via :=
  if c.arg 24 1 < 64 then .quay c.quayArg else .mbx ⟨viaPort c.id.via, Fin.ofNat 16 (c.arg 24 1)⟩

/-- The target has completed, and its completion is not yet written or its reply not yet acknowledged. -/
def completedTarget (id : CmdId) (s : State) : Bool :=
  match id.via with
  | .quay q => ((s.quay? q).map fun y => y.waiting.any (·.id == id)).getD false
  | .mbx m => s.host.replies.any (fun x => x.id == id && !x.orphan) ||
      ((s.mbx m).state == .reply && (s.mbx m).tag == id.tag)
  | .doe _ => false

/-- The reason of an ABORT that finds this command: 0 where it is caught. (DEDUCED 71; assumption log) -/
def abortReason (t : Cmd) (s : State) : Nat :=
  match t.run with
  | .queued => if t.opcode = 0x04 then 3 else 0
  | .selfTest => if s.host.selfTest.all fun x => x.step == x.lastStep then 3 else 0
  | .getEvent | .copying .. => 0
  | _ => 3

/-- A caught target completes with CANCELLED: a self-test at its next step boundary, with the steps it completed; of a
COPY_FROM_PEER the shards copied stand. (DEDUCED 72; assumption log) -/
def cancel (t : Cmd) (s : State) : State :=
  match t.run, s.host.selfTest with
  | .selfTest, some x => s.modHost fun h => { h with selfTest := some { x with aborted := true } }
  | .copying w plan _, _ =>
    if s.egr.fetches.any (·.id == .shard t.id) then s.setRun t (.copying w (plan.take 1) true)
    else finish t stCancelled (natBytes 4 w) s
  | _, _ => finish t stCancelled [] s

/-- ABORT (R354): its completion follows that of a target it has caught. (DEDUCED 71; assumption log) -/
def execAbort (cmd : CmdId) (s : State) : Answer :=
  runPlain cmd 0x04 (fun c t =>
    let id : CmdId := ⟨c.targetVia, BitVec.ofNat 16 (c.arg 26 2)⟩
    match t.cmd? id (fun x => !x.orphan && !x.dup && x.order != c.order) with
    | none =>
      let self := id = c.id
      finish c stSuccess [1, if self then 3 else if completedTarget id t then 2 else 1] t
    | some x =>
      let r := abortReason x t
      if r = 0 then jobEndOn (cancel x (t.setRun c (.abortWait x.order))) else finish c stSuccess [1, BitVec.ofNat 8 r] t) s

/-! ### STEP_MARK (R35) -/

/-- STEP_MARK: the message of R35 in bytes 32 to 63. It carries no source address, and it arrives now.
(DEDUCED 16; assumption log) -/
def execStepMark (cmd : CmdId) (s : State) : Answer :=
  runPlain cmd 0x12 (fun c t => finish c stSuccess [] (receiveMark true (c.bytes 32 32) t.now t)) s

/-! ### COPY_FROM_PEER (R73, R292 to R294, R354, R365) -/

/-- A copy goes on with its next shard, which it reads as one range of the peer's; with none to come it has ended, by an ABORT
that caught it or with SUCCESS. -/
def copyNext (c : Cmd) (p : Partition) (w : Nat) (plan : List (Nat × Nat × List Nat)) (aborted : Bool) (s : State) : State :=
  match plan with
  | [] => finish c (if aborted then stCancelled else stSuccess) (natBytes 4 w) s
  | (shard, _, lens) :: _ =>
    goFetch ((s.setRun c (.copying w plan aborted)).modFetches (· ++
      [⟨.shard c.id, [c.arg 36 4], 0, p.dataset, shard, 0, lens.sum, .queued, [], [], 0⟩]))

/-- The shard being copied has arrived: it is written as WRITE writes it, or stays with the peer while the write buffer has no
room. -/
def copyShard (c : Cmd) (p : Partition) (w shard first : Nat) (lens : List Nat) (rest : List (Nat × Nat × List Nat))
    (aborted : Bool) (bs : List Byte) (s : State) : State :=
  let samples := cutSamples lens bs
  let fails (st : Nat) : State := finish c st (natBytes 4 w) (dropFetch (.shard c.id) s)
  match writeStatus p first samples s with
  | some st => fails st
  | none =>
    if p.size < first + samples.length then fails stInvalidField
    else
      match shardIn p.dsSlot shard first samples s with
      | (some v, t) => copyNext c p v rest aborted (dropFetch (.shard c.id) t)
      | (none, t) => t

/-- A copy under way, once its read has ended. (DEDUCED 97; assumption log) -/
def copyOn (c : Cmd) (p : Partition) (w : Nat) (plan : List (Nat × Nat × List Nat)) (aborted : Bool) (s : State) : State :=
  match plan, s.egr.fetches.find? (·.id == .shard c.id) with
  | (shard, first, lens) :: rest, some x =>
    match x.state with
    | .complete => copyShard c p w shard first lens rest aborted x.bytes s
    | .failed => finish c 0x0607 (natBytes 4 w) (dropFetch x.id s)
    | _ => s
  | _, _ => copyNext c p w plan aborted s

/-- COPY_FROM_PEER: the shards the peer holds, with their first index and sample lengths, are read and written in order. The row
comes again when a read of the copy has ended. (DEDUCED 97; assumption log) -/
def execCopyFromPeer (cmd : CmdId) (plan : List (Nat × Nat × List Nat)) (s : State) : Answer :=
  match s.cmd? cmd fun c => match c.run with | .copying .. => true | _ => false with
  | some c =>
    match c.run, c.part s with
    | .copying w rest aborted, some p => .next (jobEndOn (copyOn c p w rest aborted s))
    | .copying w _ _, none => .next (jobEndOn (finish c stUnknown (natBytes 4 w) (dropFetch (.shard c.id) s)))
    | _, _ => .next s
  | none =>
    runCmd cmd 0x28 (fun _ => false) (fun c => keyReason (c.part s) s) (onPart fun c p t =>
      match t.conn? (c.arg 36 4) with
      | none => finish c 0x0603 (natBytes 4 0) t
      | some k =>
        if !k.peer then finish c 0x0603 (natBytes 4 0) t
        else if k.error.isSome then finish c 0x0607 (natBytes 4 0) (setEv .egr 0x200 t)
        else copyNext c p 0 plan false t) s

end Sys2Proof.Machine
end

