-- ==== Sys2Proof/Machine/Security.lean ====
section
/-! DEFINITION. Security and debug commands (R450 to R474): firmware staging and activation, fuses and lifecycle, keys,
debug grants and ZEROISE. -/

namespace Sys2Proof.Machine

/-! ### Status registers (R400, R401) -/

def lifecycleCode : Lifecycle → Nat
  | .provisioning => 0 | .secured => 1 | .zeroised => 2

def debugCode : DebugState → Nat
  | .locked => 0 | .auth .. => 1 | .openAll => 2

/-- `SEC_STAT`. -/
def secStat (x : Security) : Word :=
  BitVec.ofNat 32 (debugCode x.debug + 4 * lifecycleCode x.lifecycle + 16 * flag x.verified + 32 * flag x.recovery +
    64 * (x.slotUsed % 4) + 256 * x.revoke.toNat + 4096 * flag x.attest)

/-- `SEC_SVN`. -/
def secSvn (x : Security) : Word := BitVec.ofNat 32 (x.svnMin % 65536 + 65536 * (x.svn % 65536))

/-- SEC_STATUS. -/
def execSecStatus (cmd : CmdId) (s : State) : Answer :=
  runPlain cmd 0x60 (fun c t =>
    finish c stSuccess (leBytes 4 (secStat t.sec) ++ leBytes 4 (secSvn t.sec) ++ natBytes 1 t.sec.slotUsed) t) s

/-! ### Key slots and images (R451 to R453) -/

def Security.keyOf (x : Security) (slot : Nat) : BitVec 256 := x.keyHash.getD slot 0

def Security.programmed (x : Security) (slot : Nat) : Bool := decide (slot < 4) && x.keyOf slot != 0

def Security.live (x : Security) (slot : Nat) : Bool := x.programmed slot && !bitOf x.revoke slot

/-- Fields of an image's header (R452). -/
def imgSlot (g : List Byte) : Nat := byteField g 6 1
def imgFwVer (g : List Byte) : Word := BitVec.ofNat 32 (byteField g 8 4)
def imgSvn (g : List Byte) : Nat := byteField g 12 2
def imgBodyLen (g : List Byte) : Nat := byteField g 16 4

/-- MAGIC, HDR_VER and the reserved bytes (R452, R453). -/
def imgFormatOk (g : List Byte) : Bool :=
  byteField g 0 4 == 0x4D495751 && byteField g 4 2 == 1 && byteField g 7 1 == 0 &&
    byteField g 14 2 == 0 && byteField g 52 76 == 0 && byteField g 896 128 == 0

/-- The first check of R453 that an image of `total` bytes fails, as its reason. -/
def imageReason (x : Security) (total : Nat) (g : List Byte) : Option Nat :=
  let n := imgBodyLen g
  if !imgFormatOk g then some 1
  else if !(decide (1 ≤ n ∧ n ≤ 67107840 ∧ 1024 + n = total)) then some 2
  else if bitOf x.revoke (imgSlot g) then some 3
  else if !x.programmed (imgSlot g) ∨ x.keyOf (imgSlot g) ≠ modulusHash g then some 4
  else if !blockSigned g then some 5
  else if hashBytes (sha256 ((g.drop 1024).take n)) ≠ (g.drop 20).take 32 then some 6
  else if imgSvn g < x.svnMin then some 7
  else none

/-- The image that the ROM copies from the NOR: BODY_LEN bytes behind the header, erased bytes reading 0xFF; the region of the
certificates begins 64 KiB below the end of a NOR of at least 128 MiB, which no image in range reaches (R452, R453, R504). -/
def Security.norImage (x : Security) : List Byte :=
  let n := 1024 + imgBodyLen x.nor
  x.nor.take n ++ List.replicate (n - x.nor.length) 0xFF

/-- What a signed record of R460 or R469 fails with, apart from its own fields: the signer's slot, hash and signature. -/
def signerReason (x : Security) (slot : Nat) (bs : List Byte) : Option Nat :=
  if bitOf x.revoke slot then some 3
  else if !x.programmed slot ∨ x.keyOf slot ≠ modulusHash bs then some 4
  else if !blockSigned bs then some 5
  else none

/-- INVALID_FIELD with its reason in RESULT byte 0. -/
def refuseField (c : Cmd) (reason : Nat) (s : State) : State := finish c stInvalidField (natBytes 1 reason) s

/-! ### FW_STAGE and FW_ACTIVATE (R456 to R458) -/

/-- A bit of `AON_RESET_CAUSE` (R393). -/
def causeBit (i : Nat) (s : State) : State :=
  s.modAon fun a => { a with live := { a.live with cause := a.live.cause ||| bit32 i } }

/-- A chunk that continues what is staged, or begins it. (DESIGN CHOICE 108; assumption log) -/
def chunkFollows (c : Cmd) (x : Security) : Bool :=
  let off := c.arg 24 4
  let total := c.arg 28 4
  decide (total ≤ 2 ^ 26 ∧ off + c.dlen ≤ total) &&
    (off == 0 || ((x.staged.map fun g => g.bytes.length == off && g.total == total).getD false))

/-- What is staged once a chunk has been taken. -/
def Security.stagedWith (x : Security) (off : Nat) (bs : List Byte) : List Byte :=
  if off = 0 then bs else ((x.staged.map (·.bytes)).getD []) ++ bs

/-- FW_STAGE: the chunk that completes the image is followed by its verification. (DESIGN CHOICE 108; assumption log) -/
def execFwStage (cmd : CmdId) (data : HostData) (s : State) : Answer :=
  runData cmd 0x07 data (fun _ _ => false) (fun c bs t =>
    let drop (u : State) : State := u.modSec fun x => { x with staged := none }
    let total := c.arg 28 4
    if !chunkFollows c t.sec then refuseField c 10 (drop t)
    else
      let got := t.sec.stagedWith (c.arg 24 4) bs
      if got.length < total then
        finish c stSuccess [] (t.modSec fun x => { x with staged := some ⟨total, got, false⟩ })
      else
        match imageReason t.sec total got with
        | some r => refuseField c r (setEv .sec 4 (drop t))
        | none => finish c stSuccess [] (t.modSec fun x => { x with staged := some ⟨total, got, true⟩ })) s

/-- FW_ACTIVATE begins: the image region of the NOR is erased, and a staged and verified image is programmed into it. A restart
that an earlier one has left due stands (R457). -/
def execFwActivate (cmd : CmdId) (s : State) : Answer :=
  runPlain cmd 0x08 (fun c t =>
    match t.sec.staged with
    | some ⟨_, g, true⟩ => (t.modSec fun x => { x with nor := [], activated := some g }).setRun c (.fwActivate false)
    | _ => refuseField c 8 t) s

/-- FW_NOR_WRITE_DONE: the read-back matches, and the restart is due 1 ms later, or after the job; or the program is made once
more. -/
def execFwNorWriteDone (cmd : CmdId) (matched : Bool) (s : State) : Answer :=
  match s.cmd? cmd fun c => match c.run with | .fwActivate _ => true | _ => false with
  | none => .next s
  | some c =>
    if matched then
      .next (finish c stSuccess (natBytes 1 (flag s.jobActive)) (s.modSec fun x =>
        { x with nor := x.activated.getD [], activated := none
                 restart := x.activated.map fun g => (s.mono + if s.jobActive then 0 else 1000000, g) }))
    else if c.run = .fwActivate false then .next (s.setRun c (.fwActivate true))
    else .next (refuseField c 9 (s.modSec fun x => { x with activated := none }))

/-- The fuse bytes of measurement 2: LIFECYCLE, KEY_HASH0 to KEY_HASH3, REVOKE and SVN_MIN (R463).
(PRESUMED 132; assumption log) -/
def fuseBytes (x : Security) : List Byte :=
  natBytes 1 (match x.lifecycle with | .provisioning => 0 | .secured => 1 | .zeroised => 3) ++
    (List.range 4).flatMap (fun i => (leBytes 32 (x.keyOf i)).reverse) ++ natBytes 1 x.revoke.toNat ++ natBytes 8 (2 ^ min 64 x.svnMin - 1)

/-- The image `g` starts: it is the running image that blocks 3 and 4 measure; the fuses stay as the boot measured them (R454,
R463). (DEDUCED 133; assumption log) -/
def startImage (g : List Byte) (x : Security) : Security :=
  { x with verified := true, slotUsed := imgSlot g, fwVer := imgFwVer g, svn := imgSvn g, bootImage := some g }

/-- FW_ACTIVATE_RESTART: 1 ms after the completion and with no job active, the Harbourmaster and every Pilot restart from the
staged copy, which is the running image from then on; no core stays halted, and the recovery path ends.
(DESIGN CHOICE 180; assumption log) -/
def execFwActivateRestart (s : State) : Answer :=
  match s.sec.restart with
  | some (at_, g) =>
    if s.mono < at_ ∨ s.jobActive then .next s
    else
      .next (restartHarbourmaster ((causeBit (if s.sec.recovery then 4 else 3) s).modSec fun x =>
        { startImage g x with recovery := false, restart := none, activated := none, staged := none, halted := [] }))
  | none => .next s

/-! ### Fuses and lifecycle (R459 to R461) -/

/-- SLOT_PROGRAM: in PROVISIONING, an unprogrammed slot. -/
def execSlotProgram (cmd : CmdId) (data : HostData) (s : State) : Answer :=
  runDataSec cmd 0x61 data (fun c _ => decide (3 < c.arg 24 1) || c.dlen != 32)
    (fun c _ => if s.sec.lifecycle = .provisioning ∧ s.sec.keyOf (c.arg 24 1) = 0 then none else some 2)
    (fun c bs t => finish c stSuccess [] (t.modSec fun x =>
      { x with keyHash := x.keyHash.set (c.arg 24 1) (BitVec.ofNat 256 (bytesBE bs)) })) s

/-- SVN_COMMIT: the count rises to the running image's SVN, and never falls. -/
def execSvnCommit (cmd : CmdId) (s : State) : Answer :=
  runPlain cmd 0x62 (fun c t =>
    let n := max t.sec.svnMin (min 64 t.sec.svn)
    finish c stSuccess (natBytes 2 n) (t.modSec fun x => { x with svnMin := n })) s

/-- LIFECYCLE_SECURE. -/
def execLifecycleSecure (cmd : CmdId) (s : State) : Answer :=
  let ok := s.sec.lifecycle = .provisioning ∧ (List.range 4).any s.sec.programmed ∧ s.sec.cert.isSome
  runCmd cmd 0x63 (fun _ => false) (fun _ => if ok then none else some 2)
    (fun c t => finish c stSuccess [] (t.modSec fun x => { x with lifecycle := .secured })) s

/-! ### Keys (R464) -/

/-- Kind and slot out of range. -/
def keyFieldBad (c : Cmd) : Bool := !(c.arg 24 1 == 1 || (c.arg 24 1 == 2 && c.arg 25 1 != 0))

/-- Reason 6: the job is active, or a connection uses the slot. (DEDUCED 149; assumption log) -/
def keyInUse (c : Cmd) (s : State) : Bool :=
  if c.arg 24 1 = 1 then s.jobActive else s.egr.conns.any (·.encKey == c.arg 25 1)

/-- A CONN key needs an active job. (DEDUCED 105; assumption log) -/
def keyNoJob (c : Cmd) (s : State) : Bool := c.arg 24 1 == 2 && !s.jobOpen

/-- KEY_LOAD: only inside a secured session on a port's DOE. -/
def execKeyLoad (cmd : CmdId) (data : HostData) (s : State) : Answer :=
  let inside : Bool := match cmd.via with | .doe _ => true | _ => false
  runDataSec cmd 0x64 data (fun c _ => keyFieldBad c || c.dlen != 32)
    (fun c _ => if !inside then some 3 else if keyInUse c s then some 6 else none)
    (fun c bs t =>
      let key := BitVec.ofNat 256 (bytesNat bs)
      if keyNoJob c t then finish c stNoJob [] t
      else
        finish c stSuccess [] (t.modSec fun x =>
          if c.arg 24 1 = 1 then { x with jobKey := some key }
          else { x with connKeys := (c.arg 25 1, key, BitVec.ofNat 32 (c.arg 28 4)) :: x.connKeys.filter (·.1 != c.arg 25 1) })) s

/-- KEY_CLEAR. (DEDUCED 149; assumption log) -/
def execKeyClear (cmd : CmdId) (s : State) : Answer :=
  runCmd cmd 0x65 keyFieldBad (fun c => if keyInUse c s then some 6 else none) (fun c t =>
    if keyNoJob c t then finish c stNoJob [] t
    else
      finish c stSuccess [] (t.modSec fun x =>
        if c.arg 24 1 = 1 then { x with jobKey := none } else { x with connKeys := x.connKeys.filter (·.1 != c.arg 25 1) })) s

/-- KEY_REVOKE's own fields: MAGIC, SERIAL, slots and reserved bytes. (DEDUCED 107; assumption log) -/
def revokeReason (bs : List Byte) : Option Nat :=
  if byteField bs 0 4 ≠ 0x56525751 ∨ 3 < byteField bs 12 1 ∨ byteField bs 14 114 ≠ 0 ∨ byteField bs 896 128 ≠ 0 ∨
      !(byteField bs 4 8 == 0 || byteField bs 4 8 == Config.serial.toNat) ∨ byteField bs 12 1 = byteField bs 13 1 then some 1
  else none

/-- The last programmed slot that is not yet revoked. -/
def Security.lastSlot (x : Security) (slot : Nat) : Bool := x.live slot && ((List.range 4).all fun i => i == slot || !x.live i)

/-- A slot is revoked: a staged image of that slot is discarded; an activation that has begun has its own copy (R458). -/
def revokeSlot (slot : Nat) (s : State) : State :=
  setEv .sec 8 (s.modSec fun x =>
    { x with revoke := x.revoke ||| (1 <<< slot)
             staged := if (x.staged.map fun g => imgSlot g.bytes) == some slot then none else x.staged })

/-- KEY_REVOKE: a record that would revoke the last slot is refused for that, whatever else it fails (R460). -/
def execKeyRevoke (cmd : CmdId) (data : HostData) (s : State) : Answer :=
  runData cmd 0x66 data (fun _ _ => false) (fun c bs t =>
    let target := byteField bs 12 1
    if bs.length ≠ 1024 then refuseField c 2 t
    else if t.sec.lastSlot target then finish c stSecurity [8] t
    else
      match revokeReason bs <|> signerReason t.sec (byteField bs 13 1) bs with
      | some r => refuseField c r t
      | none => finish c stSuccess [] (revokeSlot target t)) s

/-! ### Debug (R468 to R472) -/

/-- A new nonce of 16 bytes, which voids the one before (R469). -/
def newNonce (s : State) : Nat × State :=
  let (lo, a) := s.draw
  let (hi, b) := a.draw
  let nonce := lo.toNat + hi.toNat * 2 ^ 64
  (nonce, b.modSec fun x => { x with nonce := some nonce })

/-- DEBUG_CHALLENGE, of a mailbox only: a new nonce; eight failures in a row block it. (DEDUCED 107; assumption log) -/
def execDebugChallenge (cmd : CmdId) (s : State) : Answer :=
  runCmd cmd 0x67 (fun _ => false) (fun _ => if !Via.isMbx cmd.via ∨ 8 ≤ s.sec.debugFails then some 2 else none) (fun c t =>
    let (n, a) := newNonce t
    finish c stSuccess (natBytes 16 n ++ leBytes 8 Config.serial) a) s

/-- A grant's own fields: length, MAGIC, nonce, SERIAL, RIGHTS, LIFETIME and reserved bytes.
(DEDUCED 107; assumption log) -/
def grantReason (x : Security) (bs : List Byte) : Option Nat :=
  if bs.length ≠ 1024 then some 2
  else if byteField bs 0 4 ≠ 0x42475751 ∨ x.nonce ≠ some (byteField bs 4 16) ∨
      !(byteField bs 20 8 == 0 || byteField bs 20 8 == Config.serial.toNat) ∨ 8 ≤ byteField bs 28 1 ∨
      !(decide (1 ≤ byteField bs 30 4 ∧ byteField bs 30 4 ≤ 86400)) ∨ byteField bs 34 94 ≠ 0 ∨ byteField bs 896 128 ≠ 0 then
    some 1
  else none

/-- DEBUG_RESPONSE: a grant that verifies enters AUTH for its lifetime; one that fails voids the nonce. OPEN lasts until the
next reset, so there it is refused (R472). -/
def execDebugResponse (cmd : CmdId) (data : HostData) (s : State) : Answer :=
  runDataSec cmd 0x68 data (fun _ _ => false) (fun _ _ => if s.sec.debug = .openAll then some 2 else none) (fun c bs t =>
    match (grantReason t.sec bs) <|> signerReason t.sec (byteField bs 29 1) bs with
    | some r => refuseField c r (setEv .sec 2 (t.modSec fun x => { x with nonce := none, debugFails := x.debugFails + 1 }))
    | none =>
      let right (i : Nat) : Bool := natBits (byteField bs 28 1) i 1 == 1
      finish c stSuccess [] (setEv .sec 1 (t.modSec fun x =>
        { x with debug := .auth (right 0) (right 1) (right 2) (some (t.mono + byteField bs 30 4 * 1000000000))
                 nonce := none, debugFails := 0 }))) s

/-- A debug session ends: LOCKED, and owner 4's semaphores are abandoned (R339, R470). (DEDUCED 136; assumption log) -/
def endDebug (s : State) : State := abandonSems .debug (setEv .sec 1 (s.modSec fun x => { x with debug := .locked }))

def isAuth : DebugState → Bool
  | .auth .. => true
  | _ => false

/-- DEBUG_EXIT. (DEDUCED 107; assumption log) -/
def execDebugExit (cmd : CmdId) (s : State) : Answer :=
  runCmd cmd 0x69 (fun _ => false) (fun _ => if isAuth s.sec.debug then none else some 2)
    (fun c t => finish c stSuccess [] (endDebug t)) s

/-- DEBUG_GRANT_EXPIRY: the end of LIFETIME. -/
def execDebugGrantExpiry (s : State) : Answer :=
  match s.sec.debug with
  | .auth _ _ _ (some t) => if t ≤ s.mono then .next (endDebug s) else .next s
  | _ => .next s

/-- What refuses ZEROISE. -/
def zeroiseReason (x : Security) : Option Nat :=
  match x.lifecycle, x.debug with
  | .provisioning, .auth .. => none
  | .secured, .auth _ _ z _ => if z then none else some 7
  | _, _ => some 2

/-- A step of R471. -/
def zeroiseStep (k : Nat) (s : State) : State :=
  match k with
  | 1 =>
    let a := s.modSec fun x => { x with jobKey := none, connKeys := [], spillKey := none }
    a.each (a.egr.conns.filter (·.encKey != 0)) fun c t => connError c.idx 9 t
  | 2 => s.modSec fun x => { x with deviceSeed := BitVec.allOnes 256 }
  | _ => setEv .sec 0x10 (s.modSec fun x => { x with lifecycle := .zeroised })

/-- ZEROISE: its first step; the Keel takes the others, and completes the command with the last. -/
def execZeroise (cmd : CmdId) (s : State) : Answer :=
  runCmd cmd 0x6A (fun _ => false) (fun _ => zeroiseReason s.sec) (fun c t =>
    ((zeroiseStep 1 t).modSec fun x => { x with zeroising := some 1 }).setRun c .zeroise) s

/-- The next step of a ZEROISE under way. -/
def keelStep (s : State) : State :=
  match s.sec.zeroising with
  | none => s
  | some k =>
    let a := (zeroiseStep (k + 1) s).modSec fun x => { x with zeroising := if k + 1 < 3 then some (k + 1) else none }
    if k + 1 < 3 then a else a.each (a.host.cmds.filter (·.run == .zeroise)) fun c t => finish c stSuccess [] t

/-- DEBUG_OPEN: in ZEROISED only. -/
def execDebugOpen (cmd : CmdId) (s : State) : Answer :=
  runCmd cmd 0x6B (fun _ => false) (fun _ => if s.sec.lifecycle = .zeroised then none else some 2)
    (fun c t => finish c stSuccess [] (setEv .sec 1 (t.modSec fun x => { x with debug := .openAll }))) s

end Sys2Proof.Machine
end

