-- ==== Sys2Proof/Machine/Resets.lean ====
section
/-! DEFINITION. Start-up and reset (R496 to R516): what each reset reaches, the supplies and clocks, the boot of the image,
the bring-up of dies, stacks and edges, restarts of the Harbourmaster. -/

namespace Sys2Proof.Machine

/-! ### What a reset reaches (R468, R498, R499) -/

/-- The debug state after a reset that reaches IOD0 (R468). (DEDUCED 115; assumption log) -/
def debugAfterReset (l : Lifecycle) : DebugState :=
  match l with
  | .provisioning => .auth true true false none
  | .secured | .zeroised => .locked

/-- The fuses and the NOR stand; everything else of the Keel is lost. (DEDUCED 114; assumption log) -/
def Security.afterReset (x : Security) : Security :=
  { Security.reset with
    keyHash := x.keyHash, revoke := x.revoke, svnMin := x.svnMin, lifecycle := x.lifecycle, deviceSeed := x.deviceSeed, nor := x.nor
    cert := x.cert, debug := debugAfterReset x.lifecycle }

/-- The levels at the lands and the trip latch stand. (DEDUCED 114; assumption log) -/
def Power.afterReset (p : Power) : Power :=
  { Power.reset with
    wakeN := p.wakeN, off := p.off, tripped := p.tripped, vin48 := p.vin48, v1p8 := p.v1p8, v3p3 := p.v3p3
    warmDue := p.warmDue, testEn := p.testEn, resetLow := p.resetLow }

/-- The media lose what was not durable (R109). -/
def Media.afterReset (m : Media) : Media := { m.powerLoss with mountFail := none, untrained := [], relocAt := [] }

/-- The ports come back with the level of their PERST lands. (DEDUCED 114; assumption log) -/
def Hosts.afterReset (h : Hosts) : Hosts :=
  { Hosts.reset with
    portA := { HostPort.reset with perst := h.portA.perst }, portB := { HostPort.reset with perst := h.portB.perst } }

/-- A thermal trip or a warm reset: everything but the always-on domain, the health reasons and counts, the class counters,
the media and the fuses. The posting register of the slow domain is emptied (R392). (DEDUCED 114; assumption log) -/
def resetCore (s : State) : State :=
  { State.reset with
    pending := s.pending, free := s.free, out := s.out
    fab := { Fabric.reset with rowsRetired := s.fab.rowsRetired }
    media := s.media.afterReset
    host := s.host.afterReset
    tide := { Tide.reset with syncIn := s.tide.syncIn }
    pwr := s.pwr.afterReset
    aon := { s.aon with posted := [] }
    sec := s.sec.afterReset
    hlth := { s.hlth with alertPend := false } }

/-- A cold reset: the always-on domain, the health counts and the retired rows go as well. -/
def resetCold (s : State) : State :=
  { State.reset with
    pending := s.pending, free := s.free, out := s.out
    media := s.media.afterReset
    host := s.host.afterReset
    sec := s.sec.afterReset
    tide := { Tide.reset with syncIn := s.tide.syncIn }
    pwr := { Power.reset with wakeN := s.pwr.wakeN, resetLow := s.pwr.resetLow } }

/-- Steps 1 and 2 of R502 begin: the core rails close, the boot is counted, uptime starts.
(DEDUCED 117; assumption log) -/
def startUp (s : State) : State :=
  (((exitStepAll 1 (List.range 8) s).modPwr fun p => { p with off := false, warmDue := false }).modTide fun d => { d with uptime := 0, time := 0 }).modAon
    fun a => { a with live := { a.live with bootCnt := a.live.bootCnt + 1 } }

/-! ### Resets, rails and clocks (R497, R510 to R516) -/

/-- COLD_RESET: V3P3_AON rises; the other rails come later. -/
def execColdReset (s : State) : Answer := .next (resetCold s)

/-- The rails are good, RESET_N is high and the trip latch is open: the device starts, with the cause of the return of a rail
(R512) or of the end of a warm reset. -/
def startIfGood (s : State) : State :=
  if s.pwr.v3p3 && s.pwr.vin48 && s.pwr.v1p8 && !s.pwr.tripped && !s.pwr.resetLow && s.pwr.off then
    startUp (if s.pwr.warmDue then causeBit 1 s else s)
  else s

/-- POWER_GOOD (R510, R511): V1P8_IO and VIN48 are good, with V3P3_AON good before them; the straps are sampled (R502, R519).
(DEDUCED 117; assumption log) -/
def execPowerGood (testEn : Bool) (s : State) : Answer :=
  if s.pwr.v3p3 then .next (startIfGood (s.modPwr fun p => { p with vin48 := true, v1p8 := true, testEn := testEn })) else .next s

/-- RAIL_LOST (R512): the core rails open; the media lose power. (DEDUCED 117; assumption log) -/
def execRailLost (rail : Rail) (s : State) : Answer :=
  let drop (p : Power) : Power :=
    match rail with
    | .vin48 => { p with vin48 := false }
    | .v1p8 => { p with v1p8 := false }
    | .v3p3 => { p with v3p3 := false, vin48 := false, v1p8 := false }
  let good := match rail with | .vin48 => s.pwr.vin48 | .v1p8 => s.pwr.v1p8 | .v3p3 => s.pwr.v3p3
  if good then .next (resetCore (s.modPwr fun p => { drop p with off := true, warmDue := true })) else .next s

/-- RESET_N acts at 10 µs, not below 1 µs, and between them as the part does. (DESIGN CHOICE 118; assumption log) -/
def pulseActs (lowNs : Nat) (k : Nat) : Bool := decide (10000 ≤ lowNs) || (decide (1000 ≤ lowNs) && Config.shortPulseActs k)

/-- RESET_N has been low for 10 µs and is held: the device stays in reset (R467, R497).
(DESIGN CHOICE 118; assumption log) -/
def holdReset (s : State) : State :=
  if s.pwr.off then s.modPwr fun p => { p with resetLow := true }
  else (resetCore s).modPwr fun p => { p with off := true, warmDue := true, resetLow := true }

/-- WARM_RESET (R497, R502): the straps are sampled as RESET_N rises. (DESIGN CHOICE 118; assumption log) -/
def execWarmReset (pin : ResetPin) (s : State) : Answer :=
  match pin with
  | .pulse lowNs testEn =>
    let a : State := { s with free := s.free + 1 }
    if s.pwr.off ∨ !pulseActs lowNs s.free then .next a
    else .next (startUp (causeBit 1 ((resetCore a).modPwr fun p => { p with testEn := testEn })))
  | .held => .next (holdReset s)
  | .released testEn =>
    if s.pwr.resetLow then .next (startIfGood (s.modPwr fun p => { p with resetLow := false, testEn := testEn })) else .next s

/-- CLOCK_FAULT (R515, R516). (DEDUCED 119; assumption log) -/
def execClockFault (c : ClockInput) (s : State) : Answer :=
  match c with
  | .pcieRef p => .next (resetPort p .linkDown s)
  | .ethRef => .next (s.each (List.range 16) fun m t => downLink m (some 100) t)
  | .slow => .next (s.modAon fun a => { a with slowLost := true })
  | .sys => .next (loseIod0 s)

/-- KEEL_FAULT (R475, R480). -/
def execKeelFault (s : State) : Answer := .next (fatalLoss 0x23 0 s)

/-! ### Restarts of the Harbourmaster (R500) -/

/-- A mismatch of a pair, or its missed heartbeats: the Harbourmaster alone restarts, and LOCKSTEP follows the count.
(DEDUCED 120; assumption log) -/
def lockstepRestart (pair : Nat) (s : State) : State :=
  if s.host.hm = .boot then s
  else
    restartHarbourmaster (lockstepReason pair
      (s.modHlth fun h => { h with mismatches := windowed dayNs s.aon.clock h.mismatches ++ [s.aon.clock] }))

/-- LOCKSTEP_MISMATCH. -/
def execLockstepMismatch (pair : Fin 2) (s : State) : Answer := .next (lockstepRestart pair s)

/-- HM_WATCHDOG_EXPIRY. (DEDUCED 120; assumption log) -/
def execHmWatchdogExpiry (pair : Fin 2) (s : State) : Answer := .next (lockstepRestart pair s)

/-! ### Boot (R454, R455, R471) -/

/-- The ROM is running: no image yet, power on, and no TEST_EN that holds the dies in reset (R519).
(DESIGN CHOICE 130; assumption log) -/
def booting (s : State) : Bool := s.host.hm == .boot && !s.pwr.off && !s.pwr.testEn && s.fab.iod0 && !s.sec.verified && !s.sec.recovery

/-- The recovery path: mailboxes A00 and B00 take messages, and Dawn ends. (DEDUCED 122; assumption log) -/
def enterRecovery (s : State) : State :=
  toNoon (firmwareReady (s.modSec fun x => { x with recovery := true, verified := false, fwVer := 0, svn := 0 }))

/-- A ZEROISE that power cut short is repeated: a seed bit is set that manufacture did not set (R471).
(DEDUCED 196; assumption log) -/
def repeatZeroise (s : State) : State :=
  if s.sec.deviceSeed ≠ Config.deviceSeed ∧ s.sec.lifecycle ≠ .zeroised then s.each [1, 2, 3] zeroiseStep else s

/-- The SPDs start on the fast oscillator, as in steps 2 to 6 of R440 (R444, R502). -/
def startSpds (s : State) : State := s.each [2, 3, 4, 5, 6] fun k t => exitStepAll k (List.range 8) t

/-- BOOT_IMAGE_VERIFIED: the checks of R453 on the copy of the NOR's image, and the strap, decide the path. -/
def execBootImageVerified (strapRecovery : Bool) (s : State) : Answer :=
  if !booting s then .next s
  else
    -- stack H00 at its reset settings, the copy in its boot buffer, the fuses as they are now (R454, R463)
    let g := s.sec.norImage
    let a := ((repeatZeroise s).modPower 0 fun p => { p with hbm := p.hbm.set 0 .active }).modSec fun x =>
      { x with bootBuffer := g, bootFuses := fuseBytes x }
    if strapRecovery || (imageReason a.sec g.length g).isSome then .next (enterRecovery a)
    else .next (startSpds (a.modSec (startImage g)))

/-! ### Bring-up (R496) -/

/-- Stack `3 n + j` passed. -/
def bringStack (b : Bringup) (i : Nat) : Bool := b.stackOk.getD i false

/-- An SPD passes with at least one stack. -/
def bringSpd (b : Bringup) (n : Nat) : Bool := b.spdOk.getD n false && (List.range 3).any fun j => bringStack b (3 * n + j)

def bringDie (b : Bringup) (d : Nat) : Bool :=
  if d < 8 then bringSpd b d else if d = 8 then true else if d = 9 then b.iod1Ok else if d = 10 then b.med0Ok else b.med1Ok

/-- An edge is up when it passed and both its dies did. -/
def bringEdge (b : Bringup) (e : Nat) : Bool := b.edgeOk.getD e false && bringDie b (edgeEnds e).1 && bringDie b (edgeEnds e).2

/-- An SPD as bring-up leaves it. -/
def bringMakeSpd (b : Bringup) (n : Nat) (d : Spd) : Spd :=
  let bad (k : EngineKind) (i : Nat) : Bool := b.badEngines.any fun x => (x.1 : Nat) == n && x.2.1 == k && x.2.2 == i
  let set (k : EngineKind) (l : List Engine) : List Engine :=
    l.zipIdx.map fun (_, i) => ⟨if bad k i then .out else .free, [], []⟩
  if !bringSpd b n then { d with serving := false }
  else
    { d with serving := true, de := set .de d.de, te := set .te d.te, pe := set .pe d.pe, ke := set .ke d.ke, ce := set .ce d.ce
             puOut := bad .pu 0, cvuOut := (List.range 8).filter (bad .cvu) }

/-- Dies, stacks, edges and engines as they passed. -/
def bringFabric (b : Bringup) (now : Nat) (f : Fabric) : Fabric :=
  { f with
    spds := f.spds.zipIdx.map fun (d, n) => bringMakeSpd b n d
    stackLost := BitVec.ofNat 24 (((List.range 24).map fun i => flag (!(bringStack b i && bringSpd b (i / 3))) * 2 ^ i).sum)
    stackRebuild := 0
    edges := (List.range 42).map fun e => ⟨bringEdge b e, false, now, now, now, false⟩
    iod1 := b.iod1Ok, med0 := b.med0Ok, med1 := b.med1Ok
    homes := (List.range 8).filter (bringSpd b)
    checkOut := (b.badEngines.filter fun x => 8 ≤ (x.1 : Nat) && bringDie b x.1).map fun x => ((x.1 : Nat), x.2.2) }

/-- A unit passed or failed: its reason clears, or is raised with its class counted. (DEDUCED 123; assumption log) -/
def unitReason (code loc : Nat) (ok : Bool) (s : State) : State :=
  if ok then clearReason code loc s else raiseReason code 100 loc (countContained s)

/-- A unit whose failure is FATAL. -/
def fatalUnit (code loc : Nat) (ok : Bool) (s : State) : State :=
  if ok then clearReason code loc s else fatalLoss code loc s

/-- The reasons, in ascending code (R480, R481): the stacks, edges and engines of a lost die raise none.
(DEDUCED 123; assumption log) -/
def bringReasons (b : Bringup) (s : State) : State :=
  let a1 := s.each (List.range 8) fun n t => unitReason 0x01 n (bringSpd b n) t
  let a2 := a1.each ((List.range 24).filter fun i => bringSpd b (i / 3)) fun i t => unitReason 0x02 i (bringStack b i) t
  let a3 := a2.each ((List.range 42).filter fun e => bringDie b (edgeEnds e).1 && bringDie b (edgeEnds e).2) fun e t =>
    unitReason 0x03 e (b.edgeOk.getD e false) t
  let a4 := unitReason 0x04 0 b.iod1Ok a3
  let lastBad := (b.badEngines.filter fun x => bringDie b x.1).getLast?
  let a5 := match lastBad with
    | some x => engineOutReason x.1 x.2.1 x.2.2 a4
    | none => clearReason 0x06 0 a4
  let a6 := if a5.pwr.therm then a5 else clearReason 0x0A 0 a5
  fatalUnit 0x22 0 ((List.range 8).any (bringSpd b)) (fatalUnit 0x21 1 b.med1Ok (fatalUnit 0x21 0 b.med0Ok a6))

/-- The samples of a partition on QS media, from a LUA on: with their unit slots, of stream 0, and the LUA after (R103).
(DESIGN CHOICE 178, DESIGN CHOICE 201; assumption log) -/
def qsSamples (dsSlot : Nat) : List QsSample → Nat → List Sample × List Slot × Nat
  | [], l => ([], [], l)
  | x :: xs, l =>
    let luas := (List.range x.puas.length).map (l + ·)
    let (ss, us, e) := qsSamples dsSlot xs (l + x.puas.length)
    (⟨x.index, 1, x.bytes, luas⟩ :: ss, (x.puas.zip luas).map (fun (p, u) => ⟨p, u, 0, 0, dsSlot, u + 1, u + 1, 1, true, []⟩) ++ us, e)

/-- The partitions that QS media carry, sealed, with ORIG_SEQ equal to SEQ (R103).
(DESIGN CHOICE 178; assumption log) -/
def qsContents (qs : List QsPartition) (m : Media) : Media :=
  (qs.zipIdx).foldl (fun n (q, i) =>
    let (ss, us, e) := qsSamples i q.samples n.nextLua
    { n with
      nextLua := e, seq := e + 1, slots := n.slots ++ us
      partitions := n.partitions ++
        [⟨i, q.dataset, q.n, q.parts, q.p, q.cls, [], true, 1, 2, 1, 1, none, [(0, 0, ss.length)], ss, [], q.keyCheck, q.wrappedKey,
          Config.unwrapKey q.keyCheck q.wrappedKey⟩] }) m

/-- What bring-up finds of the media: the checks of R88; on a population it meets for the first time, the label, the targets
and the parameter page with its spare blocks and the staging region in whole blocks (R95), and what QS media carry; the dies
that failed training (R102). (DEDUCED 124, DESIGN CHOICE 203; assumption log) -/
def bringMedia (b : Bringup) (m : Media) : Media :=
  match mountCheck b with
  | some fail => { m with mountFail := some fail }
  | none =>
    let a : Media := { m with mountFail := none, untrained := b.untrained }
    if m.geom.blocks ≠ 0 then a
    else
      let c : Media := { a with label := b.layout, targets := ((b.targets.head?).bind targetsOf).getD 0, geom := b.page }
      let d : Media := { c with spares := (List.range 1024).map fun d => if c.hasDie d then c.sparesPerDie else 0
                                regionBase := b.page.blocks * 60000 / 1000000 }
      if b.layout = 1 then (qsContents b.qs d).writeLabels else d.writeLabels.programmed d.liveDies.length

/-- The counters of a die that failed are stale (R490). -/
def bringStale (b : Bringup) : BitVec 12 := BitVec.ofNat 12 (((List.range 12).map fun d => flag (!bringDie b d) * 2 ^ d).sum)

/-- A FATAL reason that still stands keeps the transmitters off; a refused mount is judged again at the mount.
(DEDUCED 123; assumption log) -/
def transmittersAfter (s : State) : State :=
  s.modEgr fun e => { e with txOff := s.hlth.reasons.any fun r => reasonRank r.code == 2 && r.code != 0x14 }

/-- BRINGUP_DONE (R496, R502): with an image verified, every unit is checked; firmware is then ready, and Dawn ends in Noon
at the requested point; no link is up before 100 ms have passed (R506). (DEDUCED 122; assumption log) -/
def execBringupDone (b : Bringup) (s : State) : Answer :=
  if !s.sec.verified ∨ s.sec.recovery ∨ s.host.broughtUp ∨ s.pwr.off then .next s
  else
    let a := (((s.modFab (bringFabric b s.mono)).modMedia (bringMedia b)).modHost fun h => { h with broughtUp := true }).modPmc fun p =>
      { p with stale := bringStale b }
    let c := transmittersAfter (bringReasons b (startAtPoint (a.modEgr fun e => { e with linksFrom := s.mono + 100000000 })))
    .next (toNoon (if c.host.hm = .boot then firmwareReady c else c))

end Sys2Proof.Machine
end

