-- ==== Sys2Proof/Machine/WindowRead.lean ====
section
/-! DEFINITION. What a read of the Host Window returns (R57, R58, R144, R145, R330, R337, R342, R372, R373, R389, R393 to
R401, R418 to R423, R492 to R495, R503): every register by its offset. -/

namespace Sys2Proof.Machine

/-! ### Addresses (R372, R373) -/

/-- The register an offset reaches: within a 16 KiB block only bits [11:2] are decoded, and block 15 repeats block 0. -/
def regOffset (off : Nat) : Nat :=
  let block := off / 0x4000 % 16
  (if block = 15 then 0 else block * 0x4000) + off % 0x1000 / 4 * 4

/-- The block of a decoded offset, and the place in it. -/
def regBlock (off : Nat) : Nat := off / 0x4000
def regPlace (off : Nat) : Nat := off % 0x4000

/-- Halves of a wide value. -/
def loWord (n : Nat) : Word := BitVec.ofNat 32 n
def hiWord (n : Nat) : Word := BitVec.ofNat 32 (n / 2 ^ 32)

/-! ### Status words -/

def barrierCode : Barrier → Nat
  | .idle => 0 | .armed => 1 | .ready => 2

/-- The longest closed time of consecutive intervals, and the closed time that ends the list. -/
def closedRuns : List (Nat × Nat × Bool) → Nat → Nat → Nat
  | [], _, best => best
  | (a, b, o) :: rest, run, best =>
    let run' := if o && decide (a < b) then 0 else run + (b - a)
    closedRuns rest run' (max best run')

/-- The longest continuous closed interval of class `c` on a list: none where the class never opens (R54, R308, R309). -/
def SluRun.longestClosed (r : SluRun) (c period : Nat) : Option Nat :=
  if r.len = 0 then some 0
  else
    let ivs := r.intervals c period
    if ivs.any fun (a, b, o) => o && decide (a < b) then some (closedRuns (ivs ++ ivs) 0 0) else none

/-- `TIDE_STAT.LEASE_RISK` (R54): the lease against the heartbeats of the connections in service.
(DEDUCED 128; assumption log) -/
def leaseRisk (s : State) : Bool :=
  let hb := 2 * s.hbInterval
  let lease := s.applied.tideLease.toNat * 1000
  decide (lease < hb) || (s.egr.conns.filter (·.error.isNone)).any fun c =>
    match s.bw.lists[s.bw.linkList.getD c.onLink 0]? with
    | none => false
    | some r =>
      match r.longestClosed c.cls s.period with
      | none => true
      | some n => decide (lease < hb + n)

/-- (DEDUCED 66; assumption log) -/
def State.batchAtRisk (s : State) : Bool := s.run.batches.any fun b => b.atRisk && !b.headerAcked

/-- `TIDE_STAT` (R58). (DEDUCED 128; assumption log) -/
def tideStat (s : State) : Word :=
  BitVec.ofNat 32 (timeCode s.tide.timeState + 4 * stepCode s.tide.stepState + 16 * barrierCode s.tide.barrier +
    64 * flag s.tide.syncIn + 128 * flag (leaseRisk s) + 256 * s.tide.window.length +
    8192 * (if s.tide.onAlt then s.ptpAlt else s.ptpPort) + 65536 * flag s.batchAtRisk)

def State.snapOf (o : Owner) (s : State) : TideSnap :=
  match o with
  | .portA => s.tide.snapA | .portB => s.tide.snapB | .harbourmaster => s.tide.snapHm | .debug => s.tide.snapDbg

/-- `HW_STATUS` (R397). -/
def hwStatus (s : State) : Word :=
  BitVec.ofNat 32 (flag s.host.fwReady + 2 * flag s.jobActive + 16 * s.hlth.grade + 256 * s.servingMask +
    65536 * flag s.media.mounted + 131072 * flag s.aon.slowLost + 262144 * flag (!s.aon.posted.isEmpty))

/-- `HW_MEM_STAT` (R145). -/
def memStat (s : State) : Word :=
  BitVec.ofNat 32 (s.fab.stackLost.toNat + 2 ^ 24 * flag (s.fab.spds.any (·.sweep)) + 2 ^ 25 * flag s.run.clearing)

/-- `HW_BW_STAT` (R319). -/
def bwStat (s : State) : Word :=
  let each (p : SluRun → Nat → Bool) : Nat := ((s.bw.lists.zipIdx).map fun (r, k) => flag (p r k) * 2 ^ k).sum
  BitVec.ofNat 32 (flag s.bw.overcommit + 2 ^ 16 * each (fun r k => decide (0 < r.len) && s.bw.linkList.contains k) +
    2 ^ 20 * each fun r _ => r.stepAligned && r.hold)

def powerCode : PowerState → Nat
  | .noon => 0 | .dusk => 1 | .night => 2 | .dawn => 3

/-- `PWR_STAT` (R399). -/
def pwrStat (s : State) : Word :=
  BitVec.ofNat 32 (powerCode s.pwr.state + 4 * s.pwr.op + 16 * s.pwr.opTarget + 64 * flag s.fvHold +
    128 * flag s.pwr.throttle + 256 * flag s.pwr.therm + 512 * flag s.guarded)

/-- `HW_HLTH_STAT` (R493). -/
def hlthStat (s : State) : Word :=
  let top := (topReason s.hlth.reasons).getD ⟨0, 0, 0⟩
  BitVec.ofNat 32 (s.hlth.grade + 4 * flag s.hlth.replace + 8 * flag s.hlth.degraded + 16 * flag s.hlth.alertPend +
    256 * top.code + 65536 * top.conf)

/-- `HW_HLTH_CONFw`: the greatest confidence of each of four reasons. (DEDUCED 128; assumption log) -/
def confWord (rs : List Reason) (w : Nat) : Word :=
  let conf (code : Nat) : Nat := ((rs.filter (·.code == code)).map (·.conf)).foldl max 0
  BitVec.ofNat 32 (conf (4 * w) + 256 * conf (4 * w + 1) + 65536 * conf (4 * w + 2) + 16777216 * conf (4 * w + 3))

/-- `AON_STAT` (R393). -/
def aonStat (s : State) : Word := BitVec.ofNat 32 (powerCode s.pwr.state + 4 * flag s.pwr.v1p8 + 8 * flag s.pwr.vin48)

/-! ### Block 0: identity and status (R395) -/

/-- Health registers (R492). -/
def hlthReg (a : Nat) (s : State) : Word :=
  let h := s.hlth
  match a with
  | 0xE00 => hlthStat s
  | 0xE04 => s.ev.hlth
  | 0xE08 => loWord (activeBits h.reasons)
  | 0xE0C => hiWord (activeBits h.reasons)
  | 0xE50 => s.rw.alertEn
  | 0xE58 => loWord h.errCorr
  | 0xE5C => hiWord h.errCorr
  | 0xE60 => loWord h.errDeferred
  | 0xE64 => hiWord h.errDeferred
  | 0xE68 => loWord h.errContained
  | 0xE6C => hiWord h.errContained
  | 0xE70 => loWord h.errFatal
  | 0xE74 => hiWord h.errFatal
  | 0xE78 => h.seq
  | _ => if 0xE10 ≤ a ∧ a < 0xE50 then confWord h.reasons ((a - 0xE10) / 4) else 0

/-- The Tide snapshot of the reader, and the live Tide registers (R57). -/
def tideReg (o : Owner) (a : Nat) (s : State) : Word :=
  let t := s.snapOf o
  match a with
  | 0x400 => tideStat s
  | 0x408 => loWord t.step
  | 0x40C => hiWord t.step
  | 0x410 => loWord t.phase
  | 0x414 => hiWord t.phase
  | 0x418 => loWord t.time
  | 0x41C => hiWord t.time
  | 0x420 => loWord t.period
  | 0x424 => hiWord t.period
  | 0x428 => loWord t.start
  | 0x42C => hiWord t.start
  | 0x430 => BitVec.ofInt 32 s.tide.offset
  | 0x434 => loWord s.tide.missCnt
  | _ => 0

/-- Registers of the stages, of egress and of the Breakwater (R144, R170, R202, R233, R265, R297, R318). -/
def stageReg (a : Nat) (s : State) : Word :=
  match a with
  | 0x500 => memStat s
  | 0x504 => s.ev.mem
  | 0x508 => loWord (s.fab.spds.map fun d => unitsUsed d.decCache).sum
  | 0x50C => loWord (s.fab.spds.map fun d => unitsUsed d.rawCache).sum
  | 0x600 => s.ev.dec
  | 0x604 => s.cnt.decLast
  | 0x700 => s.ev.xf
  | 0x704 => s.cnt.xfLast
  | 0x708 => s.cnt.xfResCnt
  | 0x800 => s.ev.txt
  | 0x804 => s.cnt.txtLast
  | 0x808 => s.cnt.txtMiss
  | 0x900 => s.ev.pack
  | 0x904 => s.cnt.packLast
  | 0x908 => s.cnt.packSatCnt
  | 0xA00 => s.egr.linksUp.setWidth 32
  | 0xA04 => s.ev.egr
  | 0xA08 => loWord (s.egr.conns.filter (·.error.isNone)).length
  | 0xA0C => s.cnt.egrLastErr
  | 0xA10 => s.cnt.egrRetxCnt
  | 0xA14 => s.cnt.egrAccerrCnt
  | 0xB00 => bwStat s
  | 0xB04 => s.ev.bw
  | 0xB08 => loWord s.activeConns
  | 0xB0C => loWord (s.egr.conns.filter (·.resident)).length
  | 0xB10 => s.cnt.bwOcLast
  | 0xB14 => s.cnt.bwSwapCnt
  | _ => 0

/-- The identity and status block (R395 to R401). (DEDUCED 63, DEDUCED 128; assumption log) -/
def identityReg (o : Owner) (a : Nat) (s : State) : Word :=
  if 0xE00 ≤ a then (if a < 0xF00 then hlthReg a s else 0)
  else if 0x500 ≤ a ∧ a < 0xC00 then stageReg a s
  else if 0x400 ≤ a ∧ a < 0x500 then tideReg o a s
  else
    match a with
    | 0x000 => 0x24800051
    | 0x008 => 0x0100
    | 0x00C => s.sec.fwVer
    | 0x010 => loWord Config.serial.toNat
    | 0x014 => hiWord Config.serial.toNat
    | 0x018 => hwStatus s
    | 0x01C => loWord (s.media.dies + 65536 * s.media.targets)
    | 0x020 => loWord s.node
    | 0x028 => loWord (s.mono / 1000)
    | 0x02C => hiWord (s.mono / 1000)
    | 0x030 => s.ev.win
    | 0x100 => irqPend s.ev
    | 0x104 => s.rw.irqEnA
    | 0x108 => s.rw.irqEnB
    | 0x10C => s.rw.irqVecA
    | 0x110 => s.rw.irqVecB
    | 0xC00 => pwrStat s
    | 0xC04 => s.ev.pwr
    | 0xC08 => BitVec.ofNat 32 ((BitVec.ofInt 8 s.pwr.hot).toNat + 256 * s.pwr.hotSensor)
    | 0xD00 => secStat s.sec
    | 0xD04 => s.ev.sec
    | 0xD08 => secSvn s.sec
    | _ => 0

/-! ### Block 4: staged configuration and guard (R383, R389, R395) -/

/-- The class parameters and the Sluice list and entry the selection registers reach (R318). -/
def classIndex (r : RwRegs) : Nat := fieldOf r.bwIdx 0 4 * 8 + fieldOf r.bwIdx 4 3
def sluListIndex (r : RwRegs) : Nat := fieldOf r.sluSel 8 2
def sluEntryIndex (r : RwRegs) : Nat := fieldOf r.sluSel 0 8

/-- The ST register at a place of the block: its group, the bits it has, how it is read and set (R378, and the field tables
of the chapters). -/
def stReg (rw : RwRegs) (a : Nat) : Option (Nat × Word × (StRegs → Word) × (Word → StRegs → StRegs)) :=
  let cls (m : Word) (get : ClassRegs → Word) (set : Word → ClassRegs → ClassRegs) :=
    some (7, m, (fun (t : StRegs) => get (t.classes.getD (classIndex rw) ClassRegs.reset)),
      fun (v : Word) (t : StRegs) => { t with classes := updAt t.classes (classIndex rw) (set v) })
  let lst (m : Word) (get : SluList → Word) (set : Word → SluList → SluList) :=
    some (8, m, (fun (t : StRegs) => get (t.slu.getD (sluListIndex rw) SluList.reset)),
      fun (v : Word) (t : StRegs) => { t with slu := updAt t.slu (sluListIndex rw) (set v) })
  let i := sluEntryIndex rw
  let entry (l : SluList) : SluEntry := l.entries.getD i SluEntry.reset
  match a with
  | 0x000 => some (9, 0x3, (·.cfgDet), fun v t => { t with cfgDet := v })
  | 0x400 => some (0, 0xFFFFF, (·.tideCfg), fun v t => { t with tideCfg := v })
  | 0x404 => some (0, 0xFFFFFFFF, (·.tidePeriodInit), fun v t => { t with tidePeriodInit := v })
  | 0x408 => some (0, 0xFFFFFFFF, (·.tideGuard), fun v t => { t with tideGuard := v })
  | 0x40C => some (0, 0xF, (·.tideLostMult), fun v t => { t with tideLostMult := v })
  | 0x410 => some (0, 0xFFFFFFFF, (·.tideMinInterval), fun v t => { t with tideMinInterval := v })
  | 0x414 => some (0, 0xFFFFFFFF, (·.tideSyncDelay), fun v t => { t with tideSyncDelay := v })
  | 0x418 => some (0, 0xFFFFFFFF, (·.tideHbInterval), fun v t => { t with tideHbInterval := v })
  | 0x41C => some (0, 0xFFFFFFFF, (·.tideLease), fun v t => { t with tideLease := v })
  | 0x420 => some (0, 0xFFFF, (·.tideMarkPort), fun v t => { t with tideMarkPort := v })
  | 0x424 => some (0, 0xFFFFFFFF, (·.tideJobId), fun v t => { t with tideJobId := v })
  | 0x428 => some (0, 0xFFFFFFFF, (·.tideStartLo), fun v t => { t with tideStartLo := v })
  | 0x42C => some (0, 0xFFFF, (·.tideStartHi), fun v t => { t with tideStartHi := v })
  | 0x500 => some (1, 0xFFF, (·.cfgCache), fun v t => { t with cfgCache := v })
  | 0x504 => some (1, 0xFFFFFFFF, (·.cfgSpillLimit), fun v t => { t with cfgSpillLimit := v })
  | 0x600 => some (2, 0x7F01, (·.cfgDec), fun v t => { t with cfgDec := v })
  | 0x700 => some (3, 0xF01, (·.cfgXf), fun v t => { t with cfgXf := v })
  | 0x800 => some (4, 0x1, (·.cfgTxt), fun v t => { t with cfgTxt := v })
  | 0x900 => some (5, 0x1, (·.cfgPack), fun v t => { t with cfgPack := v })
  | 0xA00 => some (6, 0xFFFF, (·.egrPort), fun v t => { t with egrPort := v })
  | 0xA04 => some (6, 0x3FF, (·.egr), fun v t => { t with egr := v })
  | 0xA08 => some (6, 0xFFFFFFFF, (·.egrQuiet), fun v t => { t with egrQuiet := v })
  | 0xA0C => some (6, 0xFFFFFFFF, (·.egrPeerHold), fun v t => { t with egrPeerHold := v })
  | 0xA10 => some (6, 0xFFFFFFFF, (·.egrRevokeMax), fun v t => { t with egrRevokeMax := v })
  | 0xB00 => some (7, 0x1003F, (·.bw), fun v t => { t with bw := v })
  | 0xB04 => some (7, 0xFFFFFF, (·.bwCc), fun v t => { t with bwCc := v })
  | 0xB08 => some (7, 0x1FFFF, (·.bwHist), fun v t => { t with bwHist := v })
  | 0xB14 => cls 0x1FFFFF (·.class0) fun v c => { c with class0 := v }
  | 0xB18 => cls 0xFFF (·.class1) fun v c => { c with class1 := v }
  | 0xB1C => cls 0xFFFFFFFF (·.rate) fun v c => { c with rate := v }
  | 0xB20 => cls 0xFFFFFFFF (·.burst) fun v c => { c with burst := v }
  | 0xB24 => cls 0xFFFFFFFF (·.qRate) fun v c => { c with qRate := v }
  | 0xB28 => cls 0xFFFFFFFF (·.qBurst) fun v c => { c with qBurst := v }
  | 0xB34 => lst 0x1FF (fun l => (entry l).gate) fun v l => { l with entries := updAt l.entries i fun e => { e with gate := v } }
  | 0xB38 => lst 0xFFFFFFFF (fun l => (entry l).dur) fun v l => { l with entries := updAt l.entries i fun e => { e with dur := v } }
  | 0xB3C => lst 0x3FFFF (·.list) fun v l => { l with list := v }
  | 0xB40 => lst 0xFFFFFFFF (·.baseLo) fun v l => { l with baseLo := v }
  | 0xB44 => lst 0xFFFFFFFF (·.baseHi) fun v l => { l with baseHi := v }
  | 0xB48 => some (8, 0xFFFFFFFF, (·.sluMap), fun v t => { t with sluMap := v })
  | 0xC00 => some (10, 0x7, (·.pwrCfg), fun v t => { t with pwrCfg := v })
  | 0xC04 => some (10, 0xFFFFFFFF, (·.pwrDuskIdle), fun v t => { t with pwrDuskIdle := v })
  | 0xC08 => some (10, 0xFFFFFFFF, (·.pwrLookahead), fun v t => { t with pwrLookahead := v })
  | 0xC0C => some (10, 0xFFFF, (·.pwrTherm), fun v t => { t with pwrTherm := v })
  | _ => none

/-- A read of the block: an ST register returns its shadow (R7). -/
def configReg (a : Nat) (s : State) : Word :=
  match stReg s.rw a with
  | some (_, _, get, _) => get s.shadow
  | none =>
    match a with
    | 0x004 => s.rw.grpBnd
    | 0x00C => s.rw.applyStream
    | 0x010 => s.rw.applyBatchLo
    | 0x014 => s.rw.applyBatchHi
    | 0x018 => BitVec.ofNat 32 ((List.range 11).map fun g => flag (isArmed g s) * 2 ^ g).sum
    | 0x01C => s.ev.cfg
    | 0x040 => s.guard.crc
    | 0x044 => s.rw.grdRef
    | 0x048 => s.guard.committed
    | 0x050 => BitVec.ofNat 32 (flag s.guard.mismatch + 2 * flag s.guard.busy + 4 * flag s.guard.pending + 8 * flag s.guard.refValid)
    | 0x054 => s.ev.grd
    | 0x430 => s.rw.tideApplyStepLo
    | 0x434 => s.rw.tideApplyStepHi
    | 0x438 => s.rw.tideApplyPhase
    | 0x440 => s.ev.tide
    | 0xB10 => s.rw.bwIdx
    | 0xB30 => s.rw.sluSel
    | _ => 0

/-! ### Blocks 1 to 3: mailboxes and semaphores (R330, R337, R342) -/

def mbxStateCode : MbxState → Nat
  | .idle => 0 | .posted => 1 | .taken => 2 | .reply => 3 | .aborted => 4

def holderCode (o : Option Owner) : Nat := (o.map (·.number)).getD 0

/-- `MBX_Xnn_STAT`. -/
def mbxStat (b : Mailbox) : Word :=
  BitVec.ofNat 32 (mbxStateCode b.state + 16 * holderCode b.lock + 128 * flag b.abortStage + 65536 * b.tag.toNat)

/-- A word of BUF as STATE lets it be read (R330). -/
def mbxWord (b : Mailbox) (i : Nat) : Word :=
  let coded (status : Nat) : Word := if i = 0 then BitVec.ofNat 32 (status + 65536 * b.tag.toNat) else 0
  match b.state with
  | .idle | .reply => BitVec.ofNat 32 (fieldOf b.buf (32 * i) 32)
  | .posted | .taken => coded stNotReady
  | .aborted => coded stAborted

/-- The mailbox a place of the block belongs to, with the place in its registers: below 0x800 the buffers. -/
def mbxPlace (a : Nat) : Option (Port × Nat × Nat) :=
  if a < 0x400 then some (.a, a / 0x40, a % 0x40)
  else if a < 0x800 then some (.b, (a - 0x400) / 0x40, a % 0x40)
  else if a < 0xA00 then some (.a, (a - 0x800) / 0x20, 0x100 + a % 0x20)
  else if a < 0xC00 then some (.b, (a - 0xA00) / 0x20, 0x100 + a % 0x20)
  else if a = 0xC00 then some (.a, 0, 0x200)
  else if a = 0xC04 then some (.b, 0, 0x200)
  else none

def mbxId (p : Port) (n : Nat) : MbxId := ⟨p, Fin.ofNat 16 n⟩

/-- `MBX_X_ORPHAN` (R335). -/
def orphanWord (p : Port) (h : Hosts) : Word :=
  match p with
  | .a => BitVec.ofNat 32 (h.orphanDoneA.toNat + 65536 * h.orphanRunA.toNat)
  | .b => BitVec.ofNat 32 (h.orphanDoneB.toNat + 65536 * h.orphanRunB.toNat)

/-- A read of the mailbox block, its locks apart; every register of the other port's set reads all ones (R326). -/
def mbxReg (o : Owner) (a : Nat) (s : State) : Word :=
  match mbxPlace a with
  | none => 0
  | some (p, n, r) =>
    if o = p.other.owner then 0xFFFFFFFF
    else if r = 0x200 then orphanWord p s.host
    else
      let b := s.mbx (mbxId p n)
      if r < 0x100 then mbxWord b (r / 4)
      else
        match r with
        | 0x104 => mbxStat b
        | 0x10C => b.evt
        | 0x110 => b.int
        | _ => 0

/-- A read of the semaphore block, the semaphores apart. -/
def semReg (a : Nat) (s : State) : Word :=
  if 0x100 ≤ a ∧ a < 0x120 then
    BitVec.ofNat 32 ((List.range 8).map fun i => holderCode (s.sem (8 * ((a - 0x100) / 4) + i)).owner * 16 ^ i).sum
  else if a = 0x200 then loWord s.host.semAbn.toNat
  else if a = 0x204 then hiWord s.host.semAbn.toNat
  else 0

/-! ### Blocks 8 to 11: counters and link tests (R494) -/

/-- The die the counter window shows. -/
def selectedDie (s : State) : Option DieCounters := s.pmc.dies[fieldOf s.rw.pmcSel 0 4]?

def snapBank (s : State) : Bool := bitOf s.rw.pmcSel 4

/-- The counter window of the selected die and bank. (DEDUCED 127; assumption log) -/
def counterReg (a : Nat) (s : State) : Word :=
  match selectedDie s with
  | none => 0
  | some d =>
    let ovf (i : Nat) (live : Bool) : Bool := if snapBank s then d.snapOvf.getD i false else live
    if a < 0x880 then
      let v := (if snapBank s then d.snap else d.cnt).getD (a / 8) 0
      if a % 8 = 0 then loWord v else hiWord v
    else if 0x900 ≤ a ∧ a < 0xD00 then
      let i := (a - 0x900) / 4
      let e := d.evsel.getD i 0
      (e &&& 0x3FFF) ||| (if i < d.evsel.length ∧ ovf i (bitOf e 14) then 0x4000 else 0)
    else if 0xD00 ≤ a ∧ a < 0xD34 then
      match s.spd? (fieldOf s.rw.pmcSel 0 4) with
      | some x => loWord (x.freeBufs ((a - 0xD00) / 4))
      | none => 0
    else if a = 0xD40 then
      BitVec.ofNat 32 ((List.range (d.cnt.length - d.evsel.length)).map fun i =>
        flag (ovf (256 + i) (bitOf d.fixOvf i)) * 2 ^ i).sum
    else 0

/-- Counter control (R494). -/
def pmcReg (a : Nat) (s : State) : Word :=
  let p := s.pmc
  match a with
  | 0x004 => BitVec.ofNat 32 (flag p.frozen + 2 * flag p.snapBusy + 4 * flag p.snapValid + 65536 * p.stale.toNat)
  | 0x008 => s.rw.pmcSel
  | 0x00C => s.ev.pmc
  | 0x010 => BitVec.ofNat 32 ((p.dies.zipIdx).map fun (d, i) => flag d.anyOvf * 2 ^ i).sum
  | 0x014 => s.rw.pmcBwWin
  | 0x018 => p.bwSeq
  | _ => 0

/-- The window bandwidth values (R491). (DEDUCED 127; assumption log) -/
def bandwidthReg (a : Nat) (s : State) : Word :=
  let x := (if snapBank s then s.pmc.bwSnap else s.pmc.bw).getD (a / 16) (0, 0)
  match a % 16 / 4 with
  | 0 => loWord x.1
  | 1 => hiWord x.1
  | 2 => loWord x.2
  | _ => hiWord x.2

def ltStateCode : LtState → Nat
  | .idle => 0 | .sync => 1 | .running => 2 | .stopped => 3 | .refused => 4

/-- Link-test registers (R494, R495). -/
def ltReg (a : Nat) (s : State) : Word :=
  let l := s.lt
  match a with
  | 0x004 => s.rw.ltCfg
  | 0x008 => BitVec.ofNat 32 (ltStateCode l.state + 16 * l.refuse)
  | 0x00C => s.rw.ltLane
  | 0x010 => l.lock
  | 0x014 => loWord (l.errs.getD (fieldOf s.rw.ltLane 0 5) 0)
  | 0x018 => loWord l.bits
  | 0x01C => hiWord l.bits
  | 0x020 => s.ev.lt
  | _ => 0

/-! ### Blocks 12 to 14: check-value units and slow-domain copies (R393, R422) -/

/-- One unit. -/
def cvuReg (c : Cvu) (r : Nat) : Word :=
  match r with
  | 0x00 => c.cfg
  | 0x0C => BitVec.ofNat 32 (flag c.active + 2 * flag c.matched + 4 * c.tail)
  | 0x10 => c.evt
  | 0x18 => loWord c.count
  | 0x1C => hiWord c.count
  | 0x20 => loWord c.poly.toNat
  | 0x24 => hiWord c.poly.toNat
  | 0x28 => loWord c.init.toNat
  | 0x2C => hiWord c.init.toNat
  | 0x30 => loWord c.xorout.toNat
  | 0x34 => hiWord c.xorout.toNat
  | 0x38 => loWord c.expect.toNat
  | 0x3C => hiWord c.expect.toNat
  | 0x40 => loWord (c.maskTo c.state).toNat
  | 0x44 => hiWord (c.maskTo c.state).toNat
  | 0x48 => loWord c.result.toNat
  | 0x4C => hiWord c.result.toNat
  | _ => 0

/-- The copies (R393). -/
def aonReg (a : Nat) (c : AonRegs) : Word :=
  match a with
  | 0x00 => c.stat
  | 0x04 => c.cause
  | 0x08 => c.wake
  | 0x0C => c.bootCnt
  | _ => if 0x10 ≤ a ∧ a < 0x20 then c.scratch.getD ((a - 0x10) / 4) 0 else 0

/-! ### The whole window -/

/-- The value a register holds for a reader, without the effects of RS registers. -/
def regValue (o : Owner) (off : Nat) (s : State) : Word :=
  let r := regOffset off
  let a := regPlace r
  match regBlock r with
  | 0 => identityReg o a s
  | 1 => mbxReg o a s
  | 2 => if a < 0x80 ∧ o = (if a < 0x40 then Owner.portB else .portA) then 0xFFFFFFFF else 0
  | 3 => semReg a s
  | 4 => configReg a s
  | 8 => pmcReg a s
  | 9 => counterReg a s
  | 10 => bandwidthReg a s
  | 11 => ltReg a s
  | 12 => ((s.cvu[a / 0x80]?).map fun c => cvuReg c (a % 0x80)).getD 0
  | 14 => aonReg a s.aon.copy
  | _ => 0

/-- What reads while the device starts (R503): the reset values of the window; the fused values and the slow-domain copies,
which a reset leaves, read as they are. (DEDUCED 9, DEDUCED 63; assumption log) -/
def dawnValue (o : Owner) (off : Nat) (s : State) : Word :=
  let r := regOffset off
  if regBlock r = 14 ∨ r = 0x10 ∨ r = 0x14 then regValue o off s
  else if r = 0x008 then 0
  else if r = 0xC00 then BitVec.ofNat 32 (3 + 512 * flag s.guarded)
  else if r = 0xD00 then 0
  else if r = 0xD08 then BitVec.ofNat 32 (s.sec.svnMin % 65536)
  else if regBlock r = 1 ∧ regPlace r % 0x20 = 4 ∧ 0x800 ≤ regPlace r then
    (if regValue o off State.reset = 0xFFFFFFFF then 0xFFFFFFFF else 0)
  else regValue o off State.reset

/-- The mailbox lock or the semaphore at an offset (R327, R337). -/
def lockAt (off : Nat) : Option (MbxId ⊕ Nat) :=
  let r := regOffset off
  let a := regPlace r
  if regBlock r = 1 then
    match mbxPlace a with
    | some (p, n, 0x100) => some (.inl (mbxId p n))
    | _ => none
  else if regBlock r = 3 ∧ a < 0x100 then some (.inr (a / 4))
  else none

/-- A read of one word by one owner: a lock or a semaphore answers by the RS rule, and may be acquired (R7, R372).
(DEDUCED 9; assumption log) -/
def windowRead (o : Owner) (off : Nat) (s : State) : Word × State :=
  if !s.heard o then (0xFFFFFFFF, s)
  else match lockAt off with
  | some (.inl m) =>
    if !reaches o m.set s then (0xFFFFFFFF, s)
    else
      let b := s.mbx m
      let (w, h, l) := rsGrant [o] b.lock b.lastContest
      (rsValue w h o, s.modMbx m fun b => { b with lock := h, lastContest := l })
  | some (.inr k) =>
    let (w, h, l) := rsGrant [o] (s.sem k).owner (s.sem k).lastContest
    (rsValue w h o, s.modSem k fun _ => ⟨h, l⟩)
  | none => (if s.host.hm = .boot then dawnValue o off s else regValue o off s, s)

/-! ### Read requests (R371) -/

/-- A read of each word a range touches, the lowest first. -/
def readWords (o : Owner) : Nat → Nat → State → List Byte × State
  | 0, _, s => ([], s)
  | n + 1, a, s =>
    let (w, t) := windowRead o a s
    let (bs, u) := readWords o n (a + 4) t
    (leBytes 4 w ++ bs, u)

/-- A word of the MSI-X table or of the pending bits (R322). -/
def vectorWord (h : HostPort) (a : Nat) : Word :=
  if a < 0x1000 then
    let e := h.vectors.getD (a / 16) (0, 0)
    match a % 16 / 4 with
    | 0 => loWord e.1.toNat
    | 1 => hiWord e.1.toNat
    | 2 => e.2
    | _ => BitVec.ofNat 32 (flag (bitOf h.vecMask (a / 16)))
  else if 0x2000 ≤ a ∧ a < 0x2020 then BitVec.ofNat 32 (h.vecPend.toNat / 2 ^ (8 * (a - 0x2000)))
  else 0

/-- A word of the configuration space (R322). (PRESUMED 194; assumption log) -/
def configWord (h : HostPort) (r : CfgReg) : Word :=
  let c := h.cfg
  match r with
  | .classCode => 0x12000000
  | .command => BitVec.ofNat 32 (2 * flag c.memSpace + 4 * flag c.busMaster)
  | .bar 0 => loWord (c.bar0.toNat + 4)
  | .bar 1 => hiWord c.bar0.toNat
  | .bar 2 => loWord (c.bar2.toNat + 4)
  | .bar _ => hiWord c.bar2.toNat
  | .deviceControl => BitVec.ofNat 32 (32 * c.maxPayload + 4096 * c.maxRead)
  | .msixControl => BitVec.ofNat 32 (255 * 2 ^ 16 + 2 ^ 30 * flag c.msixMask + 2 ^ 31 * flag c.msixOn)
  | .powerControl => if h.d3 then 3 else 0
  | .aerUncorrectable => c.aerUnc
  | .aerCorrectable => c.aerCor
  | .aerControl => BitVec.ofNat 32 (0xA0 + 2 ^ 6 * flag c.ecrcGen + 2 ^ 8 * flag c.ecrcCheck)

/-- The port of an owner. -/
def ownerPort : Owner → Option Port
  | .portA => some .a
  | .portB => some .b
  | _ => none

/-- A request longer than 8 bytes, or of 8 bytes not 8-byte aligned, is aborted, and AER records it (R322, R371).
(PRESUMED 194; assumption log) -/
def abortRequest (o : Owner) (s : State) : State :=
  match ownerPort o with
  | none => setEv .win 4 s
  | some p =>
    setEv .win 4 ((s.modPort p fun h => { h with cfg := { h.cfg with aerUnc := h.cfg.aerUnc ||| 0x8000 } }).emit (.abortTlp p))

def oversized (addr len : Nat) : Bool := decide (8 < len) || (len == 8 && addr % 8 != 0)

/-- A read request (R371): each word it touches is read in full, the lowest first, and the bytes asked for go out. The other
spaces answer as they stand. (PRESUMED 194; assumption log) -/
def hostRead (o : Owner) (r : HostRead) (s : State) : State :=
  match r.space, ownerPort o with
  | .window, _ =>
    if !s.heard o then s
    else if oversized r.addr r.len then abortRequest o s
    else
      let first := r.addr / 4
      let (bs, t) := readWords o ((r.addr + r.len + 3) / 4 - first) (4 * first) s
      t.emit (.readData o ((bs.drop (r.addr % 4)).take r.len))
  | .vectors, some p =>
    if !(s.host.port p).mapped then s
    else s.emit (.readData o (((leBytes 4 (vectorWord (s.host.port p) (r.addr / 4 * 4)) ++
      leBytes 4 (vectorWord (s.host.port p) (r.addr / 4 * 4 + 4))).drop (r.addr % 4)).take r.len))
  | .config x, some p =>
    if !(s.host.port p).linkUp then s
    else s.emit (.readData o (((leBytes 4 (configWord (s.host.port p) x)).drop (r.addr % 4)).take r.len))
  | _, none => s

end Sys2Proof.Machine
end

