-- ==== Sys2Proof/Machine/WindowWrite.lean ====
section
/-! DEFINITION. What a write of the Host Window does (R7, R371 to R379, R391 to R393, R418, R489): RW, ST, EV and WO
registers by offset, rejected accesses, the alias block, and the posting register of the slow domain. -/

namespace Sys2Proof.Machine

/-! ### Event latches (R7, R375, R377) -/

/-- The interrupt source at a decoded offset (R376). -/
def sourceAt (r : Nat) : Option Source :=
  match r with
  | 0x030 => some .win | 0x504 => some .mem | 0x600 => some .dec | 0x700 => some .xf | 0x800 => some .txt
  | 0x900 => some .pack | 0xA04 => some .egr | 0xB04 => some .bw | 0xC04 => some .pwr | 0xD04 => some .sec
  | 0xE04 => some .hlth | 0x1001C => some .cfg | 0x10054 => some .grd | 0x10440 => some .tide
  | _ => none

/-- Clear the OVF bits of the selected die that a write names; the snapshot bank ignores writes (R489, R494). -/
def clearOvf (f : DieCounters → DieCounters) (s : State) : State :=
  if snapBank s then s
  else s.modPmc fun p => { p with dies := updAt p.dies (fieldOf s.rw.pmcSel 0 4) f }

/-- A write to an EV register of a mailbox set by an owner that reaches it. -/
def mbxEvWrite (o : Owner) (a : Nat) (v : Word) (s : State) : Option State :=
  match mbxPlace a with
  | some (p, n, 0x10C) =>
    some (if reaches o p s then s.modMbx (mbxId p n) fun b => { b with evt := b.evt &&& ~~~v } else s)
  | some (p, _, 0x200) =>
    some (if reaches o p s then s.modOrphan p id (· &&& ~~~(v.setWidth 16)) else s)
  | _ => none

/-- A write of 1s to an EV register: those bits clear, and a source that keeps set bits sends its message again. None
where the offset holds no EV register. -/
def evWrite (o : Owner) (off : Nat) (v : Word) (s : State) : Option State :=
  let r := regOffset off
  let a := regPlace r
  match sourceAt r with
  | some src => some (clearEv src v s)
  | none =>
    if regBlock r = 1 then mbxEvWrite o a v s
    else
      match r with
      | 0xC200 => some (s.modHost fun h => { h with semAbn := h.semAbn &&& ~~~(v.setWidth 64) })
      | 0xC204 => some (s.modHost fun h => { h with semAbn := h.semAbn &&& ~~~((v.setWidth 64) <<< 32) })
      | 0x2000C => some (s.modEv fun e => { e with pmc := e.pmc &&& ~~~v })
      | 0x24D40 => some (clearOvf (fun d => { d with fixOvf := d.fixOvf &&& ~~~(v.setWidth 16) }) s)
      | 0x2C020 => some (s.modEv fun e => { e with lt := e.lt &&& ~~~v })
      | _ =>
        if regBlock r = 12 ∧ a < 0x400 ∧ a % 0x80 = 0x10 then some (s.modCvu (a / 0x80) fun c => { c with evt := c.evt &&& ~~~v })
        else none


/-! ### Interrupt enables (R377) -/

/-- A write of the enables of a port: every source written 1 while pending sends its message. -/
def writeIrqEn (p : Port) (v : Word) (s : State) : State :=
  let en := v &&& 0x3FFF
  let a := s.modRw fun r => match p with
    | .a => { r with irqEnA := en }
    | .b => { r with irqEnB := en }
  a.each ((List.range 14).filter fun i => bitOf en i && bitOf (irqPend s.ev) i) fun i t => irqMessage p i t

/-- IRQ_ENABLE_WRITE. -/
def execIrqEnableWrite (writer : Owner) (port : Port) (value : Word) (s : State) : Answer :=
  .next (s.byOwner writer (writeIrqEn port value))

/-! ### Shadows and plain registers (R375, R379) -/

/-- A write of a shadow, ignored while its group is armed. -/
def writeShadow (g : Nat) (set : StRegs → StRegs) (s : State) : State :=
  if isArmed g s then setEv .cfg 0x20000 s else { s with shadow := set s.shadow }

/-- The RW register at a decoded offset: the bits it has, and how it is set. -/
def rwReg (r : Nat) : Option (Word × (Word → RwRegs → RwRegs)) :=
  match r with
  | 0x0010C => some (0xFF, fun v t => { t with irqVecA := v })
  | 0x00110 => some (0xFF, fun v t => { t with irqVecB := v })
  | 0x00E50 => some (0x1F, fun v t => { t with alertEn := v })
  | 0x10004 => some (0x3FFFFF, fun v t => { t with grpBnd := v })
  | 0x1000C => some (0x3F, fun v t => { t with applyStream := v })
  | 0x10010 => some (0xFFFFFFFF, fun v t => { t with applyBatchLo := v })
  | 0x10014 => some (0xFFFFFFFF, fun v t => { t with applyBatchHi := v })
  | 0x10044 => some (0xFFFFFFFF, fun v t => { t with grdRef := v })
  | 0x10430 => some (0xFFFFFFFF, fun v t => { t with tideApplyStepLo := v })
  | 0x10434 => some (0xFFFF, fun v t => { t with tideApplyStepHi := v })
  | 0x10438 => some (0xFFFFFFFF, fun v t => { t with tideApplyPhase := v })
  | 0x10B10 => some (0x7F, fun v t => { t with bwIdx := v })
  | 0x10B30 => some (0x3FF, fun v t => { t with sluSel := v })
  | 0x20008 => some (0x1F, fun v t => { t with pmcSel := v })
  | 0x2C00C => some (0x1F, fun v t => { t with ltLane := v })
  | _ => none

/-- A write in the configuration block that is neither EV nor plain RW (R379, R383, R386, R61). -/
def writeConfig (o : Owner) (a : Nat) (v : Word) (s : State) : State :=
  match stReg s.rw a with
  | some (g, m, _, set) => writeShadow g (set (v &&& m)) s
  | none =>
    match a with
    | 0x008 => if bitOf v 31 then cancelGroups (v.setWidth 11) s else armGroups (v.setWidth 11) s
    | 0x04C => if bitOf v 0 then guardCommit s else s
    | 0x43C => tideControl o v s
    | _ => s

/-! ### Mailboxes, doorbells, semaphores -/

/-- A write in the mailbox block, EVT apart (R328 to R332, R342). -/
def writeMbx (o : Owner) (a : Nat) (v : Word) (s : State) : State :=
  match mbxPlace a with
  | none => s
  | some (p, n, r) =>
    let m := mbxId p n
    if r < 0x100 then mbxWriteBuf o m (r / 4) v s
    else
      match r with
      | 0x100 => mbxRelease o m v s
      | 0x108 => if bitOf v 0 then mbxAcknowledge o m s else mbxAct o m (fun _ => true) id s
      | 0x110 => if reaches o p s then s.modMbx m fun b => { b with int := v &&& 0x7FF } else s
      | _ => s

/-- A write in the doorbell block (R327, R349). -/
def writeDoorbell (o : Owner) (a : Nat) (v : Word) (s : State) : State :=
  let quay (p : Port) (x : Nat) : State :=
    let q : QuayId := ⟨p, Fin.ofNat 64 (x / 8)⟩
    if x % 8 = 0 then ringSq q (fieldOf v 0 16) s else ringCq q (fieldOf v 0 16) s
  if a < 0x40 then mbxRing o (mbxId .a (a / 4)) s
  else if a < 0x80 then mbxRing o (mbxId .b ((a - 0x40) / 4)) s
  else if a < 0x280 then quay .a (a - 0x80)
  else if a < 0x480 then quay .b (a - 0x280)
  else s

/-! ### Counters, link tests, check-value units -/

/-- A 1 written to OVF of an event select clears it (R7, R489). -/
def mixedOvf (a : Nat) (v : Word) (s : State) : State :=
  clearOvf (fun d => { d with evsel := updAt d.evsel ((a - 0x900) / 4) fun e => e &&& ~~~(v &&& 0x4000) }) s

/-- A half of a 48-bit counter replaced. -/
def setHalf (hi : Bool) (v : Word) (n : Nat) : Nat :=
  if hi then n % 2 ^ 32 + v.toNat % 65536 * 2 ^ 32 else n / 2 ^ 32 * 2 ^ 32 + v.toNat

/-- A write in the counter window: halves of programmable counters, which the snapshot bank ignores, and event selects,
whose EVENT, MODE and EN are set whatever the bank and whose OVF clears in the live one (R489, R494, R495).
(DEDUCED 127; assumption log) -/
def writeCounter (a : Nat) (v : Word) (s : State) : State :=
  if a < 0x880 then
    clearOvf (fun d => if a / 8 < d.evsel.length then { d with cnt := updAt d.cnt (a / 8) (setHalf (a % 8 != 0) v) } else d) s
  else if 0x900 ≤ a ∧ a < 0xD00 then
    let sel (d : DieCounters) : DieCounters :=
      { d with evsel := updAt d.evsel ((a - 0x900) / 4) fun e => (v &&& 0x3FFF) ||| (e &&& 0x4000) }
    mixedOvf a v (s.modPmc fun p => { p with dies := updAt p.dies (fieldOf s.rw.pmcSel 0 4) sel })
  else s

/-- `PMC_CTL`: CLEAR, SNAP, FREEZE, UNFREEZE, in this order; every die in service answers (R490). -/
def pmcControl (v : Word) (s : State) : State :=
  let a := if bitOf v 3 then pmcClear s else s
  let b := if bitOf v 2 then pmcSnap 0xFFF a else a
  let c := if bitOf v 0 then pmcFreeze b else b
  if bitOf v 1 then pmcUnfreeze c else c

/-- `HW_LT_CTL` (R486). -/
def ltControl (o : Owner) (v : Word) (s : State) : State :=
  let a := if bitOf v 0 then ltStart o s else s
  let b := if bitOf v 1 then ltStop a else a
  if bitOf v 2 then ltInject b else b

/-- A half of a 64-bit value replaced. -/
def setWordOf (hi : Bool) (v : Word) (x : Dword) : Dword :=
  if hi then BitVec.ofNat 64 (x.toNat % 2 ^ 32 + v.toNat * 2 ^ 32) else BitVec.ofNat 64 (x.toNat / 2 ^ 32 * 2 ^ 32 + v.toNat)

/-- A write of a parameter while ACTIVE is ignored and sets LOCKED (R418). -/
def Cvu.param (f : Cvu → Cvu) (c : Cvu) : Cvu := if c.active then { c with evt := c.evt ||| 8 } else f c

/-- `CVU_n_CFG`: bits [9:0] are parameters, the rest take effect at any time (R418, R423). -/
def Cvu.writeCfg (v : Word) (c : Cvu) : Cvu :=
  let n := v &&& 0x3FF0F7F
  if c.active then { c with cfg := (n &&& ~~~(0x3FF : Word)) ||| (c.cfg &&& 0x3FF), evt := c.evt ||| 8 } else { c with cfg := n }

/-- A write to a unit of the window, EVT apart (R418, R422). -/
def writeCvu (n r : Nat) (v : Word) (s : State) : State :=
  let half (f : Dword → Dword) (c : Cvu) : Cvu := { c with state := c.maskTo (f c.state) }
  match r with
  | 0x00 => s.modCvu n (Cvu.writeCfg v)
  | 0x04 => cvuControl n v s
  | 0x08 => s.modCvu n (Cvu.data v)
  | 0x20 => s.modCvu n (Cvu.param fun c => { c with poly := setWordOf false v c.poly })
  | 0x24 => s.modCvu n (Cvu.param fun c => { c with poly := setWordOf true v c.poly })
  | 0x28 => s.modCvu n (Cvu.param fun c => { c with init := setWordOf false v c.init })
  | 0x2C => s.modCvu n (Cvu.param fun c => { c with init := setWordOf true v c.init })
  | 0x30 => s.modCvu n (Cvu.param fun c => { c with xorout := setWordOf false v c.xorout })
  | 0x34 => s.modCvu n (Cvu.param fun c => { c with xorout := setWordOf true v c.xorout })
  | 0x38 => s.modCvu n fun c => { c with expect := setWordOf false v c.expect }
  | 0x3C => s.modCvu n fun c => { c with expect := setWordOf true v c.expect }
  | 0x40 => s.modCvu n (half (setWordOf false v))
  | 0x44 => s.modCvu n (half (setWordOf true v))
  | _ => s

/-! ### The slow domain (R391 to R393) -/

/-- A write held in the posting register; a second to the same register replaces the first.
(DEDUCED 116; assumption log) -/
def aonPost (a : Nat) (v : Word) (s : State) : State :=
  if a < 0x20 then s.modAon fun x => { x with posted := x.posted.filter (·.1 != a) ++ [(a, v)] } else s

/-- What the always-on domain does with a write. (DEDUCED 116; assumption log) -/
def aonTake (r : AonRegs) (w : Nat × Word) : AonRegs :=
  match w.1 with
  | 0x04 => { r with cause := r.cause &&& ~~~w.2 }
  | 0x08 => { r with wake := r.wake &&& ~~~w.2 }
  | 0x10 => { r with scratch := updAt r.scratch 0 fun _ => w.2 }
  | 0x14 => { r with scratch := updAt r.scratch 1 fun _ => w.2 }
  | 0x18 => { r with scratch := updAt r.scratch 2 fun _ => w.2 }
  | 0x1C => { r with scratch := updAt r.scratch 3 fun _ => w.2 }
  | _ => r

/-- AON_WRITE: the decoded offset must lie in the slow-domain block. -/
def execAonWrite (writer : Owner) (offset : Nat) (value : Word) (s : State) : Answer :=
  let r := regOffset offset
  .next (s.byOwner writer fun t => if regBlock r = 14 then aonPost (regPlace r) value t else t)

/-- AON_WRITE_TAKEN, a rising edge of SLOWCLK: the copies take the registers as they stood, and the posted writes are
taken. (DEDUCED 116; assumption log) -/
def execAonWriteTaken (s : State) : Answer :=
  let live := { s.aon.live with stat := aonStat s }
  .next (s.onlyIf s.fab.iod0 (·.modAon fun x => { x with copy := live, live := x.posted.foldl aonTake live, posted := [], slowLost := false }))

/-- SLOWCLK_LOST: no edge for 100 µs. -/
def execSlowclkLost (s : State) : Answer := .next (s.modAon fun x => { x with slowLost := true })

/-! ### A write of one word (R371, R373) -/

/-- Writes to the blocks by number, EV, RW and alias apart. -/
def blockWrite (o : Owner) (r : Nat) (v : Word) (s : State) : State :=
  let a := regPlace r
  match regBlock r with
  | 0 => if a = 0x104 then writeIrqEn .a v s else if a = 0x108 then writeIrqEn .b v s else s
  | 1 => writeMbx o a v s
  | 2 => writeDoorbell o a v s
  | 3 => if a < 0x100 then releaseSem o (a / 4) v s else s
  | 4 => writeConfig o a v s
  | 8 => if a = 0 then pmcControl v s else if a = 0x14 then writeBwWin v s else s
  | 9 => writeCounter a v s
  | 11 =>
    if a = 0 then ltControl o v s
    else if a = 4 ∧ !s.lt.active then s.modRw fun t => { t with ltCfg := v &&& 0x77F7 }
    else s
  | 12 => if a < 0x400 then writeCvu (a / 0x80) (a % 0x80) v s else s
  | 14 => aonPost a v s
  | _ => s

/-- A write of a whole word by one owner, where it arrives: to the alias block nothing but its event. -/
def windowWrite (o : Owner) (off : Nat) (v : Word) (s : State) : State :=
  if !s.heard o then s
  else if off / 0x4000 % 16 = 15 then setEv .win 2 s
  else
    match evWrite o off v s with
    | some t => t
    | none =>
      let r := regOffset off
      match rwReg r with
      | some (m, set) => s.modRw (set (v &&& m))
      | none => blockWrite o r v s

/-- The EV fields that share a register with fields of other codes: OVF of the event selects (R489, R494), and the causes and
wakes of the slow domain, whose clears are posted (R391, R392). -/
def mixedEvWrite (off : Nat) (v : Word) (s : State) : State :=
  let r := regOffset off
  let a := regPlace r
  if regBlock r = 9 ∧ 0x900 ≤ a ∧ a < 0xD00 then mixedOvf a v s
  else if regBlock r = 14 ∧ (a = 0x04 ∨ a = 0x08) then aonPost a v s
  else s

/-- EV_CLEAR (R7, R377). -/
def execEvClear (writer : Owner) (offset : Nat) (value : Word) (s : State) : Answer :=
  .next (s.byOwner writer fun t =>
    if offset / 0x4000 % 16 = 15 then setEv .win 2 t else (evWrite writer offset value t).getD (mixedEvWrite offset value t))

/-- A 32-bit word replaced in a wide value. -/
def putWord (i : Nat) (v : Word) (x : Dword) : Dword :=
  BitVec.ofNat 64 (x.toNat - natBits x.toNat (32 * i) 32 * 2 ^ (32 * i) + v.toNat * 2 ^ (32 * i))

/-- A write of one word of the MSI-X table; the pending bits are read-only (R322). An unmasked vector sends what its mask
held. -/
def vectorWrite (p : Port) (a : Nat) (v : Word) (s : State) : State :=
  if 0x1000 ≤ a then s
  else
    let i := a / 16
    flushMsix p (s.modPort p fun h =>
      match a % 16 / 4 with
      | 0 => { h with vectors := updAt h.vectors i fun e => (putWord 0 (v &&& ~~~3) e.1, e.2) }
      | 1 => { h with vectors := updAt h.vectors i fun e => (putWord 1 v e.1, e.2) }
      | 2 => { h with vectors := updAt h.vectors i fun e => (e.1, v) }
      | _ => { h with vecMask := if bitOf v 0 then h.vecMask ||| ((1 : BitVec 256) <<< i) else h.vecMask &&& ~~~((1 : BitVec 256) <<< i) })

/-- A write of one word of the configuration space, with its status bits cleared by 1s (R322).
(PRESUMED 194; assumption log) -/
def configWrite (r : CfgReg) (v : Word) (h : HostPort) : HostPort :=
  let cfg (f : PciConfig → PciConfig) : HostPort := { h with cfg := f h.cfg }
  match r with
  | .classCode => h
  | .command => cfg fun c => { c with memSpace := bitOf v 1, busMaster := bitOf v 2 }
  | .bar 0 => cfg fun c => { c with bar0 := putWord 0 (v &&& 0xFFFC0000) c.bar0 }
  | .bar 1 => cfg fun c => { c with bar0 := putWord 1 v c.bar0 }
  | .bar 2 => cfg fun c => { c with bar2 := putWord 0 (v &&& 0xFFFFC000) c.bar2 }
  | .bar _ => cfg fun c => { c with bar2 := putWord 1 v c.bar2 }
  | .deviceControl => cfg fun c => { c with maxPayload := min 2 (fieldOf v 5 3), maxRead := min 5 (fieldOf v 12 3) }
  | .msixControl => cfg fun c => { c with msixOn := bitOf v 31, msixMask := bitOf v 30 }
  | .powerControl => if fieldOf v 0 2 = 0 then { h with d3 := false } else if fieldOf v 0 2 = 3 then { h with d3 := true } else h
  | .aerUncorrectable => cfg fun c => { c with aerUnc := c.aerUnc &&& ~~~v }
  | .aerCorrectable => cfg fun c => { c with aerCor := c.aerCor &&& ~~~v }
  | .aerControl => cfg fun c => { c with ecrcGen := bitOf v 6, ecrcCheck := bitOf v 8 }

/-- The word that four bytes with their enables lay over an old one. -/
def mergeWord (old : Word) (bs : List (Byte × Bool)) : Word :=
  BitVec.ofNat 32 (bytesNat ((List.range 4).map fun i =>
    match bs[i]? with
    | some (b, true) => b
    | _ => (leBytes 4 old).getD i 0))

/-- A write of every byte of whole words. -/
def wholeWords (w : HostWrite) (n : Nat) : Bool := w.bytes.length == n && w.addr % n == 0 && w.bytes.all (·.2)

/-- Word `i` of a write's data. -/
def wordOf (w : HostWrite) (i : Nat) : Word := mergeWord 0 (w.bytes.drop (4 * i))

/-- A write request (R371): one aligned word, or two, the lower first; a partial write is dropped, and an oversized one
aborted. The MSI-X table takes whole words; the configuration space takes single bytes.
(PRESUMED 194; assumption log) -/
def hostWrite (o : Owner) (w : HostWrite) (s : State) : State :=
  match w.space, ownerPort o with
  | .window, _ =>
    if !s.heard o then s
    else if wholeWords w 4 then windowWrite o w.addr (wordOf w 0) s
    else if wholeWords w 8 then windowWrite o (w.addr + 4) (wordOf w 1) (windowWrite o w.addr (wordOf w 0) s)
    else if oversized w.addr w.bytes.length then abortRequest o s
    else setEv .win 1 s
  | .vectors, some p =>
    if !(s.host.port p).mapped then s
    else if wholeWords w 4 then vectorWrite p w.addr (wordOf w 0) s
    else if wholeWords w 8 then vectorWrite p (w.addr + 4) (wordOf w 1) (vectorWrite p w.addr (wordOf w 0) s)
    else s
  | .config r, some p =>
    if !(s.host.port p).linkUp then s
    else
      let bs := List.replicate (w.addr % 4) (0, false) ++ w.bytes
      -- a byte that clears by 1s is left by 0s where it is not enabled
      let old := match r with | .aerUncorrectable | .aerCorrectable => 0 | _ => configWord (s.host.port p) r
      flushMsix p (s.modPort p (configWrite r (mergeWord old bs)))
  | _, none => s

/-- REG_WRITE (R371, R379). -/
def execRegWrite (writer : Owner) (w : HostWrite) (s : State) : Answer := .next (hostWrite writer w s)

/-- ALIAS_WRITE (R373): the write has no effect but its event. (DEDUCED 137; assumption log) -/
def execAliasWrite (writer : Owner) (_offset : Nat) (_value : Word) (s : State) : Answer :=
  .next (s.byOwner writer (setEv .win 2))

/-- WINDOW_ACCESS_REJECT (R371): a request as the table of R371 judges it; a partial write is dropped and an oversize request
aborted. -/
def execWindowAccessReject (port : Port) (a : HostAccess) (s : State) : Answer :=
  .next (match a with
    | .read r => hostRead port.owner r s
    | .write w => hostWrite port.owner w s)

end Sys2Proof.Machine
end

