-- ==== Sys2Proof/Machine/Attest.lean ====
section
/-! DEFINITION. Attestation and debug access (R462 to R464, R467 to R473): the SPDM responder and the JTAG port. -/

namespace Sys2Proof.Machine

/-! ### SPDM (R462, R463) -/

/-- ATTEST_READY: the identity key has been derived, which a blown seed prevents (R462, R471). -/
def execAttestReady (s : State) : Answer :=
  if s.pwr.off ∨ !s.fab.iod0 ∨ s.host.hm = .boot ∨ s.sec.deviceSeed ≠ Config.deviceSeed ∨ s.sec.lifecycle = .zeroised then .next s
  else .next (s.modSec fun x => { x with attest := true })

/-- Every request but GET_VERSION is answered with an error in ZEROISED and before ATTEST_READY. -/
def spdmOpen (s : State) : Bool := s.sec.attest && s.sec.lifecycle != .zeroised

/-- An error: with the code Unspecified (0x05 of the SPDM standard) while the responder is closed, with a code the manual
does not name otherwise. -/
def spdmError (s : State) : State := s.emit (.spdm false (if spdmOpen s then [] else [0x05]))

/-- An answer whose bytes are of the standard or of the cryptography: free. -/
def spdmFree (code : Nat) (s : State) : State :=
  { s with free := s.free + 1 }.emit (.spdm true (Config.spdmBytes code s.free))

/-- What the responder supports, as flags and selections of the SPDM standard: certificates, challenges, signed measurements,
encryption and authentication of messages, key exchange, heartbeats and key updates; SHA-256, RSASSA-PSS 3072, secp384r1 and
AES-256-GCM (R462). -/
def spdmFlags : List Byte := natBytes 4 0x62D6
def spdmAlgorithms : List Byte :=
  [1, 0] ++ natBytes 4 2 ++ natBytes 4 8 ++ natBytes 4 1 ++ natBytes 12 0 ++ [2, 0x20] ++ natBytes 2 0x10 ++ [3, 0x20] ++ natBytes 2 2

/-- Length of the DER object at the head of a list. -/
def derLength (bs : List Byte) : Nat :=
  match bs with
  | _ :: l :: rest => if l.toNat < 128 then 2 + l.toNat else 2 + (l.toNat - 128) + bytesBE (rest.take (l.toNat - 128))
  | _ => bs.length

/-- The chain as the SPDM standard has it: its length, the digest of the root certificate, and the region's certificates,
the root first (R452, R461). -/
def certChain (der : List Byte) : List Byte :=
  natBytes 2 (der.length + 36) ++ natBytes 2 0 ++ hashBytes (sha256 (der.take (derLength der))) ++ der

/-- An answer from the certificate chain, which is fixed; an error where the region holds none. -/
def certReply (ok : Bool) (f : List Byte → List Byte) (s : State) : State :=
  match s.sec.cert with
  | some der => if spdmOpen s && ok then s.emit (.spdm true (f (certChain der))) else spdmError s
  | none => spdmError s

/-- A part of the chain: its length, what remains behind it, and its bytes. -/
def certPart (offset length : Nat) (chain : List Byte) : List Byte :=
  let part := (chain.drop offset).take length
  natBytes 2 part.length ++ natBytes 2 (chain.length - offset - part.length) ++ part

/-- An answer the responder gives once it is open and the request is one it supports.
(DESIGN CHOICE 134; assumption log) -/
def spdmReply (code : Nat) (supported : Bool) (s : State) : State :=
  if spdmOpen s && supported then spdmFree code s else spdmError s

/-- A request reaches the Keel: IOD0 has power, and a port has its way to it (R18, R477).
(DESIGN CHOICE 150; assumption log) -/
def spdmAsk (t : SpdmTransport) (f : State → State) (s : State) : Answer :=
  .next (if !s.pwr.off && !s.pwr.testEn && (match t with | .doe p => (s.host.port p).linkUp && s.portReached p | .mctp => s.fab.iod0) then f s else s)

/-- GET_VERSION: SPDM 1.3. -/
def execGetVersion (t : SpdmTransport) (s : State) : Answer := spdmAsk t (·.emit (.spdm true [0x13])) s

/-- GET_CAPABILITIES. -/
def execGetCapabilities (t : SpdmTransport) (s : State) : Answer :=
  spdmAsk t (fun a => if spdmOpen a then a.emit (.spdm true spdmFlags) else spdmError a) s

/-- NEGOTIATE_ALGORITHMS. -/
def execNegotiateAlgorithms (t : SpdmTransport) (s : State) : Answer :=
  spdmAsk t (fun a => if spdmOpen a then a.emit (.spdm true spdmAlgorithms) else spdmError a) s

/-- GET_DIGESTS. -/
def execGetDigests (t : SpdmTransport) (s : State) : Answer := spdmAsk t (certReply true fun g => hashBytes (sha256 g)) s

/-- GET_CERTIFICATE: slot 0 only. -/
def execGetCertificate (t : SpdmTransport) (slot offset length : Nat) (s : State) : Answer :=
  spdmAsk t (certReply (slot == 0) (certPart offset length)) s

/-- CHALLENGE. -/
def execChallenge (t : SpdmTransport) (slot : Nat) (_nonce : BitVec 256) (s : State) : Answer :=
  spdmAsk t (spdmReply 5 (slot == 0)) s

/-- What a block measures (R463). (PRESUMED 132; assumption log) -/
def measured (i : Nat) (s : State) : List Byte :=
  match i with
  | 1 => hashBytes Config.romHash
  | 2 => hashBytes (sha256 s.sec.bootFuses)
  | 3 => (s.sec.bootImage.map fun g => hashBytes (sha256 g)).getD (natBytes 32 0)
  | 4 => (s.sec.bootImage.map fun g => leBytes 4 (imgFwVer g) ++ natBytes 2 (imgSvn g) ++ natBytes 1 (imgSlot g)).getD (natBytes 7 0)
  | 5 => leBytes 4 (secStat s.sec)
  | 6 => leBytes 4 s.guard.committed ++ leBytes 4 (regValue .harbourmaster 0x10050 s) ++ leBytes 4 s.applied.cfgDet
  | 7 => (s.run.job.map fun j => hashBytes (sha256 j.descriptor)).getD (natBytes 32 0)
  | _ => hashBytes (sha256 ((sortBy (fun a b => decide (a.id ≤ b.id)) s.run.tables).flatMap (·.header)))

/-- A block in DMTF's form: index, specification 1, size, the value's type with bit 7 for a raw value, its length and bytes.
(PRESUMED 132; assumption log) -/
def measurement (i : Nat) (s : State) : List Byte :=
  let v := measured i s
  let raw := i = 4 ∨ i = 5 ∨ i = 6
  natBytes 1 i ++ [1] ++ natBytes 2 (v.length + 3) ++ natBytes 1 ((Config.measureType i).toNat + if raw then 128 else 0) ++
    natBytes 2 v.length ++ v

/-- GET_MEASUREMENTS: one block; index 0 asks for their number, and 0xFF for all of them, as the SPDM standard has it.
(PRESUMED 132; assumption log) -/
def execGetMeasurements (t : SpdmTransport) (index : Nat) (s : State) : Answer :=
  spdmAsk t (fun a =>
    if !spdmOpen a ∨ (8 < index ∧ index ≠ 0xFF) then spdmError a
    else
      a.emit (.spdm true (
        if index = 0 then [8]
        else if index = 0xFF then (List.range 8).flatMap fun i => measurement (i + 1) a
        else measurement index a))) s

/-! ### Sessions -/

/-- A session of a transport, with its handshake finished or not. (DESIGN CHOICE 134; assumption log) -/
def session? (t : SpdmTransport) (id : Nat) (done : Bool) (s : State) : Bool :=
  s.sec.sessions.any fun x => x.transport == t && x.id == id && x.finished == done

def dropSession (t : SpdmTransport) (id : Nat) (s : State) : State :=
  s.modSec fun x => { x with sessions := x.sessions.filter fun y => !(y.transport == t && y.id == id) }

/-- KEY_EXCHANGE: at most two sessions on a transport. -/
def execKeyExchange (t : SpdmTransport) (slot : Nat) (s : State) : Answer :=
  spdmAsk t (fun a =>
    if !spdmOpen a ∨ slot ≠ 0 ∨ 2 ≤ (a.sec.sessions.filter (·.transport == t)).length then spdmError a
    else
      let id := a.sec.nextSession
      (a.modSec fun x => { x with sessions := x.sessions ++ [⟨t, id, false⟩], nextSession := id + 1 }).emit
        (.spdm true (natBytes 4 id))) s

/-- FINISH: the handshake ends, or the session is given up. (DESIGN CHOICE 134; assumption log) -/
def execFinish (t : SpdmTransport) (session : Nat) (verifyOk : Bool) (s : State) : Answer :=
  spdmAsk t (fun a =>
    if !spdmOpen a ∨ !session? t session false a then spdmError a
    else if verifyOk then
      (a.modSec fun x =>
        { x with sessions := x.sessions.map fun y => if y.transport = t ∧ y.id = session then { y with finished := true } else y }).emit
          (.spdm true [])
    else spdmError (dropSession t session a)) s

/-- HEARTBEAT. -/
def execHeartbeat (t : SpdmTransport) (session : Nat) (s : State) : Answer :=
  spdmAsk t (fun a => if spdmOpen a && session? t session true a then a.emit (.spdm true []) else spdmError a) s

/-- KEY_UPDATE: new keys of a session, which no part of the state shows. -/
def execKeyUpdate (t : SpdmTransport) (session : Nat) (s : State) : Answer :=
  spdmAsk t (fun a => if spdmOpen a && session? t session true a then spdmFree 6 a else spdmError a) s

/-- END_SESSION. -/
def execEndSession (t : SpdmTransport) (session : Nat) (s : State) : Answer :=
  spdmAsk t (fun a => if spdmOpen a && session? t session true a then (dropSession t session a).emit (.spdm true []) else spdmError a) s

/-- VENDOR_DEFINED_REQUEST: a Salsia entry, inside a secured session on a port's DOE; its completion is the answer (R464).
(DESIGN CHOICE 134; assumption log) -/
def execVendorDefinedRequest (t : SpdmTransport) (session : Option Nat) (entry : BitVec 512) (s : State) : Answer :=
  spdmAsk t (fun a =>
    match t, session with
    | .doe p, some n =>
      if spdmOpen a && session? t n true a && a.host.fwReady then
        let b := a.modHost fun h => { h with stamp := h.stamp + 1 }
        enqueueCmd ⟨.doe p, BitVec.ofNat 16 (fieldOf entry 16 16)⟩ entry a.host.stamp b
      else spdmError a
    | _, _ => spdmError a) s

/-! ### JTAG (R467, R473) -/

/-- The die of a core: the Pilots of SPD n are cores 16 n to 16 n + 15, the rest are the Harbourmaster's.
(PRESUMED 135; assumption log) -/
def coreTarget (core : Nat) : DebugTarget := if core < 128 then .spd (Fin.ofNat 8 (core / 16)) else .iod

/-- Where a C or M access may go in each power state; the recovery path acts as Dawn (R473).
(DEDUCED 136; assumption log) -/
def targetOpen (cls : DebugClass) (x : DebugTarget) (s : State) : Bool :=
  let all : Bool := match s.sec.debug with | .openAll => true | _ => false
  let state : PowerState := if s.sec.recovery then .dawn else s.pwr.state
  match state, x with
  | .night, .iod => cls == .c
  | _, .iod => true
  | .noon, .spd n => s.serving n && s.clocked n
  | .dawn, .spd n => all && s.clocked n
  | .noon, .hbm | .noon, .flash | .dusk, .hbm | .dawn, .hbm | .dawn, .flash => all && cls == .m
  | .dusk, .spd _ | .dusk, .flash | .night, .spd _ | .night, .hbm | .night, .flash => false

/-- The class of an operation, and where it goes. -/
def opKind : JtagOp → DebugClass × Option DebugTarget
  | .bypass _ | .idcode | .sample _ | .extest _ | .clamp _ | .challenge => (.b, none)
  | .read _ | .write .. => (.w, none)
  | .halt core | .resume core | .stepCore core => (.c, some (coreTarget core))
  | .memRead x _ | .memWrite x _ _ => (.m, some x)

/-- The access is one of its class, and lifecycle, debug and power state allow it. Register access of a core (class C) and
memory access (class M) have one form. EXTEST and CLAMP need RESET_N held low. The debug register issues a challenge in any
debug state, unless eight failures or the recovery path forbid it (R455, R469). (DEDUCED 136; assumption log) -/
def jtagAllowed (cls : DebugClass) (op : JtagOp) (s : State) : Bool :=
  let fits : Bool := match op with
    | .memRead .. | .memWrite .. => cls == .c || cls == .m
    | .extest _ | .clamp _ => cls == .b && s.pwr.resetLow
    | .challenge => cls == .b && hmRuns s && !s.sec.recovery && decide (s.sec.debugFails < 8)
    | _ => (opKind op).1 == cls
  let dawn := s.pwr.state == .dawn || s.sec.recovery
  fits && debugRight s.sec.debug cls && (cls == .b || (!s.pwr.off && !s.pwr.testEn && (!dawn || hmRuns s))) &&
    (((opKind op).2.map fun x => targetOpen cls x s).getD true)

/-- The key of a byte that no part of the model places: class, place and address; a core that has run on has other registers.
(DESIGN CHOICE 10; assumption log) -/
def rawKey (cls : DebugClass) (x : DebugTarget) (addr steps : Nat) : Nat :=
  let place : Nat := match x with | .iod => 0 | .spd n => 1 + n | .hbm => 9 | .flash => 10
  (place + if cls = .c then 16 * (steps + 1) else 0) * 2 ^ 64 + addr % 2 ^ 64

/-- The cached form's byte at an address of HBM. -/
def cacheByte (addr : Nat) (s : State) : Option Byte :=
  (Config.hbmCacheByte addr).bind fun (n, dec, i, o) =>
    ((s.spd? n).bind fun d => (if dec then d.decCache else d.rawCache)[i]?).bind fun e => e.form.data[o]?

/-- A cached form with one byte changed. -/
def writeCacheByte (n : Nat) (dec : Bool) (i o : Nat) (v : Byte) (s : State) : State :=
  let put (es : List CacheEntry) : List CacheEntry := updAt es i fun e => { e with form := { e.form with data := e.form.data.set o v } }
  s.modSpd n fun d => if dec then { d with decCache := put d.decCache } else { d with rawCache := put d.rawCache }

/-- A byte of memory (R467): of a unit slot on flash, 32 KiB each; of the job address space or a cached form in HBM; else of
what no part of the model places. (DESIGN CHOICE 10; assumption log) -/
def debugByte (cls : DebugClass) (x : DebugTarget) (addr : Nat) (s : State) : Byte :=
  let raw := readCell Config.rawByte s.sec.rawMem (rawKey cls x addr s.sec.steps)
  if cls ≠ .m then raw
  else
    match x with
    | .flash => ((s.media.slots.find? (·.pua == addr / 32768)).bind fun u => (padUnit u.data)[addr % 32768]?).getD raw
    | .hbm =>
      match Config.hbmJobVa addr with
      | some va => readCell zeroBase s.egr.jobMem va
      | none => (cacheByte addr s).getD raw
    | .iod | .spd _ => raw

/-- A byte of memory written: a unit slot on flash no longer reads as it was programmed. -/
def debugWrite (cls : DebugClass) (x : DebugTarget) (addr : Nat) (v : Byte) (s : State) : State :=
  let raw := s.modSec fun y => { y with rawMem := writeCell Config.rawByte (rawKey cls x addr y.steps) v y.rawMem }
  if cls ≠ .m then raw
  else
    match x with
    | .flash => raw.modMedia fun m =>
        { m with slots := m.slots.map fun u =>
            if u.pua = addr / 32768 then { u with data := (padUnit u.data).set (addr % 32768) v, ok := false } else u }
    | .hbm =>
      match Config.hbmJobVa addr, Config.hbmCacheByte addr with
      | some va, _ => s.modEgr fun e => { e with jobMem := writeCell zeroBase va v e.jobMem }
      | none, some (n, dec, i, o) => writeCacheByte n dec i o v raw
      | none, none => raw
    | .iod | .spd _ => raw

/-- A word shifted through the one-bit bypass register, which captures 0 (IEEE 1149.1). -/
def bypassed (tdi : Word) : Word := tdi <<< 1

/-- The levels at the lands, as the boundary register captures them: nothing gives them. -/
def captureLands (s : State) : Word × State := let (v, a) := s.draw; (v.setWidth 32, a)

def jtagOk (v : Word) (s : State) : State := s.emit (.jtag true v)

/-- What an allowed access does. (DEDUCED 136; assumption log) -/
def jtagDo (cls : DebugClass) (op : JtagOp) (s : State) : State :=
  match op with
  | .bypass tdi => jtagOk (bypassed tdi) s
  | .idcode => jtagOk Config.idcode s
  | .sample tdi => let (v, a) := captureLands s; jtagOk v (a.modSec fun x => { x with preload := tdi })
  | .extest tdi =>
    let (v, a) := captureLands s
    jtagOk v ((a.modSec fun x => { x with preload := tdi }).emit (.lands s.sec.preload))
  | .clamp tdi => jtagOk (bypassed tdi) (s.emit (.lands s.sec.preload))
  | .challenge =>
    let (n, a) := newNonce s
    (natBytes 16 n ++ leBytes 8 Config.serial).foldl (fun t b => jtagOk (b.setWidth 32) t) a
  | .read off => let (v, a) := windowRead .debug off s; jtagOk v a
  | .write off v => jtagOk 0 (windowWrite .debug off v s)
  | .halt core => jtagOk 0 (s.modSec fun x => { x with halted := if x.halted.contains core then x.halted else core :: x.halted })
  | .resume core => jtagOk 0 (s.modSec fun x => { x with halted := x.halted.filter (· != core), steps := x.steps + 1 })
  | .stepCore core => jtagOk 0 (s.onlyIf (s.sec.halted.contains core) fun t => t.modSec fun x => { x with steps := x.steps + 1 })
  | .memRead x addr => jtagOk ((debugByte cls x addr s).setWidth 32) s
  | .memWrite x addr v => jtagOk 0 (debugWrite cls x addr v s)

/-- JTAG_ACCESS: what the states do not allow fails with the port's error response, and does not wake the device;
nothing on a lost IOD0 answers (R477). (DESIGN CHOICE 130; assumption log) -/
def execJtagAccess (cls : DebugClass) (op : JtagOp) (s : State) : Answer :=
  .next (if !s.fab.iod0 then s else if jtagAllowed cls op s then jtagDo cls op s else s.emit (.jtag false 0))

end Sys2Proof.Machine
end

