-- ==== Sys2Proof/Machine/ConnCommands.lean ====
section
/-! DEFINITION. The connection and Mooring commands (R272, R275 to R279, R295, R317, R525). -/

namespace Sys2Proof.Machine

def stConnUnknown : Nat := 0x0603
def stMooringUnknown : Nat := 0x0605

/-! ### CONNECT and DISCONNECT -/

/-- A reserved field of the 64 bytes that is not 0. -/
def connectReserved (b : List Byte) : Bool :=
  8 ≤ byteField b 1 1 || byteField b 11 1 != 0 || byteField b 15 1 != 0 || byteField b 19 1 != 0 || 64 ≤ byteField b 21 1 ||
    byteField b 23 1 != 0 || byteField b 52 12 != 0

/-- The values of R272 that are out of range. -/
def connectRange (b : List Byte) (s : State) : Bool :=
  let kind := byteField b 0 1
  let link := byteField b 2 1
  let alt := byteField b 3 1
  let pd := byteField b 4 2
  decide (1 < kind) || !linkInMode s link || !(alt == 0xFF || (alt != link && linkInMode s alt)) ||
    !(if kind = 1 then pd == 0 else decide (1 ≤ pd ∧ pd ≤ 1023)) || !(([1024, 2048, 4096] : List Nat).contains (byteField b 6 2)) ||
    (kind == 0 && byteField b 20 2 != 0)

/-- The offset of connection `i`'s first heartbeat, and the state after the choice: fixed under the applied STRICT, hardware
entropy within one interval otherwise (R407). (DESIGN CHOICE 179; assumption log) -/
def firstHeartbeat (i : Nat) (s : State) : Nat × State :=
  if bitOf s.applied.cfgDet 0 then (i * s.applied.tideHbInterval.toNat / 262144 * 1000, s)
  else
    let (w, a) := s.draw
    (w.toNat % s.hbInterval, a)

/-- A connection as it is made, with its first heartbeat due `hb` ns later. -/
def newConn (i hb : Nat) (b : List Byte) (s : State) : Conn where
  idx := i
  peer := byteField b 0 1 == 1
  pd := byteField b 4 2
  link := byteField b 2 1
  alt := if byteField b 3 1 = 0xFF then none else some (byteField b 3 1)
  cls := byteField b 1 1
  gid := BitVec.ofNat 128 (bytesBE ((b.drop 24).take 16))
  qpn := byteField b 8 3
  pmtu := byteField b 6 2
  hbVa := byteField b 40 8
  hbRkey := BitVec.ofNat 32 (byteField b 48 4)
  encKey := byteField b 22 1
  node := byteField b 20 2
  onAlt := false
  error := none
  sqPsn := byteField b 12 3
  sqUna := byteField b 12 3
  rqPsn := byteField b 16 3
  queue := []
  retries := 0
  rnrRetries := 0
  rnrWait := false
  count := 0
  quiet := false
  hbSeq := 0
  credits := 64
  tagFails := 0
  lastCnpSent := none
  ccRate := 65536
  ccCut := none
  ccBucket := 9236 * 8000 * 65536
  ccSince := s.mono
  ccTimer := s.mono
  tokenCredit := 0
  tokenSince := s.mono
  ackAt := s.mono
  quietAt := s.mono
  hbAt := s.mono + hb
  rxMsg := none
  rxWait := []
  vtag := 0
  resident := false
  loading := false
  timerMissed := false
  serves := []
  sampleTick := 0
  soj := List.replicate 16 0
  depth := List.replicate 16 0
  msn := 0
  copies := contextPlace i s.servingList

/-- The device QPN of a connection (R272). -/
def deviceQpn (i : Nat) : Nat := 0x100 + i

/-- SECURITY_STATE reason 9: the key slot named holds no CONN key (R272, R464). -/
def noConnKey (b : List Byte) (s : State) : Bool :=
  b.length == 64 && byteField b 22 1 != 0 && !s.sec.connKeys.any (·.1 == byteField b 22 1)

/-- CONNECT: a DLEN that is not 64 is CONN_RANGE, as a value out of range (R272). -/
def execConnect (cmd : CmdId) (data : HostData) (s : State) : Answer :=
  runDataSec cmd 0x50 data (fun _ bs => (bs.map fun b => b.length == 64 && connectReserved b).getD false)
    (fun _ bs => if (bs.map fun b => noConnKey b s).getD false then some 9 else none)
    (fun c bs t =>
      let i := c.arg 24 4
      if 262144 ≤ t.egr.conns.length then finish c 0x0601 [] t
      else if bs.length ≠ 64 ∨ 262144 ≤ i ∨ (t.conn? i).isSome ∨ connectRange bs t then finish c 0x0602 [] t
      else
        let (hb, a) := firstHeartbeat i t
        finish c stSuccess (natBytes 4 (deviceQpn i)) (a.modEgr fun e => { e with conns := e.conns ++ [newConn i hb bs t] })) s

/-- A connection is removed, in error first (R295). -/
def removeConn (i : Nat) (s : State) : State :=
  (connError i 11 s).modEgr fun e => { e with conns := e.conns.filter (·.idx != i) }

/-- DISCONNECT. (DEDUCED 106; assumption log) -/
def execDisconnect (cmd : CmdId) (s : State) : Answer :=
  runPlain cmd 0x51 (fun c t =>
    match t.conn? (c.arg 24 4) with
    | none => finish c stConnUnknown [] t
    | some k => finish c stSuccess [] (removeConn k.idx t)) s

/-! ### MOORING_CREATE, MOORING_GRANT, MOORING_REVOKE (R275 to R279) -/

/-- Bytes of the whole job address space (R276). -/
def State.spaceBytes (s : State) : Nat := 8 * s.jobSpace

/-- Fields of MOORING_CREATE out of range. (DEDUCED 105; assumption log) -/
def mooringBad (c : Cmd) (s : State) : Bool :=
  !(decide (1 ≤ c.arg 24 2 ∧ c.arg 24 2 ≤ 1023)) || !(decide (1 ≤ c.arg 26 1 ∧ c.arg 26 1 ≤ 3)) || decide (c.arg 40 8 < 64) ||
    (s.jobOpen && decide (s.spaceBytes < c.arg 32 8 + c.arg 40 8))

/-- A key's index is taken up: with the next generation of the index, 1 at first. -/
def putMooring (i pd base len rights : Nat) (s : State) : Mooring × State :=
  let m : Mooring := ⟨i, ((s.mooring? i).map (·.gen)).getD 1, pd, base, len, rights, .valid, [], false, 0⟩
  (m, s.modEgr fun e => { e with moorings := e.moorings.filter (·.idx != i) ++ [m] })

/-- MOORING_CREATE. -/
def execMooringCreate (cmd : CmdId) (s : State) : Answer :=
  runCmd cmd 0x52 (fun c => mooringBad c s) (fun _ => none) (fun c t =>
    match freeIndex t with
    | none => finish c 0x0604 [] t
    | some i =>
      let (m, a) := putMooring i (c.arg 24 2) (c.arg 32 8) (c.arg 40 8) (c.arg 26 1) t
      finish c stSuccess (leBytes 4 m.key) a) s

/-- A revocation of a Mooring that is VALID begins; with nothing in flight it is over at once. -/
def revoke (m : Mooring) (s : State) : State :=
  if m.inflight.isEmpty then setEv .egr 0x10 (freeMooring m.idx s) else beginRevoke m.idx s

/-- MOORING_GRANT: the address-space key of a PD; rights 0 disable it. -/
def execMooringGrant (cmd : CmdId) (s : State) : Answer :=
  runCmd cmd 0x54 (fun c => !(decide (1 ≤ c.arg 24 2 ∧ c.arg 24 2 ≤ 1023)) || decide (3 < c.arg 26 1)) (fun _ => none)
    (fun c t =>
      let i := spaceKey + c.arg 24 2
      let now := t.mooring? i
      if c.arg 26 1 = 0 then
        match now with
        | none => finish c stSuccess (natBytes 4 (i * 65536 + 1)) t
        | some m => finish c stSuccess (leBytes 4 m.key) (if m.state = .valid then revoke m t else t)
      else if (now.map (·.state)) = some .revoking then finish c stMooringUnknown [] t
      else if (now.map (·.state)) = some .valid then
        finish c stSuccess (leBytes 4 ((now.map (·.key)).getD 0)) (t.modMooring i fun m => { m with rights := c.arg 26 1 })
      else
        let (m, a) := putMooring i (c.arg 24 2) 0 t.spaceBytes (c.arg 26 1) t
        finish c stSuccess (leBytes 4 m.key) a) s

/-- MOORING_REVOKE: from its acceptance every new message fails; it completes when none is in flight. -/
def execMooringRevoke (cmd : CmdId) (s : State) : Answer :=
  runPlain cmd 0x53 (fun c t =>
    let key := BitVec.ofNat 32 (c.arg 24 4)
    match t.keyed key with
    | none => finish c stMooringUnknown [] t
    | some m =>
      if m.serve ∨ m.state = .free then finish c stMooringUnknown [] t
      else if m.state = .revoking then t.setRun c (.revoke key)
      else if m.inflight.isEmpty then finish c stSuccess [] (revoke m t)
      else (revoke m t).setRun c (.revoke key)) s

/-- The commands that wait for a revocation complete, and a job end that waits goes on. -/
def revoked (key : Word) (status : Nat) (s : State) : State :=
  jobEndOn (s.each (s.host.cmds.filter (·.run == .revoke key)) fun c t => finish c status [] t)

/-- REVOKE_COMPLETE (R278): no message is in flight any more. -/
def execRevokeComplete (key : Word) (s : State) : Answer :=
  match s.keyed key with
  | none => .next s
  | some m =>
    if m.state = .revoking ∧ m.inflight.isEmpty then
      .next (revoked key stSuccess (setEv .egr 0x10 (freeMooring m.idx s)))
    else .next s

/-- REVOKE_TIMEOUT (R279): the connections that still have a message in flight go into error. -/
def execRevokeTimeout (key : Word) (s : State) : Answer :=
  match s.keyed key with
  | none => .next s
  | some m =>
    if m.state = .revoking ∧ !m.inflight.isEmpty ∧ m.since + s.applied.egrRevokeMax.toNat * 1000 ≤ s.mono then
      let a := s.each m.inflight.eraseDups fun i t => connError i 7 t
      -- a serve Mooring of one of these connections went back with it
      let b := if (a.keyed key).any (·.state == .revoking) then freeMooring m.idx a else a
      .next (revoked key 0x0606 (setEv .egr 0x20 b))
    else .next s

/-! ### QUEUE_STATS (R317) -/

/-- QUEUE_STATS: the two histograms, and their clear when asked. -/
def execQueueStats (cmd : CmdId) (data : HostData) (s : State) : Answer :=
  runData cmd 0x55 data (fun _ _ => false) (fun c _ t =>
    match t.conn? (c.arg 24 4) with
    | none => finish c stConnUnknown [] t
    | some k =>
      let a := c.writeData data ((k.soj ++ k.depth).flatMap (natBytes 4)) t
      finish c stSuccess []
        (if bitOf c.entry (8 * 28) then
          a.modConn k.idx fun x => { x with soj := List.replicate 16 0, depth := List.replicate 16 0 }
        else a)) s

end Sys2Proof.Machine
end

