-- ==== Sys2Proof/Machine/StreamSetup.lean ====
section
/-! DEFINITION. The parameter records of STREAM_SETUP (R363): their form, the stream they describe, and every check of
R66, R67, R75, R146, R172, R206, R237, R283 and R284. -/

namespace Sys2Proof.Machine

/-! ### The records -/

abbrev Rec := Nat × List Byte

/-- Identifier, length and value, padded with zeros to a multiple of 4 bytes; none where they do not fill the buffer.
(DEDUCED 100; assumption log) -/
def parseRecs : Nat → List Byte → Option (List Rec)
  | _, [] => some []
  | 0, _ => none
  | n + 1, bs =>
    let len := byteField bs 2 2
    if bs.length < 4 + len ∨ ((bs.drop (4 + len)).take ((4 - len % 4) % 4)).any (· != 0) then none
    else (parseRecs n (bs.drop (4 + (len + 3) / 4 * 4))).map ((byteField bs 0 2, (bs.drop 4).take len) :: ·)

/-- The value widths of each row, in the fewest bytes that hold the row's range: EPOCHS, whose range ends with 2^32, takes 8.
(DEDUCED 100; assumption log) -/
def rowWidths : List (Nat × List Nat) :=
  [(0x101, [8]), (0x102, [1]), (0x103, [2]), (0x104, [4]), (0x105, [1]), (0x106, [8]), (0x107, [4, 8]),
   (0x201, [1]), (0x204, [2]), (0x205, [1]), (0x206, [1]), (0x207, [1]),
   (0x301, [1]), (0x302, [2, 2]), (0x303, [4, 4]), (0x304, [4]), (0x305, [1]), (0x306, [2, 2]), (0x307, [1]), (0x308, [2]),
   (0x309, [2]), (0x30A, [4, 4]), (0x30B, [2, 2, 2]), (0x30C, [1]), (0x30D, [1]), (0x30E, [1]),
   (0x30F, [2, 2, 2, 2, 4, 4, 4, 4]),
   (0x401, [1]), (0x402, [4]), (0x403, [1]), (0x404, [1]), (0x405, [1]), (0x406, [1]), (0x407, [1]), (0x408, [1]),
   (0x409, [1]), (0x40A, [1]), (0x40B, [1]), (0x40C, [4, 4]), (0x40D, [4]), (0x40E, [4]), (0x40F, [4]), (0x410, [4]),
   (0x411, [1]), (0x412, [1]),
   (0x505, [1]), (0x506, [1]), (0x507, [1]), (0x508, [4]), (0x509, [1]), (0x50A, [1]), (0x50B, [4])]

/-- A record of a known identifier whose value has the length of its row. -/
def recOk (r : Rec) : Bool :=
  match rowWidths.find? (·.1 == r.1) with
  | some w => r.2.length == w.2.sum
  | none =>
    if r.1 = 0x202 then decide (r.2.length ≤ 3)
    else if r.1 = 0x203 then decide (1 ≤ r.2.length ∧ r.2.length ≤ 16)
    else (decide (0x501 ≤ r.1 ∧ r.1 ≤ 0x504)) || (decide (0x601 ≤ r.1 ∧ r.1 ≤ 0x603))

/-- No identifier but GROUP and PEERS repeats. -/
def noRepeats : List Rec → Bool
  | [] => true
  | r :: rs => (r.1 == 0x602 || r.1 == 0x603 || !rs.any (·.1 == r.1)) && noRepeats rs

def recOf (rs : List Rec) (id : Nat) : Option (List Byte) := (rs.find? (·.1 == id)).map (·.2)

def hasRec (rs : List Rec) (id : Nat) : Bool := rs.any (·.1 == id)

/-- Value `i` of a row, or its default. -/
def recVal (rs : List Rec) (id i default : Nat) : Nat :=
  match recOf rs id, rowWidths.find? (·.1 == id) with
  | some v, some w => byteField v ((w.2.take i).sum) (w.2.getD i 0)
  | _, _ => default

/-- A parameter with one value. -/
def recOne (rs : List Rec) (id : Nat) : Nat := recVal rs id 0 0

/-! ### Delivery (R283, R284) -/

/-- One member record. -/
def memberOf (b : List Byte) : Member where
  lanes := (List.range (byteField b 0 1)).map fun i => byteField b (4 + 4 * i) 4
  d := byteField b 1 1
  slotBase := byteField b 20 8
  tokenBase := byteField b 28 8
  stride := byteField b 36 8
  slotRkey := BitVec.ofNat 32 (byteField b 44 4)
  tokenRkey := BitVec.ofNat 32 (byteField b 48 4)
  lost := false
  returns := []

/-- A member record out of range: LANES, D, a reserved field. (DEDUCED 102; assumption log) -/
def memberBad (b : List Byte) : Bool :=
  let lanes := byteField b 0 1
  !(decide (1 ≤ lanes ∧ lanes ≤ 4)) || !(decide (2 ≤ byteField b 1 1 ∧ byteField b 1 1 ≤ 64)) || byteField b 2 2 != 0 ||
    ((List.range 4).any fun i => decide (2 ^ 18 ≤ byteField b (4 + 4 * i) 4)) || byteField b 52 12 != 0

/-- The member records of a GROUP record. -/
def memberRecs (v : List Byte) : List (List Byte) := (List.range (byteField v 3 1)).map fun i => (v.drop (4 + 64 * i)).take 64

def groupOf (v : List Byte) : Group := ⟨byteField v 0 2, byteField v 2 1 == 1, (memberRecs v).map memberOf⟩

def groupBad (parts : Nat) (v : List Byte) : Bool :=
  let m := byteField v 3 1
  decide (parts ≤ byteField v 0 2 ∨ 1 < byteField v 2 1 ∨ m < 1 ∨ 64 < m ∨ v.length ≠ 4 + 64 * m) ||
    (memberRecs v).any memberBad

def groupRecs (rs : List Rec) : List (List Byte) := (rs.filter (·.1 == 0x602)).map (·.2)
def peerRecs (rs : List Rec) : List (List Byte) := (rs.filter (·.1 == 0x603)).map (·.2)

def peersOf (v : List Byte) : Nat × List Nat := (byteField v 0 2, wordsOf (v.drop 4) (byteField v 2 2))

/-- (DEDUCED 102; assumption log) -/
def peersBad (parts : Nat) (v : List Byte) : Bool :=
  decide (parts ≤ byteField v 0 2 ∨ v.length ≠ 4 + 4 * byteField v 2 2) || (peersOf v).2.any (decide <| 2 ^ 18 ≤ ·)

def distinct (l : List Nat) : Bool := l.eraseDups.length == l.length

/-- The rank groups a setup must describe. -/
def groupsNeeded (order : Nat) (p : Partition) : List Nat := if order = 1 then List.range p.parts else [p.p]

/-! ### The stream -/

/-- The tensors of a class, and their number formats. -/
def tensorCount (cls posOut : Nat) : Nat := if cls = 4 then 2 + posOut else 1

def tensorAt (rs : List Rec) (i : Nat) : TensorFmt :=
  let v (id default : Nat) : Nat := ((recOf rs id).map fun b => byteField b i 1).getD default
  ⟨v 0x501 0, v 0x502 0, v 0x503 0, v 0x504 1⟩

def decOf (rs : List Rec) : DecodeParams where
  format := recOne rs 0x201
  wrap := ((recOf rs 0x202).getD []).map (·.toNat)
  member := (recOf rs 0x203).getD []
  clipLen := recOne rs 0x204
  clipStride := recOne rs 0x205
  videoDe := recOne rs 0x206
  grain := recOne rs 0x207

def xfOf (rs : List Rec) : XfParams where
  crop := recOne rs 0x301
  cropW := recVal rs 0x302 0 0
  cropH := recVal rs 0x302 1 0
  scaleMin := recVal rs 0x303 0 0
  scaleMax := recVal rs 0x303 1 0
  aspectMax := recOne rs 0x304
  kernel := recOne rs 0x305
  outW := recVal rs 0x306 0 0
  outH := recVal rs 0x306 1 0
  qrot := recOne rs 0x307
  rotMax := recOne rs 0x308
  fill := recOne rs 0x309
  flipH := recVal rs 0x30A 0 0
  flipV := recVal rs 0x30A 1 0
  jitB := recVal rs 0x30B 0 0
  jitC := recVal rs 0x30B 1 0
  jitS := recVal rs 0x30B 2 0
  luma := recOne rs 0x30C
  vmatrix := recOne rs 0x30D
  alpha := recOne rs 0x30E
  mean := (List.range 4).map fun i => recVal rs 0x30F i 0
  gain := (List.range 4).map fun i => recVal rs 0x30F (4 + i) 0

def txtOf (rs : List Rec) : TextParams where
  mode := recOne rs 0x401
  byteBase := recOne rs 0x402
  vocab := recOne rs 0x403
  norm := recOne rs 0x404
  form := recOne rs 0x405
  fold := recOne rs 0x406
  ws := recOne rs 0x407
  trim := recOne rs 0x408
  invalid := recOne rs 0x409
  digitGroup := recOne rs 0x40A
  grammar := recOne rs 0x40B
  bos := recVal rs 0x40C 0 noToken
  eos := recVal rs 0x40C 1 noToken
  pad := recOne rs 0x40D
  sampleMax := recOne rs 0x40E
  rowLen := recOne rs 0x40F
  rows := recOne rs 0x410
  packMode := recOne rs 0x411
  posOut := recOne rs 0x412

/-- A signed byte. -/
def signed8 (v : Nat) : Int := if v < 128 then v else (v : Int) - 256

def packOf (rs : List Rec) (cls : Nat) : PackParams where
  tensors := (List.range (tensorCount cls (recOne rs 0x412))).map (tensorAt rs)
  packExp := signed8 (recOne rs 0x505)
  layout := recOne rs 0x506
  packC := recOne rs 0x507
  audioLen := recOne rs 0x508
  audioPos := recOne rs 0x509
  audioCh := recOne rs 0x50A
  audioRate := recOne rs 0x50B

/-- The position of the cursor START (R75). (DEDUCED 100; assumption log) -/
def startPosition (rs : List Rec) (epoch : Nat) : Nat := recVal rs 0x107 0 0 * epoch + recVal rs 0x107 1 0

/-- The stream that the records describe, on one partition. (DEDUCED 100; assumption log) -/
def streamOf (num : Nat) (rs : List Rec) (p : Partition) : Stream :=
  let b := recOne rs 0x104
  let pad := recOne rs 0x105 == 1
  let first := startPosition rs (epochLen pad p.n p.parts) / max 1 b
  { num := num
    dataset := p.dataset
    dsSlot := p.dsSlot
    cls := p.cls
    order := recOne rs 0x102
    salt := recOne rs 0x103
    b := b
    tailPad := pad
    epochs := if recOne rs 0x106 = 0 then 2 ^ 32 else recOne rs 0x106
    dec := decOf rs
    xf := xfOf rs
    txt := txtOf rs
    pack := packOf rs p.cls
    partTable := (List.range p.parts).map fun i => byteField ((recOf rs 0x601).getD []) (2 * i) 2
    groups := (groupRecs rs).map groupOf
    peers := (peerRecs rs).map peersOf
    state := .stopped
    next := first
    b0 := first
    issued := none
    dlSteps := [] }

/-! ### INVALID_FIELD -/

/-- The records a class cannot do without: the spec states no default, so every parameter of the class is one, but for those
that a row of its table ties to another parameter's value. (DEDUCED 100, DESIGN CHOICE 187; assumption log) -/
def needed (rs : List Rec) (cls : Nat) : List Nat :=
  let crop := recOne rs 0x301
  let some_ (id : Nat) (fmts : List Nat) : Bool := ((recOf rs id).getD []).any fun b => fmts.contains b.toNat
  let dec := [0x201, 0x202] ++ if ((recOf rs 0x202).getD []).contains 2 then [0x203] else []
  let xf := [0x301, 0x305, 0x306, 0x307, 0x308, 0x309, 0x30A, 0x30B, 0x30C, 0x30E, 0x30F] ++
    (if crop = 1 ∨ crop = 2 then [0x302] else []) ++ (if crop = 3 then [0x303, 0x304] else [])
  let data := [0x505] ++ if cls = 3 then [] else [0x506, 0x507]
  [0x101, 0x102, 0x103, 0x104, 0x105, 0x106, 0x107, 0x501, 0x503, 0x601] ++ (if some_ 0x501 [8, 9] then [0x502] else []) ++
    (if some_ 0x501 [3, 4] then [0x504] else []) ++
    match cls with
    | 1 => dec ++ xf ++ data
    | 2 => dec ++ [0x204, 0x205, 0x206, 0x207] ++ xf ++ [0x30D] ++ data
    | 3 => dec ++ data ++ [0x508, 0x509, 0x50A, 0x50B]
    | _ => [0x401, 0x404, 0x405, 0x406, 0x407, 0x408, 0x409, 0x40A, 0x40B, 0x40C, 0x40D, 0x40E, 0x40F, 0x410, 0x411, 0x412] ++
        if recOne rs 0x401 = 1 then [0x403] else [0x402]

/-- Parameters of R66 and R146 out of range. (DEDUCED 100; assumption log) -/
def orderBad (t : Stream) (rs : List Rec) : Bool :=
  decide (2 < t.order ∨ 1 < recOne rs 0x105) ||
    (t.cls != 4 && (decide (8 < t.dec.format) || t.dec.wrap.any (decide <| 6 < ·) || decide (1 < t.dec.grain))) ||
    (t.cls != 4 && ((hasRec rs 0x204 && !(decide (1 ≤ t.dec.clipLen ∧ t.dec.clipLen ≤ 256))) ||
      (hasRec rs 0x205 && !(decide (1 ≤ t.dec.clipStride ∧ t.dec.clipStride ≤ 16))) ||
      (hasRec rs 0x206 && !(t.dec.videoDe == 2 || t.dec.videoDe == 4))))

/-- A per-tensor record has one value for each tensor. -/
def tensorRecsOk (rs : List Rec) (t : Stream) : Bool :=
  [0x501, 0x502, 0x503, 0x504].all fun id => ((recOf rs id).map fun v => v.length == t.pack.tensors.length).getD true

/-- What R363, R283 and R284 fail with INVALID_FIELD, once the partition is known. -/
def setupBad (rs : List Rec) (t : Stream) (p : Partition) : Bool :=
  !(needed rs t.cls).all (hasRec rs) || orderBad t rs || !tensorRecsOk rs t ||
    ((recOf rs 0x601).map fun v => v.length != 2 * p.parts).getD true || t.partTable.any (decide <| 2 ^ 14 ≤ ·) ||
    (groupRecs rs).any (groupBad p.parts) || !distinct (t.groups.map (·.group)) ||
    (peerRecs rs).any (peersBad p.parts) || !distinct (t.peers.map (·.1)) ||
    !((groupsNeeded t.order p).all fun g => t.groups.any (·.group == g)) ||
    t.groups.any fun g => g.members.any fun m => m.stride % 64 != 0 || decide (m.stride < t.regionSize)

/-! ### The statuses of the parameters -/

/-- TRANSFORM_RANGE (R172). -/
def xfBad (t : Stream) : Bool :=
  let x := t.xf
  decide (3 < x.crop ∨ 4 < x.kernel ∨ 4 < x.qrot ∨ 2880 < x.rotMax ∨ 65536 < x.flipH ∨ 65536 < x.flipV ∨ 2 < x.luma ∨
      2 < x.vmatrix ∨ 1 < x.alpha) ||
    !(decide (1 ≤ x.outW ∧ x.outW ≤ 8192 ∧ 1 ≤ x.outH ∧ x.outH ≤ 8192)) || x.gain.any (· == 0) ||
    ((x.crop == 1 || x.crop == 2 || x.cropW != 0 || x.cropH != 0) &&
      !(decide (1 ≤ x.cropW ∧ x.cropW ≤ 32768 ∧ 1 ≤ x.cropH ∧ x.cropH ≤ 32768))) ||
    ((x.crop == 3 || x.scaleMin != 0 || x.scaleMax != 0) &&
      !(decide (1 ≤ x.scaleMin ∧ x.scaleMin ≤ x.scaleMax ∧ x.scaleMax ≤ 65536))) ||
    ((x.crop == 3 || x.aspectMax != 0) && !(decide (65536 ≤ x.aspectMax ∧ x.aspectMax ≤ 262144))) ||
    (x.kernel == 0 && !((x.crop == 1 || x.crop == 2) && x.cropW == x.outW && x.cropH == x.outH && (x.qrot == 0 || x.qrot == 2))) ||
    decide (2 ^ 30 < 32 + x.outW * x.outH * (if t.cls = 2 then t.dec.clipLen else 1) * t.pack.packC * 4)

/-- A value given as 0 for a transform parameter whose range starts at 1 (R172), whether or not the crop mode uses it.
(DEDUCED 100; assumption log) -/
def xfGivenBad (rs : List Rec) (t : Stream) : Bool :=
  (hasRec rs 0x302 && (t.xf.cropW == 0 || t.xf.cropH == 0)) || (hasRec rs 0x303 && t.xf.scaleMin == 0) ||
    (hasRec rs 0x304 && t.xf.aspectMax == 0)

/-- The greatest value of an integer format. -/
def intMax (fmt : Nat) : Option Nat := [(12, 2 ^ 31 - 1), (13, 2 ^ 15 - 1), (14, 2 ^ 7 - 1), (15, 2 ^ 8 - 1)].lookup fmt

/-- The bound below which every token of a stream lies: V, or BYTE_BASE + 256. -/
def tokenTop (p : TextParams) (s : State) : Nat :=
  if p.mode = 0 then p.byteBase + 256
  else
    match s.table? p.vocab with
    | some (.vocab _ strings _ _) => strings.length
    | _ => 0

/-- The tokens placed around samples and in unfilled places. -/
def specialTokens (p : TextParams) : List Nat := [p.bos, p.eos].filter (· != noToken) ++ [p.pad]

/-- The capacity condition of R227. -/
def textFits (t : Stream) : Bool :=
  let p := t.txt
  match p.packMode with
  | 0 => p.rows == t.b
  | 1 => decide (t.b * p.sampleMax ≤ p.rows * p.rowLen)
  | _ => decide (min t.b ((2 * t.b * p.sampleMax + p.rowLen - 1) / max 1 p.rowLen) ≤ p.rows)

/-- A table of one kind is loaded. -/
def tableIs (id kind : Nat) (s : State) : Bool := ((s.table? id).map (·.kind == kind)).getD false

/-- TEXT_RANGE (R206, R225). -/
def textBad (t : Stream) (s : State) : Bool :=
  let p := t.txt
  let range := decide (p.mode ≤ 1 ∧ p.byteBase ≤ 1048320 ∧ p.form ≤ 2 ∧ p.fold ≤ 1 ∧ p.ws ≤ 2 ∧ p.trim ≤ 1 ∧ p.invalid ≤ 1 ∧
    p.digitGroup ≤ 3 ∧ p.pad ≤ 1048575 ∧ (p.bos ≤ 1048575 ∨ p.bos = noToken) ∧ (p.eos ≤ 1048575 ∨ p.eos = noToken) ∧
    1 ≤ p.rowLen ∧ p.rowLen ≤ 1048576 ∧ 1 ≤ p.sampleMax ∧ p.sampleMax ≤ p.rowLen ∧ 1 ≤ p.rows ∧ p.rows ≤ 65536 ∧
    p.packMode ≤ 2 ∧ p.posOut ≤ 1)
  let fallback := match s.table? p.vocab with
    | some (.vocab _ _ _ f) => f.isSome
    | _ => false
  let top := tokenTop p s
  let specials := specialTokens p
  !range || (p.mode == 1 && !tableIs p.vocab 2 s) || (p.norm != 0 && !tableIs p.norm 1 s) ||
    (p.grammar != 0 && !tableIs p.grammar 3 s) ||
    (p.norm == 0 && (p.form != 0 || p.fold != 0 || p.ws != 0 || p.trim != 0)) ||
    (p.mode == 1 && p.invalid == 1 && !fallback) || specials.any (decide <| top ≤ ·) ||
    decide (p.sampleMax < tokenSet p.bos + tokenSet p.eos) || !textFits t ||
    (((t.pack.tensors.head?).bind fun f => intMax f.fmt).map fun m => decide (m < specials.foldl max (top - 1))).getD false

/-- A tensor's own parameters out of range (R235, R237). -/
def tensorBad (f : TensorFmt) : Bool :=
  decide (16 < f.fmt ∨ 1 < f.mxElem ∨ 2 < f.round ∨ 1 < f.sat) || (f.mxElem != 0 && !(f.fmt == 8 || f.fmt == 9)) ||
    (f.sat == 0 && !(f.fmt == 3 || f.fmt == 4))

/-- The format of a text tensor cannot hold a value. -/
def cannotHold (t : Stream) (i v : Nat) : Bool :=
  match t.pack.tensors[i]? with
  | none => false
  | some f => ((intMax f.fmt).map fun m => decide (m < v)).getD true

/-- PACK_RANGE (R237). -/
def packBad (t : Stream) : Bool :=
  let p := t.pack
  let share := p.tensors.any fun f => let (e, m) := shareBytes f.fmt t.dataElems; decide (2 ^ 30 < e + m)
  p.tensors.any tensorBad || decide (2 ^ 36 < t.regionSize) ||
    match t.cls with
    | 4 => p.tensors.any (fun f => (intMax f.fmt).isNone || f.round != 0) || cannotHold t 1 t.txt.rowLen ||
        cannotHold t 2 (t.txt.sampleMax - 1)
    | 3 => share || decide (p.packExp < -64 ∨ 63 < p.packExp) || !(decide (1 ≤ p.audioLen ∧ p.audioLen ≤ 2 ^ 26)) ||
        decide (1 < p.audioPos) || !(decide (1 ≤ p.audioCh ∧ p.audioCh ≤ 8)) ||
        !(p.audioRate == 0 || decide (8000 ≤ p.audioRate ∧ p.audioRate ≤ 192000))
    | _ => share || decide (p.packExp < -64 ∨ 63 < p.packExp) || decide (1 < p.layout) || !(decide (1 ≤ p.packC ∧ p.packC ≤ 4))

/-- What a setup fails with, in the order of the rules. (DEDUCED 100; assumption log) -/
def streamStatus (rs : List Rec) (t : Stream) (p : Partition) (s : State) : Option Nat :=
  let g := startPosition rs (t.epochLen p)
  if !p.sealed then some 0x0209
  else if t.b < 1 ∨ 65536 < t.b then some 0x0302
  else if 2 ^ 32 < t.epochs then some 0x0303
  else if t.epochLen p = 0 then some 0x0304
  else if g % t.b ≠ 0 then some 0x0305
  else if t.total p ≤ g then some 0x0306
  else if (t.cls = 1 ∨ t.cls = 2) ∧ (xfBad t || xfGivenBad rs t) then some 0x030A
  else if t.cls = 4 ∧ (textBad t s || (hasRec rs 0x403 && t.txt.vocab == 0)) then some 0x030B
  else if packBad t then some 0x030C
  else none

end Sys2Proof.Machine
end

