-- ==== Sys2Proof/Machine/StreamCommands.lean ====
section
/-! DEFINITION. The stream and text-table commands (R75, R207, R230, R363, R364). -/

namespace Sys2Proof.Machine

def stStreamUnknown : Nat := 0x0309

/-! ### STREAM_SETUP -/

/-- The partition of a dataset that a stream serves: the lowest p that the device holds.
(DEDUCED 101; assumption log) -/
def servedPart (dataset : Dword) (s : State) : Option Partition := leastBy (·.p) (s.media.partitions.filter (·.dataset == dataset))

/-- The records of a setup, with the partition they name. (DEDUCED 101; assumption log) -/
def setupPart (rs : List Rec) (s : State) : Option Partition := servedPart (BitVec.ofNat 64 (recOne rs 0x101)) s

/-- INVALID_FIELD of a setup: the records' own form, a number above 63 or in use while the table has room, and what depends
on the partition. (DEDUCED 100; assumption log) -/
def setupFieldBad (num : Nat) (bs : List Byte) (s : State) : Bool :=
  match parseRecs bs.length bs with
  | none => true
  | some rs =>
    !rs.all recOk || !noRepeats rs || !hasRec rs 0x101 || decide (63 < num) ||
      ((s.stream? num).isSome && decide (s.run.streams.length < 64)) ||
      match setupPart rs s with
      | none => false
      | some p => setupBad rs (streamOf num rs p) p

/-- A new stream. The vocabulary caches are warmed for it where `CFG_TXT.WARM_EN` is 1 (R218). -/
def addStream (t : Stream) (s : State) : State :=
  let merges := match s.table? t.txt.vocab with
    | some (.vocab _ _ ms _) => ms.length
    | _ => 0
  (s.modRun fun r => { r with streams := r.streams ++ [t] }).onlyIf
    (t.cls == 4 && t.txt.mode == 1 && bitOf s.applied.cfgTxt 0)
    (·.modFab fun f => { f with spds := f.spds.map fun d =>
      if d.serving then { d with vocab := warmVocab t.txt.vocab merges d.vocab } else d })

/-- STREAM_SETUP: a stream beyond the 64 of a job finds the table full (R65). -/
def execStreamSetup (cmd : CmdId) (data : HostData) (s : State) : Answer :=
  let recs (bs : List Byte) : List Rec := (parseRecs bs.length bs).getD []
  runDataSec cmd 0x30 data (fun c bs => (bs.map fun b => setupFieldBad (c.arg 24 1) b s).getD false)
    (fun _ bs => keyReason (bs.bind fun b => setupPart (recs b) s) s)
    (fun c bs t =>
      let rs := recs bs
      match setupPart rs t with
      | none => finish c stUnknown [] t
      | some p =>
        let st := streamOf (c.arg 24 1) rs p
        if 64 ≤ t.run.streams.length then finish c 0x0301 [] t
        else
          match streamStatus rs st p t with
          | some e => finish c e [] t
          | none => finish c stSuccess [] (loseDead st.num (addStream st t))) s

/-! ### STREAM_START, STREAM_STOP, SEEK, STREAM_STATUS (R75, R130, R364) -/

/-- A command of one stream that exists. -/
def onStream (f : Cmd → Stream → State → State) (c : Cmd) (s : State) : State :=
  match s.stream? (c.arg 24 1) with
  | none => finish c stStreamUnknown [] s
  | some t => f c t s

/-- STREAM_START: issue begins from the cursor, with the issue pointer just before it; a stream with no batch left to form
has ended (R68). (DEDUCED 147; assumption log) -/
def execStreamStart (cmd : CmdId) (s : State) : Answer :=
  runPlain cmd 0x31 (onStream fun c t u =>
    match t.state with
    | .ended => finish c 0x0308 [] u
    | .running => finish c stSuccess [] u
    | .stopped =>
      let e := endIfDone t.num u
      if ((e.stream? t.num).map (·.state)) = some .ended then finish c 0x0308 [] e
      else
        finish c stSuccess [] (dueKeys t.dsSlot (fun _ => true) (u.modStream t.num fun x =>
          { x with state := .running, issued := some ((x.next * x.b : Nat) - 1 : Int) }))) s

/-- No request and no unreleased batch of the stream is in flight. (DEDUCED 37; assumption log) -/
def streamIdle (n : Nat) (s : State) : Bool :=
  !(s.run.batches.any (·.stream == n)) && !(s.run.requests.any fun r => (r.key.stream : Nat) == n)

/-- STREAM_STOP: no further batch is formed; it completes when nothing of the stream is in flight.
(DEDUCED 37; assumption log) -/
def execStreamStop (cmd : CmdId) (s : State) : Answer :=
  runPlain cmd 0x32 (onStream fun c t u =>
    let a := if t.state = .running then
        dueKeys t.dsSlot (fun _ => true) (u.modStream t.num fun x => { x with state := .stopped, issued := none })
      else u
    if streamIdle t.num a then finish c stSuccess [] a else a.setRun c (.streamStop t.num)) s

/-- STREAM_STOP_COMPLETE: the stream has run out, and a job end that waits goes on. (DEDUCED 37; assumption log) -/
def execStreamStopComplete (cmd : CmdId) (s : State) : Answer :=
  match s.cmd? cmd fun c => match c.run with | .streamStop _ => true | _ => false with
  | none => .next s
  | some c =>
    match c.run with
    | .streamStop n => if streamIdle n s then .next (jobEndOn (finish c stSuccess [] s)) else .next s
    | _ => .next s

/-- SEEK: the next batch is set, and members lost are taken up again (R291). -/
def execSeek (cmd : CmdId) (s : State) : Answer :=
  runPlain cmd 0x33 (onStream fun c t u =>
    match u.partFor t with
    | none => finish c stUnknown [] u
    | some p =>
      let g := c.arg 32 4 * t.epochLen p + c.arg 40 8
      if g % t.b ≠ 0 then finish c 0x0305 [] u
      else if t.total p ≤ g then finish c 0x0306 [] u
      else if t.state = .running ∨ !streamIdle t.num u then finish c 0x0307 [] u
      else
        finish c stSuccess [] (staleKeys t.dsSlot (loseDead t.num <| u.modStream t.num fun x =>
          { x with state := .stopped, next := g / t.b, b0 := g / t.b
                   groups := x.groups.map fun q =>
                    { q with members := q.members.map fun m => { m with lost := false, returns := [] } } }))) s

/-- STATE of STREAM_STATUS. -/
def RunState.code : RunState → Nat
  | .stopped => 0
  | .running => 1
  | .ended => 2

/-- STREAM_STATUS. -/
def execStreamStatus (cmd : CmdId) (s : State) : Answer :=
  runPlain cmd 0x34 (onStream fun c t u =>
    let epoch := ((u.partFor t).map fun p => t.batchEpoch p t.next).getD 0
    finish c stSuccess (natBytes 8 t.next ++ natBytes 4 epoch ++ natBytes 1 t.state.code) u) s

/-! ### TABLE_LOAD (R207, R218) -/

/-- A stream uses a text table. -/
def usesTable (id : Nat) (t : Stream) : Bool :=
  t.cls == 4 && ((t.txt.mode == 1 && t.txt.vocab == id) || t.txt.norm == id || t.txt.grammar == id)

/-- What a load fails with. -/
def loadStatus (x : TextTable) (s : State) : Option Nat :=
  let rest := s.run.tables.filter (·.id != x.id)
  if s.run.streams.any (usesTable x.id) then some 0x0307
  else if ((s.run.job.map (·.textSpace)).getD 0) < (rest.map (·.charge)).sum + x.charge then some 0x0502
  else none

/-- A table takes its place; the vocabulary caches empty when a vocabulary comes or goes.
(DEDUCED 38; assumption log) -/
def placeTable (x : TextTable) (s : State) : State :=
  let vocab := (x :: s.run.tables.filter (·.id == x.id)).any fun y => y.body.kind == 2
  let a := s.modRun fun r => { r with tables := x :: r.tables.filter (·.id != x.id) }
  if vocab then a.modFab fun f => { f with spds := f.spds.map fun d => { d with vocab := [] } } else a

/-- TABLE_LOAD. -/
def execTableLoad (cmd : CmdId) (data : HostData) (s : State) : Answer :=
  runData cmd 0x40 data (fun _ _ => false) (fun c bs t =>
    match parseTable bs with
    | none => finish c 0x0501 [] t
    | some x =>
      match loadStatus x t with
      | some st => finish c st [] t
      | none => finish c stSuccess [] (placeTable x t)) s

/-! ### DETOKENISE (R230) -/

/-- DETOKENISE: the bytes go where the tokens came from, as many as fit. (DEDUCED 104; assumption log) -/
def execDetokenise (cmd : CmdId) (data : HostData) (s : State) : Answer :=
  let notText (c : Cmd) : Bool := ((s.stream? (c.arg 24 1)).map fun t => t.cls != 4).getD false
  runData cmd 0x41 data (fun c _ => decide (c.dlen < 4 * c.arg 28 4) || notText c) (fun c bs t => onStream (fun c st t =>
    let out := (wordsOf bs (c.arg 28 4)).map (detokenise1 t st.txt)
    match out.findIdx? Option.isNone with
    | some i => finish c stInvalidField (natBytes 8 0 ++ natBytes 4 i) t
    | none =>
      let bytes := (out.flatMap fun o => o.getD []).take c.dlen
      finish c stSuccess (natBytes 8 bytes.length) (c.writeData data bytes t)) c t) s

end Sys2Proof.Machine
end

