-- ==== Sys2Proof/Machine/Thermal.lean ====
section
/-! DEFINITION. Thermal control (R445 to R449): the readings and their thresholds, the thermal point, THERM_N and the trip. -/

namespace Sys2Proof.Machine

/-! ### Readings and thresholds (R445 to R448) -/

/-- `PWR_THERM.THERM_C`; values above 105 act as 105. -/
def State.thermC (s : State) : Int := min 105 (fieldOf s.applied.pwrTherm 8 8)

/-- `PWR_THERM.THROTTLE_C`; at or above THERM_C it acts as THERM_C − 1 (R446). -/
def State.throttleC (s : State) : Int :=
  let t : Int := fieldOf s.applied.pwrTherm 0 8
  if s.thermC ≤ t then s.thermC - 1 else t

/-- The die of a sensor has power and is in service; in Dawn every die is still coming up. A stack is read through its
SPD, whose isolation makes both invalid (R441). (DEDUCED 112; assumption log) -/
def sensorOn (s : State) (i : Nat) : Bool :=
  let spd (n : Nat) : Bool := !s.clamped n && (s.pwr.state == .dawn || s.serving n)
  if i < 64 then spd (i / 8)
  else if i < 72 then s.dieUp (8 + (i - 64) / 4) || (s.pwr.state == .dawn)
  else if i < 80 then s.dieUp (10 + (i - 72) / 4) || (s.pwr.state == .dawn)
  else spd ((i - 80) / 3)

/-- The valid readings, numbered. (DEDUCED 112; assumption log) -/
def validReadings (s : State) (rs : Sensors) : List (Nat × Int) :=
  (rs.take 104).zipIdx.filterMap fun (r, i) => if sensorOn s i then r.map fun t => (i, t) else none

/-- The greatest reading, the lowest sensor of equals. -/
def hottest (l : List (Nat × Int)) : Option (Nat × Int) :=
  l.foldl (fun best x => match best with
    | none => some x
    | some b => if b.2 < x.2 then some x else some b) none

/-- Readings at which the thermal point moves slower: a junction at THROTTLE_C, a stack at 85 °C (R446, R448). -/
def isHot (s : State) (l : List (Nat × Int)) : Bool := l.any fun (i, t) => if i < 80 then decide (s.throttleC ≤ t) else decide (85 ≤ t)

/-- Every junction below THROTTLE_C − 5 °C, every stack below 80 °C. -/
def isCool (s : State) (l : List (Nat × Int)) : Bool :=
  l.all fun (i, t) => if i < 80 then decide (t < s.throttleC - 5) else decide (t < 80)

/-- Sensors at THERM_C, stacks at 95 °C (R447, R448). -/
def critical (s : State) (l : List (Nat × Int)) : List (Nat × Int) :=
  l.filter fun (i, t) => if i < 80 then decide (s.thermC ≤ t) else decide (95 ≤ t)

/-- Every junction below THERM_C − 5 °C, every stack below 90 °C. -/
def released (s : State) (l : List (Nat × Int)) : Bool :=
  l.all fun (i, t) => if i < 80 then decide (t < s.thermC - 5) else decide (t < 90)

/-- A move of the thermal point by one, from OP0 to OP3, with what follows for the operating point (R429, R446). -/
def moveThermal (slower : Bool) (s : State) : State :=
  opRetarget (s.modPwr fun p => { p with thermal := if slower then min 3 (p.thermal + 1) else p.thermal - 1 })

/-- THERM_N is asserted: the thermal point is OP3 (R447). -/
def assertTherm (sensor : Nat) (s : State) : State :=
  if s.pwr.therm then s
  else raiseReason 0x0A 0 sensor (setEv .pwr 0x20 (opRetarget (s.modPwr fun p => { p with therm := true, thermal := 3 })))

/-- THERM_N is released (R447). -/
def releaseTherm (s : State) : State :=
  if s.pwr.therm then clearReason 0x0A 0 (s.modPwr fun p => { p with therm := false }) else s

/-- Thresholds and release points at or below a temperature: of the junctions, and of a stack (R446 to R448). -/
def junctionZone (s : State) (t : Int) : Nat := ([s.throttleC - 5, s.throttleC, s.thermC - 5, s.thermC].filter fun x => decide (x ≤ t)).length
def stackZone (t : Int) : Nat := (([80, 85, 90, 95] : List Int).filter fun x => decide (x ≤ t)).length

/-- The zones of a sample: of the hottest junction, then of each stack; one without a valid reading keeps its own. -/
def sampleZones (l : List (Nat × Int)) (s : State) : List Nat :=
  (((hottest (l.filter fun x => decide (x.1 < 80))).map fun x => junctionZone s x.2).getD (s.pwr.zones.getD 0 0)) ::
    (List.range 24).map fun i => ((l.find? (·.1 == 80 + i)).map fun x => stackZone x.2).getD (s.pwr.zones.getD (i + 1) 0)

/-- The temperature register and the time stamps of the throttle timers. (DEDUCED 112; assumption log) -/
def recordSample (l : List (Nat × Int)) (s : State) : State :=
  let hot := isHot s l
  let cool := isCool s l
  s.modPwr fun p =>
    let (n, t) := (hottest (l.filter fun x => decide (x.1 < 80))).getD (p.hotSensor, p.hot)
    { p with
      hot := t, hotSensor := n, crit := !(critical s l).isEmpty
      hotSince := if hot then some (p.hotSince.getD s.mono) else none
      coolSince := if cool then some (p.coolSince.getD s.mono) else none
      zones := sampleZones l s
      crossed := (List.range 25).any fun i => (sampleZones l s).getD i 0 != p.zones.getD i 0 }

/-- THROTTLE_STEP (R446): one point slower every 10 ms while hot, one faster every 100 ms while cool.
(DEDUCED 113; assumption log) -/
def execThrottleStep (s : State) : Answer :=
  let due (since : Option Nat) (ms : Nat) : Bool := (since.map fun t => decide (t + ms * 1000000 ≤ s.mono)).getD false
  if due s.pwr.hotSince 10 then .next (moveThermal true (s.modPwr fun p => { p with hotSince := some s.mono }))
  else if due s.pwr.coolSince 100 && !s.pwr.therm then
    .next (moveThermal false (s.modPwr fun p => { p with coolSince := some s.mono }))
  else .next s

/-! ### The trip comparator (R449) -/

/-- A junction at 115 °C, or a stack at 105 °C. -/
def tripsAt (l : List (Nat × Int)) : Bool := l.any fun (i, t) => if i < 80 then decide (115 ≤ t) else decide (105 ≤ t)

/-- The comparator trips: the core rails open. -/
def thermalTrip (s : State) : State :=
  let b := tripReason (s.modHlth fun h => { h with trips := windowed weekNs s.aon.clock h.trips ++ [s.aon.clock] })
  causeBit 2 (resetCore (b.modPwr fun p => { p with off := true, tripped := true }))

/-- THERMAL_TRIP (R449): what the comparators read; below their thresholds nothing happens.
(DEDUCED 121; assumption log) -/
def execThermalTrip (readings : Sensors) (s : State) : Answer :=
  if s.pwr.off ∨ !tripsAt (validReadings s readings) then .next s else .next (thermalTrip s)

/-- TRIP_COOLED (R449): every valid reading is below 90 °C. (DEDUCED 117; assumption log) -/
def execTripCooled (readings : Sensors) (s : State) : Answer :=
  if s.pwr.tripped ∧ readings.all fun r => (r.map fun t => decide (t < 90)).getD true then
    .next (startIfGood (s.modPwr fun p => { p with tripped := false }))
  else .next s

/-! ### The sample (R445 to R449) -/

/-- THERMAL_SAMPLE (R445 to R449): a crossing is a wake, and at the trip thresholds the comparator acts; the first hot sample
moves the thermal point at once. (DEDUCED 112, DEDUCED 121; assumption log) -/
def execThermalSample (readings : Sensors) (s : State) : Answer :=
  if s.pwr.off then .next s
  else
    let l := validReadings s readings
    let a := recordSample l s
    let b := a.onlyIf a.pwr.crossed (wake 4 true)
    let c := if s.pwr.hotSince.isNone && b.pwr.hotSince.isSome then moveThermal true b else b
    if tripsAt l then .next (thermalTrip c)
    else
      match (critical s l).head? with
      | some x => .next (assertTherm x.1 c)
      | none => .next (if released s l then releaseTherm c else c)

end Sys2Proof.Machine
end

