-- ==== Sys2Proof/Machine/Dispatch.lean ====
section
/-! DEFINITION. The dispatch: one arm per command of the table. -/

namespace Sys2Proof.Machine

/-- The effect of one command on everything but the queue. -/
def exec (i : Instr) (s : State) : Host.Outcome State Fault Refusal :=
  match i with
  | .slipwayFlitRx edge fromLow kind crcOk => Sys2Proof.Machine.execSlipwayFlitRx edge fromLow kind crcOk s
  | .idleFlitTimer edge fromLow => Sys2Proof.Machine.execIdleFlitTimer edge fromLow s
  | .edgeSilenceTimeout edges => Sys2Proof.Machine.execEdgeSilenceTimeout edges s
  | .homeMapApply => Sys2Proof.Machine.execHomeMapApply s
  | .requestIssue req => Sys2Proof.Machine.execRequestIssue req s
  | .latestStartReached req stage => Sys2Proof.Machine.execLatestStartReached req stage s
  | .ptpSyncRx port msg => Sys2Proof.Machine.execPtpSyncRx port msg s
  | .timeSourceLost => Sys2Proof.Machine.execTimeSourceLost s
  | .ptpFailback => Sys2Proof.Machine.execPtpFailback s
  | .ppsEdge captured => Sys2Proof.Machine.execPpsEdge captured s
  | .stepMarkDatagram d => Sys2Proof.Machine.execStepMarkDatagram d s
  | .syncInEdge captured rising => Sys2Proof.Machine.execSyncInEdge captured rising s
  | .markPairWindowExpiry => Sys2Proof.Machine.execMarkPairWindowExpiry s
  | .deadlineRecomputeDone => Sys2Proof.Machine.execDeadlineRecomputeDone s
  | .stepLost => Sys2Proof.Machine.execStepLost s
  | .stepBoundaryApply => Sys2Proof.Machine.execStepBoundaryApply s
  | .tideSnap owner => Sys2Proof.Machine.execTideSnap owner s
  | .tideCancel owner => Sys2Proof.Machine.execTideCancel owner s
  | .tideArm owner => Sys2Proof.Machine.execTideArm owner s
  | .tideRestartEst owner => Sys2Proof.Machine.execTideRestartEst owner s
  | .barrierReady => Sys2Proof.Machine.execBarrierReady s
  | .heartbeatSend conn => Sys2Proof.Machine.execHeartbeatSend conn s
  | .permPositionAdmit req spd plan => Sys2Proof.Machine.execPermPositionAdmit req spd plan s
  | .permPassDone req agree => Sys2Proof.Machine.execPermPassDone req agree s
  | .defectEntryDurable dsSlot index global => Sys2Proof.Machine.execDefectEntryDurable dsSlot index global s
  | .peerRoundRetry req => Sys2Proof.Machine.execPeerRoundRetry req s
  | .peerReadGiveUp req => Sys2Proof.Machine.execPeerReadGiveUp req s
  | .flashTrainingTimer channel failed => Sys2Proof.Machine.execFlashTrainingTimer channel failed s
  | .flashReadDone req results => Sys2Proof.Machine.execFlashReadDone req results s
  | .programDone die block page src ok => Sys2Proof.Machine.execProgramDone die block page src ok s
  | .eraseDone die block ok => Sys2Proof.Machine.execEraseDone die block ok s
  | .stripeVerifyDone group stripe badBlocks => Sys2Proof.Machine.execStripeVerifyDone group stripe badBlocks s
  | .stagingResize => Sys2Proof.Machine.execStagingResize s
  | .foldStart => Sys2Proof.Machine.execFoldStart s
  | .gcStart die => Sys2Proof.Machine.execGcStart die s
  | .staticRelocation die => Sys2Proof.Machine.execStaticRelocation die s
  | .blockRewriteStart die block => Sys2Proof.Machine.execBlockRewriteStart die block s
  | .flashDieFailed die noReset => Sys2Proof.Machine.execFlashDieFailed die noReset s
  | .writeBufferAdmit cmd => Sys2Proof.Machine.execWriteBufferAdmit cmd s
  | .flushComplete cmd => Sys2Proof.Machine.execFlushComplete cmd s
  | .journalProgram => Sys2Proof.Machine.execJournalProgram s
  | .checkpointStart => Sys2Proof.Machine.execCheckpointStart s
  | .checkpointRootDone med0 med1 => Sys2Proof.Machine.execCheckpointRootDone med0 med1 s
  | .mapSegmentReloadDone segment => Sys2Proof.Machine.execMapSegmentReloadDone segment s
  | .mapMirrorRecopyDone spd => Sys2Proof.Machine.execMapMirrorRecopyDone spd s
  | .recoveryDone badRoots torn wiped => Sys2Proof.Machine.execRecoveryDone badRoots torn wiped s
  | .mediaTempSample temp0 temp1 => Sys2Proof.Machine.execMediaTempSample temp0 temp1 s
  | .memoryCe spd row => Sys2Proof.Machine.execMemoryCe spd row s
  | .memoryUe place row => Sys2Proof.Machine.execMemoryUe place row s
  | .patrolScrub hbm start => Sys2Proof.Machine.execPatrolScrub hbm start s
  | .jobClearDone => Sys2Proof.Machine.execJobClearDone s
  | .keySweepDone spd => Sys2Proof.Machine.execKeySweepDone spd s
  | .cacheSplitDone spd => Sys2Proof.Machine.execCacheSplitDone spd s
  | .hbmStackLost stack => Sys2Proof.Machine.execHbmStackLost stack s
  | .stackRebuildDone stack => Sys2Proof.Machine.execStackRebuildDone stack s
  | .decodeDone req inp => Sys2Proof.Machine.execDecodeDone req inp s
  | .decodeEngineFault spd engine => Sys2Proof.Machine.execDecodeEngineFault spd engine s
  | .engineResetDone spd kind engine passed => Sys2Proof.Machine.execEngineResetDone spd kind engine passed s
  | .transformDone req => Sys2Proof.Machine.execTransformDone req s
  | .residueMismatch spd engine => Sys2Proof.Machine.execResidueMismatch spd engine s
  | .transformRestart req engine => Sys2Proof.Machine.execTransformRestart req engine s
  | .xfEngineFault spd engine => Sys2Proof.Machine.execXfEngineFault spd engine s
  | .tokeniseChunk req => Sys2Proof.Machine.execTokeniseChunk req s
  | .vocabLineFill spd engine line => Sys2Proof.Machine.execVocabLineFill spd engine line s
  | .tokeniseDone req => Sys2Proof.Machine.execTokeniseDone req s
  | .txtEngineFault spd engine => Sys2Proof.Machine.execTxtEngineFault spd engine s
  | .textPlacement req => Sys2Proof.Machine.execTextPlacement req s
  | .packDone req => Sys2Proof.Machine.execPackDone req s
  | .packEngineFault spd engine => Sys2Proof.Machine.execPackEngineFault spd engine s
  | .trailerHeaderSend stream batch => Sys2Proof.Machine.execTrailerHeaderSend stream batch s
  | .timelockHoldExpiry stream batch => Sys2Proof.Machine.execTimelockHoldExpiry stream batch s
  | .linkDown link ownSerdes => Sys2Proof.Machine.execLinkDown link ownSerdes s
  | .linkUp link => Sys2Proof.Machine.execLinkUp link s
  | .pathMigrateBack conn => Sys2Proof.Machine.execPathMigrateBack conn s
  | .quietPeriodEnd conn => Sys2Proof.Machine.execQuietPeriodEnd conn s
  | .rxRdmaWrite conn wire key va length first last payload => Sys2Proof.Machine.execRxRdmaWrite conn wire key va length first last payload s
  | .rxRdmaRead conn wire key va length => Sys2Proof.Machine.execRxRdmaRead conn wire key va length s
  | .rxAck conn wire => Sys2Proof.Machine.execRxAck conn wire s
  | .rxNak conn wire code => Sys2Proof.Machine.execRxNak conn wire code s
  | .rxRnrNak conn wire => Sys2Proof.Machine.execRxRnrNak conn wire s
  | .rxReadResponse conn wire last payload => Sys2Proof.Machine.execRxReadResponse conn wire last payload s
  | .rxCnp conn ce => Sys2Proof.Machine.execRxCnp conn ce s
  | .rxRefusedPacket conn kind ce => Sys2Proof.Machine.execRxRefusedPacket conn kind ce s
  | .ackTimeout conn => Sys2Proof.Machine.execAckTimeout conn s
  | .rnrRetryTimer conn => Sys2Proof.Machine.execRnrRetryTimer conn s
  | .waitSatisfied conn => Sys2Proof.Machine.execWaitSatisfied conn s
  | .revokeComplete key => Sys2Proof.Machine.execRevokeComplete key s
  | .revokeTimeout key => Sys2Proof.Machine.execRevokeTimeout key s
  | .releaseTokenSend stream batch member => Sys2Proof.Machine.execReleaseTokenSend stream batch member s
  | .returnRx conn wire payload => Sys2Proof.Machine.execReturnRx conn wire payload s
  | .peerReqRx conn wire payload => Sys2Proof.Machine.execPeerReqRx conn wire payload s
  | .peerServeReady conn tag mediaFailed => Sys2Proof.Machine.execPeerServeReady conn tag mediaFailed s
  | .peerRspRx conn wire payload => Sys2Proof.Machine.execPeerRspRx conn wire payload s
  | .peerReadDone conn tag complete => Sys2Proof.Machine.execPeerReadDone conn tag complete s
  | .peerDoneRx conn wire payload => Sys2Proof.Machine.execPeerDoneRx conn wire payload s
  | .peerHoldExpiry conn tag => Sys2Proof.Machine.execPeerHoldExpiry conn tag s
  | .frameTxDone link => Sys2Proof.Machine.execFrameTxDone link s
  | .pfcRx link priority pause => Sys2Proof.Machine.execPfcRx link priority pause s
  | .ccRateRecover conn => Sys2Proof.Machine.execCcRateRecover conn s
  | .sluiceEntryChange list => Sys2Proof.Machine.execSluiceEntryChange list s
  | .sluiceListTakeover list => Sys2Proof.Machine.execSluiceListTakeover list s
  | .contextLoadDone conn => Sys2Proof.Machine.execContextLoadDone conn s
  | .sliceBoundary => Sys2Proof.Machine.execSliceBoundary s
  | .mbxLockRead readers m => Sys2Proof.Machine.execMbxLockRead readers m s
  | .mbxLockRelease writer m value => Sys2Proof.Machine.execMbxLockRelease writer m value s
  | .mbxBufWrite writer m word value => Sys2Proof.Machine.execMbxBufWrite writer m word value s
  | .mbxDoorbell writer m => Sys2Proof.Machine.execMbxDoorbell writer m s
  | .mbxAck writer m => Sys2Proof.Machine.execMbxAck writer m s
  | .mbxTake m => Sys2Proof.Machine.execMbxTake m s
  | .mbxReply m => Sys2Proof.Machine.execMbxReply m s
  | .semRead readers k => Sys2Proof.Machine.execSemRead readers k s
  | .semRelease writer k value => Sys2Proof.Machine.execSemRelease writer k value s
  | .portReset port cause => Sys2Proof.Machine.execPortReset port cause s
  | .perstRelease port => Sys2Proof.Machine.execPerstRelease port s
  | .quaySqDoorbell q value => Sys2Proof.Machine.execQuaySqDoorbell q value s
  | .quayCqDoorbell q value => Sys2Proof.Machine.execQuayCqDoorbell q value s
  | .quayFetch q entry => Sys2Proof.Machine.execQuayFetch q entry s
  | .completionWrite q linkOk => Sys2Proof.Machine.execCompletionWrite q linkOk s
  | .cqCoalesceTimer q => Sys2Proof.Machine.execCqCoalesceTimer q s
  | .invalidOpcode cmd => Sys2Proof.Machine.execInvalidOpcode cmd s
  | .identify cmd => Sys2Proof.Machine.execIdentify cmd s
  | .createQuay cmd => Sys2Proof.Machine.execCreateQuay cmd s
  | .deleteQuay cmd => Sys2Proof.Machine.execDeleteQuay cmd s
  | .abort cmd => Sys2Proof.Machine.execAbort cmd s
  | .getEvent cmd => Sys2Proof.Machine.execGetEvent cmd s
  | .getEventComplete port => Sys2Proof.Machine.execGetEventComplete port s
  | .selfTest cmd => Sys2Proof.Machine.execSelfTest cmd s
  | .selfTestItemDone passed item lastOfStep reads => Sys2Proof.Machine.execSelfTestItemDone passed item lastOfStep reads s
  | .selfTestResume => Sys2Proof.Machine.execSelfTestResume s
  | .fwStage cmd data => Sys2Proof.Machine.execFwStage cmd data s
  | .fwActivate cmd => Sys2Proof.Machine.execFwActivate cmd s
  | .fwNorWriteDone cmd matched => Sys2Proof.Machine.execFwNorWriteDone cmd matched s
  | .fwActivateRestart => Sys2Proof.Machine.execFwActivateRestart s
  | .portConfig cmd => Sys2Proof.Machine.execPortConfig cmd s
  | .format cmd => Sys2Proof.Machine.execFormat cmd s
  | .jobSetup cmd data => Sys2Proof.Machine.execJobSetup cmd data s
  | .jobEnd cmd => Sys2Proof.Machine.execJobEnd cmd s
  | .stepMark cmd => Sys2Proof.Machine.execStepMark cmd s
  | .datasetCreate cmd data => Sys2Proof.Machine.execDatasetCreate cmd data s
  | .write cmd data => Sys2Proof.Machine.execWrite cmd data s
  | .flush cmd => Sys2Proof.Machine.execFlush cmd s
  | .sealPartition cmd => Sys2Proof.Machine.execSealPartition cmd s
  | .datasetDelete cmd => Sys2Proof.Machine.execDatasetDelete cmd s
  | .defectList cmd data => Sys2Proof.Machine.execDefectList cmd data s
  | .mediaStatus cmd data => Sys2Proof.Machine.execMediaStatus cmd data s
  | .mediaHealth cmd data => Sys2Proof.Machine.execMediaHealth cmd data s
  | .copyFromPeer cmd plan => Sys2Proof.Machine.execCopyFromPeer cmd plan s
  | .streamSetup cmd data => Sys2Proof.Machine.execStreamSetup cmd data s
  | .streamStart cmd => Sys2Proof.Machine.execStreamStart cmd s
  | .streamStop cmd => Sys2Proof.Machine.execStreamStop cmd s
  | .streamStopComplete cmd => Sys2Proof.Machine.execStreamStopComplete cmd s
  | .seek cmd => Sys2Proof.Machine.execSeek cmd s
  | .streamStatus cmd => Sys2Proof.Machine.execStreamStatus cmd s
  | .tableLoad cmd data => Sys2Proof.Machine.execTableLoad cmd data s
  | .detokenise cmd data => Sys2Proof.Machine.execDetokenise cmd data s
  | .connect cmd data => Sys2Proof.Machine.execConnect cmd data s
  | .disconnect cmd => Sys2Proof.Machine.execDisconnect cmd s
  | .mooringCreate cmd => Sys2Proof.Machine.execMooringCreate cmd s
  | .mooringRevoke cmd => Sys2Proof.Machine.execMooringRevoke cmd s
  | .mooringGrant cmd => Sys2Proof.Machine.execMooringGrant cmd s
  | .queueStats cmd data => Sys2Proof.Machine.execQueueStats cmd data s
  | .secStatus cmd => Sys2Proof.Machine.execSecStatus cmd s
  | .slotProgram cmd data => Sys2Proof.Machine.execSlotProgram cmd data s
  | .svnCommit cmd => Sys2Proof.Machine.execSvnCommit cmd s
  | .lifecycleSecure cmd => Sys2Proof.Machine.execLifecycleSecure cmd s
  | .keyLoad cmd data => Sys2Proof.Machine.execKeyLoad cmd data s
  | .keyClear cmd => Sys2Proof.Machine.execKeyClear cmd s
  | .keyRevoke cmd data => Sys2Proof.Machine.execKeyRevoke cmd data s
  | .debugChallenge cmd => Sys2Proof.Machine.execDebugChallenge cmd s
  | .debugResponse cmd data => Sys2Proof.Machine.execDebugResponse cmd data s
  | .debugExit cmd => Sys2Proof.Machine.execDebugExit cmd s
  | .debugGrantExpiry => Sys2Proof.Machine.execDebugGrantExpiry s
  | .zeroise cmd => Sys2Proof.Machine.execZeroise cmd s
  | .debugOpen cmd => Sys2Proof.Machine.execDebugOpen cmd s
  | .regWrite writer w => Sys2Proof.Machine.execRegWrite writer w s
  | .evClear writer offset value => Sys2Proof.Machine.execEvClear writer offset value s
  | .irqEnableWrite writer port value => Sys2Proof.Machine.execIrqEnableWrite writer port value s
  | .windowAccessReject port a => Sys2Proof.Machine.execWindowAccessReject port a s
  | .aliasWrite writer offset value => Sys2Proof.Machine.execAliasWrite writer offset value s
  | .cfgArm writer groups => Sys2Proof.Machine.execCfgArm writer groups s
  | .cfgCancel writer groups => Sys2Proof.Machine.execCfgCancel writer groups s
  | .groupApply groups => Sys2Proof.Machine.execGroupApply groups s
  | .guardComputeStart => Sys2Proof.Machine.execGuardComputeStart s
  | .guardComputeDone => Sys2Proof.Machine.execGuardComputeDone s
  | .guardCommit writer => Sys2Proof.Machine.execGuardCommit writer s
  | .aonWrite writer offset value => Sys2Proof.Machine.execAonWrite writer offset value s
  | .aonWriteTaken => Sys2Proof.Machine.execAonWriteTaken s
  | .slowclkLost => Sys2Proof.Machine.execSlowclkLost s
  | .cvuStart unit => Sys2Proof.Machine.execCvuStart unit s
  | .cvuTail unit tail => Sys2Proof.Machine.execCvuTail unit tail s
  | .cvuFinish unit => Sys2Proof.Machine.execCvuFinish unit s
  | .cvuDataWrite unit value => Sys2Proof.Machine.execCvuDataWrite unit value s
  | .cvuParityError unit req => Sys2Proof.Machine.execCvuParityError unit req s
  | .duskEntryStart => Sys2Proof.Machine.execDuskEntryStart s
  | .entryCommit => Sys2Proof.Machine.execEntryCommit s
  | .duskEntryDone => Sys2Proof.Machine.execDuskEntryDone s
  | .nightEntryStart => Sys2Proof.Machine.execNightEntryStart s
  | .nightEntryDone => Sys2Proof.Machine.execNightEntryDone s
  | .wakeNEdge low => Sys2Proof.Machine.execWakeNEdge low s
  | .tideWakeTimer => Sys2Proof.Machine.execTideWakeTimer s
  | .duskExitDone => Sys2Proof.Machine.execDuskExitDone s
  | .nightExitDone => Sys2Proof.Machine.execNightExitDone s
  | .opStepDone spd freqStep => Sys2Proof.Machine.execOpStepDone spd freqStep s
  | .thermalSample readings => Sys2Proof.Machine.execThermalSample readings s
  | .throttleStep => Sys2Proof.Machine.execThrottleStep s
  | .thermalTrip readings => Sys2Proof.Machine.execThermalTrip readings s
  | .tripCooled readings => Sys2Proof.Machine.execTripCooled readings s
  | .bootImageVerified strapRecovery => Sys2Proof.Machine.execBootImageVerified strapRecovery s
  | .attestReady => Sys2Proof.Machine.execAttestReady s
  | .getVersion t => Sys2Proof.Machine.execGetVersion t s
  | .getCapabilities t => Sys2Proof.Machine.execGetCapabilities t s
  | .negotiateAlgorithms t => Sys2Proof.Machine.execNegotiateAlgorithms t s
  | .getDigests t => Sys2Proof.Machine.execGetDigests t s
  | .getCertificate t slot offset length => Sys2Proof.Machine.execGetCertificate t slot offset length s
  | .challenge t slot nonce => Sys2Proof.Machine.execChallenge t slot nonce s
  | .getMeasurements t index => Sys2Proof.Machine.execGetMeasurements t index s
  | .keyExchange t slot => Sys2Proof.Machine.execKeyExchange t slot s
  | .finish t session verifyOk => Sys2Proof.Machine.execFinish t session verifyOk s
  | .heartbeat t session => Sys2Proof.Machine.execHeartbeat t session s
  | .keyUpdate t session => Sys2Proof.Machine.execKeyUpdate t session s
  | .endSession t session => Sys2Proof.Machine.execEndSession t session s
  | .vendorDefinedRequest t session entry => Sys2Proof.Machine.execVendorDefinedRequest t session entry s
  | .jtagAccess cls op => Sys2Proof.Machine.execJtagAccess cls op s
  | .smbusHealthRead => Sys2Proof.Machine.execSmbusHealthRead s
  | .smbusAlertClear => Sys2Proof.Machine.execSmbusAlertClear s
  | .smbusAra => Sys2Proof.Machine.execSmbusAra s
  | .healthReasonTimer code location => Sys2Proof.Machine.execHealthReasonTimer code location s
  | .ltStart writer => Sys2Proof.Machine.execLtStart writer s
  | .ltStop writer => Sys2Proof.Machine.execLtStop writer s
  | .ltInject writer => Sys2Proof.Machine.execLtInject writer s
  | .ltLaneLock lane => Sys2Proof.Machine.execLtLaneLock lane s
  | .pmcFreeze => Sys2Proof.Machine.execPmcFreeze s
  | .pmcUnfreeze => Sys2Proof.Machine.execPmcUnfreeze s
  | .pmcSnap answering => Sys2Proof.Machine.execPmcSnap answering s
  | .pmcClear => Sys2Proof.Machine.execPmcClear s
  | .pmcSnapDone => Sys2Proof.Machine.execPmcSnapDone s
  | .pmcBwWinWrite value => Sys2Proof.Machine.execPmcBwWinWrite value s
  | .pmcBwWindowEnd bytes => Sys2Proof.Machine.execPmcBwWindowEnd bytes s
  | .coldReset => Sys2Proof.Machine.execColdReset s
  | .warmReset pin => Sys2Proof.Machine.execWarmReset pin s
  | .lockstepMismatch pair => Sys2Proof.Machine.execLockstepMismatch pair s
  | .hmWatchdogExpiry pair => Sys2Proof.Machine.execHmWatchdogExpiry pair s
  | .bringupDone b => Sys2Proof.Machine.execBringupDone b s
  | .powerGood testEn => Sys2Proof.Machine.execPowerGood testEn s
  | .railLost rail => Sys2Proof.Machine.execRailLost rail s
  | .clockFault c => Sys2Proof.Machine.execClockFault c s
  | .cacheReadDone req => Sys2Proof.Machine.execCacheReadDone req s
  | .ltLockLost lane => Sys2Proof.Machine.execLtLockLost lane s
  | .harbourmasterRestartDone => Sys2Proof.Machine.execHarbourmasterRestartDone s
  | .textTableReloadDone spd => Sys2Proof.Machine.execTextTableReloadDone spd s
  | .connContextRecopyDone spd => Sys2Proof.Machine.execConnContextRecopyDone spd s
  | .pcieLinkUp port => Sys2Proof.Machine.execPcieLinkUp port s
  | .pciePmStateChange port d3 => Sys2Proof.Machine.execPciePmStateChange port d3 s
  | .shaperCreditRestored link cls => Sys2Proof.Machine.execShaperCreditRestored link cls s
  | .keelFault => Sys2Proof.Machine.execKeelFault s

end Sys2Proof.Machine
end

