-- ==== Sys2Proof/Machine/Idle.lean ====
section
/-! DEFINITION. What an empty queue does, and the plainest update of the queue. An idle step lasts 1 ns: the clocks run, and the
counters that count clock cycles with them (R487, R488). -/

namespace Sys2Proof.Machine

/-- The queue replaced, nothing else. -/
def withPending (s : State) (q : List Instr) : State := { s with pending := q }

/-- Since when the device has been idle without a break (R434). -/
def idleTrack (s : State) : Option Nat := if isIdle s then some (s.pwr.idleSince.getD s.mono) else none

/-! ### Counters of clock cycles (R487, R488) -/

/-- Rising edges in the nanosecond after `t` of a clock of `f` tenths of a GHz. -/
def clockEdges (f t : Nat) : Nat := (t + 1) * f / 10 - t * f / 10

/-- ACLK of an SPD in tenths of a GHz (R430, R440): gated in Dusk, off in Night, the 400 MHz oscillator as it starts.
(DESIGN CHOICE 24; assumption log) -/
def aclkRate (d : Spd) : Nat :=
  match d.power.aclk with
  | .pll => [15, 12, 9, 6].getD d.freqPt 6
  | .oscillator => 4
  | .gated | .off => 0

/-- A reserve engine is held: fewer engines are free than the reserve keeps (R24). -/
def reserveHeld (d : Spd) : Bool :=
  ([.de, .te, .pe, .ke] : List EngineKind).any fun k =>
    decide ((d.freeEngines k).length < reserveSize k) && (d.engines k).any fun e => match e.state with | .held _ => true | _ => false

/-- An engine of a kind is held. -/
def engineHeld (d : Spd) (k : EngineKind) (i : Nat) : Bool :=
  (((d.engines k)[i]?).map fun e => match e.state with | .held _ => true | _ => false).getD false

/-- A walk is long: it has taken 32 passes (R71). -/
def longWalk : Phase → Bool
  | .walking _ _ n _ => decide (32 ≤ n)
  | _ => false

/-- What a LEVEL event of an SPD asks (R488). -/
def spdLevel (n code : Nat) (s : State) : Bool :=
  match s.spd? n with
  | none => false
  | some d =>
    let mine := s.run.requests.filter (·.spd == n)
    match code / 256 with
    | 0 => decide (code < 13) && d.freeBufs code == 0
    | 1 => engineHeld d .de (code % 256)
    | 2 => engineHeld d .te (code % 256)
    | 3 => engineHeld d .pe (code % 256)
    | 4 => engineHeld d .ke (code % 256)
    | 5 => engineHeld d .ce (code % 256)
    | _ =>
      match code with
      | 0x600 => mine.any Request.listed
      | 0x601 => reserveHeld d
      | 0x602 => mine.any (·.atRisk)
      | 0x707 => d.sweep
      | 0x801 => decide (8 ≤ (mine.filter fun r => longWalk r.phase).length)
      | _ => false

/-- A frame of link `m` waits on a closed gate: its class could send but for the gate. -/
def waitsAtGate (m : Nat) (s : State) : Bool :=
  (List.range 8).any fun k =>
    !(eligible m k s).isEmpty && !(s.classRun m k).paused && classOpen m k s && (pickClass m k s).isNone

/-- What a LEVEL event of an I/O die asks (R488). -/
def iodLevel (die code : Nat) (s : State) : Bool :=
  let m := code % 256
  if code / 256 = 0 then decide (m < 16) && m / 8 == die - 8 && waitsAtGate m s
  else if code / 256 = 1 then decide (m < 16) && m / 8 == die - 8 && (List.range 8).any fun k => (s.classRun m k).paused
  else code == 0x203 && s.bw.overcommit

/-- What a LEVEL event asks. A media die's channel bus is busy only within a command.
(DESIGN CHOICE 24; assumption log) -/
def levelHolds (die code : Nat) (s : State) : Bool :=
  if die < 8 then spdLevel die code s else die < 10 && iodLevel die code s

/-- A counter counts the level of its event. -/
def levelSel (e : Word) : Bool := bitOf e 12 && bitOf e 13

/-- `n` counts of a 48-bit counter, which wraps (R489). -/
def countBy (n v : Nat) : Nat := (v + n) % 2 ^ 48

/-- `n` cycles of PMCLK pass: each programmable counter in LEVEL mode whose condition holds counts them. -/
def DieCounters.countCycles (holds : Nat → Bool) (n : Nat) (d : DieCounters) : DieCounters :=
  let hit (e : Word) : Bool := levelSel e && holds (fieldOf e 0 12)
  { d with
    cnt := List.zipWith (fun v e => if hit e then countBy n v else v) d.cnt d.evsel ++ d.cnt.drop d.evsel.length
    evsel := List.zipWith (fun v e => if hit e && decide (2 ^ 48 ≤ v + n) then e ||| 0x4000 else e) d.cnt d.evsel }

/-- `n` counts of fixed counter 256 + `i`. -/
def DieCounters.countFixedBy (i n : Nat) (d : DieCounters) : DieCounters :=
  { d with
    cnt := updAt d.cnt (256 + i) (countBy n)
    fixOvf := if 2 ^ 48 ≤ d.cnt.getD (256 + i) 0 + n then d.fixOvf ||| (1 <<< i) else d.fixOvf }

/-- A die counts a nanosecond: LEVEL counters, and on an SPD the cycles of ACLK and those of PMCLK in Noon. A lost die and
an SPD in Night do not count (R490). -/
def tickDie (die : Nat) (s : State) : State :=
  if !s.dieUp die || (decide (die < 8) && s.pwr.state == .night) || s.pwr.off then s
  else
    let p := clockEdges 15 s.mono
    let a := clockEdges (((s.spd? die).map aclkRate).getD 0) s.mono
    let noon := if s.pwr.state = .noon then p else 0
    s.modDieCounters die fun d =>
      let c := if d.evsel.any levelSel then d.countCycles (fun code => levelHolds die code s) p else d
      if die < 8 then (c.countFixedBy 0 a).countFixedBy 1 noon else c

/-- Every die counts a nanosecond. -/
def tickCounters (s : State) : State := s.each (List.range 12) tickDie

/-! ### The idle step -/

/-- Since when no host command has been pending while a self-test is paused (R368). (DEDUCED 73; assumption log) -/
def SelfTest.track (quiet : Bool) (now : Nat) (t : SelfTest) : SelfTest :=
  { t with quietSince := if quiet then some (t.quietSince.getD now) else none }

/-- Work that goes on without a command: the steps of Night exit that are due, and the next step of a ZEROISE (R440, R471).
(DESIGN CHOICE 1, DESIGN CHOICE 195; assumption log) -/
def dueWork (s : State) : State := keelStep (takeExitSteps 6 s)

/-- 1 ns of local time (R31, modulo 2^64), of uptime and of the always-on clock: the cycle counters count, and the idle
timers of R368 and R434 run; nothing else changes. -/
def clockTick (s : State) : State :=
  let a := tickCounters s
  { a with
    tide := { a.tide with time := (a.tide.time + 1) % 2 ^ 64, uptime := a.tide.uptime + 1 }
    aon := { a.aon with clock := a.aon.clock + 1 }
    host := { a.host with selfTest := a.host.selfTest.map (SelfTest.track (!hostPending a) a.mono) }
    pwr := { a.pwr with idleSince := idleTrack a } }

/-- With no command waiting, the work that goes on and 1 ns pass. (DESIGN CHOICE 1; assumption log) -/
def idleTick (s : State) : State := clockTick (dueWork s)

end Sys2Proof.Machine
end

