-- ==== Sys2Proof/Machine/Step.lean ====
section
/-! DEFINITION. One step: the command at the front of the queue, or an idle nanosecond. -/

namespace Sys2Proof.Machine

/-- A step takes the command at the front of the queue; on an empty queue the block idles for 1 ns.
(DESIGN CHOICE 1; assumption log) -/
def step (s : State) : Host.Outcome State Fault Refusal :=
  match s.pending with
  | [] => .next (idleTick s)
  | c :: rest => exec c (withPending s rest)

/-- The table gives no row any bits, so no word spells a command. (DESIGN CHOICE 145; assumption log) -/
def State.withFetchWord (s : State) (nbits w : Nat) : State :=
  match decodeTableWord nbits w with
  | none => s
  | some c => withPending s (c :: s.pending)

end Sys2Proof.Machine
end

