-- ==== Sys2Proof/Safety.lean ====
section
/-! DEFINITION. The terms that claims use: what completing means, what a run without a stop is, and the invariants of the
block that a step must keep. -/

namespace Sys2Proof.Machine

/-- A command answers a next state of which `post` holds. -/
def Completes (c : Instr) (s : State) (post : State → Prop) : Prop := ∃ t, exec c s = .next t ∧ post t

/-- A run of `n` steps meets no stop. -/
def SafeRun : Nat → State → Prop
  | 0, _ => True
  | n + 1, s => ∃ t, step s = .next t ∧ SafeRun n t

/-- A connection hears: it is not in error, its link is up, and its context is resident (R269, R314, R315). -/
structure Hears (c : Conn) (s : State) : Prop where
  here : s.conn? c.idx = some c
  noError : c.error = none
  powered : s.egr.txOff = false
  linkUp : bitOf s.egr.linksUp c.onLink = true
  resident : c.resident = true

/-- A packet has come in on a connection that hears: its link counts it. -/
def packetIn (c : Conn) (s : State) : State := countPerf (8 + c.onLink / 8) (0x100 + c.onLink) s

/-- The command that brings a packet; a message comes by RETURN_RX, or by one of the three of the peer-read protocol. -/
def arrival (i : Nat) : RxPacket → Instr
  | .write w key va len first last bs => .rxRdmaWrite i w key va len first last bs
  | .read w key va len => .rxRdmaRead i w key va len
  | .ack w => .rxAck i w
  | .nak w code => .rxNak i w code
  | .rnr w => .rxRnrNak i w
  | .readRsp w last bs => .rxReadResponse i w last bs
  | .cnp ce => .rxCnp i ce
  | .bad kind ce => .rxRefusedPacket (some i) kind ce
  | .message w bs => .returnRx i w bs

/-- A packet that a connection takes has been counted, ends a run of failed tags where it has one, and is answered by a CNP
where it is marked (R269, R282). -/
def packetTaken (c : Conn) (p : RxPacket) (s : State) : State :=
  sendCnp c p.ce ((packetIn c s).modConn c.idx fun c => if p.protected then { c with tagFails := 0 } else c)

/-- A packet is taken: the connection hears, no SPD that the packet needs sleeps (R435), the frame is not too long, its tag
holds. `a` is the state in which the packet is processed, and `d` the connection there. -/
structure Takes (c : Conn) (p : RxPacket) (s a : State) (d : Conn) : Prop where
  hears : Hears c s
  awake : p.needsSpd = false ∨ s.asleep = false
  fits : p.size c ≤ 9216
  tag : p.tagFails c = false
  taken : packetTaken c p s = a
  conn : a.conn? c.idx = some d

/-- A message has been acknowledged, and holds one receive credit while it is taken (R271). -/
def acknowledged (d : Conn) (w : Wire) (a : State) : State :=
  advanceRq d.idx 1 (answer d.idx 0 w.psn (a.modConn d.idx fun c => { c with credits := c.credits - 1, msn := c.msn + 1 }))

/-- A Salsia command of this opcode is the next to start, and the checks made first let it through (R352, R353): no field
of its own is bad where `bad` is false, and its own security state, where `sec` is none, stands. -/
structure Starts (id : CmdId) (op : Nat) (c : Cmd) (bad : Bool) (sec : Option Nat) (s : State) : Prop where
  queued : s.queuedCmd id (·.opcode == op) = some c
  turn : starts c s = true
  checks : firstChecks c bad sec s = none

/-- A request of a stream whose partition stands, its stream and its partition. -/
structure Serves (k : ReqKey) (r : Request) (t : Stream) (p : Partition) (s : State) : Prop where
  request : s.req? k = some r
  own : r.key = k
  stream : s.stream? k.stream = some t
  part : s.partFor t = some p

/-- What the issue of a request draws, once its batch has begun: its input and its output buffers (R140, R198, R262). -/
def issueDraw (t : Stream) (p : Partition) (r : Request) (f : Found) (s : State) : Except Nat State :=
  drawOrPart r.spd (ownerOf s t.num (((t.groupFor s.seed p r.key.batch).map (·.group)).getD 0)) false (some r.key)
    (((r.form.map Form.size).getD (inputBytes p r f)) :: outputDraws t) (beginBatch r.key s)

/-- What a request that issues does before its first stage: its stages LOOKUP and ISSUE start, it is counted, it takes its
engines, and the issue pointer of its stream moves (R21, R25, R130, R488). -/
def issueTakes (t : Stream) (p : Partition) (r : Request) (s : State) : State :=
  advanceIssue t p r.key (takeEngines t r (countFixed r.spd 2 (countPerf r.spd 0x600
    (startStage r.key .lookup (startStage r.key .issue s)))))

/-- The codewords of a read, unit by unit, are counted, and the blocks that wear are scheduled (R104, R105, R119). -/
def unitsCounted (units : List (Nat × List CodewordResult)) (s : State) : State :=
  s.each units fun (l, cs) u =>
    match u.media.puaOf l with
    | some pua => countUnit pua cs (countUnitPerf pua cs u)
    | none => u

/-- A decode whose wrappers are open: the payload, and the state after (R156). -/
structure Unwraps (r : Request) (t : Stream) (p : Partition) (s : State) (x : Unwrapped) (u : State) : Prop where
  phase : r.phase = .decode
  notEmpty : r.encoded ≠ []
  wraps : runWraps r t p t.dec.wrap false r.encoded (rawReadDone r s) = (x, u)

/-- A residue mismatch of a Transform Engine that a request holds, counted: the engine is free again, or it has reached the
limit and leaves service (R195). -/
def mismatched (n : Fin 8) (i : Fin 32) (e : Engine) (s : State) : State :=
  let times := within24h s.mono e.mismatches
  let out := decide (max 1 (fieldOf s.applied.cfgXf 8 4) ≤ times.length)
  let a := (countCorrected n (countPerf n 0x900 (setEv .xf 1 (s.modCnt fun c => { c with xfResCnt := c.xfResCnt + 1 })))).setEngine
    n .te i fun e => { e with mismatches := times, state := if out then .out else .free }
  if out then engineOut n .te i a else a

/-- A slot may be packed: a masked one once its batch may be written, another with its engine (R81, R261, R285). -/
def packReady (r : Request) (t : Stream) (p : Partition) (b : Batch) (s : State) : Bool :=
  if r.masked then slotsFree t p r.key.batch s && timeOpen b s else r.pe.isSome

/-- Of edges judged at one instant, those silent at one end and not under test (R17, R486). -/
def silentOf (es : List (Fin 42)) (s : State) : List (Fin 42) :=
  es.filter fun e => s.edgeWhere (Edge.silent s.tide.uptime) e && !testsEdge e s

/-- Those edges are down. -/
def edgesDown (es : List (Fin 42)) (s : State) : State :=
  s.each (silentOf es s) fun e t => t.modEdge e fun x => { x with up := false }

/-- Each of these edges that joins two dies in service is a CONTAINED error and raises EDGE_DOWN (R481). -/
def edgesReported (es : List (Fin 42)) (s : State) : State :=
  s.each es fun e t => if t.dieUp (edgeEnds e).1 && t.dieUp (edgeEnds e).2 then raiseReason 0x03 100 e (countContained t) else t

/-- A request reaches the attestation responder: IOD0 has power, and a port is linked and has its way to it (R18, R462,
R477). -/
def spdmReaches (t : SpdmTransport) (s : State) : Bool :=
  !s.pwr.off && !s.pwr.testEn && (match t with | .doe p => (s.host.port p).linkUp && s.portReached p | .mctp => s.fab.iod0)

/-! ### Fuses (R451, R452, R459 to R461) -/

def Lifecycle.rank : Lifecycle → Nat
  | .provisioning => 0
  | .secured => 1
  | .zeroised => 2

/-- Every fuse blown in `x` is blown in `y`: the lifecycle goes no way back, the security version count does not fall, a
revoked slot stays revoked, a programmed key hash and a blown root seed stay. -/
structure FusesKept (x y : Security) : Prop where
  lifecycle : x.lifecycle.rank ≤ y.lifecycle.rank
  svnMin : x.svnMin ≤ y.svnMin
  revoke : ∀ i, x.revoke.getLsbD i = true → y.revoke.getLsbD i = true
  keyHash : ∀ (i : Nat) (h : BitVec 256), x.keyHash[i]? = some h → h ≠ 0 → y.keyHash[i]? = some h
  deviceSeed : ∀ i, x.deviceSeed.getLsbD i = true → y.deviceSeed.getLsbD i = true

/-! ### Reserved bits of the staged registers (R8, R59, R144, R170, R202, R233, R265, R297, R318, R383, R398) -/

/-- The bits that each of the 32 direct registers has, in the order of `StRegs.direct`. -/
def directMasks : List Word :=
  [0x3, 0xFFFFF, 0xFFFFFFFF, 0xFFFFFFFF, 0xF, 0xFFFFFFFF, 0xFFFFFFFF, 0xFFFFFFFF, 0xFFFFFFFF, 0xFFFF, 0xFFFFFFFF,
   0xFFFFFFFF, 0xFFFF, 0xFFF, 0xFFFFFFFF, 0x7F01, 0xF01, 0x1, 0x1, 0xFFFF, 0x3FF, 0xFFFFFFFF, 0xFFFFFFFF,
   0xFFFFFFFF, 0x1003F, 0xFFFFFF, 0x1FFFF, 0xFFFFFFFF, 0x7, 0xFFFFFFFF, 0xFFFFFFFF, 0xFFFF]

/-- A word has no bit outside a mask. -/
def within (m w : Word) : Bool := w &&& ~~~m == 0

def ClassRegs.masked (c : ClassRegs) : Bool := within 0x1FFFFF c.class0 && within 0xFFF c.class1

def SluList.masked (l : SluList) : Bool := within 0x3FFFF l.list && l.entries.all fun e => within 0x1FF e.gate

/-- Every reserved bit of the staged registers is 0. -/
def StRegs.masked (r : StRegs) : Bool :=
  (List.zipWith within directMasks r.direct).all id && r.classes.all ClassRegs.masked && r.slu.all SluList.masked

/-! ### The invariant -/

/-- The job address space and the debug memory are in canonical form, and no reserved bit of a staged register is set,
in its shadow or applied. -/
structure Sound (s : State) : Prop where
  jobMem : wfCells zeroBase s.egr.jobMem = true
  rawMem : wfCells Config.rawByte s.sec.rawMem = true
  shadow : s.shadow.masked = true
  applied : s.applied.masked = true

end Sys2Proof.Machine
end

