-- ==== Sys2Proof/Certificates/Slice0/Obligations.lean ====
section
/-! DEFINITION. The statements for the provers. A completion statement says, for every row of the operation and event
table, a next state that the command answers under conditions on the state and the operands alone, mostly the whole next
state, so that it also says what the command leaves alone. -/

open Sys2Proof Sys2Proof.Machine

/-- R16, R17, R18, R440, R441, R486: (1) a good flit of any kind, from either end, brings its edge up, is heard at the
far end, sets the sideband that PARK and UNPARK name, and changes no other part of the state than the edges, the
arrival counts and the flits that go out; (2) idle, PARK and UNPARK flits touch their edge alone; (3) traffic at its
destination is taken in its place and advances the count of its class and pair; (4) traffic at another die goes out on
the next edge of its route; (5) a flit that fails its CRC is a CORRECTED error of the edge's SPD and changes neither
edges, time, job, egress, media nor security; (6) an edge under test carries none, nor does an SPD behind its
isolation send any; (7) an idle flit goes out from either end of an edge that is not parked. -/
def Obligations.SlipwayFlits : Prop :=
  (∀ (s : State) (e : Fin 42) (low : Bool) (k : FlitKind), testsEdge e s = false →
      s.clamped (if low then (edgeEnds e).1 else (edgeEnds e).2) = false → Completes (.slipwayFlitRx e low k true) s fun t =>
      t = { s with fab := t.fab, out := t.out } ∧ t.fab = { s.fab with edges := t.fab.edges, flits := t.fab.flits } ∧
        t.fab.edges = s.fab.edges.modify e fun x =>
          { x with
            up := true, since := if x.up then x.since else s.tide.uptime
            parked := match k with | .park => true | .unpark => false | _ => x.parked
            lowHeard := if !x.up || k == .unpark || !low then s.tide.uptime else x.lowHeard
            highHeard := if !x.up || k == .unpark || low then s.tide.uptime else x.highHeard }) ∧
  (∀ (s : State) (e : Fin 42) (low : Bool) (k : FlitKind), testsEdge e s = false →
      s.clamped (if low then (edgeEnds e).1 else (edgeEnds e).2) = false → k = .idle ∨ k = .park ∨ k = .unpark →
      Completes (.slipwayFlitRx e low k true) s fun t => t.out = s.out ∧ t.fab.flits = s.fab.flits) ∧
  (∀ (s : State) (e : Fin 42) (low : Bool) (c : TrafficClass) (src dst : Fin 12), testsEdge e s = false →
      s.clamped (if low then (edgeEnds e).1 else (edgeEnds e).2) = false →
      (if low then (edgeEnds e).2 else (edgeEnds e).1) = (dst : Nat) →
      Completes (.slipwayFlitRx e low (.traffic c src dst (s.fab.arrived c src dst)) true) s fun t => t.out = s.out ∧
        t.fab.arrived c src dst = s.fab.arrived c src dst + 1 ∧
        ∀ (c' : TrafficClass) (a b : Fin 12), (c', a, b) ≠ (c, src, dst) → t.fab.arrived c' a b = s.fab.arrived c' a b) ∧
  (∀ (s : State) (e : Fin 42) (low : Bool) (c : TrafficClass) (src dst : Fin 12) (place here m x : Nat) (rest : List Nat),
      testsEdge e s = false →
      s.clamped (if low then (edgeEnds e).1 else (edgeEnds e).2) = false → (if low then (edgeEnds e).2 else (edgeEnds e).1) = here → here ≠ dst →
      Fabric.route { s.fab with edges := s.fab.edges.modify e (Edge.hear low (.traffic c src dst place) s.tide.uptime) } here dst =
        some (here :: m :: rest) → edgeBetween here m = some x →
      Completes (.slipwayFlitRx e low (.traffic c src dst place) true) s fun t =>
        t.fab.flits = s.fab.flits ∧ t.out = .flit x (decide (here < m)) (.traffic c src dst place) :: s.out) ∧
  (∀ (s : State) (e : Fin 42) (low : Bool) (k : FlitKind), testsEdge e s = false →
      s.clamped (if low then (edgeEnds e).1 else (edgeEnds e).2) = false → Completes (.slipwayFlitRx e low k false) s fun t =>
      t.hlth.errCorr = min (s.hlth.errCorr + 1) (2 ^ 48 - 1) ∧
        t.hlth.corrections = (s.hlth.corrections.filter fun x => decide (s.aon.clock < x.2 + dayNs)) ++ [((edgeEnds e).1, s.aon.clock)] ∧
        t.fab = s.fab ∧ t.tide = s.tide ∧ t.run = s.run ∧ t.egr = s.egr ∧ t.media = s.media ∧ t.sec = s.sec) ∧
  (∀ (s : State) (e : Fin 42) (low : Bool) (k : FlitKind) (ok : Bool),
      testsEdge e s = true ∨ s.clamped (if low then (edgeEnds e).1 else (edgeEnds e).2) = true →
      exec (.slipwayFlitRx e low k ok) s = .next s) ∧
  (∀ (s : State) (e : Fin 42) (low : Bool) (x : Edge), s.fab.edges[(e : Nat)]? = some x → x.parked = false →
      s.clamped (if low then (edgeEnds e).1 else (edgeEnds e).2) = false →
      s.dieUp (if low then (edgeEnds e).1 else (edgeEnds e).2) = true →
      exec (.idleFlitTimer e low) s = .next { s with out := .flit e low .idle :: s.out })

/-- R17, R20, R27, R28, R29: (1) of any edges judged at one instant, those silent for 2 µs at one end and not under
test are down, and where every die keeps another edge each of them between dies in service is a CONTAINED error and
raises EDGE_DOWN; (2) with a die all of whose edges are down, that die is lost first, by its own rule, and the edges
that still join dies in service raise EDGE_DOWN; (3) the oldest rewrite of the home map applies, with the SPDs that
served at its loss: where neither a batch nor a request stands on a lost SPD, every batch takes its home by the new
list and nothing else changes; (4) a batch whose home was lost starts over and its slots enter again. -/
def Obligations.EdgesAndHomes : Prop :=
  (∀ (s : State) (es : List (Fin 42)), (∀ d < 12, dieSilent d (edgesDown es s) = false) →
      exec (.edgeSilenceTimeout es) s = .next (edgesReported (silentOf es s) (edgesDown es s))) ∧
  (∀ (s : State) (es : List (Fin 42)), exec (.edgeSilenceTimeout es) s = .next (edgesReported (silentOf es s)
      ((edgesDown es s).each ((List.range 12).filter fun d => dieSilent d (edgesDown es s)) loseDie))) ∧
  (∀ (s : State) (lost : Nat) (serving : List Nat) (rest : List (Nat × List Nat)), s.fab.rewrites = (lost, serving) :: rest →
      (∀ b ∈ s.run.batches, b.home ≠ lost ∧ s.serving b.home = true) → (∀ r ∈ s.run.requests, r.spd ≠ lost) →
      exec .homeMapApply s = .next { s with
        run := { s.run with batches := s.run.batches.map fun b => { b with home := serving.getD (b.num % serving.length) 0 } }
        fab := { s.fab with rewrites := rest, homeMap := rewriteMap lost serving 0 s.fab.homeMap, homes := serving } }) ∧
  (∀ (s : State) (lost : Nat) (serving : List Nat) (rest : List (Nat × List Nat)) (b : Batch) (t : Stream) (p : Partition),
      s.fab.rewrites = (lost, serving) :: rest → s.run.batches = [b] → b.home = lost → s.run.requests = [] →
      s.stream? b.stream = some t → s.partFor t = some p →
      exec .homeMapApply s = .next (enterSlots t p (b.startOver (serving.getD (b.num % serving.length) 0)) { s with
        run := { s.run with batches := [b.startOver (serving.getD (b.num % serving.length) 0)] }
        fab := { s.fab with rewrites := rest, homeMap := rewriteMap lost serving 0 s.fab.homeMap, homes := serving } }))

/-- R32, R33, R57: (1) a Sync message that the clock takes, on the port in use and short of a loss, enters the counts
of its port and corrects the local time by the servo (a free amount: R33 gives no servo law), and the state is LOCKED
from sixteen good offsets on; (2) an offset beyond 1 µs while LOCKED loses the source; (3) on the port not in use it
enters that port's counts alone; (4) in holdover the message that completes sixteen on the primary port locks on it
(which event reports a return is the model's choice, log entries 155 and 156); (5) good offsets are those within 100
ns, and a gap of 3 s begins the count anew; (6) no Sync message for 3 s is holdover, which clears the port's counts
and sets HOLDOVER; (7) with a valid alternative it is a failover, which sets PTP_FAILOVER; (8) no PPS edge for 1.5 s
is holdover; (9) sixty seconds of lock on the primary fail back; (10) a PPS edge counts a period of 1 s ± 1 µs, four
of which lock, and corrects the local time. -/
def Obligations.TimeSources : Prop :=
  (∀ (s : State) (port : Fin 8) (m : PtpSync) (alt : Bool), s.timeSrc = 1 → s.takesSync m = true →
      (if alt then s.ptpPort ≠ port ∧ s.ptpAltEn = true ∧ s.ptpAlt = port else s.ptpPort = port) → s.tide.timeState ≠ .holdover →
      s.tide.onAlt = alt → ¬ (s.tide.timeState = .locked ∧ (1000 < m.offset ∨ m.offset < -1000)) →
      Completes (.ptpSyncRx port m) s fun t =>
        let d := s.tide.judgeSync alt m.offset s.tide.uptime
        t = { s with
          free := s.free + 1
          tide := { d with
            offset := max (-(2 ^ 31 - 1)) (min (2 ^ 31 - 1) m.offset)
            timeState := if 16 ≤ (if alt then d.lockAlt else d.lockPrimary) ∨ s.tide.timeState = .locked then .locked else .acquiring
            time := ((s.tide.time : Int) + Config.servo s.free).toNat % 2 ^ 64 } }) ∧
  (∀ (s : State) (port : Fin 8) (m : PtpSync), s.timeSrc = 1 → s.takesSync m = true → s.ptpPort = port → s.tide.timeState = .locked →
      s.tide.onAlt = false → 1000 < m.offset ∨ m.offset < -1000 →
      exec (.ptpSyncRx port m) s = .next (losePtp { s with tide := { s.tide.judgeSync false m.offset s.tide.uptime with
        offset := max (-(2 ^ 31 - 1)) (min (2 ^ 31 - 1) m.offset) } })) ∧
  (∀ (s : State) (port : Fin 8) (m : PtpSync), s.timeSrc = 1 → s.takesSync m = true → s.ptpPort ≠ port → s.ptpAltEn = true →
      s.ptpAlt = port → s.tide.timeState ≠ .holdover → s.tide.onAlt = false →
      exec (.ptpSyncRx port m) s = .next { s with tide := s.tide.judgeSync true m.offset s.tide.uptime }) ∧
  (∀ (s : State) (port : Fin 8) (m : PtpSync), s.timeSrc = 1 → s.takesSync m = true → s.ptpPort = port → s.tide.timeState = .holdover →
      s.tide.lockPrimary = 15 → (∃ l, s.tide.lastSyncPrimary = some l ∧ s.tide.uptime < l + 3000000000) → -100 ≤ m.offset → m.offset ≤ 100 →
      Completes (.ptpSyncRx port m) s fun t => t.tide.timeState = .locked ∧ t.tide.onAlt = false ∧ t.tide.lockPrimary = 16 ∧
        t.tide.time = ((s.tide.time : Int) + Config.servo s.free).toNat % 2 ^ 64 ∧ t.run = s.run ∧ t.ev = s.ev) ∧
  (∀ (d : Tide) (off : Int) (up : Nat), (d.judgeSync false off up).lockPrimary = (if -100 ≤ off ∧ off ≤ 100 then
        min 16 ((match d.lastSyncPrimary with | some l => if up < l + 3000000000 then d.lockPrimary else 0 | none => 0) + 1) else 0) ∧
      (d.judgeSync false off up).lastSyncPrimary = some up ∧ (d.judgeSync true off up).lastSyncAlt = some up ∧
      (d.judgeSync true off up).lockAlt = (if -100 ≤ off ∧ off ≤ 100 then
        min 16 ((match d.lastSyncAlt with | some l => if up < l + 3000000000 then d.lockAlt else 0 | none => 0) + 1) else 0)) ∧
  (∀ (s : State) (alt : Bool), s.timeSrc = 1 → s.tide.timeState = .locked ∨ s.tide.timeState = .acquiring → s.tide.onAlt = alt →
      syncFresh (if alt then s.tide.lastSyncAlt else s.tide.lastSyncPrimary) s.tide.uptime = false →
      s.tide.sourceSince + 3000000000 ≤ s.tide.uptime → alt = true ∨ s.ptpAltEn = false ∨ syncFresh s.tide.lastSyncAlt s.tide.uptime = false →
      exec .timeSourceLost s = .next (setEv .tide 0x20 { s with tide := (if alt then { s.tide with timeState := .holdover, lockAlt := 0 }
        else { s.tide with timeState := .holdover, lockPrimary := 0, primarySince := none }) })) ∧
  (∀ s : State, s.timeSrc = 1 → s.tide.timeState = .locked ∨ s.tide.timeState = .acquiring → s.tide.onAlt = false →
      syncFresh s.tide.lastSyncPrimary s.tide.uptime = false → s.tide.sourceSince + 3000000000 ≤ s.tide.uptime → s.ptpAltEn = true →
      syncFresh s.tide.lastSyncAlt s.tide.uptime = true →
      exec .timeSourceLost s = .next (setEv .tide 0x40 { s with tide := { s.tide with
        onAlt := true, lockPrimary := 0, primarySince := none, sourceSince := s.tide.uptime } })) ∧
  (∀ s : State, s.timeSrc = 2 → s.tide.timeState = .locked ∨ s.tide.timeState = .acquiring →
      s.tide.ppsHeard + 1500000000 ≤ s.tide.uptime → s.tide.sourceSince + 1500000000 ≤ s.tide.uptime →
      exec .timeSourceLost s = .next (setEv .tide 0x20 { s with tide := { s.tide with timeState := .holdover, ppsGood := 0 } })) ∧
  (∀ (s : State) (t0 : Nat), s.timeSrc = 1 → s.ptpAltEn = true → s.tide.onAlt = true → s.tide.primarySince = some t0 →
      t0 + 60000000000 ≤ s.tide.uptime → syncFresh s.tide.lastSyncPrimary s.tide.uptime = true →
      exec .ptpFailback s = .next (setEv .tide 0x40 { s with tide := { s.tide with onAlt := false, sourceSince := s.tide.uptime } })) ∧
  (∀ (s : State) (c : Dword), s.timeSrc = 2 → Completes (.ppsEdge c) s fun t =>
      let good := match s.tide.lastPps with | some l => decide (999999000 ≤ (c.toNat : Int) - l ∧ (c.toNat : Int) - l ≤ 1000001000) | none => false
      let n := if good then min 4 (s.tide.ppsGood + 1) else 0
      t = { s with
        free := s.free + 1
        tide := { s.tide with
          ppsGood := n, lastPps := some ((c.toNat : Int) + Config.servo s.free).toNat, ppsHeard := s.tide.uptime
          timeState := if n = 4 then .locked else if s.tide.timeState = .free then .acquiring else s.tide.timeState
          offset := if c.toNat % 10 ^ 9 < 5 * 10 ^ 8 then -(c.toNat % 10 ^ 9 : Int) else 10 ^ 9 - (c.toNat % 10 ^ 9 : Int)
          time := ((s.tide.time : Int) + Config.servo s.free).toNat % 2 ^ 64 } })

/-- R34, R35, R36, R37, R38, R39, R41, R45, R51, R52: where no group is armed, so that nothing applies at the start,
(1) the first start of a job by a mark, (2) a RESTART mark, and (3) the next start by an edge, which enters its
interval; (4) a malformed or foreign mark is counted and discarded; (5) with pairing, a mark waits for an edge, and
(6) an edge for a mark; (7) a mark that finds its edge is judged at the edge's time; (8) a mark and (9) an edge whose
pairing window passes alone are judged alone; (10) an edge in the barrier releases it and starts the start step, and
(11) the level of the pin follows a falling edge and nothing else does; (12) while the Pilots run, every budget and
latest-start time is then computed again, and a stage whose new time has not come may arrive again. -/
def Obligations.StepStarts : Prop :=
  (∀ (s : State) (d : MarkDatagram) (j : Job) (step seq : Nat) (start : Option Nat), d.destPort = fieldOf s.applied.tideMarkPort 0 16 →
      s.run.job = some j → s.run.ending = false → s.run.clearing = false → j.coords.contains d.source = true →
      parseMark s.applied.tideJobId d.payload = some (step, false, start, seq) → s.stepSrc = 0 →
      s.tide.stepState = .none → s.arms = [] →
      Completes (.stepMarkDatagram d) s fun t => t.run = { s.run with accepted := true } ∧ t.media = s.media ∧ t.tide = { s.tide with
        afterRelease := false, step := step, seed := some (s.tide.seed.getD s.period)
        startTime := ((match start with | some v => min d.rx.toNat v | none => d.rx.toNat : Nat) : Int)
        stepState := if s.tide.window.length < 16 then .seeded else .tracking, lastSeq := some seq
        recent := (step :: s.tide.recent).take 16, accepts := s.tide.accepts + 1, recomputeDue := true }) ∧
  (∀ (s : State) (d : MarkDatagram) (j : Job) (step seq : Nat) (start : Option Nat), d.destPort = fieldOf s.applied.tideMarkPort 0 16 →
      s.run.job = some j → s.run.ending = false → s.run.clearing = false → j.coords.contains d.source = true →
      parseMark s.applied.tideJobId d.payload = some (step, true, start, seq) → s.stepSrc = 0 → s.arms = [] →
      Completes (.stepMarkDatagram d) s fun t => t.run = { s.run with accepted := true } ∧ t.media = s.media ∧ t.tide.step = step ∧ t.tide.window = [] ∧
        t.tide.seed = some s.period ∧ t.tide.stepState = .seeded ∧ t.tide.accepts = s.tide.accepts + 1 ∧ t.ev.tide = s.ev.tide ||| 8) ∧
  (∀ (s : State) (d : MarkDatagram) (j : Job), d.destPort = fieldOf s.applied.tideMarkPort 0 16 → s.run.job = some j → s.run.ending = false →
      s.run.clearing = false → j.coords.contains d.source = false ∨ parseMark s.applied.tideJobId d.payload = none →
      exec (.stepMarkDatagram d) s = .next (setEv .tide 4 { s with tide := { s.tide with markRejects := s.tide.markRejects + 1 } })) ∧
  (∀ (s : State) (d : MarkDatagram) (j : Job) (step seq : Nat) (start : Option Nat) (restart : Bool),
      d.destPort = fieldOf s.applied.tideMarkPort 0 16 → s.run.job = some j → s.run.ending = false → s.run.clearing = false →
      j.coords.contains d.source = true → parseMark s.applied.tideJobId d.payload = some (step, restart, start, seq) → s.stepSrc = 2 →
      s.tide.edges = [] →
      exec (.stepMarkDatagram d) s = .next { s with tide := { s.tide with marks := s.tide.marks ++
        [⟨step, restart, (match start with | some v => min d.rx.toNat v | none => d.rx.toNat : Nat), seq, d.rx.toNat⟩] } }) ∧
  (∀ (s : State) (d : MarkDatagram) (j : Job) (step seq e : Nat) (t0 : Int) (start : Option Nat) (restart : Bool),
      d.destPort = fieldOf s.applied.tideMarkPort 0 16 → s.run.job = some j → s.run.ending = false → s.run.clearing = false →
      j.coords.contains d.source = true → parseMark s.applied.tideJobId d.payload = some (step, restart, start, seq) → s.stepSrc = 2 →
      s.tide.edges = [(t0, e)] → (e : Int) - d.rx.toNat ≤ (s.period / 4 : Nat) → (d.rx.toNat : Int) - e ≤ (s.period / 4 : Nat) →
      exec (.stepMarkDatagram d) s = .next (judge step t0 restart (some seq) { s with tide := { s.tide with edges := [] } })) ∧
  (∀ (s : State) (c : Dword), s.tide.barrier = .idle → s.jobOpen = true → s.stepSrc = 1 →
      s.tide.stepState ≠ .none → s.tide.stepState ≠ .lost → s.tide.afterRelease = false → s.arms = [] → s.tide.step + 1 < 2 ^ 48 →
      s.applied.tideMinInterval.toNat * 1000 ≤ (c.toNat : Int) - s.applied.tideSyncDelay.toNat - s.tide.startTime →
      Completes (.syncInEdge c true) s fun t => t.tide.syncIn = true ∧ t.tide.step = s.tide.step + 1 ∧
        t.tide.startTime = (c.toNat : Int) - s.applied.tideSyncDelay.toNat ∧
        t.tide.window = pushInterval s.tide.window (some (t.tide.startTime - s.tide.startTime).toNat) ∧
        t.tide.accepts = s.tide.accepts + 1 ∧ t.tide.recomputeDue = true ∧ t.run = { s.run with accepted := true } ∧ t.egr = s.egr ∧ t.media = s.media) ∧
  (∀ (s : State) (c : Dword), s.tide.barrier = .idle → s.jobOpen = true → s.stepSrc = 2 → s.tide.marks = [] →
      exec (.syncInEdge c true) s = .next { s with tide := { s.tide with
        syncIn := true, edges := s.tide.edges ++ [((c.toNat : Int) - s.applied.tideSyncDelay.toNat, c.toNat)] } }) ∧
  (∀ (s : State) (c : Dword), s.tide.barrier ≠ .idle → s.arms = [] →
      Completes (.syncInEdge c true) s fun t => t.tide.barrier = .idle ∧ t.tide.syncOut = false ∧ t.tide.syncIn = true ∧
        t.tide.step = s.startStep ∧ t.tide.startTime = (c.toNat : Int) - s.applied.tideSyncDelay.toNat ∧ t.tide.window = s.tide.window ∧
        t.tide.afterRelease = true ∧ t.tide.accepts = s.tide.accepts + 1 ∧ t.run = { s.run with accepted := true } ∧ t.media = s.media ∧
        t.ev.tide = s.ev.tide ||| (if s.tide.barrier = .armed then 0x180 else 0x100)) ∧
  (∀ (s : State) (c : Dword), exec (.syncInEdge c false) s = .next { s with tide := { s.tide with syncIn := false } }) ∧
  (∀ (s : State) (a : PendMark), s.tide.edges = [] → s.tide.marks = [a] → a.restart = false → a.arrived + s.period / 4 < s.tide.time →
      s.tide.stepState = .none → s.arms = [] →
      Completes .markPairWindowExpiry s fun t => t.tide.marks = [] ∧ t.tide.step = a.step ∧ t.tide.startTime = a.t ∧
        t.tide.lastSeq = some a.seq ∧ t.ev.tide = s.ev.tide ||| 0x80 ∧ t.run = { s.run with accepted := true }) ∧
  (∀ (s : State) (t0 : Int) (e : Nat), s.tide.edges = [(t0, e)] → s.tide.marks = [] → e + s.period / 4 < s.tide.time →
      s.tide.stepState = .none → s.arms = [] →
      Completes .markPairWindowExpiry s fun t => t.tide.edges = [] ∧ t.tide.step = s.startStep ∧ t.tide.startTime = t0 ∧
        t.tide.lastSeq = s.tide.lastSeq ∧ t.ev.tide = s.ev.tide ∧ t.run = { s.run with accepted := true }) ∧
  (∀ s : State, s.pilotsRun = true → s.tide.recomputeDue = true ∨ s.tide.recomputeOp = true →
      exec .deadlineRecomputeDone s = .next { s with
        tide := { s.tide with recomputeDue := false, recomputeOp := false }
        run := { s.run with
          requests := s.run.requests.map fun r =>
            match s.stream? r.key.stream, s.batch? r.key.stream r.key.batch with
            | some t, some b =>
              let bs := ((s.partFor t).map fun d => stageBudgets t.cls (r.size? d) r.cacheHit r.spd s).getD r.budgets
              let u := { r with budgets := bs, latest := latestStarts t b bs s }
              { u with arrived := u.arrived.filter fun st => u.due st s.tide.time }
            | _, _ => r } })

/-- R38, R40, R41, R50, R57: of an owner whose accesses are heard, (1) a snapshot of step, phase, time, estimate and
start goes to its writer alone, (2) CANCEL and (3) ARM move the barrier, and (4) RESTART_EST clears the window and
keeps the estimate as its seed; (5) an armed barrier is ready once every batch of the start step has its trailer
acknowledged, and (6) the step is lost after LOST_MULT periods without a start. -/
def Obligations.TideControl : Prop :=
  (∀ s : State, (s.heard .portA = true → exec (.tideSnap .portA) s = .next { s with tide := { s.tide with snapA := tideSnapshot s } }) ∧
      (s.heard .portB = true → exec (.tideSnap .portB) s = .next { s with tide := { s.tide with snapB := tideSnapshot s } }) ∧
      (s.heard .harbourmaster = true → exec (.tideSnap .harbourmaster) s = .next { s with tide := { s.tide with snapHm := tideSnapshot s } }) ∧
      (s.heard .debug = true → exec (.tideSnap .debug) s = .next { s with tide := { s.tide with snapDbg := tideSnapshot s } }) ∧
      tideSnapshot s = ⟨s.step, s.phase, s.tide.time, s.period % 2 ^ 40, (if s.tide.stepState = .none then 0 else s.tide.startTime).toNat % 2 ^ 64⟩) ∧
  (∀ (s : State) (o : Owner), s.heard o = true → s.tide.barrier ≠ .idle →
      exec (.tideCancel o) s = .next { s with tide := { s.tide with barrier := .idle, syncOut := false } }) ∧
  (∀ (s : State) (o : Owner), s.heard o = true → s.tide.barrier = .idle →
      exec (.tideArm o) s = .next { s with tide := { s.tide with barrier := .armed } }) ∧
  (∀ (s : State) (o : Owner), s.heard o = true → exec (.tideRestartEst o) s = .next { s with tide := { s.tide with
        window := [], seed := some s.period, stepState := if s.tide.stepState = .tracking then .seeded else s.tide.stepState } }) ∧
  (∀ s : State, s.tide.barrier = .armed → (∀ b ∈ s.run.batches, b.dlStep = s.startStep → b.headerAcked = true) →
      exec .barrierReady s = .next { s with tide := { s.tide with barrier := .ready, syncOut := true } }) ∧
  (∀ s : State, s.tide.stepState = .seeded ∨ s.tide.stepState = .tracking →
      (s.lostMult * s.period : Nat) ≤ (s.tide.time : Int) - s.tide.startTime →
      exec .stepLost s = .next (setEv .tide 0x10 { s with tide := { s.tide with stepState := .lost } }))

/-- R24, R25, R44, R47, R48, R68, R69, R71, R76, R78, R79, R82, R128, R140, R425: (1) a position or candidate that
waits for a unit is admitted when the unit has its turn, and walks from its input; (2) the admission of a position of
a batch that is not yet formed forms the batch, the next of its stream, and then admits; (3) a pass on whose words the
two pipelines disagree is CORRECTED and made again, (4) a second disagreement takes the unit out of service; (5) a
pass whose value lies outside the space is followed by another, the 32nd counted a long walk, and (6) one whose value
lies inside ends the walk; (7) an issue draws its buffers, begins its batch, takes its engines and starts what its
lookup found; (8) a request that holds a form goes on to its read; (9) a failed draw leaves the request in its list
and counts; (10) an own sample with an entry in effect fails without a read, and (11) such a candidate is rejected;
(12) a form read from a cache counts its hit, drops its pin and goes to the next stage of its class; (13) a
latest-start time arrives once, marks a request that has not started the stage, where its class has it, and is late as
at risk, and (14) at the pack stage out of strict mode looks for a deadline substitute, which (15) strict mode does
not. -/
def Obligations.PositionsAndIssue : Prop :=
  (∀ (s : State) (k : ReqKey) (n : Fin 8) (pl : Plan) (r : Request) (t : Stream) (d : Partition) (c : Option Nat), Serves k r t d s →
      mayForm k t s = false → r.phase = .waitUnit c → mayAdmit r n s = true →
      exec (.permPositionAdmit k n pl) s = .next (s.modReq k fun q =>
        { q with phase := .walking c (t.input d (reqPlace t d k).2) 0 false, spd := n })) ∧
  (∀ (s u : State) (k : ReqKey) (n : Fin 8) (pl : Plan) (r : Request) (t : Stream) (d : Partition), s.stream? k.stream = some t →
      s.partFor t = some d → mayForm k t s = true → u = formBatch t d k.batch pl s → u.req? k = some r →
      exec (.permPositionAdmit k n pl) s = .next (if mayAdmit r n u then beginWalk k n u else u)) ∧
  (∀ (s : State) (k : ReqKey) (r : Request) (t : Stream) (d : Partition) (x n : Nat) (c : Option Nat), Serves k r t d s →
      r.phase = .walking c x n false → s.clocked r.spd = true →
      exec (.permPassDone k false) s = .next (countCorrected r.spd ((countPerf r.spd 0x802 s).modReq k fun q =>
        { q with phase := .walking c x n true }))) ∧
  (∀ (s : State) (k : ReqKey) (r : Request) (t : Stream) (d : Partition) (x n : Nat) (c : Option Nat), Serves k r t d s →
      r.phase = .walking c x n true → s.clocked r.spd = true →
      exec (.permPassDone k false) s = .next (permUnitFails r.spd (countPerf r.spd 0x802 s))) ∧
  (∀ (s : State) (k : ReqKey) (r : Request) (t : Stream) (d : Partition) (x y n : Nat) (again : Bool) (c : Option Nat), Serves k r t d s →
      r.phase = .walking c x n again → s.clocked r.spd = true →
      (reqWalk s.seed t d (reqPlace t d k).1 (reqPlace t d k).2 c).pass (halfWidth (t.space d)) x = y → t.space d ≤ y →
      exec (.permPassDone k true) s = .next ((if n + 1 = 32 then fun u => countFixed r.spd 14 (countPerf r.spd 0x801 u) else fun u => u)
        ((countPerf r.spd 0x800 s).modReq k fun q => { q with phase := .walking c y (n + 1) again }))) ∧
  (∀ (s : State) (k : ReqKey) (r : Request) (t : Stream) (d : Partition) (x y n : Nat) (again : Bool) (c : Option Nat), Serves k r t d s →
      r.phase = .walking c x n again → s.clocked r.spd = true →
      (reqWalk s.seed t d (reqPlace t d k).1 (reqPlace t d k).2 c).pass (halfWidth (t.space d)) x = y → y < t.space d →
      exec (.permPassDone k true) s = .next (endWalk k t d c y (countPerf r.spd 0x800 s))) ∧
  (∀ (s u : State) (k : ReqKey) (r : Request) (t : Stream) (p : Partition) (d : Spd) (f : Found), Serves k r t p s → mayIssue r s = true →
      r.form = none → r.given = true ∨ p.listed r.sample r.remote (reqPlace t p k).1 = false → (beginBatch k s).spd? r.spd = some d →
      lookupSample t p r d = f → issueDraw t p r f s = .ok u →
      exec (.requestIssue k) s = .next (startFound t p r f (countFound r.spd f (issueTakes t p r u)))) ∧
  (∀ (s u : State) (k : ReqKey) (r : Request) (t : Stream) (p : Partition) (d : Spd) (f : Form), Serves k r t p s → mayIssue r s = true →
      r.form = some f → (beginBatch k s).spd? r.spd = some d → issueDraw t p r (lookupSample t p r d) s = .ok u →
      exec (.requestIssue k) s = .next (startStage k .decode ((issueTakes t p r u).modReq k fun q => { q with phase := .cacheRead }))) ∧
  (∀ (s : State) (k : ReqKey) (r : Request) (t : Stream) (p : Partition) (d : Spd) (part : Nat), Serves k r t p s → mayIssue r s = true →
      r.form.isSome = true ∨ r.given = true ∨ p.listed r.sample r.remote (reqPlace t p k).1 = false →
      (beginBatch k s).spd? r.spd = some d → issueDraw t p r (lookupSample t p r d) s = .error part →
      exec (.requestIssue k) s = .next (drawFailed r.spd part s)) ∧
  (∀ (s : State) (k : ReqKey) (r : Request) (t : Stream) (p : Partition), Serves k r t p s → mayIssue r s = true → r.form = none →
      r.given = false → p.listed r.sample r.remote (reqPlace t p k).1 = true → r.tryIdx = none →
      exec (.requestIssue k) s = .next (failSample k 0x0900 false (beginBatch k s))) ∧
  (∀ (s : State) (k : ReqKey) (r : Request) (t : Stream) (p : Partition) (j : Nat), Serves k r t p s → mayIssue r s = true → r.form = none →
      r.given = false → p.listed r.sample r.remote (reqPlace t p k).1 = true → r.tryIdx = some j →
      exec (.requestIssue k) s = .next (chainNext k s)) ∧
  (∀ (s u : State) (k : ReqKey) (r : Request) (t : Stream) (p : Partition) (f : Form), Serves k r t p s → r.phase = .cacheRead → r.form = some f →
      u = ((unpinReq r (countLookup r.spd true true s)).modReq k fun q => { q with pinned := false }) →
      exec (.cacheReadDone k) s = .next (if t.cls ≤ 2 then startTransform { r with pinned := false } t p f u
        else if t.cls = 4 then u.modReq k fun q => { q with phase := .waitPlace } else enterPack k u)) ∧
  (∀ (s u : State) (k : ReqKey) (g : Stage) (r : Request) (t : Stream) (b : Batch) (p : Partition) (z : Int), Serves k r t p s →
      s.batch? k.stream k.batch = some b → r.latest[stageIndex g]? = some z → z ≤ s.tide.time → r.arrived.contains g = false →
      u = (s.modReq k fun q => { q with arrived := g :: q.arrived }) → g ≠ .pack ∨ r.undecoded = false ∨ r.masked = true →
      exec (.latestStartReached k g) s =
        .next (if !stageRuns t.cls r.cacheHit (stageIndex g) || r.started g || decide (z = s.tide.time) then u else markRisk k u)) ∧
  (∀ (s u v : State) (k : ReqKey) (r : Request) (t : Stream) (b : Batch) (p : Partition) (z : Int), Serves k r t p s →
      s.batch? k.stream k.batch = some b → r.latest[(5 : Nat)]? = some z → z ≤ s.tide.time → r.arrived.contains .pack = false →
      b.strictNow s = false → b.rerun = false → r.masked = false → r.undecoded = true →
      u = (s.modReq k fun q => { q with arrived := .pack :: q.arrived }) → v = (if z = s.tide.time then u else markRisk k u) →
      exec (.latestStartReached k .pack) s = .next (match cachedCandidate t p k r v with
        | none => v
        | some (n, i, remote, c) => replan k true (countPerf (v.homeOf i) 0x603 ((cacheHit (v.homeOf i) true p.dsSlot i remote t.num
            (t.position k.batch k.slot) (backToReady k v)).modReq k fun q =>
              { q with tryIdx := some n, sample := i, remote := remote, spd := v.homeOf i, form := some c.form, pinned := true
                       given := false, decDigest := c.digest, lateSub := true, sub := false, cause := 6, avoid := none
                       avoidTe := none, avoidPe := none })))) ∧
  (∀ (s u : State) (k : ReqKey) (r : Request) (t : Stream) (b : Batch) (p : Partition) (z : Int), Serves k r t p s →
      s.batch? k.stream k.batch = some b → r.latest[(5 : Nat)]? = some z → z ≤ s.tide.time → r.arrived.contains .pack = false →
      b.strictNow s = true ∨ b.rerun = true → u = (s.modReq k fun q => { q with arrived := .pack :: q.arrived }) →
      exec (.latestStartReached k .pack) s =
        .next (if r.started .pack || decide (z = s.tide.time) then u else markRisk k u))

/-- R74, R78, R84, R103: (1) a request whose peers have all failed and which waits asks them again, from the first,
100 µs after the last failure; (2) out of strict mode and of a re-run, with no answer to its read under way, it is
given up TIDE_GUARD past the latest start of its flash stage, with a detail of PEER_UNREACHABLE; (3) the entries of an
index and a scope become durable when the defect list is programmed, and (4) not on a QS medium, which takes no
program. -/
def Obligations.PeersAndDefects : Prop :=
  (∀ (s : State) (k : ReqKey) (r : Request) (t : Stream) (d : Partition), Serves k r t d s → r.phase = .peerWait →
      (peersFor t d r).length ≤ r.peerIdx → r.peerSince + 100000 ≤ s.tide.uptime →
      exec (.peerRoundRetry k) s = .next (askPeers k 1024 (s.modReq k fun q => { q with peerIdx := 0, peerSoft := false }))) ∧
  (∀ (s : State) (k : ReqKey) (r : Request) (b : Batch) (z : Int), s.req? k = some r → s.batch? k.stream k.batch = some b →
      r.latest[(2 : Nat)]? = some z → r.phase = .peerWait → b.strict = false → b.rerun = false →
      z + s.applied.tideGuard.toNat ≤ s.tide.time → (s.anyWr fun w => w == .peerRead k) = false →
      exec (.peerReadGiveUp k) s = .next (failSample k 0x0800 true s)) ∧
  (∀ (s : State) (slot i : Nat) (g : Bool), s.media.qsLayout = false → exec (.defectEntryDurable slot i g) s = .next (programMedia
      (Media.writeDefects slot s.tide.uptime) { s with media := { s.media with
        partitions := s.media.partitions.map fun p => if p.dsSlot = slot then
          { p with defects := p.defects.map fun x => if x.index = i ∧ x.global = g then { x with durable := true } else x } else p } })) ∧
  (∀ (s : State) (slot i : Nat) (g : Bool), s.media.qsLayout = true → exec (.defectEntryDurable slot i g) s = .next s)

/-- R104, R106, R123, R128, R134, R135, R140, R148, R156, R157, R159, R160, R161, R222, R224, R480, R501: (1) the
units of a sample that all stand and decode are counted, the sample is offered to the raw cache and goes on to its
decode or tokenisation; (2) where one fails, the sample fails with MEDIA_UE; (3) a spilled form that reads goes on
without a decode, and (4) one that does not is dropped, and its sample is read from flash or its peers; (5) an empty
sample fails with EMPTY; (6) a decode whose wrappers fail ends with their detail, (7) one whose layer finds no buffer
returns to the ready list; (8) of an unwrapped payload, a bad header gives its detail, (9) a limit passed gives its
detail, (10) buffers not to be had return the request, (11) a payload that fails gives its detail, and (12) one that
decodes gives the form, with its digest, offered to the decoded cache unless it is a clip, and goes on to what
follows; (13) a fault of an engine in service is CONTAINED; the engine resets, and leaves service at the third fault
within 24 h; an engine out or resetting faults no more; (14) a Decode Engine's fault sets its event; (15) the first of
a request sends it back to its ready list, avoiding that engine, and (16) the second fails its sample with
ENGINE_FAULT; (17) to (19) the same of a Tokeniser Engine; (20) an engine that passes its reset test is free again,
and a pack stage that waits takes a Pack Engine, and (21) one that fails leaves service, with reason ENGINE_OUT. -/
def Obligations.DecodeStageCompletes : Prop :=
  (∀ (s u : State) (k : ReqKey) (cs : List CodewordResult) (r : Request) (t : Stream) (p : Partition) (us : List (Nat × List CodewordResult)),
      Serves k r t p s → r.phase = .flash → r.spill = none → (readUnits p r).zip (cutGroups 8 cs) = us →
      ((readUnits p r).any fun l => s.media.reloadSegments.contains (segmentOfLua l)) = false → readGood (readUnits p r) us s = true →
      unitsCounted us s = u →
      exec (.flashReadDone k cs) s = .next (enterPhase k (if t.cls = 4 then .tokenise else .decode)
        (if t.cls = 4 then .transform else .decode)
        ((cacheAdmit r.spd false p.dsSlot r.sample false ⟨[], p.sampleBytes r.sample⟩ 0 none u).modReq k
          fun q => { q with encoded := p.sampleBytes r.sample }))) ∧
  (∀ (s u : State) (k : ReqKey) (cs : List CodewordResult) (r : Request) (t : Stream) (p : Partition) (us : List (Nat × List CodewordResult)),
      Serves k r t p s → r.phase = .flash → r.spill = none → (readUnits p r).zip (cutGroups 8 cs) = us →
      ((readUnits p r).any fun l => s.media.reloadSegments.contains (segmentOfLua l)) = false → readGood (readUnits p r) us s = false →
      unitsCounted us s = u →
      exec (.flashReadDone k cs) s = .next (failSample k 0x0100 false u)) ∧
  (∀ (s u : State) (k : ReqKey) (cs : List CodewordResult) (r : Request) (t : Stream) (p : Partition) (us : List (Nat × List CodewordResult))
      (e : CacheEntry), Serves k r t p s → r.phase = .flash → r.spill = some e → e.luas.zip (cutGroups 8 cs) = us →
      (e.luas.any fun l => s.media.reloadSegments.contains (segmentOfLua l)) = false → readGood e.luas us s = true → unitsCounted us s = u →
      exec (.flashReadDone k cs) s = .next (takeForm { r with spill := none, form := some e.form, decDigest := e.digest } t p e.form
        (u.modReq k fun q => { q with spill := none, form := some e.form, decDigest := e.digest }))) ∧
  (∀ (s u v : State) (k : ReqKey) (cs : List CodewordResult) (r : Request) (t : Stream) (p : Partition) (us : List (Nat × List CodewordResult))
      (e : CacheEntry), Serves k r t p s → r.phase = .flash → r.spill = some e → e.luas.zip (cutGroups 8 cs) = us →
      (e.luas.any fun l => s.media.reloadSegments.contains (segmentOfLua l)) = false → readGood e.luas us s = false → unitsCounted us s = u →
      v = (keepSpill r.spd (fun es => es.filter fun x => !x.isFor e.dsSlot e.index e.remote) u).modReq k (fun q => { q with spill := none }) →
      exec (.flashReadDone k cs) s = .next (if r.remote then askPeers k 1024 (v.modReq k fun q => { q with phase := .peerWait }) else v)) ∧
  (∀ (s : State) (k : ReqKey) (i : DecodeInput) (r : Request) (t : Stream) (p : Partition), Serves k r t p s → r.phase = .decode → r.encoded = [] →
      exec (.decodeDone k i) s = .next (decodeFail r 0x201 (rawReadDone r s))) ∧
  (∀ (s u : State) (k : ReqKey) (i : DecodeInput) (r : Request) (t : Stream) (p : Partition) (d : Nat), Serves k r t p s →
      Unwraps r t p s (.fails d) u → exec (.decodeDone k i) s = .next (decodeFail r d u)) ∧
  (∀ (s u : State) (k : ReqKey) (i : DecodeInput) (r : Request) (t : Stream) (p : Partition), Serves k r t p s → Unwraps r t p s .noRoom u →
      exec (.decodeDone k i) s = .next (berthRetry k u)) ∧
  (∀ (s u : State) (k : ReqKey) (i : DecodeInput) (r : Request) (t : Stream) (p : Partition) (bs : List Byte) (d : Nat), Serves k r t p s →
      Unwraps r t p s (.payload bs) u → headPayload t.dec bs i.moreFrames = .error d →
      exec (.decodeDone k i) s = .next (decodeFail r d u)) ∧
  (∀ (s u v : State) (k : ReqKey) (i : DecodeInput) (r : Request) (t : Stream) (p : Partition) (bs : List Byte) (h q : Parsed) (d : Nat),
      Serves k r t p s → Unwraps r t p s (.payload bs) u → headPayload t.dec bs i.moreFrames = .ok h →
      indexedHdr (keptIndex r.spd p.dsSlot r.sample r.remote u) h = q → keepIndex r.spd p.dsSlot r.sample r.remote q.hdr u = v →
      headLimits t.dec (roiOf u (videoWindow t (slotDraw u.seed t p k) q.hdr)) ((slotDraw u.seed t p k 1 0xF0 0).word 0) i.working q.hdr = some d →
      exec (.decodeDone k i) s = .next (decodeFail r d v)) ∧
  (∀ (s u v w : State) (k : ReqKey) (i : DecodeInput) (r : Request) (t : Stream) (p : Partition) (bs : List Byte) (h q : Parsed)
      (x : Option Region), Serves k r t p s → Unwraps r t p s (.payload bs) u → headPayload t.dec bs i.moreFrames = .ok h →
      indexedHdr (keptIndex r.spd p.dsSlot r.sample r.remote u) h = q → keepIndex r.spd p.dsSlot r.sample r.remote q.hdr u = v →
      videoWindow t (slotDraw u.seed t p k) q.hdr = x →
      headLimits t.dec (roiOf u x) ((slotDraw u.seed t p k 1 0xF0 0).word 0) i.working q.hdr = none →
      reqDrawBerths r t p (decodeDraws t.dec (roiOf v x) q.hdr i.working) v = (false, w) →
      exec (.decodeDone k i) s = .next (berthRetry k w)) ∧
  (∀ (s u v w : State) (k : ReqKey) (i : DecodeInput) (r : Request) (t : Stream) (p : Partition) (bs : List Byte) (h q : Parsed)
      (x : Option Region) (d : Nat), Serves k r t p s → Unwraps r t p s (.payload bs) u → headPayload t.dec bs i.moreFrames = .ok h →
      indexedHdr (keptIndex r.spd p.dsSlot r.sample r.remote u) h = q → keepIndex r.spd p.dsSlot r.sample r.remote q.hdr u = v →
      videoWindow t (slotDraw u.seed t p k) q.hdr = x →
      headLimits t.dec (roiOf u x) ((slotDraw u.seed t p k 1 0xF0 0).word 0) i.working q.hdr = none →
      reqDrawBerths r t p (decodeDraws t.dec (roiOf v x) q.hdr i.working) v = (true, w) →
      payloadValues t.dec (roiOf v x) ((slotDraw v.seed t p k 1 0xF0 0).word 0) q bs i = .error d →
      exec (.decodeDone k i) s = .next (decodeFail r d w)) ∧
  (∀ (s u v w : State) (k : ReqKey) (i : DecodeInput) (r : Request) (t : Stream) (p : Partition) (bs : List Byte) (h q : Parsed)
      (x : Option Region) (vs : List Int) (f : Form), Serves k r t p s → Unwraps r t p s (.payload bs) u →
      headPayload t.dec bs i.moreFrames = .ok h → indexedHdr (keptIndex r.spd p.dsSlot r.sample r.remote u) h = q →
      keepIndex r.spd p.dsSlot r.sample r.remote q.hdr u = v → videoWindow t (slotDraw u.seed t p k) q.hdr = x →
      headLimits t.dec (roiOf u x) ((slotDraw u.seed t p k 1 0xF0 0).word 0) i.working q.hdr = none →
      reqDrawBerths r t p (decodeDraws t.dec (roiOf v x) q.hdr i.working) v = (true, w) →
      payloadValues t.dec (roiOf v x) ((slotDraw v.seed t p k 1 0xF0 0).word 0) q bs i = .ok vs →
      decodeForm t.dec (roiOf v x) ((slotDraw v.seed t p k 1 0xF0 0).word 0) q.hdr i.content vs = f →
      Completes (.decodeDone k i) s fun z =>
        let b := (w.onlyIf (roiFallback v t.dec (roiOf v x) ((slotDraw v.seed t p k 1 0xF0 0).word 0) q.hdr i.units) (setEv .dec 0x10)).modReq k
          fun q => { q with form := some f, decDigest := crc64 (f.desc ++ f.data), window := x }
        z = takeForm { r with window := x } t p f (if x.isSome then b
          else cacheAdmit r.spd true p.dsSlot r.sample r.remote f (crc64 (f.desc ++ f.data)) t.formParams b)) ∧
  (∀ (s : State) (n : Fin 8) (k : EngineKind) (i : Nat) (d : Spd) (e : Engine) (m : Nat), s.spd? n = some d → (d.engines k)[i]? = some e →
      (within24h s.tide.uptime e.faults).length = m →
      (e.state = .out ∨ e.state = .resetting → engineFault n k i s = (none, s)) ∧
      (e.state = .free → m < 3 → engineFault n k i s = (none, countContained (s.setEngine n k i fun e =>
        { e with faults := within24h s.tide.uptime e.faults, state := .resetting }))) ∧
      (∀ q : ReqKey, e.state = .held q → m < 3 → (engineFault n k i s).1 = some q)) ∧
  (∀ (s u : State) (n : Fin 8) (e : Fin 48), s.clocked n = true → engineFault n .de e s = (none, u) → exec (.decodeEngineFault n e) s = .next (setEv .dec 8 u)) ∧
  (∀ (s u : State) (n : Fin 8) (e : Fin 48) (k : ReqKey) (r : Request), s.clocked n = true → engineFault n .de e s = (some k, u) →
      (setEv .dec 8 u).req? k = some r → r.deFaults = 0 →
      exec (.decodeEngineFault n e) s = .next ((backToReady r.key (setEv .dec 8 u)).modReq r.key fun q =>
        { q with deFaults := q.deFaults + 1, avoid := some e })) ∧
  (∀ (s u : State) (n : Fin 8) (e : Fin 48) (k : ReqKey) (r : Request), s.clocked n = true → engineFault n .de e s = (some k, u) →
      (setEv .dec 8 u).req? k = some r → 1 ≤ r.deFaults →
      exec (.decodeEngineFault n e) s = .next (decodeFail r 0x209 (setEv .dec 8 u))) ∧
  (∀ (s u : State) (n : Fin 8) (e : Fin 8), s.clocked n = true → engineFault n .ke e s = (none, u) → exec (.txtEngineFault n e) s = .next (setEv .txt 8 u)) ∧
  (∀ (s u : State) (n : Fin 8) (e : Fin 8) (k : ReqKey) (r : Request), s.clocked n = true → engineFault n .ke e s = (some k, u) →
      (setEv .txt 8 u).req? k = some r → r.deFaults = 0 →
      exec (.txtEngineFault n e) s = .next ((backToReady r.key (setEv .txt 8 u)).modReq r.key fun q =>
        { q with deFaults := q.deFaults + 1, avoid := some e })) ∧
  (∀ (s u : State) (n : Fin 8) (e : Fin 8) (k : ReqKey) (r : Request), s.clocked n = true → engineFault n .ke e s = (some k, u) →
      (setEv .txt 8 u).req? k = some r → 1 ≤ r.deFaults →
      exec (.txtEngineFault n e) s = .next (txtFail r 0x20A (setEv .txt 8 u))) ∧
  (∀ (s : State) (n : Fin 8) (k : EngineKind) (i : Nat) (d : Spd) (e : Engine), s.spd? n = some d → (d.engines k)[i]? = some e →
      e.state = .resetting → s.clocked n = true →
      exec (.engineResetDone n k i true) s = .next ((s.setEngine n k i fun e => { e with state := .free }).each
        (s.run.requests.filter fun r => k == .pe && r.spd == (n : Nat)) fun r => packTakes r.key)) ∧
  (∀ (s : State) (n : Fin 8) (k : EngineKind) (i : Nat) (d : Spd) (e : Engine), s.spd? n = some d → (d.engines k)[i]? = some e →
      e.state = .resetting → s.clocked n = true →
      exec (.engineResetDone n k i false) s = .next (engineOut n k i (s.setEngine n k i fun e => { e with state := .out })))

/-- R176, R195, R196, R201, R203, R480: (1) the output of a transform is the transform of the decoded form, with its
digest; its second engine is free again and the pack stage begins; (2) a residue mismatch of an engine that no request
holds does nothing; (3) one of an engine held is counted, and the engine is free again, or, at the limit of CFG_XF
within 24 h, leaves service; (4) the first of a stage starts the stage again from its input on another engine, (5) the
second fails the sample with RESIDUE, and (6) where the request is in another stage nothing starts again; (7) a
waiting stage takes an engine that is free; (8) a fault of an engine in service sets its event, (9) the first of a
stage under way starts it again on another engine, (10) before its stage the request gives the engine up, and (11) the
second fails the sample with ENGINE_FAULT. -/
def Obligations.TransformStageCompletes : Prop :=
  (∀ (s : State) (k : ReqKey) (r : Request) (t : Stream) (p : Partition) (f o : Form), Serves k r t p s → r.form = some f → r.phase = .transform →
      transformForm t.xf (slotDraw s.seed t p k) r.window f = o →
      exec (.transformDone k) s = .next (enterPack k ((freeSecond r .te s).modReq k fun q =>
        { q with xfForm := some o, xfDigest := crc64 (o.desc ++ o.data) }))) ∧
  (∀ (s : State) (n : Fin 8) (i : Fin 32) (d : Spd) (e : Engine), s.spd? n = some d → d.te[(i : Nat)]? = some e → s.clocked n = true →
      (∀ k : ReqKey, e.state ≠ .held k) → exec (.residueMismatch n i) s = .next s) ∧
  (∀ (s : State) (n : Fin 8) (i : Fin 32) (e : Engine), mismatched n i e s =
      (let x := (countCorrected n (countPerf n 0x900 (setEv .xf 1 { s with cnt := { s.cnt with xfResCnt := s.cnt.xfResCnt + 1 } }))).setEngine
          n .te i (fun y => { y with mismatches := within24h s.tide.uptime e.mismatches
                                     state := if max 1 (fieldOf s.applied.cfgXf 8 4) ≤ (within24h s.tide.uptime e.mismatches).length then .out else .free })
       if max 1 (fieldOf s.applied.cfgXf 8 4) ≤ (within24h s.tide.uptime e.mismatches).length then engineOut n .te i x else x)) ∧
  (∀ (s u : State) (n : Fin 8) (i : Fin 32) (k : ReqKey) (d : Spd) (e : Engine) (r : Request), s.spd? n = some d → d.te[(i : Nat)]? = some e → s.clocked n = true →
      e.state = .held k → mismatched n i e s = u → u.req? k = some r → r.phase = .transform → r.resMism = 0 →
      exec (.residueMismatch n i) s = .next (restartTransform k (some i) (u.modReq k fun q => { q with resMism := q.resMism + 1 }))) ∧
  (∀ (s u : State) (n : Fin 8) (i : Fin 32) (k : ReqKey) (d : Spd) (e : Engine) (r : Request), s.spd? n = some d → d.te[(i : Nat)]? = some e → s.clocked n = true →
      e.state = .held k → mismatched n i e s = u → u.req? k = some r → r.phase = .transform → 1 ≤ r.resMism →
      exec (.residueMismatch n i) s = .next (xfFail r 0x701 u)) ∧
  (∀ (s u : State) (n : Fin 8) (i : Fin 32) (k : ReqKey) (d : Spd) (e : Engine), s.spd? n = some d → d.te[(i : Nat)]? = some e → s.clocked n = true →
      e.state = .held k → mismatched n i e s = u → (∀ r : Request, u.req? k = some r → r.phase ≠ .transform) →
      exec (.residueMismatch n i) s = .next u) ∧
  (∀ (s : State) (k : ReqKey) (i : Fin 32) (r : Request) (d : Spd), s.req? k = some r → r.phase = .waitXf → s.spd? r.spd = some d →
      (d.freeEngines .te).contains (i : Nat) = true → r.avoidTe ≠ some (i : Nat) →
      exec (.transformRestart k i) s = .next ((takeRestart r.spd .te k i s).modReq k fun q =>
        { q with te := some (i : Nat), phase := .transform })) ∧
  (∀ (s u : State) (n : Fin 8) (e : Fin 32), s.clocked n = true → engineFault n .te e s = (none, u) → exec (.xfEngineFault n e) s = .next (setEv .xf 4 u)) ∧
  (∀ (s u : State) (n : Fin 8) (e : Fin 32) (k : ReqKey) (r : Request), s.clocked n = true → engineFault n .te e s = (some k, u) →
      (setEv .xf 4 u).req? k = some r → r.xfFaults = 0 → r.phase = .transform →
      exec (.xfEngineFault n e) s = .next (restartTransform r.key (some (e : Nat)) ((setEv .xf 4 u).modReq r.key fun q => { q with xfFaults := q.xfFaults + 1 }))) ∧
  (∀ (s u : State) (n : Fin 8) (e : Fin 32) (k : ReqKey) (r : Request), s.clocked n = true → engineFault n .te e s = (some k, u) →
      (setEv .xf 4 u).req? k = some r → r.xfFaults = 0 → r.phase ≠ .transform →
      exec (.xfEngineFault n e) s = .next (((setEv .xf 4 u).modReq r.key fun q => { q with xfFaults := q.xfFaults + 1 }).modReq r.key fun q =>
        { q with te := none, avoidTe := some e })) ∧
  (∀ (s u : State) (n : Fin 8) (e : Fin 32) (k : ReqKey) (r : Request), s.clocked n = true → engineFault n .te e s = (some k, u) →
      (setEv .xf 4 u).req? k = some r → 1 ≤ r.xfFaults → exec (.xfEngineFault n e) s = .next (xfFail r 0x702 (setEv .xf 4 u)))

/-- R123, R140, R211, R212, R218, R220, R222, R226, R234: while the text tables of its SPD are in place, (1) a
tokenising request passes its next 32 KiB through its context; (2) a vocabulary line that missed is held by its
engine, and the miss counted; (3) after the last chunk a sample that tokenises, and finds its buffer, gives its token
form, offered to the cache, and waits for its placement, with ILL_FORMED set where its text was ill-formed; (4)
without a buffer the request returns to its list, and (5) one that does not tokenise fails with its detail; (6) the
segment whose lower slots are all placed takes its place at the current point and goes on to the pack. -/
def Obligations.TextStageCompletes : Prop :=
  (∀ (s : State) (k : ReqKey) (r : Request) (t : Stream), s.req? k = some r → s.stream? k.stream = some t → r.phase = .tokenise →
      r.chunks < (r.encoded.length + 32767) / 32768 → textWaits r.spd s = false →
      exec (.tokeniseChunk k) s = .next (s.modReq k fun q =>
        { q with chunks := q.chunks + 1, tok := nextContext s t.txt r.tok ((r.encoded.drop (32768 * r.chunks)).take 32768) })) ∧
  (∀ (s : State) (n e : Fin 8) (l : Nat) (d : Spd), s.spd? n = some d → s.clocked n = true →
      d.vocab.contains ((e : Nat), l) = false →
      exec (.vocabLineFill n e l) s = .next (({ s with cnt := { s.cnt with txtMiss := s.cnt.txtMiss + 1 } }).modSpd n fun d =>
        { d with vocab := holdLine e l d.vocab })) ∧
  (∀ (s a u : State) (k : ReqKey) (r : Request) (t : Stream) (p : Partition) (x : TokenRun) (f : Form), Serves k r t p s → t.cls = 4 →
      r.phase = .tokenise → chunkCount r ≤ r.chunks → textWaits r.spd s = false →
      a = (if 0 < (r.tok.finish t.txt).2 then setEv .txt 1 (rawReadDone r s) else rawReadDone r s) →
      tokenise s t.txt r.encoded (r.tok.finish t.txt).1 (r.tok.finish t.txt).2 = .ok x → reqDrawBerths r t p [4 * x.normBytes + 32] a = (true, u) →
      tokenForm t.txt r.encoded.length x = f →
      exec (.tokeniseDone k) s = .next ((cacheAdmit r.spd true p.dsSlot r.sample r.remote f (crc64 (f.desc ++ f.data)) none
        (u.modReq k fun q => { q with form := some f, decDigest := crc64 (f.desc ++ f.data) })).modReq k fun q => { q with phase := .waitPlace })) ∧
  (∀ (s a u : State) (k : ReqKey) (r : Request) (t : Stream) (p : Partition) (x : TokenRun), Serves k r t p s →
      r.phase = .tokenise → chunkCount r ≤ r.chunks → textWaits r.spd s = false →
      a = (if 0 < (r.tok.finish t.txt).2 then setEv .txt 1 (rawReadDone r s) else rawReadDone r s) →
      tokenise s t.txt r.encoded (r.tok.finish t.txt).1 (r.tok.finish t.txt).2 = .ok x → reqDrawBerths r t p [4 * x.normBytes + 32] a = (false, u) →
      exec (.tokeniseDone k) s = .next (berthRetry k u)) ∧
  (∀ (s a : State) (k : ReqKey) (r : Request) (t : Stream) (p : Partition) (d : Nat), Serves k r t p s →
      r.phase = .tokenise → chunkCount r ≤ r.chunks → textWaits r.spd s = false →
      a = (if 0 < (r.tok.finish t.txt).2 then setEv .txt 1 (rawReadDone r s) else rawReadDone r s) →
      tokenise s t.txt r.encoded (r.tok.finish t.txt).1 (r.tok.finish t.txt).2 = .error d →
      exec (.tokeniseDone k) s = .next (txtFail r d a)) ∧
  (∀ (s : State) (k : ReqKey) (r : Request) (t : Stream) (b : Batch) (g : List Nat × Bool) (x : (Nat × Nat) × (Nat × Nat)), s.req? k = some r →
      s.stream? k.stream = some t → s.batch? k.stream k.batch = some b → r.phase = .waitPlace → b.placed.length = k.slot →
      reqSegment t r = g → placeSegment t.txt k.slot g.1.length b.point = x →
      exec (.textPlacement k) s = .next (enterPack k ((s.modBatch k.stream k.batch fun b =>
        { b with placed := b.placed ++ [(k.slot, x.1.1, x.1.2, g.1.length)], point := x.2 }).modReq k fun q =>
          { q with firstRow := x.1.1, firstPlace := x.1.2 })))

/-- R21, R81, R255, R260, R261, R264, R285: (1) a packed slot that holds an engine, or a masked slot whose batch may
be written, posts its bytes and its entry to the receivers, and the request ends and gives back what it holds; (2) a
slot that cannot be packed fails with its detail; (3) a fault of an engine in service sets its event; the first of a
request (4) goes on with the second engine it holds, or else (5) takes the lowest other free engine, or (6) waits for
the next; (7) the second fails the sample with ENGINE_FAULT; (8) a stage that waits for an engine takes one that is
free, and starts again on it. The faults are those of SPDs whose core is clocked. -/
def Obligations.PackStageCompletes : Prop :=
  (∀ (s : State) (k : ReqKey) (r : Request) (t : Stream) (b : Batch) (p : Partition) (o : SlotOut), Serves k r t p s →
      s.batch? k.stream k.batch = some b → r.phase = .pack → packReady r t p b s = true → packSlot s.seed t p b r = o → o.detail = none →
      exec (.packDone k) s = .next (countFixed r.spd 3 (dropReq k (releaseAll r (sendSlot t p b k.slot o (r.budgets.getD 6 0)
        ((reportDecision r (packEvents t.cls o (startStage k .egress (beginBatch k s)))).modBatch k.stream k.batch fun b =>
          { b with entries := b.entries ++ [(k.slot, o.entry)] })))))) ∧
  (∀ (s : State) (k : ReqKey) (r : Request) (t : Stream) (b : Batch) (p : Partition) (o : SlotOut) (d : Nat), Serves k r t p s →
      s.batch? k.stream k.batch = some b → r.phase = .pack → packReady r t p b s = true → packSlot s.seed t p b r = o → o.detail = some d →
      exec (.packDone k) s = .next (packFail r d s)) ∧
  (∀ (s u : State) (n : Fin 8) (e : Fin 16), s.clocked n = true → engineFault n .pe e s = (none, u) → exec (.packEngineFault n e) s = .next (setEv .pack 0x10 u)) ∧
  (∀ (s u : State) (n : Fin 8) (e : Fin 16) (k : ReqKey) (r : Request) (i : Nat), s.clocked n = true → engineFault n .pe e s = (some k, u) →
      (setEv .pack 0x10 u).req? k = some r → r.packFaults = 0 → r.pe = some (e : Nat) → r.pe2 = some i → i ≠ e →
      exec (.packEngineFault n e) s = .next ((setEv .pack 0x10 u).modReq r.key fun q =>
        { q with pe := some i, pe2 := none, packFaults := q.packFaults + 1, avoidPe := some e })) ∧
  (∀ (s u : State) (n : Fin 8) (e : Fin 16) (k : ReqKey) (r : Request) (i : Nat), s.clocked n = true → engineFault n .pe e s = (some k, u) →
      (setEv .pack 0x10 u).req? k = some r → r.packFaults = 0 → (r.pe = none ∨ r.pe = some (e : Nat)) → r.pe2 = none →
      freeOther r .pe (some e) (setEv .pack 0x10 u) = some i →
      exec (.packEngineFault n e) s = .next ((takeRestart r.spd .pe r.key i ((setEv .pack 0x10 u).modReq r.key fun q =>
        { q with pe := none, pe2 := none, packFaults := q.packFaults + 1, avoidPe := some e })).modReq r.key fun q => { q with pe := some i })) ∧
  (∀ (s u : State) (n : Fin 8) (e : Fin 16) (k : ReqKey) (r : Request), s.clocked n = true → engineFault n .pe e s = (some k, u) →
      (setEv .pack 0x10 u).req? k = some r → r.packFaults = 0 → (r.pe = none ∨ r.pe = some (e : Nat)) → r.pe2 = none →
      freeOther r .pe (some e) (setEv .pack 0x10 u) = none →
      exec (.packEngineFault n e) s = .next ((setEv .pack 0x10 u).modReq r.key fun q =>
        { q with pe := none, pe2 := none, packFaults := q.packFaults + 1, avoidPe := some e })) ∧
  (∀ (s u : State) (n : Fin 8) (e : Fin 16) (k : ReqKey) (r : Request), s.clocked n = true → engineFault n .pe e s = (some k, u) →
      (setEv .pack 0x10 u).req? k = some r → 1 ≤ r.packFaults → exec (.packEngineFault n e) s = .next (packFail r 0x703 (setEv .pack 0x10 u))) ∧
  (∀ (s : State) (k : ReqKey) (r : Request) (t : Stream) (b : Batch) (p : Partition), Serves k r t p s → s.batch? k.stream k.batch = some b →
      r.phase = .pack → r.masked = false → r.pe = none → exec (.packDone k) s = .next (packTakes k s)) ∧
  (∀ (s : State) (k : ReqKey) (r : Request) (i : Nat), s.req? k = some r → r.phase = .pack → r.masked = false → r.pe = none →
      freeOther r .pe r.avoidPe s = some i →
      packTakes k s = (takeRestart r.spd .pe k i s).modReq k fun q => { q with pe := some i })

/-- R267, R269, R270, R271, R280, R282, R299, R301, R305, R307, R315, R317, R435: (1) a packet of a connection in
error, or of a link that is down, or of a frame longer than 9,216 bytes, does nothing; (2) one that names no
connection is counted as refused; (3) a packet whose context is not resident, or that needs an SPD while they sleep,
is counted, wakes them, and is held while the receive buffer has room (what its priority holds may rise over its mark,
R307) and dropped otherwise; (4) a packet of a resident connection whose tag fails is dropped and counted, and (5) one
that is taken is counted and processed, in every kind of packet; (6) the four commands that bring a message are one;
of a packet taken, (7) an ACK acknowledges everything up to its PSN, and (8) one outside the sent range nothing; (9) a
NAK Sequence Error acknowledges what is before it and goes back, within the retries, and (10) any other puts the
connection in error; (11) an RNR NAK waits before the resend, and (12) past RNR_RETRY is an error; (13) the READ
response that is next is taken, and the last ends its READ, (14) one that skips a packet goes back and one behind does
no more than acknowledge; (15) a retry goes back while EGR retries are left, and is an error of reason 1, or 6 on a
dead link, after; (16) a timeout retries, or is remembered out of residence; (17) an RNR wait that ends goes back;
(18) every wait that is satisfied is removed, and the requests that are ready to send by it are so from now; (19) a
queue that had nothing ready and now has takes the virtual time of its class. -/
def Obligations.RequesterCompletes : Prop :=
  (∀ (s : State) (c : Conn) (p : RxPacket), s.conn? c.idx = some c →
      c.error ≠ none ∨ s.egr.txOff = true ∨ bitOf s.egr.linksUp c.onLink = false ∨ 9216 < p.size c →
      exec (arrival c.idx p) s = .next s) ∧
  (∀ (s : State) (k : RefusedKind) (ce : Bool),
      exec (.rxRefusedPacket none k ce) s = .next { s with egr := { s.egr with refused := s.egr.refused + 1 } }) ∧
  (∀ (s a : State) (c : Conn) (p : RxPacket), s.conn? c.idx = some c → c.error = none → s.egr.txOff = false →
      bitOf s.egr.linksUp c.onLink = true → p.size c ≤ 9216 →
      (packetIn c s).onlyIf (p.needsSpd || !c.resident) (wake 3 true) = a →
      c.resident = false ∨ p.needsSpd = true ∧ a.asleep = true →
      exec (arrival c.idx p) s = .next (if bufferUsed (c.onLink / 8) a + p.size c ≤ 1048576 then
        pfcRise c a (overcommitRise (a.modConn c.idx fun c => { c with rxWait := c.rxWait ++ [p] })) else a)) ∧
  (∀ (s a : State) (c : Conn) (p : RxPacket), Hears c s → s.asleep = false → p.size c ≤ 9216 →
      p.tagFails c = true → packetIn c s = a → a.conn? c.idx = some c →
      exec (arrival c.idx p) s = .next (restoreCredits c.idx (dropTagged c a))) ∧
  (∀ (s a : State) (c d : Conn) (p : RxPacket), Takes c p s a d → exec (arrival c.idx p) s = .next (restoreCredits c.idx (process d p a))) ∧
  (∀ (s : State) (i : Nat) (w : Wire) (bs : List Byte), exec (.peerReqRx i w bs) s = exec (.returnRx i w bs) s ∧
      exec (.peerRspRx i w bs) s = exec (.returnRx i w bs) s ∧ exec (.peerDoneRx i w bs) s = exec (.returnRx i w bs) s) ∧
  (∀ (s a : State) (c d : Conn) (w : Wire), Takes c (.ack w) s a d → extPsn d.sqUna w.psn < d.sentEnd → d.idx = c.idx →
      exec (.rxAck c.idx w) s = .next (restoreCredits c.idx (ackUpTo c.idx (extPsn d.sqUna w.psn + 1) a))) ∧
  (∀ (s a : State) (c d : Conn) (w : Wire), Takes c (.ack w) s a d → d.sentEnd ≤ extPsn d.sqUna w.psn →
      exec (.rxAck c.idx w) s = .next (restoreCredits c.idx a)) ∧
  (∀ (s a : State) (c d : Conn) (w : Wire), Takes c (.nak w 0) s a d → extPsn d.sqUna w.psn < d.sentEnd → d.idx = c.idx →
      exec (.rxNak c.idx w 0) s = .next (restoreCredits c.idx (retryOrFail c.idx (ackUpTo c.idx (extPsn d.sqUna w.psn) a)))) ∧
  (∀ (s a : State) (c d : Conn) (w : Wire) (code : Nat), Takes c (.nak w code) s a d → extPsn d.sqUna w.psn < d.sentEnd → d.idx = c.idx →
      code ≠ 0 →
      exec (.rxNak c.idx w code) s = .next (restoreCredits c.idx (connError c.idx (if code = 2 then 3 else 5) (ackUpTo c.idx (extPsn d.sqUna w.psn) a)))) ∧
  (∀ (s a u : State) (c d e : Conn) (w : Wire), Takes c (.rnr w) s a d → extPsn d.sqUna w.psn < d.sentEnd → d.idx = c.idx →
      ackUpTo c.idx (extPsn d.sqUna w.psn) a = u → u.conn? c.idx = some e →
      fieldOf a.applied.egr 7 3 = 7 ∨ e.rnrRetries < fieldOf a.applied.egr 7 3 →
      exec (.rxRnrNak c.idx w) s = .next (restoreCredits c.idx (u.modConn c.idx fun c => { c with rnrWait := true, rnrRetries := c.rnrRetries + 1 }))) ∧
  (∀ (s a u : State) (c d e : Conn) (w : Wire), Takes c (.rnr w) s a d → extPsn d.sqUna w.psn < d.sentEnd → d.idx = c.idx →
      ackUpTo c.idx (extPsn d.sqUna w.psn) a = u → u.conn? c.idx = some e →
      fieldOf a.applied.egr 7 3 ≠ 7 → fieldOf a.applied.egr 7 3 ≤ e.rnrRetries →
      exec (.rxRnrNak c.idx w) s = .next (restoreCredits c.idx (connError c.idx 2 u))) ∧
  (∀ (s a u : State) (c d e : Conn) (w : Wire) (l : Bool) (bs : List Byte) (q : Wr) (p x : Nat) (k : ReqKey), Takes c (.readRsp w l bs) s a d →
      d.idx = c.idx → extPsn d.sqUna w.psn = x → d.queue.find? (fun q => q.kind == .read && q.left == 0 &&
        (q.psn.map fun p => decide (p ≤ x ∧ x < p + q.total)).getD false) = some q →
      q.psn = some p → q.owner = .peerRead k → ackUpTo c.idx p a = u → u.conn? c.idx = some e → e.sqUna = x →
      d.encKey = 0 ∨ x < 2 ^ 48 - 1 →
      exec (.rxReadResponse c.idx w l bs) s = .next (restoreCredits c.idx ((u.modConn c.idx fun c =>
        { c with sqUna := x + 1, ackAt := a.tide.uptime, retries := 0, count := (c.count + flag (decide (x + 1 = p + q.total))) % 2 ^ 32,
                 queue := if x + 1 = p + q.total then c.queue.filter fun x => !(x.kind == .read && x.psn == q.psn) else c.queue }).modReq k
        fun r => { r with encoded := r.encoded ++ bs }))) ∧
  (∀ (s a u : State) (c d e : Conn) (w : Wire) (l : Bool) (bs : List Byte) (q : Wr) (p x : Nat), Takes c (.readRsp w l bs) s a d →
      d.idx = c.idx → extPsn d.sqUna w.psn = x → d.queue.find? (fun q => q.kind == .read && q.left == 0 &&
        (q.psn.map fun p => decide (p ≤ x ∧ x < p + q.total)).getD false) = some q →
      q.psn = some p → ackUpTo c.idx p a = u → u.conn? c.idx = some e → e.sqUna ≠ x →
      exec (.rxReadResponse c.idx w l bs) s = .next (restoreCredits c.idx (if e.sqUna < x then retryOrFail c.idx u else u))) ∧
  (∀ (s : State) (i : Nat) (c : Conn), s.conn? i = some c → retryOrFail i s =
      (if fieldOf s.applied.egr 4 3 ≤ c.retries then connError i (if bitOf s.egr.linksUp c.onLink then 1 else 6) s
       else goBack i (s.modConn i fun c => { c with retries := c.retries + 1 }))) ∧
  (∀ (s : State) (i : Nat) (c : Conn), s.conn? i = some c → c.error = none → c.sqUna < c.sentEnd → c.rnrWait = false →
      c.ackAt + 4096 * 2 ^ fieldOf s.applied.egr 0 4 ≤ s.tide.uptime →
      exec (.ackTimeout i) s = .next (if c.resident then retryOrFail i s else s.modConn i fun c => { c with timerMissed := true })) ∧
  (∀ (s : State) (i : Nat) (c : Conn), s.conn? i = some c → c.rnrWait = true →
      exec (.rnrRetryTimer i) s = .next (goBack i (s.modConn i fun c => { c with rnrWait := false }))) ∧
  (∀ (s : State) (i : Nat) (c : Conn) (met : List Wr), s.conn? i = some c →
      met = (c.queue.map fun w => { w with wait := if w.wait.any (waitMet s) then none else w.wait }) →
      Completes (.waitSatisfied i) s fun t =>
        let fresh := (readyMask false c.queue).zip (readyMask false met)
        let q := (met.zip fresh).map fun x => { x.1 with posted := if x.2.2 && !x.2.1 then s.tide.uptime else x.1.posted }
        t = s.modConn i fun c => Conn.woken c { c with queue := q } s) ∧
  (∀ (c d : Conn) (s : State), (c.readyWrs = [] → d.readyWrs ≠ [] →
      Conn.woken c d s = { d with vtag := max d.vtag (s.classRun d.onLink d.cls).vtime }) ∧
      (c.readyWrs ≠ [] ∨ d.readyWrs = [] → Conn.woken c d s = d))

/-- R269, R271, R276, R277, R306: of a packet taken, (1) the first packet of an RDMA WRITE that a key admits lands in
the job address space; the last of a message is acknowledged and ends it; (2) a later packet lands where the one
before it left off; (3) a WRITE that the key does not admit is refused with NAK RAE, counted, and ends the connection,
as (4) is a READ; (5) a repeated packet is acknowledged again and (6) one ahead gets a NAK Sequence Error, of WRITE
and READ; (7) an RDMA READ that a key admits is answered with the bytes behind the key; (8) a WRITE out of the order
of its message gets NAK Invalid Request and ends the connection; (9) a CNP cuts the rate, not within 20 µs of the last
cut; (10) a packet of another transport or a QP1 MAD is only counted, and (11) any other that the table refuses gets
NAK Invalid Request and ends the connection. -/
def Obligations.ResponderCompletes : Prop :=
  (∀ (s a : State) (c d : Conn) (w : Wire) (key : Word) (va len : Nat) (l : Bool) (bs : List Byte), Takes c (.write w key va len true l bs) s a d →
      d.idx = c.idx → psnPlace d w.psn = .expected → d.rxMsg = none → mayAccess d key va len 2 a = true → bs.length ≤ len →
      (l = true → bs.length = len) →
      Completes (.rxRdmaWrite c.idx w key va len true l bs) s fun t =>
        let b := (writeJob va bs (a.modMooring (fieldOf key 16 16) fun m => { m with inflight := m.inflight ++ [c.idx] })).modConn c.idx
          fun c => { c with rxMsg := if l then none else some (key, va + bs.length, len - bs.length), msn := c.msn + flag l }
        t = restoreCredits c.idx (advanceRq c.idx 1 (if l then answer c.idx 0 w.psn (endMessage c.idx key b) else b))) ∧
  (∀ (s a : State) (c d : Conn) (w : Wire) (key k : Word) (va len at_ left : Nat) (l : Bool) (bs : List Byte),
      Takes c (.write w key va len false l bs) s a d → d.idx = c.idx → psnPlace d w.psn = .expected → d.rxMsg = some (k, at_, left) →
      bs.length ≤ left → (l = true → bs.length = left) →
      Completes (.rxRdmaWrite c.idx w key va len false l bs) s fun t =>
        let b := (writeJob at_ bs a).modConn c.idx fun c =>
          { c with rxMsg := if l then none else some (k, at_ + bs.length, left - bs.length), msn := c.msn + flag l }
        t = restoreCredits c.idx (advanceRq c.idx 1 (if l then answer c.idx 0 w.psn (endMessage c.idx k b) else b))) ∧
  (∀ (s a : State) (c d : Conn) (w : Wire) (key : Word) (va len : Nat) (l : Bool) (bs : List Byte), Takes c (.write w key va len true l bs) s a d →
      d.idx = c.idx → psnPlace d w.psn = .expected → d.rxMsg = none → mayAccess d key va len 2 a = false →
      exec (.rxRdmaWrite c.idx w key va len true l bs) s = .next (restoreCredits c.idx (refuseAccess c.idx w.psn a))) ∧
  (∀ (s a : State) (c d : Conn) (w : Wire) (key : Word) (va len : Nat), Takes c (.read w key va len) s a d →
      d.idx = c.idx → psnPlace d w.psn = .expected → d.rxMsg = none → mayAccess d key va len 1 a = false →
      exec (.rxRdmaRead c.idx w key va len) s = .next (restoreCredits c.idx (refuseAccess c.idx w.psn a))) ∧
  (∀ (s a : State) (c d : Conn) (w : Wire) (key : Word) (va len x : Nat) (f l : Bool) (bs : List Byte), d.idx = c.idx →
      psnPlace d w.psn = .past x →
      (Takes c (.write w key va len f l bs) s a d →
        exec (.rxRdmaWrite c.idx w key va len f l bs) s = .next (restoreCredits c.idx (answer c.idx 0 w.psn a))) ∧
      (Takes c (.read w key va len) s a d → exec (.rxRdmaRead c.idx w key va len) s = .next (restoreCredits c.idx
        (match (a.keyed key).filter (·.state != .free) with
          | some m => postResponse d x va 0 (mooringBytes m va len a) a | none => answer c.idx 3 w.psn a)))) ∧
  (∀ (s a : State) (c d : Conn) (w : Wire) (key : Word) (va len : Nat) (f l : Bool) (bs : List Byte), d.idx = c.idx →
      psnPlace d w.psn = .future →
      (Takes c (.write w key va len f l bs) s a d →
        exec (.rxRdmaWrite c.idx w key va len f l bs) s = .next (restoreCredits c.idx (answer c.idx 1 (BitVec.ofNat 24 d.rqPsn) a))) ∧
      (Takes c (.read w key va len) s a d → exec (.rxRdmaRead c.idx w key va len) s = .next (restoreCredits c.idx
        (answer c.idx 1 (BitVec.ofNat 24 d.rqPsn) a)))) ∧
  (∀ (s a : State) (c d : Conn) (w : Wire) (key : Word) (va len : Nat) (m : Mooring), Takes c (.read w key va len) s a d → d.idx = c.idx →
      psnPlace d w.psn = .expected → d.rxMsg = none → mayAccess d key va len 1 a = true → a.keyed key = some m →
      exec (.rxRdmaRead c.idx w key va len) s = .next (restoreCredits c.idx (advanceRq c.idx (d.packets len) (postResponse d d.rqPsn va key
        (mooringBytes m va len a) ((a.modMooring m.idx fun m => { m with inflight := m.inflight ++ [c.idx] }).modConn c.idx fun c =>
          { c with msn := c.msn + 1 }))))) ∧
  (∀ (s a : State) (c d : Conn) (w : Wire) (key : Word) (va len : Nat) (f l : Bool) (bs : List Byte), Takes c (.write w key va len f l bs) s a d →
      d.idx = c.idx → psnPlace d w.psn = .expected → f = d.rxMsg.isSome →
      exec (.rxRdmaWrite c.idx w key va len f l bs) s = .next (restoreCredits c.idx (connError c.idx 5 (answer c.idx 2 w.psn a)))) ∧
  (∀ (s a : State) (c d : Conn) (ce : Bool), Takes c (.cnp ce) s a d → d.idx = c.idx →
      Completes (.rxCnp c.idx ce) s fun t =>
        let b := countPerf (dieOfConn c.idx a) 0x201 (a.modConn c.idx fun c =>
          { c with ccTimer := a.tide.uptime, ccBucket := ccNow c a, ccSince := a.tide.uptime })
        t = restoreCredits c.idx (if (d.ccCut.map fun z => decide (a.tide.uptime < z + 20000)).getD false then b
          else b.modConn c.idx fun x => { x with ccRate := max (max 1 (fieldOf a.applied.bwCc 0 16)) (3 * d.ccRate / 4), ccCut := some a.tide.uptime })) ∧
  (∀ (s a : State) (c d : Conn) (k : RefusedKind) (ce : Bool), Takes c (.bad k ce) s a d → k = .otherTransport ∨ k = .qp1Mad →
      exec (.rxRefusedPacket (some c.idx) k ce) s = .next (restoreCredits c.idx { a with egr := { a.egr with refused := a.egr.refused + 1 } })) ∧
  (∀ (s a : State) (c d : Conn) (k : RefusedKind) (ce : Bool), Takes c (.bad k ce) s a d → d.idx = c.idx → k ≠ .otherTransport → k ≠ .qp1Mad →
      exec (.rxRefusedPacket (some c.idx) k ce) s = .next (restoreCredits c.idx (connError c.idx 5 (answer c.idx 2 (BitVec.ofNat 24 d.rqPsn)
        { a with egr := { a.egr with refused := a.egr.refused + 1 } }))))

/-- R271, R278, R288, R292, R293, R294, R297, R315: of a message taken, in order, of at most 64 bytes, with a receive
credit left and no WRITE under way, (1) one on a delivery lane is acknowledged and acted on as a return, and on a peer
connection (2) a PEER_REQ, (3) a PEER_RSP and (4) a PEER_DONE, of their length and CRC, are acted on, and the credit
comes back; (5) a message with no credit gets an RNR NAK, a repeated one its ACK and one ahead a NAK Sequence Error;
(6) a longer message, or one within a WRITE, gets NAK Invalid Request and ends the connection; (7) the device serves
the oldest of a peer's requests through a key of its own, (8) refuses it with status 2 where its media fail, and (9)
with status 3 where no index is free; (10) a peer that does not end its read is cut off after the hold time; (11) a
peer read whose range is whole and whose CRC holds ends with a PEER_DONE, is offered to the raw cache, and goes on to
its decode or tokenisation, (12) one whose CRC fails, and (13) one that broke off, go on to the next peer. -/
def Obligations.MessagesComplete : Prop :=
  (∀ (s a : State) (c d : Conn) (w : Wire) (bs : List Byte), Takes c (.message w bs) s a d → d.idx = c.idx → d.peer = false →
      psnPlace d w.psn = .expected → bs.length ≤ 64 → d.rxMsg = none → d.credits ≠ 0 →
      exec (.returnRx c.idx w bs) s = .next (restoreCredits c.idx (takeReturn c.idx bs (acknowledged d w a)))) ∧
  (∀ (s a : State) (c d : Conn) (w : Wire) (bs : List Byte), Takes c (.message w bs) s a d → d.idx = c.idx → d.peer = true →
      psnPlace d w.psn = .expected → bs.length = 64 → d.rxMsg = none → d.credits ≠ 0 → byteField bs 0 4 = 0x51525051 →
      byteField bs 60 4 = (crc32c (bs.take 60)).toNat →
      exec (.peerReqRx c.idx w bs) s = .next (restoreCredits c.idx (takePeerReq d bs (acknowledged d w a)))) ∧
  (∀ (s a : State) (c d : Conn) (w : Wire) (bs : List Byte), Takes c (.message w bs) s a d → d.idx = c.idx → d.peer = true →
      psnPlace d w.psn = .expected → bs.length = 64 → d.rxMsg = none → d.credits ≠ 0 → byteField bs 0 4 = 0x53525051 →
      byteField bs 60 4 = (crc32c (bs.take 60)).toNat →
      exec (.peerRspRx c.idx w bs) s = .next (restoreCredits c.idx (takePeerRsp d bs (acknowledged d w a)))) ∧
  (∀ (s a : State) (c d : Conn) (w : Wire) (bs : List Byte), Takes c (.message w bs) s a d → d.idx = c.idx → d.peer = true →
      psnPlace d w.psn = .expected → bs.length = 32 → d.rxMsg = none → d.credits ≠ 0 → byteField bs 0 4 = 0x4E445051 →
      byteField bs 28 4 = (crc32c (bs.take 28)).toNat →
      exec (.peerDoneRx c.idx w bs) s = .next (restoreCredits c.idx (takePeerDone d bs (acknowledged d w a)))) ∧
  (∀ (s a : State) (c d : Conn) (w : Wire) (bs : List Byte) (q : Instr), Takes c (.message w bs) s a d → d.idx = c.idx →
      q = .returnRx c.idx w bs ∨ q = .peerReqRx c.idx w bs ∨ q = .peerRspRx c.idx w bs ∨ q = .peerDoneRx c.idx w bs →
      (∀ x, psnPlace d w.psn = .past x → exec q s = .next (restoreCredits c.idx (answer c.idx 0 w.psn a))) ∧
      (psnPlace d w.psn = .future → exec q s = .next (restoreCredits c.idx (answer c.idx 1 (BitVec.ofNat 24 d.rqPsn) a))) ∧
      (psnPlace d w.psn = .expected → bs.length ≤ 64 → d.rxMsg = none → d.credits = 0 →
        exec q s = .next (restoreCredits c.idx (answer c.idx 4 w.psn a)))) ∧
  (∀ (s a : State) (c d : Conn) (w : Wire) (bs : List Byte) (q : Instr), Takes c (.message w bs) s a d → d.idx = c.idx →
      q = .returnRx c.idx w bs ∨ q = .peerReqRx c.idx w bs ∨ q = .peerRspRx c.idx w bs ∨ q = .peerDoneRx c.idx w bs →
      psnPlace d w.psn = .expected → 64 < bs.length ∨ d.rxMsg ≠ none →
      exec q s = .next (restoreCredits c.idx (connError c.idx 5 (answer c.idx 2 w.psn
        (if 64 < bs.length then { a with egr := { a.egr with refused := a.egr.refused + 1 } } else a))))) ∧
  (∀ (s : State) (i : Nat) (c : Conn) (v : Serve) (tag : Half) (n : Nat), s.conn? i = some c → (c.serves.find? fun v => !v.ready) = some v →
      v.tag = tag.toNat → freeIndex s = some n →
      exec (.peerServeReady i tag false) s = .next (serveMooring i n v s)) ∧
  (∀ (s : State) (i : Nat) (c : Conn) (v : Serve) (tag : Half), s.conn? i = some c → (c.serves.find? fun v => !v.ready) = some v →
      v.tag = tag.toNat →
      exec (.peerServeReady i tag true) s = .next (peerRefuse i v.tag 2 ((returnBuffers v.spd 3 v.bytes.length s).modConn i fun c =>
        { c with serves := c.serves.erase v }))) ∧
  (∀ (s : State) (i : Nat) (c : Conn) (v : Serve) (tag : Half), s.conn? i = some c → (c.serves.find? fun v => !v.ready) = some v →
      v.tag = tag.toNat → freeIndex s = none →
      exec (.peerServeReady i tag false) s = .next (peerRefuse i v.tag 3 ((returnBuffers v.spd 3 v.bytes.length s).modConn i fun c =>
        { c with serves := c.serves.erase v }))) ∧
  (∀ (s : State) (i : Nat) (c : Conn) (v : Serve) (tag : Half), s.conn? i = some c →
      (c.serves.find? fun v => v.ready && v.tag == tag.toNat) = some v → v.sentAt + max 200 s.applied.egrPeerHold.toNat * 1000 ≤ s.tide.uptime →
      exec (.peerHoldExpiry i tag) s = .next (revokeServe v.key s)) ∧
  (∀ (s : State) (i : Nat) (tag : Half) (r : Request) (t : Stream), peerRequest i tag.toNat s = some r → s.stream? r.key.stream = some t →
      (s.anyWr fun w => w == .peerRead r.key) = false → (s.anyWr fun w => w == .peerReq r.key) = false → crc32c r.encoded = r.peerCrc →
      exec (.peerReadDone i tag true) s = .next (enterPhase r.key (if t.cls = 4 then .tokenise else .decode)
        (if t.cls = 4 then .transform else .decode)
        (cacheAdmit r.spd false t.dsSlot r.sample true ⟨[], r.encoded⟩ 0 none (postSend i .peerDone (peerDoneBytes tag.toNat) s)))) ∧
  (∀ (s : State) (i : Nat) (tag : Half) (r : Request) (t : Stream), peerRequest i tag.toNat s = some r → s.stream? r.key.stream = some t →
      (s.anyWr fun w => w == .peerRead r.key) = false → (s.anyWr fun w => w == .peerReq r.key) = false → crc32c r.encoded ≠ r.peerCrc →
      exec (.peerReadDone i tag true) s = .next (peerFailed r.key false (postSend i .peerDone (peerDoneBytes tag.toNat) s))) ∧
  (∀ (s : State) (i : Nat) (tag : Half) (r : Request) (t : Stream), peerRequest i tag.toNat s = some r → s.stream? r.key.stream = some t →
      exec (.peerReadDone i tag false) s = .next (peerFailed r.key true (postSend i .peerDone (peerDoneBytes tag.toNat)
        (s.modConn i fun c => { c with queue := c.queue.filter fun w => w.owner != .peerRead r.key }))))

/-- R53, R54, R268, R274, R435, R480, R502, R506: (1) a link that goes down posts its event, raises its reason, moves
its connections with an alternative and wakes the block, and (2) one that is down already does nothing; (3) 100 ms
after the firmware is ready a link that exists comes up and clears its reason; (4) a connection goes back to its own
link at a work-request boundary once that link has been up for 1 s; (5) a quiet period ends after EGR_QUIET; (6) a
heartbeat carries the next number, while the block has no failed grade and its job is not stopped. -/
def Obligations.LinksComplete : Prop :=
  (∀ (s : State) (m : Fin 16) (own : Bool), bitOf s.egr.linksUp m = true →
      exec (.linkDown m own) s = .next (wake 3 false (leaveLink m (raiseReason 0x05 (if own then 100 else 25) m
        (setEv .egr 1 { s with egr := { s.egr with linksUp := s.egr.linksUp &&& ~~~((1 : BitVec 16) <<< (m : Nat)) } }))))) ∧
  (∀ (s : State) (m : Fin 16) (own : Bool), bitOf s.egr.linksUp m = false → exec (.linkDown m own) s = .next s) ∧
  (∀ (s : State) (m : Fin 16), s.pwr.off = false → s.sec.recovery = false → s.host.hm ≠ .boot → bitOf s.egr.linksUp m = false →
      s.egr.txOff = false → linkExists s.applied.egrPort m = true → (8 ≤ (m : Nat) → s.fab.iod1 = true) → s.egr.linksFrom ≤ s.tide.uptime →
      exec (.linkUp m) s = .next (wake 3 false (clearReason 0x05 m (setEv .egr 2 { s with egr := { s.egr with
        linksUp := s.egr.linksUp ||| (1 <<< (m : Nat)), upSince := s.egr.upSince.set m s.tide.uptime } })))) ∧
  (∀ (s : State) (i : Nat) (c : Conn), s.conn? i = some c → c.error = none → c.onAlt = true → bitOf s.egr.linksUp c.link = true →
      s.egr.upSince.getD c.link 0 + 1000000000 ≤ s.tide.uptime → c.atBoundary = true →
      exec (.pathMigrateBack i) s = .next ((setEv .egr 0x40 (s.modConn i fun c =>
        { c.settled (s.classRegs c.onLink c.cls) s with onAlt := false })).modConn i fun c => { c with quiet := true, quietAt := s.tide.uptime })) ∧
  (∀ (s : State) (i : Nat) (c : Conn), s.conn? i = some c → c.quiet = true → c.quietAt + s.applied.egrQuiet.toNat * 1000 ≤ s.tide.uptime →
      exec (.quietPeriodEnd i) s = .next (s.modConn i fun c => { c with quiet := false })) ∧
  (∀ (s : State) (i : Nat) (c : Conn), s.conn? i = some c → c.error = none → c.hbAt ≤ s.tide.uptime → s.hlth.grade ≠ 3 → s.jobStopped = false →
      exec (.heartbeatSend i) s = .next (countPerf (dieOfConn i s) 0x206 ((postWrite i .heartbeat c.hbVa c.hbRkey
        (heartbeatBytes c s) none 0 s).modConn i fun c => { c with hbSeq := c.hbSeq + 1, hbAt := c.hbAt + s.hbInterval })))

/-- R20, R255, R280, R285, R286, R288, R411, R412: while the batch home serves and every slot has its entry, the
header of a batch (1) goes out at once without TIMELOCK, or where no start has been accepted, or past its hold time,
and (2) under TIMELOCK is held to its hold time, (3) at which it goes out; (4) a token goes to a receiver whose lanes
have finished the batch, takes the return it answers, is counted, and settles the batch. -/
def Obligations.DeliveryCompletes : Prop :=
  (∀ (s : State) (n : Fin 64) (m : Nat) (t : Stream) (b : Batch) (p : Partition), s.stream? n = some t → s.batch? n m = some b →
      s.partFor t = some p → b.headerSent = false → t.b ≤ b.entries.length → s.serving b.home = true →
      (b.timelock = true → ∀ h : Int, holdTime t b s = some h → h ≤ s.tide.time) →
      exec (.trailerHeaderSend n m) s = .next (postHeader t p b s)) ∧
  (∀ (s : State) (n : Fin 64) (m : Nat) (t : Stream) (b : Batch) (p : Partition) (h : Int), s.stream? n = some t → s.batch? n m = some b →
      s.partFor t = some p → b.headerSent = false → t.b ≤ b.entries.length → s.serving b.home = true → b.timelock = true →
      holdTime t b s = some h → (s.tide.time : Int) < h →
      exec (.trailerHeaderSend n m) s = .next (s.modBatch n m fun b => { b with headerHeld := true })) ∧
  (∀ (s : State) (n : Fin 64) (m : Nat) (t : Stream) (b : Batch) (p : Partition) (h : Int), s.stream? n = some t → s.batch? n m = some b →
      s.partFor t = some p → holdTime t b s = some h → b.headerHeld = true → s.serving b.home = true → h ≤ s.tide.time →
      exec (.timelockHoldExpiry n m) s = .next (postHeader t p b (s.modBatch n m fun b => { b with headerHeld := false }))) ∧
  (∀ (s : State) (n : Fin 64) (num i : Nat) (t : Stream) (b : Batch) (p : Partition) (g : Group) (m : Member) (c : Nat) (j : Nat × Member),
      s.stream? n = some t → s.batch? n num = some b → s.partFor t = some p → t.groupFor s.seed p num = some g →
      (openReceivers t p b s).find? (·.1 == i) = some j → j.2 = m → (s.lanesUp m).head? = some c → b.headerSent = true →
      s.serving b.home = true → tokenReady t b i m s = true →
      exec (.releaseTokenSend n num i) s = .next (settleBatch n num (countPerf (8 + ((s.conn? c).map (·.onLink)).getD 0 / 8) 0x207
        (((postWrite c (.token n num i) (m.tokenBase + 32 * g.slotOf m num) m.tokenRkey (tokenBytes t p g m num s) none 0 s).modStream n
          fun u => { u with groups := u.groups.map fun h =>
            if h.group = g.group then { h with members := updAt h.members i fun m =>
              { m with returns := m.returns.filter (· != (g.slotOf m num, num)) } } else h }).modBatch n num fun b =>
                { b with tokens := i :: b.tokens }))))

/-- R273, R302, R303, R304, R306, R307, R314, R315, R316: on a link that is up, (1) the class and queue whose turn it
is send their frame, a class under deficit round robin moving the turn on and a strict one not; (2) with no class to
send, the deficits of the classes without frames are cleared; (3) a pause or a resume holds the classes of its
priority that have flow control; (4) a rate recovers by one step; (5) the credits of a class and of its queues are
settled at the present time; (6) a context becomes resident where there is a place, and (7) where there is none in the
place of an inactive one; (8) at a slice boundary, as the slice clock passes a multiple of 2,000 ns, with no more than
4,096 active connections, loads end and overcommit ends after a whole slice, and (9) with more the contexts are
exchanged, at most 256 of them, and the batches at risk are reported; (10) contexts left with one copy have two again
on SPDs that serve, (11) the first of them SPD i mod 8 where that serves. -/
def Obligations.BreakwaterCompletes : Prop :=
  (∀ (s u : State) (m : Fin 16) (k : Nat) (ds : List Int) (c : Conn) (w : Wr) (j len : Nat), s.egr.txOff = false → bitOf s.egr.linksUp m = true →
      pickTurn m s = some (k, ds) → pickClass m k s = some (c, w, j, len) →
      u = (if bitOf (s.classRegs m k).class0 1 then s else { s with bw := { s.bw with drr := s.bw.drr.set m k } }) →
      exec (.frameTxDone m) s = .next (sendFrame m k c w j len { u with bw := { u.bw with classes := u.bw.classes.mapIdx fun i r =>
        if i / 8 = (m : Nat) then { r with deficit := ds.getD (i % 8) 0 } else r } })) ∧
  (∀ (s : State) (m : Fin 16), s.egr.txOff = false → bitOf s.egr.linksUp m = true → pickTurn m s = none →
      exec (.frameTxDone m) s = .next { s with bw := { s.bw with classes := s.bw.classes.mapIdx fun i r =>
        if i / 8 = (m : Nat) then { r with deficit := ((List.range 8).map fun k =>
          if (eligible m k s).isEmpty then 0 else (s.classRun m k).deficit).getD (i % 8) 0 } else r } }) ∧
  (∀ (s : State) (m : Fin 16) (pr : Fin 8) (on : Bool), exec (.pfcRx m pr on) s = .next { s with bw := { s.bw with
      classes := s.bw.classes.mapIdx fun i r =>
        if i / 8 = (m : Nat) ∧ bitOf (((s.applied.classes[i]?).map (·.class0)).getD 0) 19 ∧
            bitOf (((s.applied.classes[i]?).map (·.class0)).getD 0) 20 ∧
            fieldOf (((s.applied.classes[i]?).map (·.class0)).getD 0) 16 3 = (pr : Nat) then { r with paused := on }
        else r } }) ∧
  (∀ (s : State) (i : Nat) (c : Conn), s.conn? i = some c → c.error = none → c.ccRate < 65536 →
      c.ccTimer + 1000 * max 1 (fieldOf s.applied.bwCc 16 8) ≤ s.tide.uptime →
      exec (.ccRateRecover i) s = .next (s.modConn i fun c => { c with
        ccBucket := ccNow c s, ccSince := s.tide.uptime, ccRate := min 65536 (c.ccRate + 1024)
        ccTimer := c.ccTimer + 1000 * max 1 (fieldOf s.applied.bwCc 16 8) })) ∧
  (∀ (s : State) (m : Fin 16) (k : Fin 8), exec (.shaperCreditRestored m k) s = .next { s with
      bw := { s.bw with classes := updAt s.bw.classes (m * 8 + k) (fun r => { r with credit := classCredit m k s, since := s.tide.uptime }) }
      egr := { s.egr with conns := s.egr.conns.map fun c => if c.onLink = (m : Nat) ∧ c.cls = (k : Nat) then
        { c with tokenCredit := tokenNow c s, tokenSince := s.tide.uptime, ccBucket := ccNow c s, ccSince := s.tide.uptime } else c } }) ∧
  (∀ (s : State) (i : Nat) (c : Conn), s.asleep = false → s.conn? i = some c → c.active = true → c.resident = false → c.loading = false →
      c.copies ≠ [] → s.residents.length < 4096 →
      exec (.contextLoadDone i) s = .next (becomeResident i s)) ∧
  (∀ (s : State) (i : Nat) (c x : Conn), s.asleep = false → s.conn? i = some c → c.active = true → c.resident = false → c.loading = false →
      c.copies ≠ [] → 4096 ≤ s.residents.length → (s.residents.find? fun x => !x.active) = some x →
      exec (.contextLoadDone i) s = .next (becomeResident i (s.modConn x.idx fun x => { x with resident := false, loading := false }))) ∧
  (∀ (s a u : State), s.bw.slice < s.tide.uptime / 2000 → a = { s with bw := { s.bw with slice := s.tide.uptime / 2000 } } →
      u = a.each (s.egr.conns.filter (·.loading)) (fun c u => becomeResident c.idx (u.modConn c.idx fun c => { c with loading := false })) →
      u.activeConns ≤ 4096 →
      exec .sliceBoundary s = .next { u with bw := { u.bw with overcommit := u.bw.overcommit && !u.bw.overSlices, overSlices := true } }) ∧
  (∀ (s a u v w : State), s.bw.slice < s.tide.uptime / 2000 → a = { s with bw := { s.bw with slice := s.tide.uptime / 2000 } } →
      u = a.each (s.egr.conns.filter (·.loading)) (fun c u => becomeResident c.idx (u.modConn c.idx fun c => { c with loading := false })) →
      4096 < u.activeConns →
      v = { u with bw := { u.bw with overcommit := u.bw.overcommit && !u.bw.overSlices, overSlices := false } } →
      w = (if 256 < (swapPairs v).length then setEv .bw 8 (v.each ((swapPairs v).take 256) swapOne) else v.each ((swapPairs v).take 256) swapOne) →
      exec .sliceBoundary s = .next (w.each (w.egr.conns.filter fun c => c.active && !c.resident) fun c u =>
        reportRisk ((s.tide.time : Int) + (if c.loading then 2000 else 4000)) c u)) ∧
  (∀ (s : State) (n : Fin 8), s.fab.contextRecopy.contains (n : Nat) = true → exec (.connContextRecopyDone n) s = .next { s with
      fab := { s.fab with contextRecopy := s.fab.contextRecopy.filter (· != (n : Nat)) }
      egr := { s.egr with conns := s.egr.conns.map fun c => if c.copies.length < 2 ∧ (c.copies ≠ [] ∨ c.resident = true) then
        { c with copies := contextPlace c.idx s.servingList } else c } }) ∧
  (∀ l : List Nat, l ≠ [] → (∀ n ∈ l, n < 8) → ∀ i : Nat, ∀ n ∈ contextPlace i l, n ∈ l ∧ (i % 8 ∈ l → (contextPlace i l).head? = some (i % 8)))

/-- R92, R94, R96, R98, R99, R100, R101, R102, R105, R117, R138: (1) a program that the media manager may issue (its
source stands, its block is open in a stripe of the source's stream or opens one, its page is the next of the block,
its die is not under test, and under 1 percent of free blocks its ingest has credit) places the unit, folds and stages
anew, and is counted; one that fails retires its block; (2) a copy that finds no buffer is not made, and the failed
draw is counted; (3) an erase of a block that may be erased frees it and is counted, and (4) one that fails retires
the block; (5) a stripe whose blocks verify, the copies of earlier bad ones too, is verified, (6) with copies
outstanding it waits, and (7) the blocks named bad are scheduled for copying and waited for. How ingest is limited and
where a copy's buffer lies is the model's choice (log entry 161). -/
def Obligations.ProgramsAndErases : Prop :=
  (∀ (s a : State) (die blk page n : Nat) (src : ProgramSource) (ok : Bool) (u : UnitSource) (m : Media) (x : Stripe),
      s.media.sourceOf src = some u → s.media.streamFor u (((s.media.block? die blk).map (·.stream)).getD 3) = n →
      s.media.target die blk n s.tide.uptime u = some (m, x) → s.media.writable = true → s.dieTested die = false →
      page = (m.slotsIn die blk).length → page < m.slotsPer (n != 3) → s.media.limited die u = false ∨ s.media.creditOf die ≠ 0 →
      copyBuffer u s = (true, a) →
      Completes (.programDone die blk page src ok) s fun t =>
        let b := { a with media := if s.media.limited die u then m.useCredit die else m }
        t = if ok then programMedia (fun k => (k.program u x (k.puaAt die blk page) page n).foldCheck.stagingCheck) (programPerf die n u b)
          else failBlock die blk b) ∧
  (∀ (s a : State) (die blk page n : Nat) (src : ProgramSource) (ok : Bool) (u : UnitSource) (m : Media) (x : Stripe),
      s.media.sourceOf src = some u → s.media.streamFor u (((s.media.block? die blk).map (·.stream)).getD 3) = n →
      s.media.target die blk n s.tide.uptime u = some (m, x) → s.media.writable = true → s.dieTested die = false →
      page = (m.slotsIn die blk).length → page < m.slotsPer (n != 3) → s.media.limited die u = false ∨ s.media.creditOf die ≠ 0 →
      copyBuffer u s = (false, a) →
      exec (.programDone die blk page src ok) s = .next a) ∧
  (∀ (s : State) (die blk : Nat), s.media.writable = true → s.media.erasable die blk = true → s.dieTested die = false →
      exec (.eraseDone die blk true) s = .next (countPerf (mediaPerf die) 0x101 (programMedia (fun m => (m.erase die blk).stagingCheck) s))) ∧
  (∀ (s : State) (die blk : Nat), s.media.writable = true → s.media.erasable die blk = true → s.dieTested die = false →
      exec (.eraseDone die blk false) s = .next (failBlock die blk s)) ∧
  (∀ (s : State) (g n : Nat) (bad : List Nat) (x : Stripe),
      (s.media.stripes.find? fun x => x.group == g && x.number == n && x.state == .closing) = some x →
      (x.members.any fun y => s.dieTested y.1) = false → (x.members.filter fun y => bad.contains y.1 && y.1 != x.parity) = [] →
      s.media.copiesVerified x = true →
      exec (.stripeVerifyDone g n bad) s = .next { s with media := s.media.modStripe x fun y => { y with state := .verified } }) ∧
  (∀ (s : State) (g n : Nat) (bad : List Nat) (x : Stripe),
      (s.media.stripes.find? fun x => x.group == g && x.number == n && x.state == .closing) = some x →
      (x.members.any fun y => s.dieTested y.1) = false → (x.members.filter fun y => bad.contains y.1 && y.1 != x.parity) = [] →
      s.media.copiesVerified x = false →
      exec (.stripeVerifyDone g n bad) s = .next s) ∧
  (∀ (s : State) (g n : Nat) (bad : List Nat) (x : Stripe) (bs : List (Nat × Nat)),
      (s.media.stripes.find? fun x => x.group == g && x.number == n && x.state == .closing) = some x →
      (x.members.any fun y => s.dieTested y.1) = false → (x.members.filter fun y => bad.contains y.1 && y.1 != x.parity) = bs → bs ≠ [] →
      exec (.stripeVerifyDone g n bad) s = .next (s.modMedia fun m => bs.foldl
        (fun (m : Media) (p : Nat × Nat) => m.modBlock p.1 p.2 fun y => { y with rewrite := true })
        (m.modStripe x fun y => { y with waiting := (y.waiting ++ bs).eraseDups })))

/-- R86, R95, R96, R98, R102, R105, R119: (1) S follows the fill after each GiB programmed; (2) folding runs while
staging data exist; (3) collection on a die with under 3 percent of free blocks, with no rewrite waiting, empties the
block with the fewest valid units; (4) relocation empties the least worn block, at most one every 10 s, where the wear
of a die spreads over a tenth of its rating; (5) a block that asks for a rewrite is emptied, or within 50 of its
cycles since the last retired; (6) each target whose training fails is a failed die, (7) as is a die that completes no
reset, or fails on more than 64 distinct blocks within an hour; (8) a temperature is counted in its bin. -/
def Obligations.MediaUpkeep : Prop :=
  (∀ (s : State), 2 ^ 30 ≤ s.media.sinceStaging →
      exec .stagingResize s = .next (setMedia (fun m => Media.stagingCheck { m with
        sinceStaging := m.sinceStaging - 2 ^ 30
        staging := if 95 * max 1 m.capacity < 100 * m.valid then 5000 else 60000 - 55000 * 100 * m.valid / (95 * max 1 m.capacity) }) s)) ∧
  (∀ (s : State), s.asleep = false → s.media.writable = true → s.media.foldBacklog ≠ 0 →
      exec .foldStart s = .next { s with media := { s.media with folding := true } }) ∧
  (∀ (s : State) (die : Nat) (b : Block), s.asleep = false → s.media.writable = true → s.dieTested die = false →
      100 * s.media.freeBlocks die < 3 * s.media.geom.blocks → s.media.rewriteWaits die = false →
      leastBy (fun b => (s.media.validIn die b.block).length) ((s.media.victims die).filter (Block.collectable s.tide.uptime)) = some b →
      exec (.gcStart die) s = .next { s with media := s.media.modBlock die b.block fun b => { b with drain := some .gc } }) ∧
  (∀ (s : State) (die : Nat) (b : Block) (es : List Nat) (low : Nat), s.asleep = false → s.media.writable = true → s.dieTested die = false →
      (s.media.blocks.filter (·.die == die) |>.map (·.erases)) = es →
      low = (if es.length < s.media.geom.blocks then 0 else es.foldl min (es.headD 0)) → s.media.geom.rated < 10 * (es.foldl max 0 - low) →
      s.media.keepsBack = true → (∀ t, (s.media.relocAt.find? (·.1 == die)).map (·.2) = some t → t + 10000000000 ≤ s.tide.uptime) →
      leastBy (·.erases) (s.media.victims die) = some b →
      exec (.staticRelocation die) s = .next (drainBlock die b.block .relocate (s.modMedia fun m =>
        { m with relocAt := (die, s.tide.uptime) :: m.relocAt.filter (·.1 != die) }))) ∧
  (∀ (s : State) (die blk : Nat) (b : Block), s.media.block? die blk = some b → s.media.writable = true → b.rewrite = true → b.state = .closed →
      s.dieTested die = false →
      exec (.blockRewriteStart die blk) s = .next (match b.lastRewrite with
        | some n => if b.erases < n + 50 then retire die blk s else drainBlock die blk .rewrite s
        | none => drainBlock die blk .rewrite s)) ∧
  (∀ (s : State) (c : Fin 64) (l : List (Fin 16)), s.media.mounted = true →
      exec (.flashTrainingTimer c l) s = .next (s.each l fun f t =>
        if t.media.hasDie (16 * c + f) ∧ t.media.failedDies.contains (16 * c + f : Nat) = false then failDie (16 * c + f) t else t)) ∧
  (∀ (s : State) (die : Nat) (r : Bool), s.media.mounted = true → s.media.hasDie die = true →
      s.media.failedDies.contains die = false → r = true ∨ 64 < s.media.failsOf die s.tide.uptime →
      exec (.flashDieFailed die r) s = .next (failDie die s)) ∧
  (∀ (s : State) (a b : Int), exec (.mediaTempSample a b) s = .next { s with media := { s.media with
      tempBins := updAt s.media.tempBins (tempBin (max a b)) fun n => min (n + 1) (2 ^ 32 - 1) } })

/-- R88, R90, R102, R103, R107, R108, R110, R113, R114, R115, R140, R360: (1) a held write that finds room passes into
the buffer and completes, (2) without room it stays held, (3) it ends with what has come to fail it meanwhile, and (4)
with NO_SUCH_DATASET where its partition is gone; (5) a flush completes once its units are programmed, with the
durable WSEQ, and waits while a record of it finds no place, (6) one whose covered write is lost ends with MEMORY_LOST
and the durable WSEQ, and (7) a seal, over every write completed by then, seals after its flush; outside a media test,
(8) the journal is programmed, (9) after 4 GiB a checkpoint begins with the segments changed since the last root, and
(10) it has ended once its root stands on both media dies, where earlier roots stay; (11) a map segment that failed is
reloaded, and (12) the mirrors of an SPD are whole again; (13) recovery mounts the media, drops the dies that failed
training, or refuses the mount, and (14) nothing mounts twice. -/
def Obligations.MetadataAndBuffer : Prop :=
  (∀ (s u : State) (id : CmdId) (c : Cmd) (n sh f w : Nat) (xs : List (List Byte)) (p : Partition),
      (s.cmd? id fun c => match c.run with | .writeHeld .. => true | _ => false) = some c → c.run = .writeHeld n sh f xs →
      s.partSlot n = some p → writeStatus p f xs s = none → shardIn n sh f xs s = (some w, u) →
      exec (.writeBufferAdmit id) s = .next (finish c stSuccess (natBytes 4 w) u)) ∧
  (∀ (s u : State) (id : CmdId) (c : Cmd) (n sh f : Nat) (xs : List (List Byte)) (p : Partition),
      (s.cmd? id fun c => match c.run with | .writeHeld .. => true | _ => false) = some c → c.run = .writeHeld n sh f xs →
      s.partSlot n = some p → writeStatus p f xs s = none → shardIn n sh f xs s = (none, u) →
      exec (.writeBufferAdmit id) s = .next u) ∧
  (∀ (s : State) (id : CmdId) (c : Cmd) (n sh f st : Nat) (xs : List (List Byte)) (p : Partition),
      (s.cmd? id fun c => match c.run with | .writeHeld .. => true | _ => false) = some c → c.run = .writeHeld n sh f xs →
      s.partSlot n = some p → writeStatus p f xs s = some st →
      exec (.writeBufferAdmit id) s = .next (finish c st [] s)) ∧
  (∀ (s : State) (id : CmdId) (c : Cmd) (n sh f : Nat) (xs : List (List Byte)),
      (s.cmd? id fun c => match c.run with | .writeHeld .. => true | _ => false) = some c → c.run = .writeHeld n sh f xs →
      s.partSlot n = none → exec (.writeBufferAdmit id) s = .next (finish c 0x0207 [] s)) ∧
  (∀ (s a : State) (id : CmdId) (c : Cmd) (n w st d : Nat), (s.cmd? id fun c => match c.run with | .flush .. => true | _ => false) = some c →
      c.run = .flush n w false none → s.media.flushed n w = true → s.ltOn 3 = false → flushPart n w s = (st, d, a) →
      exec (.flushComplete id) s = .next (if st = stSuccess ∧ a.media.journal ≠ [] then s else finish c st (natBytes 4 d) a)) ∧
  (∀ (s : State) (id : CmdId) (c : Cmd) (n w d : Nat) (sl : Bool), (s.cmd? id fun c => match c.run with | .flush .. => true | _ => false) = some c →
      c.run = .flush n w sl (some d) → exec (.flushComplete id) s = .next (finish c 0x0103 (natBytes 4 d) s)) ∧
  (∀ (s a b : State) (id : CmdId) (c : Cmd) (n w0 w st st2 d : Nat), (s.cmd? id fun c => match c.run with | .flush .. => true | _ => false) = some c →
      c.run = .flush n w0 true none → w = max w0 (((s.partSlot n).map (·.completed)).getD 0) → s.media.flushed n w = true → s.ltOn 3 = false →
      flushPart n w s = (st, d, a) → sealPart n d a = (st2, b) →
      exec (.flushComplete id) s = .next (if st ≠ stSuccess then finish c st (natBytes 4 d) a
        else if b.media.journal = [] then finish c st2 (natBytes 4 d) b else s)) ∧
  (∀ (s : State), s.media.writable = true → s.ltOn 3 = false →
      exec .journalProgram s = .next (programMedia (Media.programJournal s.tide.uptime) s)) ∧
  (∀ (s : State), s.asleep = false → s.media.writable = true → s.ltOn 3 = false → 2 ^ 32 ≤ s.media.sinceCheckpoint → s.media.pendingCheckpoint = none →
      exec .checkpointStart s = .next (programMedia (Media.beginCheckpoint (changedSegments s.media.sinceRoot) s.tide.uptime) s)) ∧
  (∀ (s : State) (a b : Bool), s.ltOn 3 = false →
      exec (.checkpointRootDone a b) s = .next (programMedia (Media.rootDone a b s.tide.uptime) s) ∧
      (∀ c : Checkpoint, s.media.pendingCheckpoint = some c →
        let m := s.media.rootDone a b s.tide.uptime
        (m.pendingCheckpoint = none ↔ m.hasRoot 0 c = true ∧ m.hasRoot 1 c = true) ∧ (∀ x ∈ s.media.roots, x ∈ m.roots))) ∧
  (∀ (s : State) (n : Nat), s.ltOn 3 = false → exec (.mapSegmentReloadDone n) s = .next { s with media := { s.media with
      reloadSegments := s.media.reloadSegments.filter (· != n) } }) ∧
  (∀ (s : State) (n : Fin 8), s.spdTested n = false → exec (.mapMirrorRecopyDone n) s = .next { s with fab := { s.fab with
      mapRecopy := s.fab.mapRecopy.filter (· != n), oneCopy := s.fab.oneCopy.filter fun x => x.2.2 != (n : Nat) } }) ∧
  (∀ (s a : State) (roots torn : List Nat) (wiped : List (Nat × Nat)), s.media.mounted = false → s.media.unsupported = none →
      s.host.fwReady = true → s.sec.recovery = false → s.host.broughtUp = true → s.ltOn 3 = false →
      a = mountReasons (setMedia (fun m => m.recover roots torn wiped s.tide.uptime) s) →
      exec (.recoveryDone roots torn wiped) s = .next (match s.media.mountFail with
        | some (d, k) => refuseMount d k s
        | none => a.each a.media.untrained dropDie)) ∧
  (∀ (s : State) (roots torn : List Nat) (wiped : List (Nat × Nat)), s.media.mounted = true ∨ s.media.unsupported.isSome = true →
      exec (.recoveryDone roots torn wiped) s = .next s)

/-- R123, R124, R125, R128, R129, R133, R136, R359, R360, R407: (1) a correctable error is counted, and kept with its
row; (2) the third of a row in a day retires the row; (3) an uncorrectable error sets its event, takes what it hit,
and retires its row; (4) while the Pilots run, a patrol starts from the lowest address under STRICT, else from where
the hardware says; (5) text tables reloaded are in place; (6) a lost stack is taken out; (7) its rebuild ends; (8) a
sweep recomputes every key that is stale or due; (9) a split evicts to the new size, is done once what is pinned fits,
and the last one sets SPLIT_APPLIED; (10) clearing frees what the job held, posts its event and completes JOB_END. -/
def Obligations.MemoryAndCaches : Prop :=
  (∀ (s : State) (n : Fin 8) (row : Option HbmRow), s.clocked n = true →
      (∀ r, row = some r → ((s.fab.rowCe.filter fun x => decide (s.tide.uptime < x.2 + dayNs)).filter (·.1 == r)).length < 2) →
      exec (.memoryCe n row) s = .next (match row with
        | none => countCorrected n (countPerf n 0x901 s)
        | some r => (countCorrected n (countPerf n 0x902 s)).modFab fun f => { f with
            rowCe := (s.fab.rowCe.filter fun x => decide (s.tide.uptime < x.2 + dayNs)) ++ [(r, s.tide.uptime)] })) ∧
  (∀ (s : State) (n : Fin 8) (r : HbmRow), s.clocked n = true →
      2 ≤ ((s.fab.rowCe.filter fun x => decide (s.tide.uptime < x.2 + dayNs)).filter (·.1 == r)).length →
      exec (.memoryCe n (some r)) s = .next (retireRow r ((countCorrected n (countPerf n 0x902 s)).modFab fun f => { f with
        rowCe := s.fab.rowCe.filter fun x => decide (s.tide.uptime < x.2 + dayNs) }))) ∧
  (∀ (s a u : State) (p : MemPlace) (row : Option HbmRow), s.clocked (ueSpd p row) = true → a = setEv .mem (if row.isSome then 2 else 1) s →
      u = (match p with
        | .berth m (some k) => berthError m k a
        | .berth m none => countCorrected m a
        | .serveBerth m k va => countCorrected m (if row.isSome then readError (some k) va false a else a)
        | .cacheExtent m dec slot index remote => cacheError m dec slot index remote a
        | .mapSegment m seg both => countCorrected m (if both then
            { a with media := { a.media with reloadSegments := (seg :: a.media.reloadSegments).eraseDups } } else a)
        | .firmware m => countCorrected m a
        | .writeBuffer m both => if both then loseBuffer m a else countCorrected m a
        | .textTables m => countCorrected m (a.modSpd m fun d => { d with textReload := true })
        | .jobSpace va => countContained (readError none va true (setEv .mem 2 a))) →
      exec (.memoryUe p row) s = .next (match row with | some r => retireRow r u | none => u)) ∧
  (∀ (s : State) (hbm : Bool) (n k : Nat), s.pilotsRun = true → k = (if bitOf s.applied.cfgDet 0 then 0 else n) →
      exec (.patrolScrub hbm n) s = .next { s with fab := if hbm then { s.fab with scrubHbm := k } else { s.fab with scrubSram := k } }) ∧
  (∀ (s : State) (n : Fin 8), s.clocked n = true → exec (.textTableReloadDone n) s = .next (s.modSpd n fun d => { d with textReload := false })) ∧
  (∀ (s : State) (k : Fin 24), s.clocked (k / 3) = true → exec (.hbmStackLost k) s = .next (loseStack k s)) ∧
  (∀ (s : State) (k : Fin 24), s.clocked (k / 3) = true → exec (.stackRebuildDone k) s = .next { s with fab := { s.fab with
      stackRebuild := s.fab.stackRebuild &&& ~~~((1 : BitVec 24) <<< (k : Nat)) } }) ∧
  (∀ (s : State) (n : Fin 8) (d : Spd) (upd : CacheEntry → CacheEntry), s.clocked n = true → s.spd? n = some d → d.sweep = true →
      upd = (fun e => if e.due || e.key == .stale then { e with key := cacheKey s e.dsSlot e.index e.remote 64 (-1), due := false } else e) →
      exec (.keySweepDone n) s = .next (countFixed n 12 (countPerf n 0x707 (s.modSpd n fun d =>
        { d with decCache := d.decCache.map upd, rawCache := d.rawCache.map upd, spill := d.spill.map upd, sweep := false })))) ∧
  (∀ (s t : State) (n : Fin 8) (d : Spd) (dec raw : List CacheEntry), s.clocked n = true → s.spd? n = some d → d.splitting = true →
      dec = shrinkTo (decRoom s d) d.decCache → raw = shrinkTo (rawRoom s d) d.rawCache → t = (s.modSpd n fun d =>
        { d with splitting := !decide (unitsUsed dec ≤ decRoom s d ∧ unitsUsed raw ≤ rawRoom s d), decCache := dec, rawCache := raw }) →
      exec (.cacheSplitDone n) s = .next (if t.fab.spds.any (·.splitting) then t else setEv .mem 0x40 t)) ∧
  (∀ (s u a : State), s.run.clearing = true → u = s.each (List.range 8) (fun n u => keepSpill n (fun _ => []) u) →
      a = postEvent 7 false (leBytes 4 s.jobId) { u with
        run := { JobRun.reset with endedId := s.jobId }, fab := { u.fab with spds := u.fab.spds.map Spd.cleared }, egr := { u.egr with jobMem := [] } } →
      exec .jobClearDone s = .next (a.each (a.host.cmds.filter (·.run == .jobEnd)) fun c t => finish c stSuccess [] t))

/-- R49, R376, R378, R379, R380, R383, R385, R386, R387: from an owner whose accesses are heard, (1) a write of
CFG_APPLY arms every group it names, in turn; (2) a group armed already, with the reserved boundary, an IMMEDIATE
boundary while not quiescent, or a BATCH boundary of no stream is refused with the event ARM_REFUSED, and (3) any
other is armed with its boundary, while shadows and applied values stand; (4) a cancel takes the arms of the groups
back; (5) at an apply the groups named whose boundary falls are copied in one cycle, (6) at a step boundary those
whose STEP boundary has come (R49), and in both (7) those the guard freezes stay armed and set APPLY_HELD; a mismatch
freezes all but an IMMEDIATE apply with no job; (8) a computation starts; (9) it ends with the CRC-32C of the applied
words, and a difference from the reference rises MISMATCH and its event; (10) a commit takes the reference, and (11)
is refused while a group is armed. -/
def Obligations.StagedRegistersApply : Prop :=
  (∀ (s : State) (w : Owner) (m : BitVec 11), s.heard w = true →
      exec (.cfgArm w m) s = .next (s.each ((List.range 11).filter (bitOf m)) armGroup)) ∧
  (∀ (s : State) (g : Nat), isArmed g s = true ∨ fieldOf s.rw.grpBnd (2 * g) 2 = 3 ∨ (fieldOf s.rw.grpBnd (2 * g) 2 = 0 ∧ quiescent g s = false) ∨
      (fieldOf s.rw.grpBnd (2 * g) 2 = 1 ∧ (s.run.streams.any fun t => t.num == fieldOf s.rw.applyStream 0 6) = false) →
      armGroup g s = setEv .cfg 0x10000 s) ∧
  (∀ (s : State) (g : Nat), isArmed g s = false → fieldOf s.rw.grpBnd (2 * g) 2 ≠ 3 →
      (fieldOf s.rw.grpBnd (2 * g) 2 = 0 → quiescent g s = true) →
      (fieldOf s.rw.grpBnd (2 * g) 2 = 1 → (s.run.streams.any fun t => t.num == fieldOf s.rw.applyStream 0 6) = true) →
      armGroup g s = { s with arms := s.arms ++ [⟨g, fieldOf s.rw.grpBnd (2 * g) 2, fieldOf s.rw.applyStream 0 6,
        s.rw.applyBatchLo.toNat + s.rw.applyBatchHi.toNat * 2 ^ 32,
        s.rw.tideApplyStepLo.toNat + fieldOf s.rw.tideApplyStepHi 0 16 * 2 ^ 32, s.rw.tideApplyPhase.toNat,
        (s.run.batches.filter fun x => x.stream == fieldOf s.rw.applyStream 0 6 && x.begun).map (·.num), s.tide.accepts⟩] }) ∧
  (∀ (s : State) (w : Owner) (g : BitVec 11), s.heard w = true → exec (.cfgCancel w g) s = .next { s with
      arms := s.arms.filter fun a => !((List.range 11).filter (bitOf g)).contains a.group }) ∧
  (∀ (s : State) (m : BitVec 11) (fall : List Arm), (s.arms.filter fun a => bitOf m a.group && boundaryFalls s a) = fall →
      exec (.groupApply m) s = .next (applyGroups ((fall.filter fun a => !frozen s a).map (·.group))
        (if (fall.any (frozen s)) = true then setEv .grd 4 s else s))) ∧
  (∀ (s : State) (fall : List Arm), (s.arms.filter fun a => a.boundary == 2 && stepDue s a) = fall →
      exec .stepBoundaryApply s = .next (applyGroups ((fall.filter fun a => !frozen s a).map (·.group))
        (if (fall.any (frozen s)) = true then setEv .grd 4 s else s))) ∧
  (∀ (s : State) (a : Arm), frozen s a = (s.guard.mismatch && !(a.boundary == 0 && !s.jobActive))) ∧
  (∀ (s : State), exec .guardComputeStart s = .next { s with guard := { s.guard with computing := true } }) ∧
  (∀ (s : State) (v : Word) (m : Bool), s.guard.computing = true → crc32c (s.applied.words.flatMap (leBytes 4)) = v →
      m = (s.guard.refValid && !s.guard.pending && v != s.guard.committed) →
      exec .guardComputeDone s = .next ((if m && !s.guard.mismatch then setEv .grd 1 else fun t => t) { s with guard := { s.guard with
        crc := v, computing := false, busy := false, done := true, mismatch := m } })) ∧
  (∀ (s : State) (w : Owner) (m : Bool), s.heard w = true → s.arms = [] → m = (s.guard.done && s.guard.crc != s.rw.grdRef) →
      exec (.guardCommit w) s = .next ((if m && !s.guard.mismatch then setEv .grd 1 else fun t => t) { s with guard := { s.guard with
        committed := s.rw.grdRef, refValid := true, pending := false, mismatch := m } })) ∧
  (∀ (s : State) (w : Owner), s.heard w = true → s.arms ≠ [] → exec (.guardCommit w) s = .next (setEv .grd 2 s))

/-- R7, R326, R328, R329, R330, R331, R332, R333, R335, R338, R352, R369: (1) reads of a lock answer each reader: the
one that acquires it 0, another the holder's number, one that does not reach the set all ones; (2) of a lock that is
free, one reader acquires it, of several the lowest owner number, but not the winner of the last contest; of one that
is held none does; (3) the holder releases it in IDLE, to the Harbourmaster while that restarts, (4) in REPLY or
ABORTED with an acknowledgement, (5) not in POSTED or TAKEN, which sets IGNORED; (6) another's release, or of another
value, does nothing; the holder (7) writes the buffer in IDLE, (8) rings in IDLE, which is a wake and begins a paused
self-test's wait again, and (9) acknowledges a reply or an abort; (10) any of these from another, or in another state,
sets IGNORED, and from the other port does nothing; (11) firmware that serves takes the oldest posted message; (12) a
reply fills the buffer of a TAKEN mailbox, (13) one overtaken by a port reset is discarded and counted as such, and
(14) one to a mailbox no longer TAKEN is discarded. -/
def Obligations.MailboxesComplete : Prop :=
  (∀ (s : State) (rs : List Owner) (m : MbxId) (w h l : Option Owner), rsGrant (rs.filter (reaches · m.set s)) (s.mbx m).lock (s.mbx m).lastContest = (w, h, l) →
      exec (.mbxLockRead rs m) s = .next ((s.modMbx m fun b => { b with lock := h, lastContest := l }).each rs fun o u =>
        u.emit (.value o (if reaches o m.set s then (if w = some o then 0 else BitVec.ofNat 32 ((h.map (·.number)).getD 0)) else 0xFFFFFFFF)))) ∧
  (∀ (a b : Owner) (held last : Option Owner), rsGrant [a] none last = (some a, some a, last) ∧
      (∀ (x : Owner) (rs : List Owner), rsGrant rs (some x) last = (none, some x, last)) ∧
      (a.number < b.number → rsGrant [a, b] none last = (if last = some a then (some b, some b, some b) else (some a, some a, some a)) ∧
        rsGrant [b, a] none last = rsGrant [a, b] none last)) ∧
  (∀ (s : State) (m : MbxId) (o : Owner), reaches o m.set s = true → (s.mbx m).lock = some o → (s.mbx m).state = .idle →
      exec (.mbxLockRelease o m 0) s = .next (s.modMbx m fun b => { b with lock := if s.host.fwReady then none else some .harbourmaster })) ∧
  (∀ (s : State) (m : MbxId) (o : Owner), reaches o m.set s = true → (s.mbx m).lock = some o → (s.mbx m).state = .reply ∨ (s.mbx m).state = .aborted →
      exec (.mbxLockRelease o m 0) s = .next (s.modMbx m fun b => { b with buf := 0, state := .idle, lock := if s.host.fwReady then none else some .harbourmaster })) ∧
  (∀ (s : State) (m : MbxId) (o : Owner), reaches o m.set s = true → (s.mbx m).lock = some o → (s.mbx m).state = .posted ∨ (s.mbx m).state = .taken →
      exec (.mbxLockRelease o m 0) s = .next (mbxEvent m 3 s)) ∧
  (∀ (s : State) (m : MbxId) (o : Owner) (v : Word), reaches o m.set s = false ∨ (s.mbx m).lock ≠ some o ∨ v ≠ 0 →
      exec (.mbxLockRelease o m v) s = .next s) ∧
  (∀ (s : State) (m : MbxId) (o : Owner) (i : Fin 16) (v : Word), reaches o m.set s = true → (s.mbx m).lock = some o → (s.mbx m).state = .idle →
      exec (.mbxBufWrite o m i v) s = .next (s.modMbx m fun b => { b with buf := setWord b.buf i v })) ∧
  (∀ (s : State) (m : MbxId) (o : Owner), reaches o m.set s = true → (s.mbx m).lock = some o → (s.mbx m).state = .idle →
      exec (.mbxDoorbell o m) s = .next (wake 1 true ((s.modMbx m fun b =>
        { b with state := .posted, tag := BitVec.ofNat 16 (fieldOf b.buf 16 16), abortStage := false }).modHost fun h =>
          { h.stirTest with bells := h.bells ++ [(.mbx m, h.stamp, 0)], stamp := h.stamp + 1 }))) ∧
  (∀ (s : State) (m : MbxId) (o : Owner), reaches o m.set s = true → (s.mbx m).lock = some o → (s.mbx m).state = .reply ∨ (s.mbx m).state = .aborted →
      exec (.mbxAck o m) s = .next (s.modMbx m fun b => { b with buf := 0, state := .idle })) ∧
  (∀ (s : State) (m : MbxId) (o : Owner) (i : Fin 16) (v : Word), (reaches o m.set s = false →
        exec (.mbxBufWrite o m i v) s = .next s ∧ exec (.mbxDoorbell o m) s = .next s ∧ exec (.mbxAck o m) s = .next s) ∧
      (reaches o m.set s = true → (s.mbx m).lock ≠ some o ∨ (s.mbx m).state ≠ .idle →
        exec (.mbxBufWrite o m i v) s = .next (mbxEvent m 3 s) ∧ exec (.mbxDoorbell o m) s = .next (mbxEvent m 3 s)) ∧
      (reaches o m.set s = true → (s.mbx m).lock ≠ some o ∨ ((s.mbx m).state ≠ .reply ∧ (s.mbx m).state ≠ .aborted) →
        exec (.mbxAck o m) s = .next (mbxEvent m 3 s))) ∧
  (∀ (s : State) (m : MbxId) (n k : Nat), (s.host.bells.find? fun x => Via.isMbx x.1) = some (.mbx m, n, k) → (s.mbx m).state = .posted →
      s.firmwareServes = true →
      exec (.mbxTake m) s = .next (countPerf 8 0x209 (mbxEvent m 0 (enqueueCmd ⟨.mbx m, (s.mbx m).tag⟩ (s.mbx m).buf n
        ((s.modHost fun h => { h with bells := h.bells.filter (·.1 != .mbx m) }).modMbx m fun b => { b with state := .taken }))))) ∧
  (∀ (s u : State) (m : MbxId) (x : Completion), (s.host.replies.find? (·.id.via == .mbx m)) = some x → x.orphan = false →
      u = (s.modHost fun h => { h with replies := h.replies.filter (· != x) }) → (u.mbx m).state = .taken →
      exec (.mbxReply m) s = .next (targetDone x.order (mbxEvent m 1 (u.modMbx m fun b =>
        { b with buf := replyBuf x, state := .reply })))) ∧
  (∀ (s : State) (m : MbxId) (x : Completion), (s.host.replies.find? (·.id.via == .mbx m)) = some x → x.orphan = true →
      exec (.mbxReply m) s = .next (targetDone x.order (orphanReply m (s.modHost fun h => { h with replies := h.replies.filter (· != x) })))) ∧
  (∀ (s u : State) (m : MbxId) (x : Completion), (s.host.replies.find? (·.id.via == .mbx m)) = some x → x.orphan = false →
      u = (s.modHost fun h => { h with replies := h.replies.filter (· != x) }) → (u.mbx m).state ≠ .taken →
      exec (.mbxReply m) s = .next (targetDone x.order u))

/-- R7, R322, R325, R326, R328, R338, R435, R500, R503: (1) reads of a semaphore answer each reader as those of a lock
do, and all ones to one that is not heard; (2) a release by its owner frees it, and (3) any other write is ignored;
(4) a port reset resets its link, configuration space and MSI-X table, its mailboxes, semaphores, Quays and snapshot;
(5) PERST ends; (6) a link whose PERST is released and whose die has power trains, a wake, on Port B before bring-up
too; (7) its power state follows; (8) a restarted Harbourmaster serves again and frees the locks it kept, and (9) one
that is not restarting does nothing. -/
def Obligations.SemaphoresAndPorts : Prop :=
  (∀ (s : State) (rs : List Owner) (k : Fin 64) (w h l : Option Owner), rsGrant (rs.filter s.heard) (s.sem k).owner (s.sem k).lastContest = (w, h, l) →
      exec (.semRead rs k) s = .next ((s.modSem k fun _ => ⟨h, l⟩).each rs fun o u =>
        u.emit (.value o (if s.heard o then (if w = some o then 0 else BitVec.ofNat 32 ((h.map (·.number)).getD 0)) else 0xFFFFFFFF)))) ∧
  (∀ (s : State) (k : Fin 64) (o : Owner), (s.sem k).owner = some o → s.heard o = true →
      exec (.semRelease o k 0) s = .next (s.modSem k fun x => { x with owner := none })) ∧
  (∀ (s : State) (k : Fin 64) (o : Owner) (v : Word), (s.sem k).owner ≠ some o ∨ v ≠ 0 ∨ s.heard o = false →
      exec (.semRelease o k v) s = .next s) ∧
  (∀ (s a b : State) (p : Port) (c : PortResetCause), a = ((s.modPort p fun h => { h with linkUp := false, d3 := false, perst := c == PortResetCause.perst || h.perst, vecMask := BitVec.allOnes 256, vecPend := 0, vectors := List.replicate 256 (0, 0), cfg := PciConfig.reset, events := [], lostNext := false }).each (setOf p) mbxPortReset) →
      b = { a with sec := { a.sec with sessions := a.sec.sessions.filter (·.transport != .doe p) } } →
      exec (.portReset p c) s = .next (stopPcieTest p (clearSnap p (quaysPortReset p (abandonSems p.owner b))))) ∧
  (∀ (s : State) (p : Port), exec (.perstRelease p) s = .next (s.modPort p fun h => { h with perst := false })) ∧
  (∀ (s : State) (p : Port), (s.host.port p).perst = false → s.pwr.off = false → s.pwr.testEn = false → (s.host.port p).linkUp = false →
      (match p with | .a => s.fab.iod0 | .b => s.fab.iod1 || !s.host.broughtUp) = true → testsPort p s = false →
      exec (.pcieLinkUp p) s = .next (wake 3 false (s.modPort p fun h => { h with linkUp := true }))) ∧
  (∀ (s : State) (p : Port) (d : Bool), (s.host.port p).linkUp = true →
      exec (.pciePmStateChange p d) s = .next (s.modPort p fun h => { h with d3 := d })) ∧
  (∀ (s : State), s.host.hm = .restarting → exec .harbourmasterRestartDone s = .next
      ((s.modHost fun h => { h with hm := .running, fwReady := true }).each (setOf .a ++ setOf .b) fun m t =>
        if (t.mbx m).lock = some .harbourmaster ∧ (t.sec.recovery = false ∨ m.n = 0) then t.modMbx m fun b => { b with lock := none } else t)) ∧
  (∀ (s : State), s.host.hm ≠ .restarting → exec .harbourmasterRestartDone s = .next s)

/-- R322, R348, R350, R351, R352, R365: on a port whose accesses are heard, (1) a tail doorbell that moves the tail of
a Quay neither in error nor being deleted is taken in its place and is a wake; (2) one outside the ring is error 1,
and (3) one that does not move the tail, or of a Quay in error or being deleted, does nothing; (4) a head doorbell
frees slots; (5) one outside the ring is error 2, and (6) one beyond the tail error 3. Where the firmware serves and
reaches the port, and the port may issue DMA, (7) a fetch on a failed link is error 4; (8) one that leaves entries
before the tail of the oldest doorbell takes the next entry and advances the head, and (9) one that reaches that tail
ends the doorbell. Where the ring has room and the port may write, (10) the oldest waiting completion is written to
the next slot, and (11) one on a failed link is dropped, with error 4. (12) A message held back goes when its time is
up. (13) CREATE_QUAY makes the Quay with its heads and tails at 0; (14) DELETE_QUAY ends its doorbells, and completes
once the commands of the Quay have. -/
def Obligations.QuaysComplete : Prop :=
  (∀ (s : State) (q : QuayId) (v : Word) (y : Quay), s.heard q.port.owner = true → s.quay? q = some y → fieldOf v 0 16 < y.sqN →
      y.error = none → deleting q s = false → fieldOf v 0 16 ≠ y.sqTail →
      exec (.quaySqDoorbell q v) s = .next (wake 1 true ((s.modQuay q fun y => { y with sqTail := fieldOf v 0 16 }).modHost fun h =>
        { h.stirTest with bells := h.bells ++ [(.quay q, h.stamp, fieldOf v 0 16)], stamp := h.stamp + 1 }))) ∧
  (∀ (s : State) (q : QuayId) (v : Word) (y : Quay), s.heard q.port.owner = true → s.quay? q = some y → y.sqN ≤ fieldOf v 0 16 →
      exec (.quaySqDoorbell q v) s = .next (quayError q 1 s)) ∧
  (∀ (s : State) (q : QuayId) (v : Word) (y : Quay), s.heard q.port.owner = true → s.quay? q = some y → fieldOf v 0 16 < y.sqN →
      (y.error.isSome = true ∨ deleting q s = true ∨ fieldOf v 0 16 = y.sqTail) →
      exec (.quaySqDoorbell q v) s = .next s) ∧
  (∀ (s : State) (q : QuayId) (v : Word) (y : Quay), s.heard q.port.owner = true → s.quay? q = some y → fieldOf v 0 16 < y.cqN →
      (fieldOf v 0 16 + y.cqN - y.cqHead) % y.cqN ≤ y.unconsumed →
      exec (.quayCqDoorbell q v) s = .next (s.modQuay q fun y => { y with cqHead := fieldOf v 0 16 })) ∧
  (∀ (s : State) (q : QuayId) (v : Word) (y : Quay), s.heard q.port.owner = true → s.quay? q = some y → y.cqN ≤ fieldOf v 0 16 →
      exec (.quayCqDoorbell q v) s = .next (quayError q 2 s)) ∧
  (∀ (s : State) (q : QuayId) (v : Word) (y : Quay), s.heard q.port.owner = true → s.quay? q = some y → fieldOf v 0 16 < y.cqN →
      y.unconsumed < (fieldOf v 0 16 + y.cqN - y.cqHead) % y.cqN →
      exec (.quayCqDoorbell q v) s = .next (quayError q 3 s)) ∧
  (∀ (s : State) (q : QuayId) (y : Quay) (v : Via) (n k : Nat), s.quay? q = some y →
      s.host.bells.find? (·.1 == .quay q) = some (v, n, k) → s.firmwareServes = true → bellAsleep v s = false → s.portReached q.port = true →
      exec (.quayFetch q none) s = .next (quayError q 4 s)) ∧
  (∀ (s : State) (q : QuayId) (e : BitVec 512) (y : Quay) (v : Via) (n k : Nat), s.quay? q = some y →
      s.host.bells.find? (·.1 == .quay q) = some (v, n, k) → s.firmwareServes = true → bellAsleep v s = false → s.portReached q.port = true →
      (y.sqHead + 1) % y.sqN ≠ k →
      exec (.quayFetch q (some e)) s = .next (countPerf 8 0x20A (takeEntry q e n (s.modQuay q fun x => { x with sqHead := (y.sqHead + 1) % y.sqN })))) ∧
  (∀ (s : State) (q : QuayId) (e : BitVec 512) (y : Quay) (v : Via) (n k : Nat), s.quay? q = some y →
      s.host.bells.find? (·.1 == .quay q) = some (v, n, k) → s.firmwareServes = true → bellAsleep v s = false → s.portReached q.port = true →
      (y.sqHead + 1) % y.sqN = k →
      exec (.quayFetch q (some e)) s = .next (countPerf 8 0x20A (takeEntry q e n ((s.modQuay q fun x => { x with sqHead := k }).modHost fun h =>
        { h with bells := h.bells.filter (·.2.1 != n) })))) ∧
  (∀ (s : State) (q : QuayId) (y : Quay) (x : Completion) (xs : List Completion), s.quay? q = some y → y.waiting = x :: xs → y.full = false →
      (s.host.port q.port).dmaOff = false → s.portReached q.port = true →
      exec (.completionWrite q true) s = .next (finishDelete q (targetDone x.order (writeCompletion q y x
        (s.modQuay q fun z => { z with waiting := xs }))))) ∧
  (∀ (s : State) (q : QuayId) (y : Quay) (x : Completion) (xs : List Completion), s.quay? q = some y → y.waiting = x :: xs → y.full = false →
      (s.host.port q.port).dmaOff = false → s.portReached q.port = true →
      exec (.completionWrite q false) s = .next (finishDelete q (targetDone x.order (quayError q 4 (s.modQuay q fun z => { z with waiting := xs }))))) ∧
  (∀ (s : State) (q : QuayId) (y : Quay), s.quay? q = some y → 1 ≤ y.sinceMsg → y.msgSince + y.coalTime * 1000 ≤ s.mono →
      exec (.cqCoalesceTimer q) s = .next (sendMsix q.port y.vec (s.modQuay q fun y => { y with sinceMsg := 0 }))) ∧
  (∀ (s : State) (id : CmdId) (c : Cmd), Starts id 0x02 c false none s → s.quay? c.quayArg = none →
      exec (.createQuay id) s = .next (finish c stSuccess [] (s.modHost fun h => { h with quays := h.quays ++
        [⟨c.quayArg, c.arg 32 8, c.arg 40 8, c.arg 28 2, c.arg 30 2, c.arg 25 1, c.arg 26 1, c.arg 27 1, 0, 0, 0, 0, true, none, 0, 0, []⟩] }))) ∧
  (∀ (s : State) (id : CmdId) (c : Cmd), Starts id 0x03 c false none s → (s.quay? c.quayArg).isSome = true → c.id.via ≠ .quay c.quayArg →
      deleting c.quayArg s = false →
      exec (.deleteQuay id) s = .next (finishDelete c.quayArg ((s.setRun c (.deleteQuay c.quayArg)).modHost fun h =>
        { h with bells := h.bells.filter (·.1 != .quay c.quayArg) })))

/-- R352, R353, R354, R365, R366, R367, R368: of a command that is next to start, with the checks made first passed,
(1) an opcode not listed completes with INVALID_OPCODE; (2) an ABORT that finds its target still queued, or one that
may be caught while it runs, cancels it and waits for its completion, (3) one that finds a target too far on answers 1
with the reason, and (4) one that finds none answers reason 3 for itself, 2 for a target completed but not yet read,
else 1; (5) a GET_EVENT waits, and (6) the oldest that waits takes the oldest event; (7) a self-test starts with step
1, and (8) a second one is busy. (9) An item that passes and is not the last of its step leaves the step under way,
and the reads of step 7 count as reads; (10) the last item of a step begins the next; after each item the test pauses
where a host command is pending; (11) the last item of the last step completes the test, with the number of failed
items and the first of them, and (12) that of any step ends one that an ABORT has caught, with CANCELLED. (13) A
paused test resumes once no host command has been pending for 1 ms. -/
def Obligations.CommandsOfTheQueues : Prop :=
  (∀ (s : State) (id : CmdId) (c : Cmd), (s.cmd? id fun c => c.run == .queued) = some c → starts c s = true → opcodeKnown c.opcode = false →
      exec (.invalidOpcode id) s = .next (finish c stInvalidOpcode [] s)) ∧
  (∀ (s : State) (id : CmdId) (c x : Cmd), Starts id 0x04 c false none s →
      (s.cmd? ⟨c.targetVia, BitVec.ofNat 16 (c.arg 26 2)⟩ fun x => !x.orphan && !x.dup && x.order != c.order) = some x → abortReason x s = 0 →
      exec (.abort id) s = .next (jobEndOn (cancel x (s.setRun c (.abortWait x.order))))) ∧
  (∀ (s : State) (id : CmdId) (c x : Cmd), Starts id 0x04 c false none s →
      (s.cmd? ⟨c.targetVia, BitVec.ofNat 16 (c.arg 26 2)⟩ fun x => !x.orphan && !x.dup && x.order != c.order) = some x → abortReason x s ≠ 0 →
      exec (.abort id) s = .next (finish c stSuccess [1, BitVec.ofNat 8 (abortReason x s)] s)) ∧
  (∀ (s : State) (id : CmdId) (c : Cmd), Starts id 0x04 c false none s →
      (s.cmd? ⟨c.targetVia, BitVec.ofNat 16 (c.arg 26 2)⟩ fun x => !x.orphan && !x.dup && x.order != c.order) = none →
      exec (.abort id) s = .next (finish c stSuccess [1, if ⟨c.targetVia, BitVec.ofNat 16 (c.arg 26 2)⟩ = c.id then 3
        else if completedTarget ⟨c.targetVia, BitVec.ofNat 16 (c.arg 26 2)⟩ s then 2 else 1] s)) ∧
  (∀ (s : State) (id : CmdId) (c : Cmd), Starts id 0x05 c false none s → (waitingEvents (viaPort c.id.via) s).length < 16 →
      exec (.getEvent id) s = .next (s.setRun c .getEvent)) ∧
  (∀ (s : State) (p : Port) (c : Cmd) (cs : List Cmd) (e : AsyncEvent) (es : List AsyncEvent), waitingEvents p s = c :: cs →
      (s.host.port p).events = e :: es →
      exec (.getEventComplete p) s = .next (finish c stSuccess e.result (s.modPort p fun h => { h with events := es }))) ∧
  (∀ (s : State) (id : CmdId) (c : Cmd), Starts id 0x06 c false none s → s.host.selfTest = none →
      exec (.selfTest id) s = .next ((s.setRun c .selfTest).modHost fun h =>
        { h with selfTest := some ⟨c.id, c.arg 24 1 == 2, 1, false, 0, 0, none, false⟩ })) ∧
  (∀ (s : State) (id : CmdId) (c : Cmd), Starts id 0x06 c false none s → s.host.selfTest.isSome = true →
      exec (.selfTest id) s = .next (finish c stSelfTestBusy [] s)) ∧
  (∀ (s a : State) (t : SelfTest) (c : Cmd) (i : Nat) (l : List (Nat × List CodewordResult)), s.host.selfTest = some t →
      s.host.cmds.find? (·.run == .selfTest) = some c → t.paused = false → itemWaits t.step i s = false →
      s.each (if t.step = 7 then l else []) (fun (pua, cs) u => countUnit pua cs (countUnitPerf pua cs u)) = a →
      exec (.selfTestItemDone true i false l) s = .next (a.modHost fun h =>
        { h with selfTest := some { t with paused := hostPending a, quietSince := none } })) ∧
  (∀ (s : State) (t : SelfTest) (c : Cmd) (b : Bool) (i : Nat) (l : List (Nat × List CodewordResult)), s.host.selfTest = some t →
      s.host.cmds.find? (·.run == .selfTest) = some c → t.paused = false → itemWaits t.step i s = false → t.step ≠ 7 → t.aborted = false →
      t.step ≠ (if t.extended then 8 else 6) →
      exec (.selfTestItemDone b i true l) s = .next (s.modHost fun h => { h with selfTest := some { t with
        step := t.step + 1, failed := if b then t.failed else t.failed + 1
        firstFail := if b = false ∧ t.failed = 0 then i else t.firstFail, paused := hostPending s, quietSince := none } })) ∧
  (∀ (s : State) (t : SelfTest) (c : Cmd) (b : Bool) (i : Nat) (l : List (Nat × List CodewordResult)), s.host.selfTest = some t →
      s.host.cmds.find? (·.run == .selfTest) = some c → t.paused = false → itemWaits t.step i s = false → t.aborted = false →
      t.step = (if t.extended then 8 else 6) →
      exec (.selfTestItemDone b i true l) s = .next (finish c stSuccess (SelfTest.result
        (if b = true ∧ t.failed = 0 then 0 else 1) { t with
          failed := if b then t.failed else t.failed + 1
          firstFail := if b = false ∧ t.failed = 0 then i else t.firstFail })
        (s.modHost fun h => { h with selfTest := none }))) ∧
  (∀ (s : State) (t : SelfTest) (c : Cmd) (b : Bool) (i : Nat) (l : List (Nat × List CodewordResult)), s.host.selfTest = some t →
      s.host.cmds.find? (·.run == .selfTest) = some c → t.paused = false → itemWaits t.step i s = false → t.step ≠ 7 → t.aborted = true →
      exec (.selfTestItemDone b i true l) s = .next (finish c stCancelled (SelfTest.result 2 { t with
          failed := if b then t.failed else t.failed + 1
          firstFail := if b = false ∧ t.failed = 0 then i else t.firstFail })
        (s.modHost fun h => { h with selfTest := none }))) ∧
  (∀ (s : State) (t : SelfTest) (q : Nat), s.host.selfTest = some t → hostPending s = false → t.quietSince = some q → q + 1000000 ≤ s.mono →
      exec .selfTestResume s = .next (s.modHost fun h => { h with selfTest := some { t with paused := false } }))

/-- R7, R322, R371, R373, R375, R377, R379, R383, R391, R392, R393, R401: from an owner whose accesses are heard,
outside the alias block, (1) a write of 1s to an event register clears those bits and re-arms the source, and (2) to
an event register of any other unit, clears them there; (3) an event bit that shares its register with fields of other
codes is cleared alone; (4) in the alias block it is an alias write; (5) the enables act at once, and every source
newly enabled while it is pending sends its message. A write of one whole word (6) of a plain register keeps the bits
the register has, and (7) of any other goes to its block, where (8) a shadow takes it unless its group is armed; (9) a
write of two words writes the lower first. (10) A port whose memory space is enabled writes a word of its MSI-X table,
and (11) one whose link is up its configuration space, by the bytes enabled. (12) An alias write has no effect but its
event; (13) a partial write is dropped and (14) an oversize request aborted, each with its event; (15) a read in the
window takes each word it touches, the lowest first, and gives the bytes asked for. (16) A write of the always-on
block is held, in the place of an earlier one to the same register; (17) at an edge of SLOWCLK the copies take the
registers as they stood and the held writes are taken in order; (18) its loss is held. (19) What an owner that is not
heard asks of the window does nothing. The layout of the configuration space is the model's choice (log entry 194). -/
def Obligations.WindowWritesComplete : Prop :=
  (∀ (s : State) (w : Owner) (o : Nat) (v : Word) (k : Source), s.heard w = true → o / 0x4000 % 16 ≠ 15 → sourceAt (regOffset o) = some k →
      exec (.evClear w o v) s = .next (clearEv k v s)) ∧
  (∀ (s t : State) (w : Owner) (o : Nat) (v : Word), s.heard w = true → o / 0x4000 % 16 ≠ 15 → evWrite w o v s = some t →
      exec (.evClear w o v) s = .next t) ∧
  (∀ (s : State) (w : Owner) (o : Nat) (v : Word), s.heard w = true → o / 0x4000 % 16 ≠ 15 → evWrite w o v s = none →
      exec (.evClear w o v) s = .next (mixedEvWrite o v s)) ∧
  (∀ (s : State) (w : Owner) (o : Nat) (v : Word), s.heard w = true → o / 0x4000 % 16 = 15 → exec (.evClear w o v) s = .next (setEv .win 2 s)) ∧
  (∀ (s : State) (w : Owner) (p : Port) (v : Word), s.heard w = true → exec (.irqEnableWrite w p v) s = .next
      ((s.modRw fun r => match p with | .a => { r with irqEnA := v &&& 0x3FFF } | .b => { r with irqEnB := v &&& 0x3FFF }).each
        ((List.range 14).filter fun i => bitOf (v &&& 0x3FFF) i && bitOf (irqPend s.ev) i) fun i t => irqMessage p i t)) ∧
  (∀ (s : State) (w : Owner) (x : HostWrite) (o : Nat) (v m : Word) (f : Word → RwRegs → RwRegs), s.heard w = true → x.space = .window →
      x.addr = o → wholeWords x 4 = true → wordOf x 0 = v → o / 0x4000 % 16 ≠ 15 →
      evWrite w o v s = none → rwReg (regOffset o) = some (m, f) →
      exec (.regWrite w x) s = .next (s.modRw (f (v &&& m)))) ∧
  (∀ (s : State) (w : Owner) (x : HostWrite) (o : Nat) (v : Word), s.heard w = true → x.space = .window →
      x.addr = o → wholeWords x 4 = true → wordOf x 0 = v → o / 0x4000 % 16 ≠ 15 →
      evWrite w o v s = none → rwReg (regOffset o) = none →
      exec (.regWrite w x) s = .next (blockWrite w (regOffset o) v s)) ∧
  (∀ (s : State) (w : Owner) (a g : Nat) (v m : Word) (get : StRegs → Word) (set : Word → StRegs → StRegs), a < 0x1000 →
      stReg s.rw a = some (g, m, get, set) →
      blockWrite w (0x10000 + a) v s = if isArmed g s then setEv .cfg 0x20000 s else { s with shadow := set (v &&& m) s.shadow }) ∧
  (∀ (s : State) (w : Owner) (x : HostWrite), s.heard w = true → x.space = .window → wholeWords x 4 = false → wholeWords x 8 = true →
      exec (.regWrite w x) s = .next (windowWrite w (x.addr + 4) (wordOf x 1) (windowWrite w x.addr (wordOf x 0) s))) ∧
  (∀ (s : State) (w : Owner) (p : Port) (x : HostWrite), ownerPort w = some p → (s.host.port p).mapped = true → x.space = .vectors →
      wholeWords x 4 = true → exec (.regWrite w x) s = .next (vectorWrite p x.addr (wordOf x 0) s)) ∧
  (∀ (s : State) (w : Owner) (p : Port) (x : HostWrite) (k : CfgReg) (old : Word), ownerPort w = some p → (s.host.port p).linkUp = true →
      x.space = .config k → old = (if k = .aerUncorrectable ∨ k = .aerCorrectable then 0 else configWord (s.host.port p) k) →
      exec (.regWrite w x) s = .next (flushMsix p (s.modPort p
        (configWrite k (mergeWord old (List.replicate (x.addr % 4) (0, false) ++ x.bytes)))))) ∧
  (∀ (s : State) (w : Owner) (o : Nat) (v : Word), s.heard w = true → exec (.aliasWrite w o v) s = .next (setEv .win 2 s)) ∧
  (∀ (s : State) (p : Port) (x : HostWrite), s.heard p.owner = true → x.space = .window → wholeWords x 4 = false → wholeWords x 8 = false →
      oversized x.addr x.bytes.length = false → exec (.windowAccessReject p (.write x)) s = .next (setEv .win 1 s)) ∧
  (∀ (s : State) (p : Port) (x : HostWrite) (r : HostRead), s.heard p.owner = true → x.space = .window → wholeWords x 4 = false → wholeWords x 8 = false →
      oversized x.addr x.bytes.length = true → r.space = .window → oversized r.addr r.len = true →
      exec (.windowAccessReject p (.write x)) s = .next (abortRequest p.owner s) ∧ exec (.windowAccessReject p (.read r)) s = .next (abortRequest p.owner s)) ∧
  (∀ (s : State) (p : Port), abortRequest p.owner s = setEv .win 4 ((s.modPort p fun h =>
      { h with cfg := { h.cfg with aerUnc := h.cfg.aerUnc ||| 0x8000 } }).emit (.abortTlp p))) ∧
  (∀ (s t : State) (p : Port) (r : HostRead) (bs : List Byte), s.heard p.owner = true → r.space = .window → oversized r.addr r.len = false →
      readWords p.owner ((r.addr + r.len + 3) / 4 - r.addr / 4) (4 * (r.addr / 4)) s = (bs, t) →
      exec (.windowAccessReject p (.read r)) s = .next (t.emit (.readData p.owner ((bs.drop (r.addr % 4)).take r.len)))) ∧
  (∀ (s : State) (w : Owner) (o : Nat) (v : Word), s.heard w = true → regBlock (regOffset o) = 14 → regPlace (regOffset o) < 0x20 →
      exec (.aonWrite w o v) s = .next (s.modAon fun x =>
        { x with posted := x.posted.filter (·.1 != regPlace (regOffset o)) ++ [(regPlace (regOffset o), v)] })) ∧
  (∀ (s : State), s.fab.iod0 = true → exec .aonWriteTaken s = .next (s.modAon fun x =>
      { x with copy := { s.aon.live with stat := aonStat s }
               live := x.posted.foldl aonTake { s.aon.live with stat := aonStat s }, posted := [], slowLost := false })) ∧
  (∀ (s : State), exec .slowclkLost s = .next (s.modAon fun x => { x with slowLost := true })) ∧
  (∀ (s : State) (w : Owner) (o : Nat) (v : Word) (p q : Port) (x : HostWrite) (r : HostRead) (y : QuayId), x.space = .window → r.space = .window →
      s.heard w = false → s.heard q.owner = false → s.heard y.port.owner = false →
      exec (.evClear w o v) s = .next s ∧ exec (.irqEnableWrite w p v) s = .next s ∧ exec (.regWrite w x) s = .next s ∧
        exec (.aliasWrite w o v) s = .next s ∧ exec (.windowAccessReject q (.write x)) s = .next s ∧
        exec (.windowAccessReject q (.read r)) s = .next s ∧ exec (.aonWrite w o v) s = .next s ∧
        exec (.quaySqDoorbell y v) s = .next s ∧ exec (.quayCqDoorbell y v) s = .next s)

/-- R309, R310, R312, R418, R421, R423, R426, R430, R431: (1) START loads INIT under the width and clears COUNT; (2)
TAIL holds for the next write; (3) a write of DATA to an active unit feeds the bytes it has, and (4) to one that is
idle sets SEQ; (5) FINISH of an active unit ends it, compares where COMPARE is set, and sends its messages on a
mismatch where they are enabled, and (6) of one that is idle sets SEQ; (7) a parity error in a unit of the window ends
its calculation; (8) in a unit of a clocked SPD or of a media die it is a CONTAINED error of that die, and (9) the
stage served starts again from its input. (10) A PTP-aligned list takes the entry in force of its cycle, counted from
BASE, and (11) begins the cycle there where another one has started; (12) at the end of an entry's duration a
STEP-aligned list moves to its next entry, (13) is past its last entry, and HOLD's classes stay open, and (14) it
restarts at a predicted start where no accepted one stands; (15) before that nothing changes. (16) A waiting
PTP-aligned list takes over at its last cycle start not after the present, where that is not before its apply, and
(17) otherwise, or where no list waits or the waiting one is STEP-aligned, nothing changes. (18) A step of frequency
or voltage is settled, and a step that the order rule newly holds back sets OP_HELD. -/
def Obligations.CheckValueUnitsComplete : Prop :=
  (∀ (s : State) (n : Fin 8), exec (.cvuStart n) s = .next { s with cvu := updAt s.cvu n fun c =>
      { c with state := c.maskTo c.init, count := 0, active := true } }) ∧
  (∀ (s : State) (n : Fin 8) (k : Fin 4), exec (.cvuTail n k) s = .next { s with cvu := updAt s.cvu n fun c => { c with tail := (k : Nat) } }) ∧
  (∀ (s : State) (n : Fin 8) (v : Word) (c : Cvu), s.cvu[(n : Nat)]? = some c → c.active = true →
      exec (.cvuDataWrite n v) s = .next (s.modCvu n fun _ =>
        { c.feed (leBytes (if c.tail = 0 then 4 else c.tail) v) with tail := 0 })) ∧
  (∀ (s : State) (n : Fin 8) (v : Word) (c : Cvu), s.cvu[(n : Nat)]? = some c → c.active = false →
      exec (.cvuDataWrite n v) s = .next (s.modCvu n fun _ => { c with evt := c.evt ||| 4 })) ∧
  (∀ (s : State) (n : Fin 8) (c : Cvu) (bad : Bool), s.cvu[(n : Nat)]? = some c → c.active = true →
      bad = (bitOf c.cfg 10 && c.result != c.maskTo c.expect) →
      exec (.cvuFinish n) s = .next ((if bad && bitOf c.cfg 11 then cvuMessages c else id) (s.modCvu n fun _ =>
        { c with active := false, matched := if bitOf c.cfg 10 then !bad else c.matched, evt := c.evt ||| 2 ||| (if bad then 1 else 0) }))) ∧
  (∀ (s : State) (n : Fin 8) (c : Cvu), s.cvu[(n : Nat)]? = some c → c.active = false →
      exec (.cvuFinish n) s = .next (s.modCvu n fun _ => { c with evt := c.evt ||| 4 })) ∧
  (∀ (s : State) (n : Fin 8) (k : Option ReqKey), exec (.cvuParityError (.window n) k) s = .next { s with cvu := updAt s.cvu n fun c =>
      { c with active := false, evt := c.evt ||| 4 } }) ∧
  (∀ (s : State) (d u : Fin 8) (e : Fin 2) (f : Fin 4), s.clocked d = true → exec (.cvuParityError (.spd d u) none) s = .next (countContained s) ∧
      exec (.cvuParityError (.media e f) none) s = .next (countContained s)) ∧
  (∀ (s : State) (d u : Fin 8) (e : Fin 2) (f : Fin 4) (k : ReqKey), s.clocked d = true →
      exec (.cvuParityError (.spd d u) (some k)) s = .next ((countContained s).modReq k fun q => { q with chunks := 0, tok := .start }) ∧
      exec (.cvuParityError (.media e f) (some k)) s = .next ((countContained s).modReq k fun q => { q with chunks := 0, tok := .start })) ∧
  (∀ (s : State) (k : Fin 4) (r : SluRun), s.bw.lists[(k : Nat)]? = some r → r.len ≠ 0 → r.stepAligned = false → r.cycleStart s.now = r.origin →
      exec (.sluiceEntryChange k) s = .next (s.modBw fun b => { b with lists := b.lists.set k ((r.begin r.origin s.period).advance s.now 257) })) ∧
  (∀ (s : State) (k : Fin 4) (r : SluRun), s.bw.lists[(k : Nat)]? = some r → r.len ≠ 0 → r.stepAligned = false → r.cycleStart s.now ≠ r.origin →
      exec (.sluiceEntryChange k) s = .next (sluCycle k false (r.cycleStart s.now) s)) ∧
  (∀ (s : State) (k : Fin 4) (r : SluRun) (j : Nat), s.bw.lists[(k : Nat)]? = some r → r.len ≠ 0 → r.hold = false → r.stepAligned = true →
      ((s.tide.stepState == .none || s.tide.stepState == .lost) && decide (r.origin + s.period ≤ (s.now : Int))) = false →
      r.since + r.dur r.idx ≤ s.now → r.entryFrom (r.idx + 1) = some j →
      exec (.sluiceEntryChange k) s = .next (s.modBw fun b => { b with lists := b.lists.set k { r with idx := j, since := r.since + r.dur r.idx } })) ∧
  (∀ (s : State) (k : Fin 4) (r : SluRun), s.bw.lists[(k : Nat)]? = some r → r.len ≠ 0 → r.hold = false → r.stepAligned = true →
      ((s.tide.stepState == .none || s.tide.stepState == .lost) && decide (r.origin + s.period ≤ (s.now : Int))) = false →
      r.since + r.dur r.idx ≤ s.now → r.entryFrom (r.idx + 1) = none →
      exec (.sluiceEntryChange k) s = .next (s.modBw fun b => { b with lists := b.lists.set k { r with hold := true, since := r.since + r.dur r.idx } })) ∧
  (∀ (s : State) (k : Fin 4) (r : SluRun), s.bw.lists[(k : Nat)]? = some r → r.len ≠ 0 → r.stepAligned = true →
      (s.tide.stepState == .none || s.tide.stepState == .lost) = true → r.origin + s.period ≤ (s.now : Int) →
      exec (.sluiceEntryChange k) s = .next (s.modBw fun b => { b with lists := b.lists.set k (r.begin (r.origin + s.period) s.period) })) ∧
  (∀ (s : State) (k : Fin 4) (r : SluRun), s.bw.lists[(k : Nat)]? = some r →
      r.len = 0 ∨ (r.stepAligned = true ∧
        ((s.tide.stepState == .none || s.tide.stepState == .lost) && decide (r.origin + s.period ≤ (s.now : Int))) = false ∧
        (r.hold = true ∨ (s.now : Int) < r.since + r.dur r.idx)) →
      exec (.sluiceEntryChange k) s = .next s) ∧
  (∀ (s : State) (k : Fin 4) (r new : SluRun) (n : SluList) (at' start : Int), s.bw.lists[(k : Nat)]? = some r → s.applied.slu[(k : Nat)]? = some n →
      r.pending = some at' → bitOf n.list 9 = false →
      new = { r with list := n.list, base := n.baseLo.toNat + n.baseHi.toNat * 2 ^ 32, entries := n.entries } →
      start = new.base + ((s.now : Int) - new.base) / new.sumTo new.len * new.sumTo new.len → at' ≤ start →
      exec (.sluiceListTakeover k) s = .next (sluCycle k true start s)) ∧
  (∀ (s : State) (k : Fin 4) (r new : SluRun) (n : SluList) (start : Int), s.bw.lists[(k : Nat)]? = some r → s.applied.slu[(k : Nat)]? = some n →
      new = { r with list := n.list, base := n.baseLo.toNat + n.baseHi.toNat * 2 ^ 32, entries := n.entries } →
      start = new.base + ((s.now : Int) - new.base) / new.sumTo new.len * new.sumTo new.len →
      r.pending = none ∨ bitOf n.list 9 = true ∨ (∃ at', r.pending = some at' ∧ start < at') →
      exec (.sluiceListTakeover k) s = .next s) ∧
  (∀ (s : State) (n : Fin 8) (d e : Spd) (f : Bool), s.spd? n = some d → d.serving = true → d.power.aclk = .pll ∨ d.power.aclk = .gated → s.pwr.off = false →
      (d.freqPt ≠ s.pwr.opTarget ∨ d.voltPt ≠ s.pwr.opTarget) → d.opStep s.pwr.opTarget f = e →
      exec (.opStepDone n f) s = .next (opSettle ((if (e.freqHeld && !d.freqHeld) || (e.voltHeld && !d.voltHeld) then setEv .pwr 0x40 else id)
        (s.modSpd n fun _ => e))))

/-- R65, R88, R103, R107, R108, R110, R140, R360, R361, R465, R466: of a command that is next to start, with the
checks made first passed, over media whose mount was not refused, (1) with the job key loaded a partition is created
with its wrapped key, and its descriptor is programmed; (2) a creation that fails one of its checks completes with
that status; (3) a shard whose key, fields and status hold and that the write buffer takes completes with its WSEQ,
and (4) one that finds no room, or no buffer to pass through, is held; (5) one that fails a status check completes
with it; (6) too many samples and (7) a sample too long complete with 0x0205 and 0x0206. (8) A flush begins over the
writes completed so far; (9) a seal begins likewise, and (10) of a partition already sealed answers the WSEQ recorded;
(11) on QS media flush and seal answer LAYOUT_READ_ONLY with the durable WSEQ. (12) A partition that no stream reads
is deleted; (13) one that is read stays, and (14) one on QS media stays (the model's choice of status, log entry 174).
(15) Of a partition not held they answer UNKNOWN, and (16) where the mount was refused, MEDIA_UNSUPPORTED. -/
def Obligations.DatasetsAreCreatedAndWritten : Prop :=
  (∀ (s a : State) (id : CmdId) (c : Cmd) (d : HostData) (bs key : List Byte) (k : BitVec 256) (p : Partition), Starts id 0x20 c false none s → s.sec.jobKey = some k →
      c.listBad d = false → c.dlen % 4 = 0 → c.fetched d = some bs → s.media.unsupported = none → createStatus c s = none → drawBytes 64 s = (key, a) →
      newPartition c s.media.freeSlot (wordsOf bs (c.dlen / 4)) (keyCheck k) key (aesWrap (leBytes 32 k) key) = p →
      exec (.datasetCreate id d) s = .next (finish c stSuccess [] (programMedia (fun m =>
        Media.describe p.dsSlot s.mono { m with partitions := m.partitions ++ [p] }) a))) ∧
  (∀ (s : State) (id : CmdId) (c : Cmd) (d : HostData) (bs : List Byte) (n : Nat), Starts id 0x20 c false none s → s.sec.jobKey.isSome = true →
      c.listBad d = false → c.dlen % 4 = 0 → c.fetched d = some bs → s.media.unsupported = none → createStatus c s = some n →
      exec (.datasetCreate id d) s = .next (finish c n [] s)) ∧
  (∀ (s a : State) (id : CmdId) (c : Cmd) (d : HostData) (bs : List Byte) (p : Partition) (xs : List (List Byte)) (w : Nat),
      Starts id 0x21 c false none s → keyReason (c.part s) s = none → c.listBad d = false → c.fetched d = some bs → writeBad c (some bs) s = false →
      s.media.unsupported = none → c.part s = some p → c.arg 48 4 ≤ 2 ^ 24 → (wordsOf bs (c.arg 48 4)).all (decide <| · ≤ maxSample) = true →
      cutSamples (wordsOf bs (c.arg 48 4)) (bs.drop (4 * c.arg 48 4)) = xs → writeStatus p (c.arg 40 8) xs s = none →
      shardIn p.dsSlot (c.arg 36 4) (c.arg 40 8) xs s = (some w, a) →
      exec (.write id d) s = .next (finish c stSuccess (natBytes 4 w) a)) ∧
  (∀ (s a : State) (id : CmdId) (c : Cmd) (d : HostData) (bs : List Byte) (p : Partition) (xs : List (List Byte)),
      Starts id 0x21 c false none s → keyReason (c.part s) s = none → c.listBad d = false → c.fetched d = some bs → writeBad c (some bs) s = false →
      s.media.unsupported = none → c.part s = some p → c.arg 48 4 ≤ 2 ^ 24 → (wordsOf bs (c.arg 48 4)).all (decide <| · ≤ maxSample) = true →
      cutSamples (wordsOf bs (c.arg 48 4)) (bs.drop (4 * c.arg 48 4)) = xs → writeStatus p (c.arg 40 8) xs s = none →
      shardIn p.dsSlot (c.arg 36 4) (c.arg 40 8) xs s = (none, a) →
      exec (.write id d) s = .next (a.setRun c (.writeHeld p.dsSlot (c.arg 36 4) (c.arg 40 8) xs))) ∧
  (∀ (s : State) (id : CmdId) (c : Cmd) (d : HostData) (bs : List Byte) (p : Partition) (xs : List (List Byte)) (n : Nat),
      Starts id 0x21 c false none s → keyReason (c.part s) s = none → c.listBad d = false → c.fetched d = some bs → writeBad c (some bs) s = false →
      s.media.unsupported = none → c.part s = some p → c.arg 48 4 ≤ 2 ^ 24 → (wordsOf bs (c.arg 48 4)).all (decide <| · ≤ maxSample) = true →
      cutSamples (wordsOf bs (c.arg 48 4)) (bs.drop (4 * c.arg 48 4)) = xs → writeStatus p (c.arg 40 8) xs s = some n →
      exec (.write id d) s = .next (finish c n [] s)) ∧
  (∀ (s : State) (id : CmdId) (c : Cmd) (d : HostData) (bs : List Byte) (p : Partition),
      Starts id 0x21 c false none s → keyReason (c.part s) s = none → c.listBad d = false → c.fetched d = some bs → writeBad c (some bs) s = false →
      s.media.unsupported = none → c.part s = some p → 2 ^ 24 < c.arg 48 4 →
      exec (.write id d) s = .next (finish c 0x0205 [] s)) ∧
  (∀ (s : State) (id : CmdId) (c : Cmd) (d : HostData) (bs : List Byte) (p : Partition),
      Starts id 0x21 c false none s → keyReason (c.part s) s = none → c.listBad d = false → c.fetched d = some bs → writeBad c (some bs) s = false →
      s.media.unsupported = none → c.part s = some p → c.arg 48 4 ≤ 2 ^ 24 → (wordsOf bs (c.arg 48 4)).all (decide <| · ≤ maxSample) = false →
      exec (.write id d) s = .next (finish c 0x0206 [] s)) ∧
  (∀ (s : State) (id : CmdId) (c : Cmd) (p : Partition), Starts id 0x22 c false none s → s.media.unsupported = none → c.part s = some p →
      s.media.qsLayout = false →
      exec (.flush id) s = .next (s.setRun c (.flush p.dsSlot p.completed false none))) ∧
  (∀ (s : State) (id : CmdId) (c : Cmd) (p : Partition), Starts id 0x23 c false none s → keyReason (c.part s) s = none →
      s.media.unsupported = none → c.part s = some p → p.sealed = false → s.media.qsLayout = false →
      exec (.sealPartition id) s = .next (s.setRun c (.flush p.dsSlot p.completed true none))) ∧
  (∀ (s : State) (id : CmdId) (c : Cmd) (p : Partition), Starts id 0x23 c false none s → keyReason (c.part s) s = none →
      s.media.unsupported = none → c.part s = some p → p.sealed = true →
      exec (.sealPartition id) s = .next (finish c stSuccess (natBytes 4 p.sealWseq) s)) ∧
  (∀ (s : State) (id : CmdId) (c : Cmd) (p : Partition), s.media.unsupported = none → c.part s = some p → s.media.qsLayout = true →
      (Starts id 0x22 c false none s → exec (.flush id) s = .next (finish c stLayout (natBytes 4 p.durable) s)) ∧
      (Starts id 0x23 c false none s → keyReason (c.part s) s = none → p.sealed = false →
        exec (.sealPartition id) s = .next (finish c stLayout (natBytes 4 p.durable) s))) ∧
  (∀ (s : State) (id : CmdId) (c : Cmd) (p : Partition), Starts id 0x24 c false none s → s.media.unsupported = none → c.part s = some p →
      (s.run.streams.any fun t => t.dsSlot == p.dsSlot) = false → s.media.qsLayout = false →
      exec (.datasetDelete id) s = .next (finish c stSuccess [] (deletePartition p s))) ∧
  (∀ (s : State) (id : CmdId) (c : Cmd) (p : Partition), Starts id 0x24 c false none s → s.media.unsupported = none → c.part s = some p →
      (s.run.streams.any fun t => t.dsSlot == p.dsSlot) = true →
      exec (.datasetDelete id) s = .next (finish c 0x0307 [] s)) ∧
  (∀ (s : State) (id : CmdId) (c : Cmd) (p : Partition), Starts id 0x24 c false none s → s.media.unsupported = none → c.part s = some p →
      (s.run.streams.any fun t => t.dsSlot == p.dsSlot) = false → s.media.qsLayout = true →
      exec (.datasetDelete id) s = .next (finish c stLayout [] s)) ∧
  (∀ (s : State) (id : CmdId) (c : Cmd), s.media.unsupported = none → c.part s = none →
      (Starts id 0x22 c false none s → exec (.flush id) s = .next (finish c stUnknown [] s)) ∧
      (Starts id 0x24 c false none s → exec (.datasetDelete id) s = .next (finish c stUnknown [] s))) ∧
  (∀ (s : State) (id : CmdId) (c : Cmd), s.media.unsupported.isSome = true →
      (Starts id 0x22 c false none s → exec (.flush id) s = .next (finish c stUnsupported [] s)) ∧
      (Starts id 0x24 c false none s → exec (.datasetDelete id) s = .next (finish c stUnsupported [] s)))

/-- R78, R88, R117, R119, R344, R360, R362: of a command that is next to start, with the checks made first passed, (1)
FORMAT of media with no job active frees every dataset and clears the reasons that stood on them, and (2) while a job
is active answers JOB_ACTIVE; (3) the defect list is returned in whole entries from the start index, (4) the media
status with one record for each partition not sealed, and (5) the media health, as far as the data buffer holds them;
(6) a buffer that cannot be read or written ends each with DATA_TRANSFER; (7) where the mount was refused, FORMAT and
the first two reports answer MEDIA_UNSUPPORTED. -/
def Obligations.MediaCommandsComplete : Prop :=
  (∀ (s : State) (id : CmdId) (c : Cmd), Starts id 0x0A c false none s → s.media.unsupported = none → s.jobActive = false →
      exec (.format id) s = .next (finish c stSuccess [] (mediaReasons (clearReason 0x12 0 (clearReason 0x11 0
        (((setMedia Media.formatted s).each (s.media.partitions.map (·.dsSlot)) fun i u => clearReason 0x15 i u).each s.media.failedDies
          fun i u => clearReason 0x13 i u)))))) ∧
  (∀ (s : State) (id : CmdId) (c : Cmd), Starts id 0x0A c false none s → s.media.unsupported = none → s.jobActive = true →
      exec (.format id) s = .next (finish c stJobActive [] s)) ∧
  (∀ (s : State) (id : CmdId) (c : Cmd) (d : HostData) (bs : List Byte) (p : Partition) (es : List Defect), Starts id 0x25 c false none s →
      c.listBad d = false → c.fetched d = some bs → s.media.unsupported = none → c.part s = some p →
      es = (p.defects.drop (c.arg 36 4)).take (c.dlen / 16) →
      exec (.defectList id d) s = .next (finish c stSuccess (natBytes 4 p.defects.length ++ natBytes 4 es.length ++
        [BitVec.ofNat 8 (flag (decide (65536 ≤ p.defects.length)))]) (c.writeData d (es.flatMap defectRecord) s))) ∧
  (∀ (s : State) (id : CmdId) (c : Cmd) (d : HostData) (bs out : List Byte), Starts id 0x26 c false none s → c.listBad d = false →
      c.fetched d = some bs → s.media.unsupported = none → out = ((s.media.partitions.filter fun p => !p.sealed).flatMap statusRecord).take c.dlen →
      exec (.mediaStatus id d) s = .next (finish c stSuccess (natBytes 4 out.length) (c.writeData d out s))) ∧
  (∀ (s : State) (id : CmdId) (c : Cmd) (d : HostData) (bs : List Byte), Starts id 0x27 c false none s → c.listBad d = false →
      c.fetched d = some bs →
      exec (.mediaHealth id d) s = .next (finish c stSuccess (natBytes 4 (s.media.healthLog.take c.dlen).length)
        (c.writeData d (s.media.healthLog.take c.dlen) s))) ∧
  (∀ (s : State) (id : CmdId) (c : Cmd) (d : HostData), c.listBad d = false → c.fetched d = none →
      (Starts id 0x25 c false none s → exec (.defectList id d) s = .next (finish c stDataTransfer [] s)) ∧
      (Starts id 0x26 c false none s → exec (.mediaStatus id d) s = .next (finish c stDataTransfer [] s)) ∧
      (Starts id 0x27 c false none s → exec (.mediaHealth id d) s = .next (finish c stDataTransfer [] s))) ∧
  (∀ (s : State) (id : CmdId) (c : Cmd) (d : HostData) (bs : List Byte), s.media.unsupported.isSome = true → c.listBad d = false → c.fetched d = some bs →
      (Starts id 0x0A c false none s → exec (.format id) s = .next (finish c stUnsupported [] s)) ∧
      (Starts id 0x25 c false none s → exec (.defectList id d) s = .next (finish c stUnsupported [] s)) ∧
      (Starts id 0x26 c false none s → exec (.mediaStatus id d) s = .next (finish c stUnsupported [] s)))

/-- R35, R122, R143, R267, R344, R354, R356, R358, R359, R365, R466, R526: of a command that is next to start, with
the checks made first passed, (1) IDENTIFY answers from the state; (2) PORT_CONFIG gives a link its address; (3)
JOB_SETUP begins the job it describes, and (4) one that fails a check, or (5) whose descriptor cannot be read,
completes with that status; (6) JOB_END disarms every group and stops the job; (7) STEP_MARK delivers its mark; (8)
COPY_FROM_PEER over a peer connection that stands begins with the first shard, and (9) goes on when the read of a
shard has ended: (10) one that arrived is written as WRITE writes it, or waits for room, (11) one whose read failed
ends the command with 0x0607, and (12) with no shard left it has ended, else it reads the next; (13) over no peer
connection it answers 0x0603, and (14) over one in error 0x0607 with its event; (15) where its partition has gone
meanwhile it answers UNKNOWN with what it copied. -/
def Obligations.JobCommandsComplete : Prop :=
  (∀ (s : State) (id : CmdId) (c : Cmd), Starts id 0x01 c false none s →
      exec (.identify id) s = .next (finish c stSuccess (natBytes 2 0x0100 ++ leBytes 4 s.sec.fwVer ++ natBytes 2 s.node ++
        natBytes 1 s.servingMask ++ natBytes 1 s.hlth.grade ++ natBytes 2 s.media.dies) s)) ∧
  (∀ (s : State) (id : CmdId) (c : Cmd), Starts id 0x09 c false none s → linkInMode s (c.arg 24 1) = true →
      exec (.portConfig id) s = .next (finish c stSuccess [] (s.modEgr fun e => { e with
        linkAddr := (c.arg 24 1, c.arg 25 1 == 1, BitVec.ofNat 128 (bytesBE (c.bytes 32 16)), c.arg 48 1) ::
          e.linkAddr.filter fun x => !(x.1 == c.arg 24 1 && x.2.1 == (c.arg 25 1 == 1)) }))) ∧
  (∀ (s : State) (id : CmdId) (c : Cmd) (d : HostData) (bs : List Byte), Starts id 0x10 c false none s → c.listBad d = false →
      c.fetched d = some bs → descriptorBad bs = false → setupStatus (parseJob bs) s = none →
      exec (.jobSetup id d) s = .next (finish c stSuccess [] (beginJob (parseJob bs) s))) ∧
  (∀ (s : State) (id : CmdId) (c : Cmd) (d : HostData) (bs : List Byte) (n : Nat), Starts id 0x10 c false none s → c.listBad d = false →
      c.fetched d = some bs → descriptorBad bs = false → setupStatus (parseJob bs) s = some n →
      exec (.jobSetup id d) s = .next (finish c n [] s)) ∧
  (∀ (s : State) (id : CmdId) (c : Cmd) (d : HostData), Starts id 0x10 c false none s → c.listBad d = false → c.fetched d = none →
      exec (.jobSetup id d) s = .next (finish c stDataTransfer [] s)) ∧
  (∀ (s : State) (id : CmdId) (c : Cmd), Starts id 0x11 c false none s → s.run.job.isSome = true →
      exec (.jobEnd id) s = .next (jobEndOn ((({ s with arms := [] } : State).modRun fun r => { r with ending := true }).setRun c .jobEnd))) ∧
  (∀ (s : State) (id : CmdId) (c : Cmd), Starts id 0x12 c false none s →
      exec (.stepMark id) s = .next (finish c stSuccess [] (receiveMark true (c.bytes 32 32) s.now s))) ∧
  (∀ (s : State) (id : CmdId) (c : Cmd) (xs : List (Nat × Nat × List Nat)) (p : Partition) (n : Conn),
      (s.cmd? id fun c => match c.run with | .copying .. => true | _ => false) = none → Starts id 0x28 c false none s → keyReason (c.part s) s = none →
      s.media.unsupported = none → c.part s = some p → s.conn? (c.arg 36 4) = some n → n.peer = true → n.error = none →
      exec (.copyFromPeer id xs) s = .next (copyNext c p 0 xs false s)) ∧
  (∀ (s : State) (id : CmdId) (c : Cmd) (xs rest : List (Nat × Nat × List Nat)) (ab : Bool) (w : Nat) (p : Partition),
      (s.cmd? id fun c => match c.run with | .copying .. => true | _ => false) = some c → c.run = .copying w rest ab → c.part s = some p →
      exec (.copyFromPeer id xs) s = .next (jobEndOn (copyOn c p w rest ab s))) ∧
  (∀ (s : State) (c : Cmd) (p : Partition) (w n first : Nat) (ls : List Nat) (rest : List (Nat × Nat × List Nat)) (ab : Bool) (x : Fetch) (xs : List (List Byte)),
      s.egr.fetches.find? (·.id == .shard c.id) = some x → x.state = .complete → cutSamples ls x.bytes = xs → writeStatus p first xs s = none →
      first + xs.length ≤ p.size →
      copyOn c p w ((n, first, ls) :: rest) ab s = (match shardIn p.dsSlot n first xs s with
        | (some v, t) => copyNext c p v rest ab (dropFetch (.shard c.id) t)
        | (none, t) => t)) ∧
  (∀ (s : State) (c : Cmd) (p : Partition) (w : Nat) (y : Nat × Nat × List Nat) (rest : List (Nat × Nat × List Nat)) (ab : Bool) (x : Fetch),
      s.egr.fetches.find? (·.id == .shard c.id) = some x → x.state = .failed →
      copyOn c p w (y :: rest) ab s = finish c 0x0607 (natBytes 4 w) (dropFetch x.id s)) ∧
  (∀ (s : State) (c : Cmd) (p : Partition) (w n first : Nat) (ls : List Nat) (rest : List (Nat × Nat × List Nat)) (ab : Bool),
      copyNext c p w [] ab s = finish c (if ab then stCancelled else stSuccess) (natBytes 4 w) s ∧
      copyNext c p w ((n, first, ls) :: rest) ab s = goFetch ((s.setRun c (.copying w ((n, first, ls) :: rest) ab)).modFetches
        (· ++ [⟨.shard c.id, [c.arg 36 4], 0, p.dataset, n, 0, ls.sum, .queued, [], [], 0⟩]))) ∧
  (∀ (s : State) (id : CmdId) (c : Cmd) (xs : List (Nat × Nat × List Nat)) (p : Partition),
      (s.cmd? id fun c => match c.run with | .copying .. => true | _ => false) = none → Starts id 0x28 c false none s → keyReason (c.part s) s = none →
      s.media.unsupported = none → c.part s = some p → ((s.conn? (c.arg 36 4)).map (·.peer)).getD false = false →
      exec (.copyFromPeer id xs) s = .next (finish c 0x0603 (natBytes 4 0) s)) ∧
  (∀ (s : State) (id : CmdId) (c : Cmd) (xs : List (Nat × Nat × List Nat)) (p : Partition) (n : Conn),
      (s.cmd? id fun c => match c.run with | .copying .. => true | _ => false) = none → Starts id 0x28 c false none s → keyReason (c.part s) s = none →
      s.media.unsupported = none → c.part s = some p → s.conn? (c.arg 36 4) = some n → n.peer = true → n.error.isSome = true →
      exec (.copyFromPeer id xs) s = .next (finish c 0x0607 (natBytes 4 0) (setEv .egr 0x200 s))) ∧
  (∀ (s : State) (id : CmdId) (c : Cmd) (xs rest : List (Nat × Nat × List Nat)) (ab : Bool) (w : Nat),
      (s.cmd? id fun c => match c.run with | .copying .. => true | _ => false) = some c → c.run = .copying w rest ab → c.part s = none →
      exec (.copyFromPeer id xs) s = .next (jobEndOn (finish c stUnknown (natBytes 4 w) (dropFetch (.shard c.id) s))))

/-- R66, R75, R209, R216, R218, R230, R283, R291, R344, R363, R364, R466: of a command that is next to start, with the
checks made first passed, (1) a setup whose records pass every check adds the stream; (2) one that fails a check
completes with that status, and (3) one beyond the 64 of a job finds the table full; (4) a start begins at the cursor,
or of a stream with no batch left to form answers 0x0308; (5) of a running stream does nothing more, and (6) of an
ended one answers 0x0308; (7) a stop forms no further batch and completes when nothing is in flight, (8) at once where
the stream is at rest, else (9) by its own event; (10) SEEK sets the next batch of a stream at rest and takes lost
members up again; (11) it answers 0x0305 off a batch's start, 0x0306 beyond the end and 0x0307 of a stream not at
rest; (12) the status gives the cursor, its epoch and the state. (13) A table that can be placed is loaded, and (14)
one malformed or (15) without room is refused with its status. (16) Tokens become the bytes they stand for, and (17)
the first token without a meaning is named with INVALID_FIELD. (18) Of a stream not held the start, the stop, SEEK and
the status answer that it is unknown. -/
def Obligations.StreamCommandsComplete : Prop :=
  (∀ (s : State) (id : CmdId) (c : Cmd) (d : HostData) (bs : List Byte) (rs : List Rec) (p : Partition), Starts id 0x30 c false none s →
      c.listBad d = false → c.fetched d = some bs → parseRecs bs.length bs = some rs → setupFieldBad (c.arg 24 1) bs s = false →
      keyReason (setupPart rs s) s = none → setupPart rs s = some p → s.run.streams.length < 64 → streamStatus rs (streamOf (c.arg 24 1) rs p) p s = none →
      exec (.streamSetup id d) s = .next (finish c stSuccess [] (loseDead (c.arg 24 1) (addStream (streamOf (c.arg 24 1) rs p) s)))) ∧
  (∀ (s : State) (id : CmdId) (c : Cmd) (d : HostData) (bs : List Byte) (rs : List Rec) (p : Partition) (n : Nat), Starts id 0x30 c false none s →
      c.listBad d = false → c.fetched d = some bs → parseRecs bs.length bs = some rs → setupFieldBad (c.arg 24 1) bs s = false →
      keyReason (setupPart rs s) s = none → setupPart rs s = some p → s.run.streams.length < 64 → streamStatus rs (streamOf (c.arg 24 1) rs p) p s = some n →
      exec (.streamSetup id d) s = .next (finish c n [] s)) ∧
  (∀ (s : State) (id : CmdId) (c : Cmd) (d : HostData) (bs : List Byte) (rs : List Rec) (p : Partition), Starts id 0x30 c false none s →
      c.listBad d = false → c.fetched d = some bs → parseRecs bs.length bs = some rs → setupFieldBad (c.arg 24 1) bs s = false →
      keyReason (setupPart rs s) s = none → setupPart rs s = some p → 64 ≤ s.run.streams.length →
      exec (.streamSetup id d) s = .next (finish c 0x0301 [] s)) ∧
  (∀ (s e : State) (id : CmdId) (c : Cmd) (t : Stream), Starts id 0x31 c false none s → s.stream? (c.arg 24 1) = some t → t.state = .stopped → endIfDone t.num s = e →
      exec (.streamStart id) s = .next (if (e.stream? t.num).map (·.state) = some .ended then finish c 0x0308 [] e
        else finish c stSuccess [] (dueKeys t.dsSlot (fun _ => true) (s.modStream t.num fun x =>
          { x with state := .running, issued := some ((x.next * x.b : Nat) - 1 : Int) })))) ∧
  (∀ (s : State) (id : CmdId) (c : Cmd) (t : Stream), Starts id 0x31 c false none s → s.stream? (c.arg 24 1) = some t → t.state = .running →
      exec (.streamStart id) s = .next (finish c stSuccess [] s)) ∧
  (∀ (s : State) (id : CmdId) (c : Cmd) (t : Stream), Starts id 0x31 c false none s → s.stream? (c.arg 24 1) = some t → t.state = .ended →
      exec (.streamStart id) s = .next (finish c 0x0308 [] s)) ∧
  (∀ (s u : State) (id : CmdId) (c : Cmd) (t : Stream), Starts id 0x32 c false none s → s.stream? (c.arg 24 1) = some t → t.state = .running →
      dueKeys t.dsSlot (fun _ => true) (s.modStream t.num fun x => { x with state := .stopped, issued := none }) = u →
      exec (.streamStop id) s = .next (if streamIdle t.num u then finish c stSuccess [] u else u.setRun c (.streamStop t.num))) ∧
  (∀ (s : State) (id : CmdId) (c : Cmd) (t : Stream), Starts id 0x32 c false none s → s.stream? (c.arg 24 1) = some t → t.state ≠ .running →
      exec (.streamStop id) s = .next (if streamIdle t.num s then finish c stSuccess [] s else s.setRun c (.streamStop t.num))) ∧
  (∀ (s : State) (id : CmdId) (c : Cmd) (n : Nat), (s.cmd? id fun c => match c.run with | .streamStop _ => true | _ => false) = some c →
      c.run = .streamStop n → streamIdle n s = true →
      exec (.streamStopComplete id) s = .next (jobEndOn (finish c stSuccess [] s))) ∧
  (∀ (s : State) (id : CmdId) (c : Cmd) (t : Stream) (p : Partition) (g : Nat), Starts id 0x33 c false none s → s.stream? (c.arg 24 1) = some t →
      s.partFor t = some p → g = c.arg 32 4 * t.epochLen p + c.arg 40 8 → g % t.b = 0 → g < t.total p → t.state ≠ .running → streamIdle t.num s = true →
      exec (.seek id) s = .next (finish c stSuccess [] (staleKeys t.dsSlot (loseDead t.num (s.modStream t.num fun x =>
        { x with state := .stopped, next := g / t.b, b0 := g / t.b, groups := x.groups.map fun q =>
          { q with members := q.members.map fun m => { m with lost := false, returns := [] } } }))))) ∧
  (∀ (s : State) (id : CmdId) (c : Cmd) (t : Stream) (p : Partition) (g : Nat), Starts id 0x33 c false none s → s.stream? (c.arg 24 1) = some t →
      s.partFor t = some p → g = c.arg 32 4 * t.epochLen p + c.arg 40 8 → (g % t.b ≠ 0 ∨ t.total p ≤ g ∨ t.state = .running ∨ streamIdle t.num s = false) →
      exec (.seek id) s = .next (finish c (if g % t.b ≠ 0 then 0x0305 else if t.total p ≤ g then 0x0306 else 0x0307) [] s)) ∧
  (∀ (s : State) (id : CmdId) (c : Cmd) (t : Stream) (p : Partition), Starts id 0x34 c false none s → s.stream? (c.arg 24 1) = some t →
      s.partFor t = some p →
      exec (.streamStatus id) s = .next (finish c stSuccess (natBytes 8 t.next ++ natBytes 4 (t.batchEpoch p t.next) ++ natBytes 1 t.state.code) s)) ∧
  (∀ (s : State) (id : CmdId) (c : Cmd) (d : HostData) (bs : List Byte) (x : TextTable), Starts id 0x40 c false none s → c.listBad d = false →
      c.fetched d = some bs → parseTable bs = some x → loadStatus x s = none →
      exec (.tableLoad id d) s = .next (finish c stSuccess [] (placeTable x s))) ∧
  (∀ (s : State) (id : CmdId) (c : Cmd) (d : HostData) (bs : List Byte), Starts id 0x40 c false none s → c.listBad d = false →
      c.fetched d = some bs → parseTable bs = none →
      exec (.tableLoad id d) s = .next (finish c 0x0501 [] s)) ∧
  (∀ (s : State) (id : CmdId) (c : Cmd) (d : HostData) (bs : List Byte) (x : TextTable) (n : Nat), Starts id 0x40 c false none s → c.listBad d = false →
      c.fetched d = some bs → parseTable bs = some x → loadStatus x s = some n →
      exec (.tableLoad id d) s = .next (finish c n [] s)) ∧
  (∀ (s : State) (id : CmdId) (c : Cmd) (d : HostData) (bs out : List Byte) (t : Stream) (xs : List (Option (List Byte))), Starts id 0x41 c false none s →
      c.listBad d = false → c.fetched d = some bs → s.stream? (c.arg 24 1) = some t → t.cls = 4 → 4 * c.arg 28 4 ≤ c.dlen →
      (wordsOf bs (c.arg 28 4)).map (detokenise1 s t.txt) = xs → xs.findIdx? Option.isNone = none → out = (xs.flatMap fun o => o.getD []).take c.dlen →
      exec (.detokenise id d) s = .next (finish c stSuccess (natBytes 8 out.length) (c.writeData d out s))) ∧
  (∀ (s : State) (id : CmdId) (c : Cmd) (d : HostData) (bs : List Byte) (t : Stream) (i : Nat), Starts id 0x41 c false none s →
      c.listBad d = false → c.fetched d = some bs → s.stream? (c.arg 24 1) = some t → t.cls = 4 → 4 * c.arg 28 4 ≤ c.dlen →
      ((wordsOf bs (c.arg 28 4)).map (detokenise1 s t.txt)).findIdx? Option.isNone = some i →
      exec (.detokenise id d) s = .next (finish c stInvalidField (natBytes 8 0 ++ natBytes 4 i) s)) ∧
  (∀ (s : State) (id : CmdId) (c : Cmd), s.stream? (c.arg 24 1) = none →
      (Starts id 0x31 c false none s → exec (.streamStart id) s = .next (finish c stStreamUnknown [] s)) ∧
      (Starts id 0x32 c false none s → exec (.streamStop id) s = .next (finish c stStreamUnknown [] s)) ∧
      (Starts id 0x33 c false none s → exec (.seek id) s = .next (finish c stStreamUnknown [] s)) ∧
      (Starts id 0x34 c false none s → exec (.streamStatus id) s = .next (finish c stStreamUnknown [] s)))

/-- R272, R275, R276, R277, R278, R279, R295, R299, R407: of a command that is next to start, with the checks made
first passed, (1) CONNECT adds a connection at a free index below 262,144, its first heartbeat drawn as R407 gives it
(the interval of the draw is the model's choice, log entry 179); (2) with 262,144 connections it answers 0x0601, and
(3) with an index taken or a value out of range 0x0602; (4) DISCONNECT puts the connection in error and removes it;
(5) MOORING_CREATE takes the lowest free index, and (6) answers 0x0604 with none; (7) MOORING_GRANT takes the index of
its protection domain where that is free, (8) sets the rights of a key valid there, (9) with rights 0 disables it, and
(10) is refused while the key is being revoked; (11) MOORING_REVOKE of a valid key begins the revocation and completes
when no message is in flight, (12) joins one under way, and (13) of a key that is free, or serves a peer, answers that
it is unknown; (14) a revocation with nothing left in flight completes; (15) after EGR_REVOKE_MAX the connections with
a message in flight go into error and it completes with 0x0606. (16) The queue histograms are read, and cleared where
asked. (17) Of a connection or a key not held they answer that it is unknown. -/
def Obligations.ConnectionCommandsComplete : Prop :=
  (∀ (s : State) (id : CmdId) (c : Cmd) (d : HostData) (bs : List Byte), Starts id 0x50 c false none s → c.listBad d = false →
      c.fetched d = some bs → bs.length = 64 → connectReserved bs = false → noConnKey bs s = false → s.egr.conns.length < 262144 →
      c.arg 24 4 < 262144 → s.conn? (c.arg 24 4) = none → connectRange bs s = false →
      exec (.connect id d) s = .next (finish c stSuccess (natBytes 4 (deviceQpn (c.arg 24 4)))
        ((firstHeartbeat (c.arg 24 4) s).2.modEgr fun e => { e with conns := e.conns ++ [newConn (c.arg 24 4) (firstHeartbeat (c.arg 24 4) s).1 bs s] }))) ∧
  (∀ (s : State) (id : CmdId) (c : Cmd) (d : HostData) (bs : List Byte), Starts id 0x50 c false none s → c.listBad d = false →
      c.fetched d = some bs → (bs.length = 64 → connectReserved bs = false) → noConnKey bs s = false → 262144 ≤ s.egr.conns.length →
      exec (.connect id d) s = .next (finish c 0x0601 [] s)) ∧
  (∀ (s : State) (id : CmdId) (c : Cmd) (d : HostData) (bs : List Byte), Starts id 0x50 c false none s → c.listBad d = false →
      c.fetched d = some bs → (bs.length = 64 → connectReserved bs = false) → noConnKey bs s = false → s.egr.conns.length < 262144 →
      (bs.length ≠ 64 ∨ 262144 ≤ c.arg 24 4 ∨ (s.conn? (c.arg 24 4)).isSome = true ∨ connectRange bs s = true) →
      exec (.connect id d) s = .next (finish c 0x0602 [] s)) ∧
  (∀ (s : State) (id : CmdId) (c : Cmd) (k : Conn), Starts id 0x51 c false none s → s.conn? (c.arg 24 4) = some k →
      exec (.disconnect id) s = .next (finish c stSuccess [] ((connError k.idx 11 s).modEgr fun e =>
        { e with conns := e.conns.filter (·.idx != k.idx) }))) ∧
  (∀ (s : State) (id : CmdId) (c : Cmd) (i : Nat) (m : Mooring), Starts id 0x52 c false none s → mooringBad c s = false → freeIndex s = some i →
      m = ⟨i, ((s.mooring? i).map (·.gen)).getD 1, c.arg 24 2, c.arg 32 8, c.arg 40 8, c.arg 26 1, .valid, [], false, 0⟩ →
      exec (.mooringCreate id) s = .next (finish c stSuccess (leBytes 4 m.key)
        (s.modEgr fun e => { e with moorings := e.moorings.filter (·.idx != i) ++ [m] }))) ∧
  (∀ (s : State) (id : CmdId) (c : Cmd), Starts id 0x52 c false none s → mooringBad c s = false → freeIndex s = none →
      exec (.mooringCreate id) s = .next (finish c 0x0604 [] s)) ∧
  (∀ (s : State) (id : CmdId) (c : Cmd) (m : Mooring), Starts id 0x54 c false none s → 1 ≤ c.arg 24 2 → c.arg 24 2 ≤ 1023 →
      1 ≤ c.arg 26 1 → c.arg 26 1 ≤ 3 → ((s.mooring? (spaceKey + c.arg 24 2)).map (·.state)).getD .free = .free →
      m = ⟨spaceKey + c.arg 24 2, ((s.mooring? (spaceKey + c.arg 24 2)).map (·.gen)).getD 1, c.arg 24 2, 0, s.spaceBytes, c.arg 26 1, .valid, [], false, 0⟩ →
      exec (.mooringGrant id) s = .next (finish c stSuccess (leBytes 4 m.key)
        (s.modEgr fun e => { e with moorings := e.moorings.filter (·.idx != spaceKey + c.arg 24 2) ++ [m] }))) ∧
  (∀ (s : State) (id : CmdId) (c : Cmd) (m : Mooring), Starts id 0x54 c false none s → 1 ≤ c.arg 24 2 → c.arg 24 2 ≤ 1023 →
      1 ≤ c.arg 26 1 → c.arg 26 1 ≤ 3 → s.mooring? (spaceKey + c.arg 24 2) = some m → m.state = .valid →
      exec (.mooringGrant id) s = .next (finish c stSuccess (leBytes 4 m.key) (s.modMooring (spaceKey + c.arg 24 2) fun x => { x with rights := c.arg 26 1 }))) ∧
  (∀ (s : State) (id : CmdId) (c : Cmd) (i : Nat), Starts id 0x54 c false none s → 1 ≤ c.arg 24 2 → c.arg 24 2 ≤ 1023 →
      c.arg 26 1 = 0 → i = spaceKey + c.arg 24 2 →
      exec (.mooringGrant id) s = .next (match s.mooring? i with
        | none => finish c stSuccess (natBytes 4 (i * 65536 + 1)) s
        | some m => finish c stSuccess (leBytes 4 m.key) (if m.state = .valid then revoke m s else s))) ∧
  (∀ (s : State) (id : CmdId) (c : Cmd) (m : Mooring), Starts id 0x54 c false none s → 1 ≤ c.arg 24 2 → c.arg 24 2 ≤ 1023 →
      1 ≤ c.arg 26 1 → c.arg 26 1 ≤ 3 → s.mooring? (spaceKey + c.arg 24 2) = some m → m.state = .revoking →
      exec (.mooringGrant id) s = .next (finish c stMooringUnknown [] s)) ∧
  (∀ (s : State) (id : CmdId) (c : Cmd) (m : Mooring), Starts id 0x53 c false none s → s.keyed (BitVec.ofNat 32 (c.arg 24 4)) = some m →
      m.serve = false → m.state = .valid →
      exec (.mooringRevoke id) s = .next (if m.inflight.isEmpty then finish c stSuccess [] (setEv .egr 0x10 (freeMooring m.idx s))
        else (beginRevoke m.idx s).setRun c (.revoke (BitVec.ofNat 32 (c.arg 24 4))))) ∧
  (∀ (s : State) (id : CmdId) (c : Cmd) (m : Mooring), Starts id 0x53 c false none s → s.keyed (BitVec.ofNat 32 (c.arg 24 4)) = some m →
      m.serve = false → m.state = .revoking →
      exec (.mooringRevoke id) s = .next (s.setRun c (.revoke (BitVec.ofNat 32 (c.arg 24 4))))) ∧
  (∀ (s : State) (id : CmdId) (c : Cmd) (m : Mooring), Starts id 0x53 c false none s → s.keyed (BitVec.ofNat 32 (c.arg 24 4)) = some m →
      m.serve = true ∨ m.state = .free →
      exec (.mooringRevoke id) s = .next (finish c stMooringUnknown [] s)) ∧
  (∀ (s : State) (key : Word) (m : Mooring), s.keyed key = some m → m.state = .revoking → m.inflight = [] →
      exec (.revokeComplete key) s = .next (revoked key stSuccess (setEv .egr 0x10 (freeMooring m.idx s)))) ∧
  (∀ (s a : State) (key : Word) (m : Mooring), s.keyed key = some m → m.state = .revoking → m.inflight ≠ [] →
      m.since + s.applied.egrRevokeMax.toNat * 1000 ≤ s.mono → a = s.each m.inflight.eraseDups (fun i t => connError i 7 t) →
      exec (.revokeTimeout key) s = .next (revoked key 0x0606 (setEv .egr 0x20
        (if (a.keyed key).any (·.state == .revoking) then freeMooring m.idx a else a)))) ∧
  (∀ (s : State) (id : CmdId) (c : Cmd) (d : HostData) (bs : List Byte) (k : Conn), Starts id 0x55 c false none s → c.listBad d = false →
      c.fetched d = some bs → s.conn? (c.arg 24 4) = some k →
      exec (.queueStats id d) s = .next (finish c stSuccess [] ((c.writeData d ((k.soj ++ k.depth).flatMap (natBytes 4)) s).onlyIf (bitOf c.entry 224) fun u =>
        u.modConn k.idx fun x => { x with soj := List.replicate 16 0, depth := List.replicate 16 0 }))) ∧
  (∀ (s : State) (id : CmdId) (c : Cmd) (d : HostData) (bs : List Byte), c.listBad d = false → c.fetched d = some bs → s.conn? (c.arg 24 4) = none →
      s.keyed (BitVec.ofNat 32 (c.arg 24 4)) = none →
      (Starts id 0x51 c false none s → exec (.disconnect id) s = .next (finish c stConnUnknown [] s)) ∧
      (Starts id 0x53 c false none s → exec (.mooringRevoke id) s = .next (finish c stMooringUnknown [] s)) ∧
      (Starts id 0x55 c false none s → exec (.queueStats id d) s = .next (finish c stConnUnknown [] s)))

/-- R453, R454, R456, R457, R459, R460, R461, R474, R500: of a command that is next to start, with the checks made
first passed, (1) SEC_STATUS answers from the state; (2) a chunk that continues what is staged joins it, and (3) the
one that completes the image is followed by its verification; (4) an image that fails a check is discarded with its
reason and the event, and (5) a chunk that does not follow discards what is staged, with reason 10; (6) the activation
of a verified image erases the image region of the NOR, and (7) with none is refused with reason 8; (8) a program that
reads back right completes it, with the restart due 1 ms later, or after the job (at once after it is the model's
choice, log entry 180); (9) one that does not is made once more, and (10) the second failure is reason 9; (11) the
restart runs the staged image once it is due and no job is active, and (12) not before; (13) an unprogrammed slot is
programmed in PROVISIONING, and (14) otherwise SECURITY_STATE 2 answers; (15) the security version count rises to that
of the running image and never falls; (16) the lifecycle goes from PROVISIONING to SECURED with a slot programmed and
a certificate present, and (17) otherwise SECURITY_STATE 2 answers. -/
def Obligations.FirmwareAndFuses : Prop :=
  (∀ (s : State) (id : CmdId) (c : Cmd), Starts id 0x60 c false none s →
      exec (.secStatus id) s = .next (finish c stSuccess (leBytes 4 (secStat s.sec) ++ leBytes 4 (secSvn s.sec) ++ natBytes 1 s.sec.slotUsed) s)) ∧
  (∀ (s : State) (id : CmdId) (c : Cmd) (d : HostData) (bs g : List Byte), Starts id 0x07 c false none s → c.listBad d = false →
      c.fetched d = some bs → chunkFollows c s.sec = true → s.sec.stagedWith (c.arg 24 4) bs = g → g.length < c.arg 28 4 →
      exec (.fwStage id d) s = .next (finish c stSuccess [] (s.modSec fun x => { x with staged := some ⟨c.arg 28 4, g, false⟩ }))) ∧
  (∀ (s : State) (id : CmdId) (c : Cmd) (d : HostData) (bs g : List Byte), Starts id 0x07 c false none s → c.listBad d = false →
      c.fetched d = some bs → chunkFollows c s.sec = true → s.sec.stagedWith (c.arg 24 4) bs = g → c.arg 28 4 ≤ g.length →
      imageReason s.sec (c.arg 28 4) g = none →
      exec (.fwStage id d) s = .next (finish c stSuccess [] (s.modSec fun x => { x with staged := some ⟨c.arg 28 4, g, true⟩ }))) ∧
  (∀ (s : State) (id : CmdId) (c : Cmd) (d : HostData) (bs g : List Byte) (r : Nat), Starts id 0x07 c false none s → c.listBad d = false →
      c.fetched d = some bs → chunkFollows c s.sec = true → s.sec.stagedWith (c.arg 24 4) bs = g → c.arg 28 4 ≤ g.length →
      imageReason s.sec (c.arg 28 4) g = some r →
      exec (.fwStage id d) s = .next (finish c stInvalidField (natBytes 1 r) (setEv .sec 4 (s.modSec fun x => { x with staged := none })))) ∧
  (∀ (s : State) (id : CmdId) (c : Cmd) (d : HostData) (bs : List Byte), Starts id 0x07 c false none s → c.listBad d = false →
      c.fetched d = some bs → chunkFollows c s.sec = false →
      exec (.fwStage id d) s = .next (finish c stInvalidField (natBytes 1 10) (s.modSec fun x => { x with staged := none }))) ∧
  (∀ (s : State) (id : CmdId) (c : Cmd) (n : Nat) (g : List Byte), Starts id 0x08 c false none s → s.sec.staged = some ⟨n, g, true⟩ →
      exec (.fwActivate id) s = .next ((s.modSec fun x => { x with nor := [], activated := some g }).setRun c (.fwActivate false))) ∧
  (∀ (s : State) (id : CmdId) (c : Cmd), Starts id 0x08 c false none s → ((s.sec.staged.map (·.verified)).getD false) = false →
      exec (.fwActivate id) s = .next (finish c stInvalidField (natBytes 1 8) s)) ∧
  (∀ (s : State) (id : CmdId) (c : Cmd), (s.cmd? id fun c => match c.run with | .fwActivate _ => true | _ => false) = some c →
      exec (.fwNorWriteDone id true) s = .next (finish c stSuccess (natBytes 1 (flag s.jobActive)) (s.modSec fun x =>
        { x with nor := x.activated.getD [], activated := none
                 restart := x.activated.map fun g => (s.mono + if s.jobActive then 0 else 1000000, g) }))) ∧
  (∀ (s : State) (id : CmdId) (c : Cmd), (s.cmd? id fun c => match c.run with | .fwActivate _ => true | _ => false) = some c →
      c.run = .fwActivate false →
      exec (.fwNorWriteDone id false) s = .next (s.setRun c (.fwActivate true))) ∧
  (∀ (s : State) (id : CmdId) (c : Cmd), (s.cmd? id fun c => match c.run with | .fwActivate _ => true | _ => false) = some c →
      c.run = .fwActivate true →
      exec (.fwNorWriteDone id false) s = .next (finish c stInvalidField (natBytes 1 9) (s.modSec fun x => { x with activated := none }))) ∧
  (∀ (s : State) (n : Nat) (g : List Byte), s.sec.restart = some (n, g) → n ≤ s.mono → s.jobActive = false →
      exec .fwActivateRestart s = .next (restartHarbourmaster ((causeBit (if s.sec.recovery then 4 else 3) s).modSec fun x =>
        { startImage g x with recovery := false, restart := none, activated := none, staged := none, halted := [] }))) ∧
  (∀ (s : State) (n : Nat) (g : List Byte), s.sec.restart = some (n, g) → s.mono < n ∨ s.jobActive = true →
      exec .fwActivateRestart s = .next s) ∧
  (∀ (s : State) (id : CmdId) (c : Cmd) (d : HostData) (bs : List Byte), Starts id 0x61 c false none s → c.listBad d = false →
      c.fetched d = some bs → c.arg 24 1 ≤ 3 → c.dlen = 32 → s.sec.lifecycle = .provisioning → s.sec.keyOf (c.arg 24 1) = 0 →
      exec (.slotProgram id d) s = .next (finish c stSuccess [] (s.modSec fun x =>
        { x with keyHash := x.keyHash.set (c.arg 24 1) (BitVec.ofNat 256 (bytesBE bs)) }))) ∧
  (∀ (s : State) (id : CmdId) (c : Cmd) (d : HostData), Starts id 0x61 c false none s → c.listBad d = false → c.arg 24 1 ≤ 3 → c.dlen = 32 →
      s.sec.lifecycle ≠ .provisioning ∨ s.sec.keyOf (c.arg 24 1) ≠ 0 →
      exec (.slotProgram id d) s = .next (finish c stSecurity [2] s)) ∧
  (∀ (s : State) (id : CmdId) (c : Cmd), Starts id 0x62 c false none s →
      exec (.svnCommit id) s = .next (finish c stSuccess (natBytes 2 (max s.sec.svnMin (min 64 s.sec.svn)))
        (s.modSec fun x => { x with svnMin := max s.sec.svnMin (min 64 s.sec.svn) }))) ∧
  (∀ (s : State) (id : CmdId) (c : Cmd), Starts id 0x63 c false none s → s.sec.lifecycle = .provisioning →
      (List.range 4).any s.sec.programmed = true → s.sec.cert.isSome = true →
      exec (.lifecycleSecure id) s = .next (finish c stSuccess [] (s.modSec fun x => { x with lifecycle := .secured }))) ∧
  (∀ (s : State) (id : CmdId) (c : Cmd), Starts id 0x63 c false none s →
      s.sec.lifecycle ≠ .provisioning ∨ (List.range 4).any s.sec.programmed = false ∨ s.sec.cert = none →
      exec (.lifecycleSecure id) s = .next (finish c stSecurity [2] s))

/-- R459, R460, R465, R467, R468, R469, R470, R471, R472: of a command that is next to start, with the checks made
first passed, (1) a job key or a connection key of 32 bytes is loaded inside a secured session of a port; (2) outside
one SECURITY_STATE 3 answers, and (3) while the key is in use 6; (4) a key is cleared, and (5) while it is in use
SECURITY_STATE 6 answers; (6) of a connection key with no job both answer NO_JOB; (7) a slot other than the last is
revoked under another slot's signature, a staged image of that slot going with it; (8) a record of another length, or
that fails its own fields or its signature, is refused with its reason, and (9) the last slot stays, with
SECURITY_STATE 8, whatever else the record fails; (10) a challenge of a mailbox draws a nonce, and (11) after eight
failures, or of a Quay or a DOE, answers SECURITY_STATE 2; outside OPEN (12) a grant that verifies enters AUTH with
its rights for its lifetime, and (13) one that fails voids the nonce, is counted and sets its event; (14) in OPEN it
answers SECURITY_STATE 2; (15) AUTH ends on the command, and (16) at its expiry; (17) zeroising begins with the keys,
and (18) goes on with the seed and the lifecycle; (19) where it is not allowed it answers its reason; (20) DEBUG_OPEN
opens everything in ZEROISED, and (21) elsewhere answers SECURITY_STATE 2, as (22) does DEBUG_EXIT outside AUTH. -/
def Obligations.KeysAndDebug : Prop :=
  (∀ (s : State) (id : CmdId) (p : Port) (c : Cmd) (d : HostData) (bs : List Byte), id.via = .doe p → Starts id 0x64 c false none s → c.listBad d = false →
      c.fetched d = some bs → keyFieldBad c = false → c.dlen = 32 → keyInUse c s = false → keyNoJob c s = false →
      exec (.keyLoad id d) s = .next (finish c stSuccess [] (s.modSec fun x =>
        if c.arg 24 1 = 1 then { x with jobKey := some (BitVec.ofNat 256 (bytesNat bs)) } else { x with
          connKeys := (c.arg 25 1, BitVec.ofNat 256 (bytesNat bs), BitVec.ofNat 32 (c.arg 28 4)) :: x.connKeys.filter (·.1 != c.arg 25 1) }))) ∧
  (∀ (s : State) (id : CmdId) (c : Cmd) (d : HostData), (∀ p, id.via ≠ .doe p) → Starts id 0x64 c false none s → c.listBad d = false →
      keyFieldBad c = false → c.dlen = 32 →
      exec (.keyLoad id d) s = .next (finish c stSecurity [3] s)) ∧
  (∀ (s : State) (id : CmdId) (p : Port) (c : Cmd) (d : HostData), id.via = .doe p → Starts id 0x64 c false none s → c.listBad d = false →
      keyFieldBad c = false → c.dlen = 32 → keyInUse c s = true →
      exec (.keyLoad id d) s = .next (finish c stSecurity [6] s)) ∧
  (∀ (s : State) (id : CmdId) (c : Cmd), Starts id 0x65 c false none s → keyFieldBad c = false → keyInUse c s = false → keyNoJob c s = false →
      exec (.keyClear id) s = .next (finish c stSuccess [] (s.modSec fun x =>
        if c.arg 24 1 = 1 then { x with jobKey := none } else { x with connKeys := x.connKeys.filter (·.1 != c.arg 25 1) }))) ∧
  (∀ (s : State) (id : CmdId) (c : Cmd), Starts id 0x65 c false none s → keyFieldBad c = false → keyInUse c s = true →
      exec (.keyClear id) s = .next (finish c stSecurity [6] s)) ∧
  (∀ (s : State) (id : CmdId) (p : Port) (c : Cmd) (d : HostData) (bs : List Byte), keyFieldBad c = false → keyInUse c s = false → keyNoJob c s = true →
      (Starts id 0x65 c false none s → exec (.keyClear id) s = .next (finish c stNoJob [] s)) ∧
      (id.via = .doe p → Starts id 0x64 c false none s → c.listBad d = false → c.fetched d = some bs → c.dlen = 32 →
        exec (.keyLoad id d) s = .next (finish c stNoJob [] s))) ∧
  (∀ (s : State) (id : CmdId) (c : Cmd) (d : HostData) (bs : List Byte), Starts id 0x66 c false none s → c.listBad d = false →
      c.fetched d = some bs → bs.length = 1024 → s.sec.lastSlot (byteField bs 12 1) = false → revokeReason bs = none → signerReason s.sec (byteField bs 13 1) bs = none →
      exec (.keyRevoke id d) s = .next (finish c stSuccess [] (setEv .sec 8 (s.modSec fun x => { x with
        revoke := x.revoke ||| (1 <<< byteField bs 12 1)
        staged := if (x.staged.map fun g => imgSlot g.bytes) = some (byteField bs 12 1) then none else x.staged })))) ∧
  (∀ (s : State) (id : CmdId) (c : Cmd) (d : HostData) (bs : List Byte) (r : Nat), Starts id 0x66 c false none s → c.listBad d = false →
      c.fetched d = some bs →
      (bs.length ≠ 1024 ∧ r = 2) ∨ (bs.length = 1024 ∧ s.sec.lastSlot (byteField bs 12 1) = false ∧
        ((revokeReason bs).orElse fun _ => signerReason s.sec (byteField bs 13 1) bs) = some r) →
      exec (.keyRevoke id d) s = .next (finish c stInvalidField (natBytes 1 r) s)) ∧
  (∀ (s : State) (id : CmdId) (c : Cmd) (d : HostData) (bs : List Byte), Starts id 0x66 c false none s → c.listBad d = false →
      c.fetched d = some bs → bs.length = 1024 → s.sec.lastSlot (byteField bs 12 1) = true →
      exec (.keyRevoke id d) s = .next (finish c stSecurity [8] s)) ∧
  (∀ (s : State) (id : CmdId) (m : MbxId) (c : Cmd) (n : Nat), id.via = .mbx m → Starts id 0x67 c false none s → s.sec.debugFails < 8 →
      n = s.draw.1.toNat + s.draw.2.draw.1.toNat * 2 ^ 64 →
      exec (.debugChallenge id) s = .next (finish c stSuccess (natBytes 16 n ++ leBytes 8 Config.serial)
        (s.draw.2.draw.2.modSec fun x => { x with nonce := some n }))) ∧
  (∀ (s : State) (id : CmdId) (c : Cmd), Starts id 0x67 c false none s → 8 ≤ s.sec.debugFails ∨ (∀ m, id.via ≠ .mbx m) →
      exec (.debugChallenge id) s = .next (finish c stSecurity [2] s)) ∧
  (∀ (s : State) (id : CmdId) (c : Cmd) (d : HostData) (bs : List Byte), Starts id 0x68 c false none s → c.listBad d = false →
      c.fetched d = some bs → s.sec.debug ≠ .openAll → grantReason s.sec bs = none → signerReason s.sec (byteField bs 29 1) bs = none →
      exec (.debugResponse id d) s = .next (finish c stSuccess [] (setEv .sec 1 (s.modSec fun x => { x with
        debug := .auth (natBits (byteField bs 28 1) 0 1 == 1) (natBits (byteField bs 28 1) 1 1 == 1) (natBits (byteField bs 28 1) 2 1 == 1)
          (some (s.mono + byteField bs 30 4 * 1000000000))
        nonce := none, debugFails := 0 })))) ∧
  (∀ (s : State) (id : CmdId) (c : Cmd) (d : HostData) (bs : List Byte) (r : Nat), Starts id 0x68 c false none s → c.listBad d = false →
      c.fetched d = some bs → s.sec.debug ≠ .openAll → ((grantReason s.sec bs).orElse fun _ => signerReason s.sec (byteField bs 29 1) bs) = some r →
      exec (.debugResponse id d) s = .next (finish c stInvalidField (natBytes 1 r) (setEv .sec 2 (s.modSec fun x =>
        { x with nonce := none, debugFails := x.debugFails + 1 })))) ∧
  (∀ (s : State) (id : CmdId) (c : Cmd) (d : HostData), Starts id 0x68 c false none s → c.listBad d = false → s.sec.debug = .openAll →
      exec (.debugResponse id d) s = .next (finish c stSecurity [2] s)) ∧
  (∀ (s : State) (id : CmdId) (c : Cmd), Starts id 0x69 c false none s → isAuth s.sec.debug = true →
      exec (.debugExit id) s = .next (finish c stSuccess [] (abandonSems .debug (setEv .sec 1 (s.modSec fun x => { x with debug := .locked }))))) ∧
  (∀ (s : State) (w c z : Bool) (t : Nat), s.sec.debug = .auth w c z (some t) → t ≤ s.mono →
      exec .debugGrantExpiry s = .next (abandonSems .debug (setEv .sec 1 (s.modSec fun x => { x with debug := .locked })))) ∧
  (∀ (s : State) (id : CmdId) (c : Cmd), Starts id 0x6A c false none s → zeroiseReason s.sec = none →
      exec (.zeroise id) s = .next (((zeroiseStep 1 s).modSec fun x => { x with zeroising := some 1 }).setRun c .zeroise)) ∧
  (∀ (s : State), zeroiseStep 2 s = s.modSec (fun x => { x with deviceSeed := BitVec.allOnes 256 }) ∧
      zeroiseStep 3 s = setEv .sec 0x10 (s.modSec fun x => { x with lifecycle := .zeroised }) ∧
      (zeroiseStep 1 s).sec.jobKey = none ∧ (zeroiseStep 1 s).sec.connKeys = [] ∧ (zeroiseStep 1 s).sec.spillKey = none) ∧
  (∀ (s : State) (id : CmdId) (c : Cmd) (r : Nat), Starts id 0x6A c false none s → zeroiseReason s.sec = some r →
      exec (.zeroise id) s = .next (finish c stSecurity [BitVec.ofNat 8 r] s)) ∧
  (∀ (s : State) (id : CmdId) (c : Cmd), Starts id 0x6B c false none s → s.sec.lifecycle = .zeroised →
      exec (.debugOpen id) s = .next (finish c stSuccess [] (setEv .sec 1 (s.modSec fun x => { x with debug := .openAll })))) ∧
  (∀ (s : State) (id : CmdId) (c : Cmd), Starts id 0x6B c false none s → s.sec.lifecycle ≠ .zeroised →
      exec (.debugOpen id) s = .next (finish c stSecurity [2] s)) ∧
  (∀ (s : State) (id : CmdId) (c : Cmd), Starts id 0x69 c false none s → isAuth s.sec.debug = false →
      exec (.debugExit id) s = .next (finish c stSecurity [2] s))

/-- R18, R462, R463, R464, R467, R469, R471, R472, R473, R477: (1) ATTEST_READY rises on a powered device once the
identity stands, and (2) not with a blown seed, in ZEROISED or before the Harbourmaster's start. Of a request that
reaches the responder (the relay before bring-up is the model's choice, log entry 150), (3) GET_VERSION is always
answered with 1.3; once ready and outside ZEROISED (4) capabilities, algorithms, digests, the certificate of slot 0
and a challenge to slot 0 are answered, (5) a measurement block, their number or all of them (these two are presumed,
log entry 132), (6) a key exchange for slot 0 opens one of two sessions of its transport, (7) FINISH ends its
handshake, or (8) where it does not verify gives it up; in a finished session (9) HEARTBEAT and (10) KEY_UPDATE are
answered and (11) END_SESSION ends it, and (12) on a port's DOE a Salsia entry becomes a command; (13) before that
every request but GET_VERSION, and (14) once ready another slot, index, a third session, a session not there, a chain
not there or an entry outside a session, are answered with an error; (15) what does not reach the responder has no
effect. (16) A JTAG access that the states allow is carried out, and (17) any other fails with the port's error. -/
def Obligations.AttestationCompletes : Prop :=
  (∀ (s : State), s.pwr.off = false → s.fab.iod0 = true → s.host.hm ≠ .boot → s.sec.deviceSeed = Config.deviceSeed → s.sec.lifecycle ≠ .zeroised →
      exec .attestReady s = .next (s.modSec fun x => { x with attest := true })) ∧
  (∀ (s : State), s.sec.deviceSeed ≠ Config.deviceSeed ∨ s.sec.lifecycle = .zeroised ∨ s.host.hm = .boot ∨ s.pwr.off = true ∨ s.fab.iod0 = false →
      exec .attestReady s = .next s) ∧
  (∀ (s : State) (t : SpdmTransport), spdmReaches t s = true → exec (.getVersion t) s = .next (s.emit (.spdm true [0x13]))) ∧
  (∀ (s : State) (t : SpdmTransport) (o n : Nat) (k : BitVec 256) (g : List Byte), spdmReaches t s = true → spdmOpen s = true → s.sec.cert = some g →
      exec (.getCapabilities t) s = .next (s.emit (.spdm true spdmFlags)) ∧ exec (.negotiateAlgorithms t) s = .next (s.emit (.spdm true spdmAlgorithms)) ∧
      exec (.getDigests t) s = .next (s.emit (.spdm true (hashBytes (sha256 (certChain g))))) ∧
      exec (.getCertificate t 0 o n) s = .next (s.emit (.spdm true (certPart o n (certChain g)))) ∧
      exec (.challenge t 0 k) s = .next (spdmFree 5 s)) ∧
  (∀ (s : State) (t : SpdmTransport) (i : Nat), spdmReaches t s = true → spdmOpen s = true → i ≤ 8 ∨ i = 0xFF →
      exec (.getMeasurements t i) s = .next (s.emit (.spdm true (if i = 0 then [8]
        else if i = 0xFF then (List.range 8).flatMap fun j => measurement (j + 1) s else measurement i s)))) ∧
  (∀ (s : State) (t : SpdmTransport), spdmReaches t s = true → spdmOpen s = true → (s.sec.sessions.filter (·.transport == t)).length < 2 →
      exec (.keyExchange t 0) s = .next ((s.modSec fun x =>
        { x with sessions := x.sessions ++ [⟨t, s.sec.nextSession, false⟩], nextSession := s.sec.nextSession + 1 }).emit
          (.spdm true (natBytes 4 s.sec.nextSession)))) ∧
  (∀ (s : State) (t : SpdmTransport) (n : Nat), spdmReaches t s = true → spdmOpen s = true → session? t n false s = true →
      exec (.finish t n true) s = .next ((s.modSec fun x => { x with sessions := x.sessions.map fun y =>
        if y.transport = t ∧ y.id = n then { y with finished := true } else y }).emit (.spdm true []))) ∧
  (∀ (s : State) (t : SpdmTransport) (n : Nat), spdmReaches t s = true → spdmOpen s = true → session? t n false s = true →
      exec (.finish t n false) s = .next ((s.modSec fun x => { x with sessions := x.sessions.filter fun y =>
        !(y.transport == t && y.id == n) }).emit (.spdm false []))) ∧
  (∀ (s : State) (t : SpdmTransport) (n : Nat), spdmReaches t s = true → spdmOpen s = true → session? t n true s = true →
      exec (.heartbeat t n) s = .next (s.emit (.spdm true []))) ∧
  (∀ (s : State) (t : SpdmTransport) (n : Nat), spdmReaches t s = true → spdmOpen s = true → session? t n true s = true →
      exec (.keyUpdate t n) s = .next (spdmFree 6 s)) ∧
  (∀ (s : State) (t : SpdmTransport) (n : Nat), spdmReaches t s = true → spdmOpen s = true → session? t n true s = true →
      exec (.endSession t n) s = .next ((s.modSec fun x => { x with sessions := x.sessions.filter fun y =>
        !(y.transport == t && y.id == n) }).emit (.spdm true []))) ∧
  (∀ (s : State) (p : Port) (n : Nat) (e : BitVec 512), spdmReaches (.doe p) s = true → spdmOpen s = true → session? (.doe p) n true s = true →
      s.host.fwReady = true →
      exec (.vendorDefinedRequest (.doe p) (some n) e) s = .next (enqueueCmd ⟨.doe p, BitVec.ofNat 16 (fieldOf e 16 16)⟩ e s.host.stamp
        (s.modHost fun h => { h with stamp := h.stamp + 1 }))) ∧
  (∀ (s : State) (t : SpdmTransport) (k n : Nat) (o l : Nat) (c : BitVec 256) (v : Bool) (x : Option Nat) (e : BitVec 512), spdmReaches t s = true → spdmOpen s = false →
      ∀ i ∈ [Instr.getCapabilities t, .negotiateAlgorithms t, .getDigests t, .getCertificate t k o l, .challenge t k c, .getMeasurements t k,
        .keyExchange t k, .finish t n v, .heartbeat t n, .keyUpdate t n, .endSession t n, .vendorDefinedRequest t x e],
      exec i s = .next (s.emit (.spdm false [0x05]))) ∧
  (∀ (s : State) (t : SpdmTransport) (k n : Nat) (o l : Nat) (c : BitVec 256) (v : Bool) (e : BitVec 512), spdmReaches t s = true → spdmOpen s = true →
      (k ≠ 0 → ∀ i ∈ [Instr.getCertificate t k o l, .challenge t k c, .keyExchange t k], exec i s = .next (s.emit (.spdm false []))) ∧
      (8 < k ∧ k ≠ 0xFF → exec (.getMeasurements t k) s = .next (s.emit (.spdm false []))) ∧
      (2 ≤ (s.sec.sessions.filter (·.transport == t)).length → exec (.keyExchange t 0) s = .next (s.emit (.spdm false []))) ∧
      (session? t n false s = false → exec (.finish t n v) s = .next (s.emit (.spdm false []))) ∧
      (session? t n true s = false → ∀ i ∈ [Instr.heartbeat t n, .keyUpdate t n, .endSession t n, .vendorDefinedRequest t (some n) e],
        exec i s = .next (s.emit (.spdm false []))) ∧
      (s.sec.cert = none → exec (.getDigests t) s = .next (s.emit (.spdm false [])) ∧ exec (.getCertificate t k o l) s = .next (s.emit (.spdm false []))) ∧
      exec (.vendorDefinedRequest t none e) s = .next (s.emit (.spdm false []))) ∧
  (∀ (s : State) (t : SpdmTransport) (k n : Nat) (o l : Nat) (c : BitVec 256) (v : Bool) (x : Option Nat) (e : BitVec 512), spdmReaches t s = false →
      ∀ i ∈ [Instr.getVersion t, .getCapabilities t, .negotiateAlgorithms t, .getDigests t, .getCertificate t k o l, .challenge t k c, .getMeasurements t k,
        .keyExchange t k, .finish t n v, .heartbeat t n, .keyUpdate t n, .endSession t n, .vendorDefinedRequest t x e],
      exec i s = .next s) ∧
  (∀ (s : State) (c : DebugClass) (o : JtagOp), s.fab.iod0 = true → jtagAllowed c o s = true → exec (.jtagAccess c o) s = .next (jtagDo c o s)) ∧
  (∀ (s : State) (c : DebugClass) (o : JtagOp), s.fab.iod0 = true → jtagAllowed c o s = false → exec (.jtagAccess c o) s = .next (s.emit (.jtag false 0)))

/-- R17, R42, R477, R480, R485, R486, R518: where the management interface answers, (1) the health record is read over
SMBus, (2) the alert is cleared, and (3) it is answered with the device's address; (4) where it does not, all three
have no effect. (5) EDGE_DOWN ends once its edge has carried flits for 1 s, and (6) the counted reasons follow what is
left in their windows. From an owner whose accesses are heard, (7) a test of an Ethernet link, a flash channel or a
stack begins with its lanes unlocked and its counts at 0, (8) that of a PCIe port takes its link down, and (9) that of
a Slipway edge takes the edge out of service; (10) a start that the rules refuse shows its reason; (11) a stop of such
a test ends it, with its bit count a free value, (12) of a port resets the port, and (13) of an edge returns the edge,
silent from now; (14) an injected error counts on every locked lane; (15) a lane locks, and the test runs once every
lane has; (16) a lock lost counts sixteen errors and sets its event; (17) with no test none of these but a start has
an effect. -/
def Obligations.HealthAndLinkTests : Prop :=
  (∀ (s : State), smbusAnswers s = true → exec .smbusHealthRead s = .next (s.emit (.smbus (healthRecord s)))) ∧
  (∀ (s : State), smbusAnswers s = true → exec .smbusAlertClear s = .next (s.modHlth fun h => { h with alertPend := false })) ∧
  (∀ (s : State), smbusAnswers s = true →
      exec .smbusAra s = .next (if s.hlth.alertPend then s.emit (.smbus [BitVec.ofNat 8 (0x64 + Config.smbStraps.toNat)]) else s)) ∧
  (∀ (s : State), smbusAnswers s = false → exec .smbusHealthRead s = .next s ∧ exec .smbusAlertClear s = .next s ∧ exec .smbusAra s = .next s) ∧
  (∀ (s : State) (e : Nat), s.edgeWhere (·.up) e = true → (((s.fab.edges[e]?).map (·.since)).getD 0) + 1000000000 ≤ s.mono →
      exec (.healthReasonTimer 0x03 e) s = .next (clearReason 0x03 e s)) ∧
  (∀ (s : State) (n : Nat), exec (.healthReasonTimer 0x08 n) s = .next (corrReason s) ∧
      exec (.healthReasonTimer 0x09 n) s = .next (lockstepReason n s) ∧ exec (.healthReasonTimer 0x0B n) s = .next (tripReason s)) ∧
  (∀ (s : State) (w : Owner), s.heard w = true → ltRefusal w s.rw.ltCfg s = none → ltType s.rw.ltCfg ≠ 1 → ltType s.rw.ltCfg ≠ 2 →
      exec (.ltStart w) s = .next (s.modLt fun _ => ⟨.sync, true, 0, s.rw.ltCfg, 0, List.replicate 32 0, 0⟩)) ∧
  (∀ (s : State) (w : Owner), s.heard w = true → ltRefusal w s.rw.ltCfg s = none → ltType s.rw.ltCfg = 1 →
      exec (.ltStart w) s = .next ((s.modLt fun _ => ⟨.sync, true, 0, s.rw.ltCfg, 0, List.replicate 32 0, 0⟩).modPort
        (if ltIndex s.rw.ltCfg = 0 then .a else .b) fun h => { h with linkUp := false })) ∧
  (∀ (s : State) (w : Owner), s.heard w = true → ltRefusal w s.rw.ltCfg s = none → ltType s.rw.ltCfg = 2 →
      exec (.ltStart w) s = .next ((s.modLt fun _ => ⟨.sync, true, 0, s.rw.ltCfg, 0, List.replicate 32 0, 0⟩).modEdge
        (ltIndex s.rw.ltCfg) fun e => { e with tested := true })) ∧
  (∀ (s : State) (w : Owner) (r : Nat), s.heard w = true → ltRefusal w s.rw.ltCfg s = some r →
      exec (.ltStart w) s = .next ((s.modLt fun l => { l with state := .refused, refuse := r }).modEv fun e => { e with lt := e.lt ||| 4 })) ∧
  (∀ (s a : State) (w : Owner), s.heard w = true → s.lt.active = true → ltType s.lt.cfg ≠ 1 → ltType s.lt.cfg ≠ 2 →
      s.draw.2.modLt (fun l => { l with state := .stopped, active := false, bits := s.draw.1.toNat % 2 ^ 48 }) = a →
      exec (.ltStop w) s = .next (a.modEv fun e => { e with lt := e.lt ||| 1 })) ∧
  (∀ (s a : State) (w : Owner), s.heard w = true → s.lt.active = true → ltType s.lt.cfg = 1 →
      s.draw.2.modLt (fun l => { l with state := .stopped, active := false, bits := s.draw.1.toNat % 2 ^ 48 }) = a →
      exec (.ltStop w) s = .next (resetPort (if ltIndex s.lt.cfg = 0 then .a else .b) .linkDown (a.modEv fun e => { e with lt := e.lt ||| 1 }))) ∧
  (∀ (s a : State) (w : Owner), s.heard w = true → s.lt.active = true → ltType s.lt.cfg = 2 →
      s.draw.2.modLt (fun l => { l with state := .stopped, active := false, bits := s.draw.1.toNat % 2 ^ 48 }) = a →
      exec (.ltStop w) s = .next ((a.modEv fun e => { e with lt := e.lt ||| 1 }).modEdge (ltIndex s.lt.cfg) fun e =>
        { e with tested := false, lowHeard := s.mono, highHeard := s.mono })) ∧
  (∀ (s : State) (w : Owner), s.heard w = true → s.lt.active = true → exec (.ltInject w) s = .next (s.modLt fun l => { l with
      errs := l.errs.zipIdx.map fun (n, i) => if bitOf l.lock i then min (2 ^ 32 - 1) (n + 1) else n })) ∧
  (∀ (s : State) (n : Fin 32) (k : Word), s.lt.active = true → (n : Nat) < ltLanes s.lt.cfg s → k = s.lt.lock ||| (1 <<< (n : Nat)) →
      exec (.ltLaneLock n) s = .next (s.modLt fun l => { l with
        lock := k, state := if (List.range (ltLanes s.lt.cfg s)).all (bitOf k) then .running else l.state })) ∧
  (∀ (s : State) (n : Fin 32), s.lt.active = true → bitOf s.lt.lock n = true → exec (.ltLockLost n) s = .next ((s.modLt fun l =>
      { l with lock := l.lock &&& ~~~((1 : Word) <<< (n : Nat)), errs := updAt l.errs n fun k => min (2 ^ 32 - 1) (k + 16) }).modEv fun e =>
        { e with lt := e.lt ||| 2 })) ∧
  (∀ (s : State) (w : Owner) (n : Fin 32), s.lt.active = false → exec (.ltStop w) s = .next s ∧ exec (.ltInject w) s = .next s ∧
      exec (.ltLaneLock n) s = .next s ∧ exec (.ltLockLost n) s = .next s)

/-- R489, R490, R491, R494, R495: (1) counting freezes and (2) goes on; (3) a snapshot copies the counters of the dies
that answer and the bandwidth values, and marks the dies that do not; (4) one written while another runs is ignored;
(5) it ends with its event, and with that of a partial snapshot where a die did not answer; (6) the clear zeroes the
live bank; (7) a write of the window length starts back-to-back windows, of at most 1 s; (8) the end of a window
latches its values and (9) latches none while counting is frozen; (10) before its end, or with windows off, nothing
changes. -/
def Obligations.CountersComplete : Prop :=
  (∀ (s : State), exec .pmcFreeze s = .next (s.modPmc fun p => { p with frozen := true })) ∧
  (∀ (s : State), exec .pmcUnfreeze s = .next (s.modPmc fun p => { p with frozen := false })) ∧
  (∀ (s : State) (a : BitVec 12) (ok : Nat → Bool) (m : BitVec 12), s.pmc.snapBusy = false →
      (ok = fun d => bitOf a d && s.dieUp d && !(decide (d < 8) && s.pwr.state == .night)) →
      m = BitVec.ofNat 12 (((List.range 12).map fun d => flag (!ok d) * 2 ^ d).sum) →
      exec (.pmcSnap a) s = .next (s.modPmc fun p => { p with
        snapBusy := true, stale := m, partialSnap := m != 0, bwSnap := p.bw
        dies := p.dies.zipIdx.map fun (x, d) => if ok d then { x with
          snap := x.cnt
          snapOvf := x.evsel.map (bitOf · 14) ++ (List.range (x.cnt.length - x.evsel.length)).map (bitOf x.fixOvf) } else x })) ∧
  (∀ (s : State) (a : BitVec 12), s.pmc.snapBusy = true → exec (.pmcSnap a) s = .next s) ∧
  (∀ (s : State), s.pmc.snapBusy = true → exec .pmcSnapDone s = .next ((s.modPmc fun p => { p with snapBusy := false, snapValid := true }).modEv
      fun e => { e with pmc := e.pmc ||| (if s.pmc.partialSnap then 5 else 1) })) ∧
  (∀ (s : State), exec .pmcClear s = .next (s.modPmc fun p => { p with dies := p.dies.map fun d =>
      { d with cnt := d.cnt.map fun _ => 0, evsel := d.evsel.map (· &&& ~~~(0x4000 : Word)), fixOvf := 0 } })) ∧
  (∀ (s : State) (v : Word), exec (.pmcBwWinWrite v) s =
      .next ((s.modRw fun r => { r with pmcBwWin := v }).modPmc fun p => { p with bwSince := s.mono })) ∧
  (∀ (s : State) (bs : List (Nat × Nat)) (n : Nat), s.rw.pmcBwWin ≠ 0 → n = s.pmc.bwSince + min 1000000 s.rw.pmcBwWin.toNat * 1000 → n ≤ s.mono →
      s.pmc.frozen = false → exec (.pmcBwWindowEnd bs) s = .next (s.modPmc fun p => { p with
        bwSince := n, bwSeq := p.bwSeq + 1
        bw := (List.range 148).map fun k => ((bs.getD k (0, 0)).1 % 2 ^ 48, (bs.getD k (0, 0)).2 % 2 ^ 48) })) ∧
  (∀ (s : State) (bs : List (Nat × Nat)) (n : Nat), s.rw.pmcBwWin ≠ 0 → n = s.pmc.bwSince + min 1000000 s.rw.pmcBwWin.toNat * 1000 → n ≤ s.mono →
      s.pmc.frozen = true → exec (.pmcBwWindowEnd bs) s = .next (s.modPmc fun p => { p with bwSince := n })) ∧
  (∀ (s : State) (bs : List (Nat × Nat)), s.rw.pmcBwWin = 0 ∨ s.mono < s.pmc.bwSince + min 1000000 s.rw.pmcBwWin.toNat * 1000 →
      exec (.pmcBwWindowEnd bs) s = .next s)

/-- R434, R435, R436, R438, R439, R440, R443, R445, R446, R447, R448: (1) an entry into Dusk begins when its terms
hold, with the wake timer 10 µs before the work terms; (2) it commits at the end of the drain; (3) it ends in Dusk
with its event and the SPDs' clocks gated, from the gate-closing cycles or after them, a held wake starting the exit
at once; (4) from Dusk the passage to Night begins when its terms hold, and (5) ends in Night, (6) with the rails of
every serving SPD open, its stacks in self-refresh and its bank 0 retained with the fixed region; (7) a low level of
WAKE_N is a wake, and (8) its rise is none; (9) the wake timer at its time is a wake; the exits from (10) Dusk and
(11) Night, with all its steps taken, end in Noon with WAKE, and what waited is handled; (12) entries, exits and
timers whose terms do not hold change nothing. (13) A temperature sample is recorded, a crossing of a threshold is a
wake, the first hot sample moves the point at once, and THERM_N is released once all is cool enough; (14) a critical
sensor asserts it, and (15) at the trip temperatures the comparator trips. (16) The point moves one step slower every
10 ms while hot, (17) one faster every 100 ms while cool, and (18) not otherwise. -/
def Obligations.PowerStatesComplete : Prop :=
  (∀ (s : State), mayEnterDusk s = true → exec .duskEntryStart s = .next (s.modPwr fun p => { p with
      entry := some (false, .drain), heldWake := false, tideTimer := (earliest (workTerms s)).map fun t => (t - 10000).toNat })) ∧
  (∀ (s : State) (n : Bool), s.pwr.entry = some (n, .drain) → exec .entryCommit s = .next (s.modPwr fun p => { p with
      entry := some (n, .closing), commitAt := s.mono })) ∧
  (∀ (s a : State), (s.pwr.entry = some (false, .closing) ∨ s.pwr.entry = some (false, .completing)) →
      a = ((s.each s.servingList fun n t => t.modPower n SpdPower.doze).modPwr fun p =>
        { p with state := .dusk, entry := none, duskSince := s.mono, exiting := false, heldWake := false }) →
      exec .duskEntryDone s = .next (setEv .pwr 1 (if s.pwr.heldWake then beginExit a else a))) ∧
  (∀ (s : State), mayEnterNight s = true → exec .nightEntryStart s = .next (s.modPwr fun p => { p with
      entry := some (true, .completing), heldWake := false })) ∧
  (∀ (s a : State), s.pwr.entry = some (true, .completing) → a = ((nightEntry s).modPwr fun p =>
        { p with state := .night, entry := none, exiting := false, heldWake := false }) →
      exec .nightEntryDone s = .next (setEv .pwr 2 (if s.pwr.heldWake then beginExit a else a))) ∧
  (∀ (s : State) (n : Fin 8) (d : Spd), s.spd? n = some d → d.serving = true →
      ((nightEntry s).spd? n).map (fun x => (x.power.rail, x.power.isolated, x.power.aclk, x.power.bank0, x.power.saved, x.power.hbm)) =
        some (false, true, .off, .retained, true, d.power.hbm.map fun _ => .selfRefresh)) ∧
  (∀ (s : State), exec (.wakeNEdge true) s = .next (wake 0 true (s.modPwr fun p => { p with wakeN := false }))) ∧
  (∀ (s : State), exec (.wakeNEdge false) s = .next (s.modPwr fun p => { p with wakeN := true })) ∧
  (∀ (s : State) (t : Nat), s.pwr.tideTimer = some t → t ≤ s.now →
      exec .tideWakeTimer s = .next (wake 2 true (s.modPwr fun p => { p with tideTimer := none }))) ∧
  (∀ (s : State), s.pwr.state = .dusk → s.pwr.exiting = true → s.pwr.entry = none → exec .duskExitDone s = .next
      (takeHeld (setEv .pwr 4 (toNoon (s.each s.servingList fun n t => t.modPower n SpdPower.rouse))))) ∧
  (∀ (s : State), s.pwr.state = .night → s.pwr.exiting = true → s.pwr.entry = none →
      exec .nightExitDone s = .next (takeHeld (setEv .pwr 4 (toNoon (startAtPoint (finishExit s)))))) ∧
  (∀ (s : State), (mayEnterDusk s = false → exec .duskEntryStart s = .next s) ∧ (mayEnterNight s = false → exec .nightEntryStart s = .next s) ∧
      (s.pwr.entry = none → exec .entryCommit s = .next s ∧ exec .duskEntryDone s = .next s ∧ exec .nightEntryDone s = .next s) ∧
      (s.pwr.exiting = false → exec .duskExitDone s = .next s ∧ exec .nightExitDone s = .next s) ∧
      (((s.pwr.tideTimer.map fun t => decide (s.now < t)).getD true) = true → exec .tideWakeTimer s = .next s)) ∧
  (∀ (s a b c : State) (x : Sensors), s.pwr.off = false → recordSample (validReadings s x) s = a →
      (if a.pwr.crossed then wake 4 true a else a) = b →
      (if s.pwr.hotSince.isNone && b.pwr.hotSince.isSome then moveThermal true b else b) = c → tripsAt (validReadings s x) = false →
      critical s (validReadings s x) = [] →
      exec (.thermalSample x) s = .next (if released s (validReadings s x) then releaseTherm c else c)) ∧
  (∀ (s a b c : State) (x : Sensors) (k : Nat × Int) (l : List (Nat × Int)), s.pwr.off = false → recordSample (validReadings s x) s = a →
      (if a.pwr.crossed then wake 4 true a else a) = b →
      (if s.pwr.hotSince.isNone && b.pwr.hotSince.isSome then moveThermal true b else b) = c → tripsAt (validReadings s x) = false →
      critical s (validReadings s x) = k :: l →
      exec (.thermalSample x) s = .next (if c.pwr.therm then c
        else raiseReason 0x0A 0 k.1 (setEv .pwr 0x20 (opRetarget (c.modPwr fun p => { p with therm := true, thermal := 3 }))))) ∧
  (∀ (s a b c : State) (x : Sensors), s.pwr.off = false → recordSample (validReadings s x) s = a →
      (if a.pwr.crossed then wake 4 true a else a) = b →
      (if s.pwr.hotSince.isNone && b.pwr.hotSince.isSome then moveThermal true b else b) = c → tripsAt (validReadings s x) = true →
      exec (.thermalSample x) s = .next (thermalTrip c)) ∧
  (∀ (s : State) (t : Nat), s.pwr.hotSince = some t → t + 10000000 ≤ s.mono →
      exec .throttleStep s = .next (moveThermal true (s.modPwr fun p => { p with hotSince := some s.mono }))) ∧
  (∀ (s : State) (t : Nat), ((s.pwr.hotSince.map fun h => decide (s.mono < h + 10000000)).getD true) = true → s.pwr.coolSince = some t →
      t + 100000000 ≤ s.mono → s.pwr.therm = false →
      exec .throttleStep s = .next (moveThermal false (s.modPwr fun p => { p with coolSince := some s.mono }))) ∧
  (∀ (s : State), ((s.pwr.hotSince.map fun h => decide (s.mono < h + 10000000)).getD true) = true →
      (((s.pwr.coolSince.map fun h => decide (s.mono < h + 100000000)).getD true) = true ∨ s.pwr.therm = true) →
      exec .throttleStep s = .next s)

/-- R447, R449, R453, R454, R475, R496, R497, R502, R506, R512, R515, R516: (1) a cold reset leaves the always-on
domain, the health counts and the retired rows at reset too; (2) the rails that become good start the device where no
trip is latched, with TEST_EN sampled; (3) a lost rail that was good is a reset with the power off; (4) a warm reset
restarts the device, and (5) a pulse too short does nothing (how a pulse from 1 µs to 10 µs acts is free, log entry
118); (6) RESET_N held low keeps the device in reset, and (7) its release starts it; (8) a thermal trip is counted and
latched at 115 °C, or 105 °C of a stack, (9) not below, and (10) opens again once every reading is below 90 °C; a
clock fault (11) on the slow clock, (12) on a port's reference, (13) on the Ethernet reference takes the rule's
effect, and (14) on the system reference I/O die 0 with it; (15) a Keel fault is FATAL and loses every connection;
(16) a lockstep mismatch and a watchdog expiry restart the Harbourmaster alone and are counted, (17) not during the
boot. (18) An image in the boot buffer that passes every check starts, and (19) one that fails, or the strap, takes
the recovery path; (20) bring-up makes the firmware ready and ends in Noon, with no link up before 100 ms; (21) it
runs once, with an image verified and power on. -/
def Obligations.ResetsComplete : Prop :=
  (∀ (s : State), exec .coldReset s = .next { State.reset with
      pending := s.pending, free := s.free, out := s.out, media := s.media.afterReset, host := s.host.afterReset, sec := s.sec.afterReset
      tide := { Tide.reset with syncIn := s.tide.syncIn }, pwr := { Power.reset with wakeN := s.pwr.wakeN, resetLow := s.pwr.resetLow } }) ∧
  (∀ (s : State) (e : Bool), s.pwr.v3p3 = true → exec (.powerGood e) s =
      .next (startIfGood (s.modPwr fun p => { p with vin48 := true, v1p8 := true, testEn := e }))) ∧
  (∀ (s : State) (r : Rail) (d : Power), (match r with | .vin48 => s.pwr.vin48 | .v1p8 => s.pwr.v1p8 | .v3p3 => s.pwr.v3p3) = true →
      { s.pwr with v3p3 := s.pwr.v3p3 && r != .v3p3, vin48 := s.pwr.vin48 && r == .v1p8, v1p8 := s.pwr.v1p8 && r == .vin48 } = d →
      exec (.railLost r) s = .next (resetCore (s.modPwr fun _ => { d with off := true, warmDue := true }))) ∧
  (∀ (s : State) (n : Nat) (e : Bool), s.pwr.off = false → 10000 ≤ n →
      exec (.warmReset (.pulse n e)) s = .next (startUp (causeBit 1 ((resetCore { s with free := s.free + 1 }).modPwr fun p => { p with testEn := e })))) ∧
  (∀ (s : State) (n : Nat) (e : Bool), s.pwr.off = true ∨ n < 1000 →
      exec (.warmReset (.pulse n e)) s = .next { s with free := s.free + 1 }) ∧
  (∀ (s : State), exec (.warmReset .held) s = .next (if s.pwr.off then s.modPwr fun p => { p with resetLow := true }
      else (resetCore s).modPwr fun p => { p with off := true, warmDue := true, resetLow := true })) ∧
  (∀ (s : State) (e : Bool), exec (.warmReset (.released e)) s = .next (if s.pwr.resetLow then
      startIfGood (s.modPwr fun p => { p with resetLow := false, testEn := e }) else s)) ∧
  (∀ (s b : State) (x : Sensors), s.pwr.off = false → (validReadings s x).any (fun y => if y.1 < 80 then decide (115 ≤ y.2) else decide (105 ≤ y.2)) = true →
      tripReason (s.modHlth fun h => { h with trips := windowed weekNs s.aon.clock h.trips ++ [s.aon.clock] }) = b →
      exec (.thermalTrip x) s = .next (causeBit 2 (resetCore (b.modPwr fun p => { p with off := true, tripped := true })))) ∧
  (∀ (s : State) (x : Sensors), s.pwr.off = true ∨ (validReadings s x).all (fun y => if y.1 < 80 then decide (y.2 < 115) else decide (y.2 < 105)) = true →
      exec (.thermalTrip x) s = .next s) ∧
  (∀ (s : State) (x : Sensors), s.pwr.tripped = true → (x.all fun r => (r.map fun t => decide (t < 90)).getD true) = true →
      exec (.tripCooled x) s = .next (startIfGood (s.modPwr fun p => { p with tripped := false }))) ∧
  (∀ (s : State), exec (.clockFault .slow) s = .next (s.modAon fun a => { a with slowLost := true })) ∧
  (∀ (s : State) (p : Port), exec (.clockFault (.pcieRef p)) s = .next (resetPort p .linkDown s)) ∧
  (∀ (s : State), exec (.clockFault .ethRef) s = .next (s.each (List.range 16) fun m t => downLink m (some 100) t)) ∧
  (∀ (s : State), exec (.clockFault .sys) s = .next (loseIod0 s)) ∧
  (∀ (s : State), exec .keelFault s = .next ((fatalError 0x23 0 s).each s.egr.conns fun c u => connError c.idx 6 u)) ∧
  (∀ (s a : State) (n : Fin 2), s.host.hm ≠ .boot →
      restartHarbourmaster (lockstepReason n (s.modHlth fun h => { h with mismatches := windowed dayNs s.aon.clock h.mismatches ++ [s.aon.clock] })) = a →
      exec (.lockstepMismatch n) s = .next a ∧ exec (.hmWatchdogExpiry n) s = .next a) ∧
  (∀ (s : State) (n : Fin 2), s.host.hm = .boot → exec (.lockstepMismatch n) s = .next s ∧ exec (.hmWatchdogExpiry n) s = .next s) ∧
  (∀ (s a : State) (g : List Byte), booting s = true → s.sec.norImage = g →
      a = (((repeatZeroise s).modPower 0 fun p => { p with hbm := p.hbm.set 0 .active }).modSec fun x => { x with bootBuffer := g, bootFuses := fuseBytes x }) →
      imageReason a.sec g.length g = none →
      exec (.bootImageVerified false) s = .next (startSpds (a.modSec fun x => { x with
        verified := true, slotUsed := imgSlot g, fwVer := imgFwVer g, svn := imgSvn g, bootImage := some g }))) ∧
  (∀ (s a : State) (g : List Byte) (b : Bool), booting s = true → s.sec.norImage = g →
      a = (((repeatZeroise s).modPower 0 fun p => { p with hbm := p.hbm.set 0 .active }).modSec fun x => { x with bootBuffer := g, bootFuses := fuseBytes x }) →
      b = true ∨ (imageReason a.sec g.length g).isSome = true →
      exec (.bootImageVerified b) s = .next (enterRecovery a)) ∧
  (∀ (s a : State) (b : Bringup), s.sec.verified = true → s.sec.recovery = false → s.host.broughtUp = false → s.pwr.off = false →
      transmittersAfter (bringReasons b (startAtPoint (((((s.modFab (bringFabric b s.mono)).modMedia (bringMedia b)).modHost fun h =>
        { h with broughtUp := true }).modPmc fun p => { p with stale := bringStale b }).modEgr fun e => { e with linksFrom := s.mono + 100000000 }))) = a →
      exec (.bringupDone b) s = .next (toNoon (if a.host.hm = .boot then firmwareReady a else a))) ∧
  (∀ (s : State) (b : Bringup), s.sec.verified = false ∨ s.sec.recovery = true ∨ s.host.broughtUp = true ∨ s.pwr.off = true →
      exec (.bringupDone b) s = .next s)

/-- The invariant of the model over every step, from every state that has it: the job address space and the debug
memory stay in canonical form, and a reserved bit of a staged register stays 0 in its shadow and applied (R7, R122,
R375, R379, R380). -/
def Obligations.StepKeepsSound : Prop :=
  ∀ (s t : State), Sound s → step s = .next t → Sound t

/-- Whatever the command and the state, the lifecycle never goes back, the minimum security version never falls, a
revoked slot stays revoked, a programmed key hash stands and a blown root seed stays blown (R451, R452, R459 to R461).
-/
def Obligations.FusesNeverFallBack : Prop :=
  ∀ (c : Instr) (s t : State), exec c s = .next t → FusesKept s.sec t.sec

/-- The effect of a command is on everything but the queue (the model's own queue, no rule of the spec). -/
def Obligations.CommandsLeaveTheQueue : Prop :=
  ∀ (c : Instr) (s t : State), exec c s = .next t → t.pending = s.pending

/-- No command stops the block: an error of the device is a change of its state (R475 to R477). -/
def Obligations.EveryCommandAnswers : Prop :=
  ∀ (c : Instr) (s : State), ∃ t, exec c s = .next t

/-- The state after reset has the invariant that every step keeps. -/
def Obligations.ResetIsSound : Prop :=
  Sound State.reset

/-- With a command in front of the queue, a step is that command on the state whose queue is the rest. -/
def Obligations.StepRunsTheFront : Prop :=
  ∀ (c : Instr) (rest : List Instr) (s : State), step (withPending s (c :: rest)) = exec c (withPending s rest)

/-- The model's choice (DESIGN CHOICE, log entries 1 and 195): on an empty queue the work that goes on without a
command is done, which is (1) the step of Night exit that is due and (2) the next step of a ZEROISE under way; (3) 1
ns of local time, of uptime and of the always-on clock passes, the cycle counters of every die count (an overflow sets
its event bit, R490), and the idle timers of R368 and R434 run; with no such work (4) nothing else changes. -/
def Obligations.IdleStep : Prop :=
  (∀ (s : State), s.pwr.state = .night → s.pwr.exiting = true → s.pwr.exitStep < 6 → exitStepDue (s.pwr.exitStep + 1) s = true →
      takeExitSteps 1 s = (exitStepAll (s.pwr.exitStep + 1) s.servingList s).modPwr fun p => { p with exitStep := p.exitStep + 1 }) ∧
  (∀ (s a : State) (k : Nat), s.sec.zeroising = some k → a = ((zeroiseStep (k + 1) s).modSec fun x =>
        { x with zeroising := if k + 1 < 3 then some (k + 1) else none }) →
      keelStep s = if k + 1 < 3 then a else a.each (a.host.cmds.filter (·.run == .zeroise)) fun c t => finish c stSuccess [] t) ∧
  (∀ (s : State), s.pending = [] → step s = .next (clockTick (keelStep (takeExitSteps 6 s)))) ∧
  (∀ (s : State), s.pending = [] → s.pwr.state ≠ .night ∨ s.pwr.exiting = false ∨ 6 ≤ s.pwr.exitStep → s.sec.zeroising = none → step s = .next { s with
      pmc := (tickCounters s).pmc,
      ev := (tickCounters s).ev,
      tide := { s.tide with time := (s.tide.time + 1) % 2 ^ 64, uptime := s.tide.uptime + 1 },
      aon := { s.aon with clock := s.aon.clock + 1 },
      host := { s.host with selfTest := s.host.selfTest.map (SelfTest.track (!hostPending s) s.mono) },
      pwr := { s.pwr with idleSince := idleTrack s } })

/-- The table gives its rows no bits, so no word decodes, and placing one changes nothing. -/
def Obligations.NoWordSpellsACommand : Prop :=
  ∀ (s : State) (nbits w : Nat), decodeTableWord nbits w = none ∧ s.withFetchWord nbits w = s

/-- R69, R130: `perm` stays below N, two indices never share a value, and `unperm` brings every index back, whatever
the key and counters. -/
def Obligations.PermIsAPermutation : Prop :=
  (∀ (c : WalkCtx) (n x : Nat), x < n → c.perm n x < n) ∧
  (∀ (c : WalkCtx) (n x y : Nat), x < n → y < n → c.perm n x = c.perm n y → x = y) ∧
  (∀ (c : WalkCtx) (n x : Nat), x < n → c.unperm n (c.perm n x) = x)

/-- R66, R69, R78: within one epoch a sample appears at one position only. The positions are those below N_p; a
position from N_p on is a fill position. -/
def Obligations.EpochServesEachSampleOnce : Prop :=
  (∀ (seed : Dword) (t : Stream) (d : Partition) (e i : Nat), t.order ≤ 1 → i < d.size →
      (∃ l, (l < d.size ∧ orderValue seed t d e l = i) ∧ ∀ k, k < d.size → orderValue seed t d e k = i → k = l)) ∧
  (∀ (n parts p : Nat), p < parts → partSize n parts p = ((List.range n).filter fun i => i % parts == p).length)

/-- R376: the fourteen sources and their bits, and the bit of each. -/
def Obligations.PendingBits : Prop :=
  (∀ (e : Events) (src : Source), (irqPend e).getLsbD src.index = decide (e.get src ≠ 0)) ∧
  ([Source.tide, .mem, .dec, .xf, .txt, .pack, .egr, .bw, .cfg, .grd, .pwr, .sec, .win, .hlth].map Source.index = List.range 14) ∧
  (∀ (e : Events) (i : Nat), 14 ≤ i → (irqPend e).getLsbD i = false) ∧
  (∀ (o : Owner) (s : State), s.heard o = true → s.host.hm ≠ .boot → (windowRead o 0x100 s).1 = irqPend s.ev)

/-- R479: the highest kind, in it the greater confidence, and then the lower code; the premises are the ranges of a
reason's code and confidence (R478, R480). -/
def Obligations.TopReason : Prop :=
  (∀ (rs : List Reason) (r : Reason), (∀ q ∈ rs, q.conf ≤ 100 ∧ q.code < 256) → topReason rs = some r → r ∈ rs ∧ ∀ q ∈ rs,
      reasonRank q.code < reasonRank r.code ∨ (reasonRank q.code = reasonRank r.code ∧
        (q.conf < r.conf ∨ (q.conf = r.conf ∧ r.code ≤ q.code)))) ∧
  (∀ (rs : List Reason), topReason rs = none → rs = []) ∧
  (∀ (c : Nat), reasonRank c = 2 ↔ (c = 0x14 ∨ c = 0x20 ∨ c = 0x21 ∨ c = 0x22 ∨ c = 0x23)) ∧
  (∀ (c : Nat), reasonRank c = 1 ↔ (c = 1 ∨ c = 2 ∨ c = 3 ∨ c = 4 ∨ c = 5 ∨ c = 0x0A ∨ c = 0x13))

/-- R38: the estimate for each size of the window, the seventeenth interval, and the seed at job start, after a
RESTART mark and after RESTART_EST. -/
def Obligations.PeriodEstimate : Prop :=
  (∀ (seed : Nat), periodOf seed [] = seed) ∧
  (∀ (seed : Nat) (w a : List Nat), a.Perm w → a.Pairwise (· ≤ ·) → w.length % 2 = 1 →
      periodOf seed w = a.getD ((w.length - 1) / 2) 0) ∧
  (∀ (seed : Nat) (w a : List Nat), a.Perm w → a.Pairwise (· ≤ ·) → w ≠ [] → w.length % 2 = 0 →
      periodOf seed w = (a.getD (w.length / 2 - 1) 0 + a.getD (w.length / 2) 0) / 2) ∧
  (∀ (w : List Nat) (v : Nat), w.length < 16 → pushInterval w (some v) = w ++ [v]) ∧
  (∀ (w : List Nat) (v : Nat), w.length = 16 → pushInterval w (some v) = w.tail ++ [v]) ∧
  (∀ (s : State), (tideNewJob s).period = s.applied.tidePeriodInit.toNat * 1000) ∧
  (∀ (s : State) (o : Owner), s.heard o = true → ∃ t, exec (.tideRestartEst o) s = .next t ∧ t.tide.window = [] ∧ t.tide.seed = some s.period) ∧
  (∀ (s : State) (step : Nat) (t : Int) (seq : Option Nat), (judge step t true seq s).tide.window = [] ∧
      (judge step t true seq s).tide.seed = some s.period)

/-- R413: CRC-64 and CRC-32C are the bitwise model with their width, polynomial, initial value, reflections and final
XOR; the check values over the nine ASCII bytes 1 to 9; 0 over an empty string. -/
def Obligations.CrcModel : Prop :=
  (∀ (bs : List Byte), (crc64 bs).toNat =
      crcResult 64 true (2 ^ 64 - 1) (bs.foldl (crcFeed 64 0x42F0E1EBA9EA3693 true) (2 ^ 64 - 1))) ∧
  (∀ (bs : List Byte), (crc32c bs).toNat = crcResult 32 true (2 ^ 32 - 1) (bs.foldl (crcFeed 32 0x1EDC6F41 true) (2 ^ 32 - 1))) ∧
  (∀ (w poly reg : Nat) (refin : Bool) (b : Byte), 0 < w → w ≤ 64 → reg < 2 ^ w →
      crcFeed w poly refin reg b = (List.range 8).foldl (fun r i =>
        if (r / 2 ^ (w - 1) % 2 + (if refin then reflect 8 b.toNat else b.toNat) / 2 ^ (7 - i) % 2) % 2 = 1
        then Nat.xor (r * 2 % 2 ^ w) (poly % 2 ^ w) else r * 2 % 2 ^ w) reg) ∧
  (crc64 [0x31, 0x32, 0x33, 0x34, 0x35, 0x36, 0x37, 0x38, 0x39] = 0x995DC9BBDF1939FA ∧
      crc32c [0x31, 0x32, 0x33, 0x34, 0x35, 0x36, 0x37, 0x38, 0x39] = 0xE3069283 ∧ crc64 [] = 0 ∧ crc32c [] = 0)

/-- R325, R339, R463: a per-port reset releases and flags every semaphore of that port's owner and no other; a read
leaves the flags; only a write of 1 clears one. -/
def Obligations.AbandonedSemaphores : Prop :=
  (∀ (s : State) (p : Port) (cause : PortResetCause) (k : Nat), k < 64 → (s.sem k).owner = some p.owner →
      ∃ t, exec (.portReset p cause) s = .next t ∧ (t.sem k).owner = none ∧ t.host.semAbn.getLsbD k = true) ∧
  (∀ (s : State) (p : Port) (cause : PortResetCause) (k : Nat), (s.sem k).owner ≠ some p.owner →
      ∃ t, exec (.portReset p cause) s = .next t ∧ t.sem k = s.sem k ∧ t.host.semAbn.getLsbD k = s.host.semAbn.getLsbD k) ∧
  (∀ (s : State) (readers : List Owner) (k : Fin 64), ∃ t, exec (.semRead readers k) s = .next t ∧ t.host.semAbn = s.host.semAbn)

/-- R122, R276: the bytes written are read back, every other byte stands, and the memory keeps its canonical form. -/
def Obligations.JobMemoryReadsBack : Prop :=
  (∀ (s : State) (a x : Nat) (bs : List Byte), wfCells zeroBase s.egr.jobMem = true → a ≤ x → x < a + bs.length →
      some ((writeJob a bs s).jobByte x) = bs[x - a]?) ∧
  (∀ (s : State) (a x : Nat) (bs : List Byte), wfCells zeroBase s.egr.jobMem = true → x < a ∨ a + bs.length ≤ x →
      (writeJob a bs s).jobByte x = s.jobByte x) ∧
  (∀ (s : State) (a : Nat) (bs : List Byte), wfCells zeroBase s.egr.jobMem = true →
      wfCells zeroBase (writeJob a bs s).egr.jobMem = true)

/-- R244 to R250: for every floating-point layout, every finite code packs back to itself without rounding or
saturation, in every rounding mode, its value written from the sign, exponent and mantissa fields. -/
def Obligations.ExactValuesKeepTheirCodes : Prop :=
  ∀ (f : FloatFmt) (fmt mode m x w : Nat) (sat neg : Bool),
      f ∈ [FloatFmt.fp32, .bf16, .fp16, .e4m3, .e5m2, .e3m2, .e2m3, .e2m1] → m < 2 ^ f.mb → x * 2 ^ f.mb + m ≤ f.maxCode →
      floatElem f fmt mode sat (.fin neg (if x = 0 then m else 2 ^ f.mb + m) (((if x = 0 then 1 else x : Nat) : Int) - f.bias - f.mb)) w =
        (flag neg * 2 ^ (f.eb + f.mb) + (x * 2 ^ f.mb + m), false)

/-- R59, R144, R170, R202, R233, R265, R297, R318, R342, R393, R396, R398: the reset values that the register tables
give; PWR_STAT reads with GUARDED, which R444 has at 1 throughout Dawn. -/
def Obligations.ResetRegisters : Prop :=
  ∀ p ∈ [(0x0, 0x24800051), (0xC00, 0x203), (0x10400, 0x601), (0x10404, 0x186A0), (0x10408, 0x1388), (0x1040C, 4),
      (0x10410, 0x64), (0x10418, 0x2710), (0x1041C, 0xC350), (0x10420, 0x5000), (0x10500, 0x830), (0x10504, 0x200),
      (0x10600, 0x4B01), (0x10700, 0x301), (0x10800, 1), (0x10900, 1), (0x10A00, 0xFF00), (0x10A04, 0x3F3),
      (0x10A08, 0x1F4), (0x10A0C, 0x3E8), (0x10A10, 0x186A0), (0x10B00, 0x10014), (0x10B04, 0x37028F), (0x10B08, 1),
      (0x10B14, 5), (0x10B20, 0x10000), (0x10B28, 0x10000), (0x10B34, 0xFF), (0x10B38, 0x3E8), (0x10B3C, 0x3FC00),
      (0x10C00, 4), (0x10C04, 0x1388), (0x10C08, 0x3E8), (0x10C0C, 0x6964), (0x4810, 0x700), (0x4A10, 0x700),
      (0x38000, 3), (0x38004, 1)],
      (windowRead .harbourmaster p.1 State.reset).1 = (p.2 : Word)

/-- R327 to R338, R379, R418, R50, R57: each of these commands changes the state it names and nothing else of the
block; beside it only event bits and messages. -/
def Obligations.RegisterSideFrame : Prop :=
  (∀ (s t : State) (readers : List Owner) (m : MbxId), exec (.mbxLockRead readers m) s = .next t → t = { s with host := t.host, out := t.out }) ∧
  (∀ (s t : State) (writer : Owner) (m : MbxId) (value : Word), exec (.mbxLockRelease writer m value) s = .next t → t = { s with host := t.host, out := t.out }) ∧
  (∀ (s t : State) (writer : Owner) (m : MbxId) (word : Fin 16) (value : Word), exec (.mbxBufWrite writer m word value) s = .next t → t = { s with host := t.host, out := t.out }) ∧
  (∀ (s t : State) (writer : Owner) (m : MbxId), exec (.mbxAck writer m) s = .next t → t = { s with host := t.host, out := t.out }) ∧
  (∀ (s t : State) (readers : List Owner) (k : Fin 64), exec (.semRead readers k) s = .next t → t = { s with host := t.host, out := t.out }) ∧
  (∀ (s t : State) (writer : Owner) (k : Fin 64) (value : Word), exec (.semRelease writer k value) s = .next t → t = { s with host := t.host }) ∧
  (∀ (s t : State) (unit : Fin 8), exec (.cvuStart unit) s = .next t → t = { s with cvu := t.cvu }) ∧
  (∀ (s t : State) (unit : Fin 8) (tail : Fin 4), exec (.cvuTail unit tail) s = .next t → t = { s with cvu := t.cvu }) ∧
  (∀ (s t : State) (unit : Fin 8) (value : Word), exec (.cvuDataWrite unit value) s = .next t → t = { s with cvu := t.cvu }) ∧
  (∀ (s t : State) (unit : Fin 8), exec (.cvuFinish unit) s = .next t → t = { s with cvu := t.cvu, host := t.host, out := t.out }) ∧
  (∀ (s t : State) (o : Owner), exec (.tideSnap o) s = .next t → t = { s with tide := t.tide }) ∧
  (∀ (s t : State) (o : Owner), exec (.tideArm o) s = .next t → t = { s with tide := t.tide }) ∧
  (∀ (s t : State) (o : Owner), exec (.tideCancel o) s = .next t → t = { s with tide := t.tide }) ∧
  (∀ (s t : State) (o : Owner), exec (.tideRestartEst o) s = .next t → t = { s with tide := t.tide }) ∧
  (∀ (s t : State), exec .barrierReady s = .next t → t = { s with tide := t.tide }) ∧
  (∀ (s t : State), exec .stepLost s = .next t → t = { s with tide := t.tide, ev := t.ev, host := t.host, out := t.out }) ∧
  (∀ (s t : State) (o : Owner) (g : BitVec 11), exec (.cfgArm o g) s = .next t → t = { s with arms := t.arms, ev := t.ev, host := t.host, out := t.out }) ∧
  (∀ (s t : State) (o : Owner) (g : BitVec 11), exec (.cfgCancel o g) s = .next t → t = { s with arms := t.arms, ev := t.ev, host := t.host, out := t.out }) ∧
  (∀ (s t : State), exec .guardComputeStart s = .next t → t = { s with guard := t.guard }) ∧
  (∀ (s t : State), exec .guardComputeDone s = .next t → t = { s with guard := t.guard, ev := t.ev, host := t.host, out := t.out }) ∧
  (∀ (s t : State) (o : Owner), exec (.guardCommit o) s = .next t → t = { s with guard := t.guard, ev := t.ev, host := t.host, out := t.out })

/-- R34 to R39, R49: a mark, a SYNC_IN edge or an expired pairing window may accept a step start, which sets the Tide,
applies staged groups whose STEP boundary has come and starts Sluice cycles; it touches no shadow, no medium but the
mapping of spilled samples that a lower limit drops, no job but that it has accepted a start, no check-value unit, no
event counter but that of packets sent again, no security or health state. -/
def Obligations.StepStartFrame : Prop :=
  (∀ (s t : State) (d : MarkDatagram), exec (.stepMarkDatagram d) s = .next t → t = { s with tide := t.tide, ev := t.ev, host := t.host, out := t.out, applied := t.applied, arms := t.arms, guard := t.guard, fab := t.fab, egr := t.egr, bw := t.bw, pwr := t.pwr, aon := t.aon, pmc := t.pmc, run := { s.run with accepted := t.run.accepted }, media := { s.media with map := t.media.map }, cnt := { s.cnt with egrRetxCnt := t.cnt.egrRetxCnt } }) ∧
  (∀ (s t : State) (x : Dword) (b : Bool), exec (.syncInEdge x b) s = .next t → t = { s with tide := t.tide, ev := t.ev, host := t.host, out := t.out, applied := t.applied, arms := t.arms, guard := t.guard, fab := t.fab, egr := t.egr, bw := t.bw, pwr := t.pwr, aon := t.aon, pmc := t.pmc, run := { s.run with accepted := t.run.accepted }, media := { s.media with map := t.media.map }, cnt := { s.cnt with egrRetxCnt := t.cnt.egrRetxCnt } }) ∧
  (∀ (s t : State), exec .markPairWindowExpiry s = .next t → t = { s with tide := t.tide, ev := t.ev, host := t.host, out := t.out, applied := t.applied, arms := t.arms, guard := t.guard, fab := t.fab, egr := t.egr, bw := t.bw, pwr := t.pwr, aon := t.aon, pmc := t.pmc, run := { s.run with accepted := t.run.accepted }, media := { s.media with map := t.media.map }, cnt := { s.cnt with egrRetxCnt := t.cnt.egrRetxCnt } })
end

