-- ==== Sys2Proof/Laws/Cells.lean ====
section
/-! SUPPORT. The laws of a byte memory: a read after a write, and the canonical form that every write keeps. -/

namespace Sys2Proof.Machine

theorem wfCells_iff (base : Nat → Byte) (m : List Host.Cell) :
    wfCells base m = true ↔ m.Pairwise (fun x y => x.1 < y.1) ∧ ∀ x ∈ m, x.2 ≠ base x.1 := by
  simp [wfCells]

theorem wfCells_nil (base : Nat → Byte) : wfCells base [] = true := rfl

/-- Every entry after a write is the one written or stood before. -/
theorem writeCell_mem (base : Nat → Byte) (a : Nat) (v : Byte) (m : List Host.Cell) (x : Host.Cell)
    (h : x ∈ writeCell base a v m) : x = (a, v) ∧ v ≠ base a ∨ x ∈ m := by
  induction m with
  | nil => unfold writeCell at h; split at h <;> simp_all
  | cons c m ih =>
    unfold writeCell at h
    dsimp only at h
    repeat' split at h
    all_goals simp only [List.mem_cons] at h ⊢
    all_goals grind

theorem writeCell_wf (base : Nat → Byte) (a : Nat) (v : Byte) (m : List Host.Cell) (h : wfCells base m = true) :
    wfCells base (writeCell base a v m) = true := by
  rw [wfCells_iff] at h ⊢
  refine ⟨?_, fun x hx => ?_⟩
  · obtain ⟨hp, -⟩ := h
    induction m with
    | nil => unfold writeCell; split <;> simp
    | cons c m ih =>
      unfold writeCell
      rw [List.pairwise_cons] at hp
      dsimp only
      split
      · refine List.pairwise_cons.2 ⟨fun x hx => ?_, ih hp.2⟩
        rcases writeCell_mem _ _ _ _ _ hx with ⟨rfl, -⟩ | hx
        · assumption
        · exact hp.1 x hx
      · repeat' split
        · exact hp.2
        · exact List.pairwise_cons.2 hp
        · subst_vars; exact List.pairwise_cons.2 ⟨hp.1, hp.2⟩
        · refine List.pairwise_cons.2 ⟨fun x hx => ?_, List.pairwise_cons.2 hp⟩
          rcases List.mem_cons.1 hx with rfl | hx
          · show a < _; omega
          · exact Nat.lt_trans (by omega) (hp.1 x hx)
  · rcases writeCell_mem _ _ _ _ _ hx with ⟨rfl, k⟩ | k
    · exact k
    · exact h.2 x k

theorem writeCells_wf (base : Nat → Byte) (a : Nat) (bs : List Byte) (m : List Host.Cell) (h : wfCells base m = true) :
    wfCells base (writeCells base a bs m) = true := by
  induction bs generalizing a m with
  | nil => exact h
  | cons v bs ih => exact ih _ _ (writeCell_wf base a v m h)

end Sys2Proof.Machine
end

