-- ==== Sys2Proof/Laws/State.lean ====
section
/-! SUPPORT. One lemma per field per update of the state, each true by rfl. -/

namespace Sys2Proof.Machine

section
variable (f : Events → Events) (s : State)
@[simp] theorem State.modEv_pending : (s.modEv f).pending = s.pending := rfl
@[simp] theorem State.modEv_free : (s.modEv f).free = s.free := rfl
@[simp] theorem State.modEv_out : (s.modEv f).out = s.out := rfl
@[simp] theorem State.modEv_shadow : (s.modEv f).shadow = s.shadow := rfl
@[simp] theorem State.modEv_applied : (s.modEv f).applied = s.applied := rfl
@[simp] theorem State.modEv_rw : (s.modEv f).rw = s.rw := rfl
@[simp] theorem State.modEv_ev : (s.modEv f).ev = f s.ev := rfl
@[simp] theorem State.modEv_cnt : (s.modEv f).cnt = s.cnt := rfl
@[simp] theorem State.modEv_arms : (s.modEv f).arms = s.arms := rfl
@[simp] theorem State.modEv_guard : (s.modEv f).guard = s.guard := rfl
@[simp] theorem State.modEv_tide : (s.modEv f).tide = s.tide := rfl
@[simp] theorem State.modEv_fab : (s.modEv f).fab = s.fab := rfl
@[simp] theorem State.modEv_media : (s.modEv f).media = s.media := rfl
@[simp] theorem State.modEv_run : (s.modEv f).run = s.run := rfl
@[simp] theorem State.modEv_egr : (s.modEv f).egr = s.egr := rfl
@[simp] theorem State.modEv_bw : (s.modEv f).bw = s.bw := rfl
@[simp] theorem State.modEv_host : (s.modEv f).host = s.host := rfl
@[simp] theorem State.modEv_cvu : (s.modEv f).cvu = s.cvu := rfl
@[simp] theorem State.modEv_pwr : (s.modEv f).pwr = s.pwr := rfl
@[simp] theorem State.modEv_aon : (s.modEv f).aon = s.aon := rfl
@[simp] theorem State.modEv_sec : (s.modEv f).sec = s.sec := rfl
@[simp] theorem State.modEv_hlth : (s.modEv f).hlth = s.hlth := rfl
@[simp] theorem State.modEv_pmc : (s.modEv f).pmc = s.pmc := rfl
@[simp] theorem State.modEv_lt : (s.modEv f).lt = s.lt := rfl
end

section
variable (f : Counts → Counts) (s : State)
@[simp] theorem State.modCnt_pending : (s.modCnt f).pending = s.pending := rfl
@[simp] theorem State.modCnt_free : (s.modCnt f).free = s.free := rfl
@[simp] theorem State.modCnt_out : (s.modCnt f).out = s.out := rfl
@[simp] theorem State.modCnt_shadow : (s.modCnt f).shadow = s.shadow := rfl
@[simp] theorem State.modCnt_applied : (s.modCnt f).applied = s.applied := rfl
@[simp] theorem State.modCnt_rw : (s.modCnt f).rw = s.rw := rfl
@[simp] theorem State.modCnt_ev : (s.modCnt f).ev = s.ev := rfl
@[simp] theorem State.modCnt_cnt : (s.modCnt f).cnt = f s.cnt := rfl
@[simp] theorem State.modCnt_arms : (s.modCnt f).arms = s.arms := rfl
@[simp] theorem State.modCnt_guard : (s.modCnt f).guard = s.guard := rfl
@[simp] theorem State.modCnt_tide : (s.modCnt f).tide = s.tide := rfl
@[simp] theorem State.modCnt_fab : (s.modCnt f).fab = s.fab := rfl
@[simp] theorem State.modCnt_media : (s.modCnt f).media = s.media := rfl
@[simp] theorem State.modCnt_run : (s.modCnt f).run = s.run := rfl
@[simp] theorem State.modCnt_egr : (s.modCnt f).egr = s.egr := rfl
@[simp] theorem State.modCnt_bw : (s.modCnt f).bw = s.bw := rfl
@[simp] theorem State.modCnt_host : (s.modCnt f).host = s.host := rfl
@[simp] theorem State.modCnt_cvu : (s.modCnt f).cvu = s.cvu := rfl
@[simp] theorem State.modCnt_pwr : (s.modCnt f).pwr = s.pwr := rfl
@[simp] theorem State.modCnt_aon : (s.modCnt f).aon = s.aon := rfl
@[simp] theorem State.modCnt_sec : (s.modCnt f).sec = s.sec := rfl
@[simp] theorem State.modCnt_hlth : (s.modCnt f).hlth = s.hlth := rfl
@[simp] theorem State.modCnt_pmc : (s.modCnt f).pmc = s.pmc := rfl
@[simp] theorem State.modCnt_lt : (s.modCnt f).lt = s.lt := rfl
end

section
variable (f : RwRegs → RwRegs) (s : State)
@[simp] theorem State.modRw_pending : (s.modRw f).pending = s.pending := rfl
@[simp] theorem State.modRw_free : (s.modRw f).free = s.free := rfl
@[simp] theorem State.modRw_out : (s.modRw f).out = s.out := rfl
@[simp] theorem State.modRw_shadow : (s.modRw f).shadow = s.shadow := rfl
@[simp] theorem State.modRw_applied : (s.modRw f).applied = s.applied := rfl
@[simp] theorem State.modRw_rw : (s.modRw f).rw = f s.rw := rfl
@[simp] theorem State.modRw_ev : (s.modRw f).ev = s.ev := rfl
@[simp] theorem State.modRw_cnt : (s.modRw f).cnt = s.cnt := rfl
@[simp] theorem State.modRw_arms : (s.modRw f).arms = s.arms := rfl
@[simp] theorem State.modRw_guard : (s.modRw f).guard = s.guard := rfl
@[simp] theorem State.modRw_tide : (s.modRw f).tide = s.tide := rfl
@[simp] theorem State.modRw_fab : (s.modRw f).fab = s.fab := rfl
@[simp] theorem State.modRw_media : (s.modRw f).media = s.media := rfl
@[simp] theorem State.modRw_run : (s.modRw f).run = s.run := rfl
@[simp] theorem State.modRw_egr : (s.modRw f).egr = s.egr := rfl
@[simp] theorem State.modRw_bw : (s.modRw f).bw = s.bw := rfl
@[simp] theorem State.modRw_host : (s.modRw f).host = s.host := rfl
@[simp] theorem State.modRw_cvu : (s.modRw f).cvu = s.cvu := rfl
@[simp] theorem State.modRw_pwr : (s.modRw f).pwr = s.pwr := rfl
@[simp] theorem State.modRw_aon : (s.modRw f).aon = s.aon := rfl
@[simp] theorem State.modRw_sec : (s.modRw f).sec = s.sec := rfl
@[simp] theorem State.modRw_hlth : (s.modRw f).hlth = s.hlth := rfl
@[simp] theorem State.modRw_pmc : (s.modRw f).pmc = s.pmc := rfl
@[simp] theorem State.modRw_lt : (s.modRw f).lt = s.lt := rfl
end

section
variable (f : Guard → Guard) (s : State)
@[simp] theorem State.modGuard_pending : (s.modGuard f).pending = s.pending := rfl
@[simp] theorem State.modGuard_free : (s.modGuard f).free = s.free := rfl
@[simp] theorem State.modGuard_out : (s.modGuard f).out = s.out := rfl
@[simp] theorem State.modGuard_shadow : (s.modGuard f).shadow = s.shadow := rfl
@[simp] theorem State.modGuard_applied : (s.modGuard f).applied = s.applied := rfl
@[simp] theorem State.modGuard_rw : (s.modGuard f).rw = s.rw := rfl
@[simp] theorem State.modGuard_ev : (s.modGuard f).ev = s.ev := rfl
@[simp] theorem State.modGuard_cnt : (s.modGuard f).cnt = s.cnt := rfl
@[simp] theorem State.modGuard_arms : (s.modGuard f).arms = s.arms := rfl
@[simp] theorem State.modGuard_guard : (s.modGuard f).guard = f s.guard := rfl
@[simp] theorem State.modGuard_tide : (s.modGuard f).tide = s.tide := rfl
@[simp] theorem State.modGuard_fab : (s.modGuard f).fab = s.fab := rfl
@[simp] theorem State.modGuard_media : (s.modGuard f).media = s.media := rfl
@[simp] theorem State.modGuard_run : (s.modGuard f).run = s.run := rfl
@[simp] theorem State.modGuard_egr : (s.modGuard f).egr = s.egr := rfl
@[simp] theorem State.modGuard_bw : (s.modGuard f).bw = s.bw := rfl
@[simp] theorem State.modGuard_host : (s.modGuard f).host = s.host := rfl
@[simp] theorem State.modGuard_cvu : (s.modGuard f).cvu = s.cvu := rfl
@[simp] theorem State.modGuard_pwr : (s.modGuard f).pwr = s.pwr := rfl
@[simp] theorem State.modGuard_aon : (s.modGuard f).aon = s.aon := rfl
@[simp] theorem State.modGuard_sec : (s.modGuard f).sec = s.sec := rfl
@[simp] theorem State.modGuard_hlth : (s.modGuard f).hlth = s.hlth := rfl
@[simp] theorem State.modGuard_pmc : (s.modGuard f).pmc = s.pmc := rfl
@[simp] theorem State.modGuard_lt : (s.modGuard f).lt = s.lt := rfl
end

section
variable (f : Tide → Tide) (s : State)
@[simp] theorem State.modTide_pending : (s.modTide f).pending = s.pending := rfl
@[simp] theorem State.modTide_free : (s.modTide f).free = s.free := rfl
@[simp] theorem State.modTide_out : (s.modTide f).out = s.out := rfl
@[simp] theorem State.modTide_shadow : (s.modTide f).shadow = s.shadow := rfl
@[simp] theorem State.modTide_applied : (s.modTide f).applied = s.applied := rfl
@[simp] theorem State.modTide_rw : (s.modTide f).rw = s.rw := rfl
@[simp] theorem State.modTide_ev : (s.modTide f).ev = s.ev := rfl
@[simp] theorem State.modTide_cnt : (s.modTide f).cnt = s.cnt := rfl
@[simp] theorem State.modTide_arms : (s.modTide f).arms = s.arms := rfl
@[simp] theorem State.modTide_guard : (s.modTide f).guard = s.guard := rfl
@[simp] theorem State.modTide_tide : (s.modTide f).tide = f s.tide := rfl
@[simp] theorem State.modTide_fab : (s.modTide f).fab = s.fab := rfl
@[simp] theorem State.modTide_media : (s.modTide f).media = s.media := rfl
@[simp] theorem State.modTide_run : (s.modTide f).run = s.run := rfl
@[simp] theorem State.modTide_egr : (s.modTide f).egr = s.egr := rfl
@[simp] theorem State.modTide_bw : (s.modTide f).bw = s.bw := rfl
@[simp] theorem State.modTide_host : (s.modTide f).host = s.host := rfl
@[simp] theorem State.modTide_cvu : (s.modTide f).cvu = s.cvu := rfl
@[simp] theorem State.modTide_pwr : (s.modTide f).pwr = s.pwr := rfl
@[simp] theorem State.modTide_aon : (s.modTide f).aon = s.aon := rfl
@[simp] theorem State.modTide_sec : (s.modTide f).sec = s.sec := rfl
@[simp] theorem State.modTide_hlth : (s.modTide f).hlth = s.hlth := rfl
@[simp] theorem State.modTide_pmc : (s.modTide f).pmc = s.pmc := rfl
@[simp] theorem State.modTide_lt : (s.modTide f).lt = s.lt := rfl
end

section
variable (f : Fabric → Fabric) (s : State)
@[simp] theorem State.modFab_pending : (s.modFab f).pending = s.pending := rfl
@[simp] theorem State.modFab_free : (s.modFab f).free = s.free := rfl
@[simp] theorem State.modFab_out : (s.modFab f).out = s.out := rfl
@[simp] theorem State.modFab_shadow : (s.modFab f).shadow = s.shadow := rfl
@[simp] theorem State.modFab_applied : (s.modFab f).applied = s.applied := rfl
@[simp] theorem State.modFab_rw : (s.modFab f).rw = s.rw := rfl
@[simp] theorem State.modFab_ev : (s.modFab f).ev = s.ev := rfl
@[simp] theorem State.modFab_cnt : (s.modFab f).cnt = s.cnt := rfl
@[simp] theorem State.modFab_arms : (s.modFab f).arms = s.arms := rfl
@[simp] theorem State.modFab_guard : (s.modFab f).guard = s.guard := rfl
@[simp] theorem State.modFab_tide : (s.modFab f).tide = s.tide := rfl
@[simp] theorem State.modFab_fab : (s.modFab f).fab = f s.fab := rfl
@[simp] theorem State.modFab_media : (s.modFab f).media = s.media := rfl
@[simp] theorem State.modFab_run : (s.modFab f).run = s.run := rfl
@[simp] theorem State.modFab_egr : (s.modFab f).egr = s.egr := rfl
@[simp] theorem State.modFab_bw : (s.modFab f).bw = s.bw := rfl
@[simp] theorem State.modFab_host : (s.modFab f).host = s.host := rfl
@[simp] theorem State.modFab_cvu : (s.modFab f).cvu = s.cvu := rfl
@[simp] theorem State.modFab_pwr : (s.modFab f).pwr = s.pwr := rfl
@[simp] theorem State.modFab_aon : (s.modFab f).aon = s.aon := rfl
@[simp] theorem State.modFab_sec : (s.modFab f).sec = s.sec := rfl
@[simp] theorem State.modFab_hlth : (s.modFab f).hlth = s.hlth := rfl
@[simp] theorem State.modFab_pmc : (s.modFab f).pmc = s.pmc := rfl
@[simp] theorem State.modFab_lt : (s.modFab f).lt = s.lt := rfl
end

section
variable (f : Media → Media) (s : State)
@[simp] theorem State.modMedia_pending : (s.modMedia f).pending = s.pending := rfl
@[simp] theorem State.modMedia_free : (s.modMedia f).free = s.free := rfl
@[simp] theorem State.modMedia_out : (s.modMedia f).out = s.out := rfl
@[simp] theorem State.modMedia_shadow : (s.modMedia f).shadow = s.shadow := rfl
@[simp] theorem State.modMedia_applied : (s.modMedia f).applied = s.applied := rfl
@[simp] theorem State.modMedia_rw : (s.modMedia f).rw = s.rw := rfl
@[simp] theorem State.modMedia_ev : (s.modMedia f).ev = s.ev := rfl
@[simp] theorem State.modMedia_cnt : (s.modMedia f).cnt = s.cnt := rfl
@[simp] theorem State.modMedia_arms : (s.modMedia f).arms = s.arms := rfl
@[simp] theorem State.modMedia_guard : (s.modMedia f).guard = s.guard := rfl
@[simp] theorem State.modMedia_tide : (s.modMedia f).tide = s.tide := rfl
@[simp] theorem State.modMedia_fab : (s.modMedia f).fab = s.fab := rfl
@[simp] theorem State.modMedia_media : (s.modMedia f).media = f s.media := rfl
@[simp] theorem State.modMedia_run : (s.modMedia f).run = s.run := rfl
@[simp] theorem State.modMedia_egr : (s.modMedia f).egr = s.egr := rfl
@[simp] theorem State.modMedia_bw : (s.modMedia f).bw = s.bw := rfl
@[simp] theorem State.modMedia_host : (s.modMedia f).host = s.host := rfl
@[simp] theorem State.modMedia_cvu : (s.modMedia f).cvu = s.cvu := rfl
@[simp] theorem State.modMedia_pwr : (s.modMedia f).pwr = s.pwr := rfl
@[simp] theorem State.modMedia_aon : (s.modMedia f).aon = s.aon := rfl
@[simp] theorem State.modMedia_sec : (s.modMedia f).sec = s.sec := rfl
@[simp] theorem State.modMedia_hlth : (s.modMedia f).hlth = s.hlth := rfl
@[simp] theorem State.modMedia_pmc : (s.modMedia f).pmc = s.pmc := rfl
@[simp] theorem State.modMedia_lt : (s.modMedia f).lt = s.lt := rfl
end

section
variable (f : JobRun → JobRun) (s : State)
@[simp] theorem State.modRun_pending : (s.modRun f).pending = s.pending := rfl
@[simp] theorem State.modRun_free : (s.modRun f).free = s.free := rfl
@[simp] theorem State.modRun_out : (s.modRun f).out = s.out := rfl
@[simp] theorem State.modRun_shadow : (s.modRun f).shadow = s.shadow := rfl
@[simp] theorem State.modRun_applied : (s.modRun f).applied = s.applied := rfl
@[simp] theorem State.modRun_rw : (s.modRun f).rw = s.rw := rfl
@[simp] theorem State.modRun_ev : (s.modRun f).ev = s.ev := rfl
@[simp] theorem State.modRun_cnt : (s.modRun f).cnt = s.cnt := rfl
@[simp] theorem State.modRun_arms : (s.modRun f).arms = s.arms := rfl
@[simp] theorem State.modRun_guard : (s.modRun f).guard = s.guard := rfl
@[simp] theorem State.modRun_tide : (s.modRun f).tide = s.tide := rfl
@[simp] theorem State.modRun_fab : (s.modRun f).fab = s.fab := rfl
@[simp] theorem State.modRun_media : (s.modRun f).media = s.media := rfl
@[simp] theorem State.modRun_run : (s.modRun f).run = f s.run := rfl
@[simp] theorem State.modRun_egr : (s.modRun f).egr = s.egr := rfl
@[simp] theorem State.modRun_bw : (s.modRun f).bw = s.bw := rfl
@[simp] theorem State.modRun_host : (s.modRun f).host = s.host := rfl
@[simp] theorem State.modRun_cvu : (s.modRun f).cvu = s.cvu := rfl
@[simp] theorem State.modRun_pwr : (s.modRun f).pwr = s.pwr := rfl
@[simp] theorem State.modRun_aon : (s.modRun f).aon = s.aon := rfl
@[simp] theorem State.modRun_sec : (s.modRun f).sec = s.sec := rfl
@[simp] theorem State.modRun_hlth : (s.modRun f).hlth = s.hlth := rfl
@[simp] theorem State.modRun_pmc : (s.modRun f).pmc = s.pmc := rfl
@[simp] theorem State.modRun_lt : (s.modRun f).lt = s.lt := rfl
end

section
variable (f : Egress → Egress) (s : State)
@[simp] theorem State.modEgr_pending : (s.modEgr f).pending = s.pending := rfl
@[simp] theorem State.modEgr_free : (s.modEgr f).free = s.free := rfl
@[simp] theorem State.modEgr_out : (s.modEgr f).out = s.out := rfl
@[simp] theorem State.modEgr_shadow : (s.modEgr f).shadow = s.shadow := rfl
@[simp] theorem State.modEgr_applied : (s.modEgr f).applied = s.applied := rfl
@[simp] theorem State.modEgr_rw : (s.modEgr f).rw = s.rw := rfl
@[simp] theorem State.modEgr_ev : (s.modEgr f).ev = s.ev := rfl
@[simp] theorem State.modEgr_cnt : (s.modEgr f).cnt = s.cnt := rfl
@[simp] theorem State.modEgr_arms : (s.modEgr f).arms = s.arms := rfl
@[simp] theorem State.modEgr_guard : (s.modEgr f).guard = s.guard := rfl
@[simp] theorem State.modEgr_tide : (s.modEgr f).tide = s.tide := rfl
@[simp] theorem State.modEgr_fab : (s.modEgr f).fab = s.fab := rfl
@[simp] theorem State.modEgr_media : (s.modEgr f).media = s.media := rfl
@[simp] theorem State.modEgr_run : (s.modEgr f).run = s.run := rfl
@[simp] theorem State.modEgr_egr : (s.modEgr f).egr = f s.egr := rfl
@[simp] theorem State.modEgr_bw : (s.modEgr f).bw = s.bw := rfl
@[simp] theorem State.modEgr_host : (s.modEgr f).host = s.host := rfl
@[simp] theorem State.modEgr_cvu : (s.modEgr f).cvu = s.cvu := rfl
@[simp] theorem State.modEgr_pwr : (s.modEgr f).pwr = s.pwr := rfl
@[simp] theorem State.modEgr_aon : (s.modEgr f).aon = s.aon := rfl
@[simp] theorem State.modEgr_sec : (s.modEgr f).sec = s.sec := rfl
@[simp] theorem State.modEgr_hlth : (s.modEgr f).hlth = s.hlth := rfl
@[simp] theorem State.modEgr_pmc : (s.modEgr f).pmc = s.pmc := rfl
@[simp] theorem State.modEgr_lt : (s.modEgr f).lt = s.lt := rfl
end

section
variable (f : Breakwater → Breakwater) (s : State)
@[simp] theorem State.modBw_pending : (s.modBw f).pending = s.pending := rfl
@[simp] theorem State.modBw_free : (s.modBw f).free = s.free := rfl
@[simp] theorem State.modBw_out : (s.modBw f).out = s.out := rfl
@[simp] theorem State.modBw_shadow : (s.modBw f).shadow = s.shadow := rfl
@[simp] theorem State.modBw_applied : (s.modBw f).applied = s.applied := rfl
@[simp] theorem State.modBw_rw : (s.modBw f).rw = s.rw := rfl
@[simp] theorem State.modBw_ev : (s.modBw f).ev = s.ev := rfl
@[simp] theorem State.modBw_cnt : (s.modBw f).cnt = s.cnt := rfl
@[simp] theorem State.modBw_arms : (s.modBw f).arms = s.arms := rfl
@[simp] theorem State.modBw_guard : (s.modBw f).guard = s.guard := rfl
@[simp] theorem State.modBw_tide : (s.modBw f).tide = s.tide := rfl
@[simp] theorem State.modBw_fab : (s.modBw f).fab = s.fab := rfl
@[simp] theorem State.modBw_media : (s.modBw f).media = s.media := rfl
@[simp] theorem State.modBw_run : (s.modBw f).run = s.run := rfl
@[simp] theorem State.modBw_egr : (s.modBw f).egr = s.egr := rfl
@[simp] theorem State.modBw_bw : (s.modBw f).bw = f s.bw := rfl
@[simp] theorem State.modBw_host : (s.modBw f).host = s.host := rfl
@[simp] theorem State.modBw_cvu : (s.modBw f).cvu = s.cvu := rfl
@[simp] theorem State.modBw_pwr : (s.modBw f).pwr = s.pwr := rfl
@[simp] theorem State.modBw_aon : (s.modBw f).aon = s.aon := rfl
@[simp] theorem State.modBw_sec : (s.modBw f).sec = s.sec := rfl
@[simp] theorem State.modBw_hlth : (s.modBw f).hlth = s.hlth := rfl
@[simp] theorem State.modBw_pmc : (s.modBw f).pmc = s.pmc := rfl
@[simp] theorem State.modBw_lt : (s.modBw f).lt = s.lt := rfl
end

section
variable (f : Hosts → Hosts) (s : State)
@[simp] theorem State.modHost_pending : (s.modHost f).pending = s.pending := rfl
@[simp] theorem State.modHost_free : (s.modHost f).free = s.free := rfl
@[simp] theorem State.modHost_out : (s.modHost f).out = s.out := rfl
@[simp] theorem State.modHost_shadow : (s.modHost f).shadow = s.shadow := rfl
@[simp] theorem State.modHost_applied : (s.modHost f).applied = s.applied := rfl
@[simp] theorem State.modHost_rw : (s.modHost f).rw = s.rw := rfl
@[simp] theorem State.modHost_ev : (s.modHost f).ev = s.ev := rfl
@[simp] theorem State.modHost_cnt : (s.modHost f).cnt = s.cnt := rfl
@[simp] theorem State.modHost_arms : (s.modHost f).arms = s.arms := rfl
@[simp] theorem State.modHost_guard : (s.modHost f).guard = s.guard := rfl
@[simp] theorem State.modHost_tide : (s.modHost f).tide = s.tide := rfl
@[simp] theorem State.modHost_fab : (s.modHost f).fab = s.fab := rfl
@[simp] theorem State.modHost_media : (s.modHost f).media = s.media := rfl
@[simp] theorem State.modHost_run : (s.modHost f).run = s.run := rfl
@[simp] theorem State.modHost_egr : (s.modHost f).egr = s.egr := rfl
@[simp] theorem State.modHost_bw : (s.modHost f).bw = s.bw := rfl
@[simp] theorem State.modHost_host : (s.modHost f).host = f s.host := rfl
@[simp] theorem State.modHost_cvu : (s.modHost f).cvu = s.cvu := rfl
@[simp] theorem State.modHost_pwr : (s.modHost f).pwr = s.pwr := rfl
@[simp] theorem State.modHost_aon : (s.modHost f).aon = s.aon := rfl
@[simp] theorem State.modHost_sec : (s.modHost f).sec = s.sec := rfl
@[simp] theorem State.modHost_hlth : (s.modHost f).hlth = s.hlth := rfl
@[simp] theorem State.modHost_pmc : (s.modHost f).pmc = s.pmc := rfl
@[simp] theorem State.modHost_lt : (s.modHost f).lt = s.lt := rfl
end

section
variable (f : Power → Power) (s : State)
@[simp] theorem State.modPwr_pending : (s.modPwr f).pending = s.pending := rfl
@[simp] theorem State.modPwr_free : (s.modPwr f).free = s.free := rfl
@[simp] theorem State.modPwr_out : (s.modPwr f).out = s.out := rfl
@[simp] theorem State.modPwr_shadow : (s.modPwr f).shadow = s.shadow := rfl
@[simp] theorem State.modPwr_applied : (s.modPwr f).applied = s.applied := rfl
@[simp] theorem State.modPwr_rw : (s.modPwr f).rw = s.rw := rfl
@[simp] theorem State.modPwr_ev : (s.modPwr f).ev = s.ev := rfl
@[simp] theorem State.modPwr_cnt : (s.modPwr f).cnt = s.cnt := rfl
@[simp] theorem State.modPwr_arms : (s.modPwr f).arms = s.arms := rfl
@[simp] theorem State.modPwr_guard : (s.modPwr f).guard = s.guard := rfl
@[simp] theorem State.modPwr_tide : (s.modPwr f).tide = s.tide := rfl
@[simp] theorem State.modPwr_fab : (s.modPwr f).fab = s.fab := rfl
@[simp] theorem State.modPwr_media : (s.modPwr f).media = s.media := rfl
@[simp] theorem State.modPwr_run : (s.modPwr f).run = s.run := rfl
@[simp] theorem State.modPwr_egr : (s.modPwr f).egr = s.egr := rfl
@[simp] theorem State.modPwr_bw : (s.modPwr f).bw = s.bw := rfl
@[simp] theorem State.modPwr_host : (s.modPwr f).host = s.host := rfl
@[simp] theorem State.modPwr_cvu : (s.modPwr f).cvu = s.cvu := rfl
@[simp] theorem State.modPwr_pwr : (s.modPwr f).pwr = f s.pwr := rfl
@[simp] theorem State.modPwr_aon : (s.modPwr f).aon = s.aon := rfl
@[simp] theorem State.modPwr_sec : (s.modPwr f).sec = s.sec := rfl
@[simp] theorem State.modPwr_hlth : (s.modPwr f).hlth = s.hlth := rfl
@[simp] theorem State.modPwr_pmc : (s.modPwr f).pmc = s.pmc := rfl
@[simp] theorem State.modPwr_lt : (s.modPwr f).lt = s.lt := rfl
end

section
variable (f : Aon → Aon) (s : State)
@[simp] theorem State.modAon_pending : (s.modAon f).pending = s.pending := rfl
@[simp] theorem State.modAon_free : (s.modAon f).free = s.free := rfl
@[simp] theorem State.modAon_out : (s.modAon f).out = s.out := rfl
@[simp] theorem State.modAon_shadow : (s.modAon f).shadow = s.shadow := rfl
@[simp] theorem State.modAon_applied : (s.modAon f).applied = s.applied := rfl
@[simp] theorem State.modAon_rw : (s.modAon f).rw = s.rw := rfl
@[simp] theorem State.modAon_ev : (s.modAon f).ev = s.ev := rfl
@[simp] theorem State.modAon_cnt : (s.modAon f).cnt = s.cnt := rfl
@[simp] theorem State.modAon_arms : (s.modAon f).arms = s.arms := rfl
@[simp] theorem State.modAon_guard : (s.modAon f).guard = s.guard := rfl
@[simp] theorem State.modAon_tide : (s.modAon f).tide = s.tide := rfl
@[simp] theorem State.modAon_fab : (s.modAon f).fab = s.fab := rfl
@[simp] theorem State.modAon_media : (s.modAon f).media = s.media := rfl
@[simp] theorem State.modAon_run : (s.modAon f).run = s.run := rfl
@[simp] theorem State.modAon_egr : (s.modAon f).egr = s.egr := rfl
@[simp] theorem State.modAon_bw : (s.modAon f).bw = s.bw := rfl
@[simp] theorem State.modAon_host : (s.modAon f).host = s.host := rfl
@[simp] theorem State.modAon_cvu : (s.modAon f).cvu = s.cvu := rfl
@[simp] theorem State.modAon_pwr : (s.modAon f).pwr = s.pwr := rfl
@[simp] theorem State.modAon_aon : (s.modAon f).aon = f s.aon := rfl
@[simp] theorem State.modAon_sec : (s.modAon f).sec = s.sec := rfl
@[simp] theorem State.modAon_hlth : (s.modAon f).hlth = s.hlth := rfl
@[simp] theorem State.modAon_pmc : (s.modAon f).pmc = s.pmc := rfl
@[simp] theorem State.modAon_lt : (s.modAon f).lt = s.lt := rfl
end

section
variable (f : Security → Security) (s : State)
@[simp] theorem State.modSec_pending : (s.modSec f).pending = s.pending := rfl
@[simp] theorem State.modSec_free : (s.modSec f).free = s.free := rfl
@[simp] theorem State.modSec_out : (s.modSec f).out = s.out := rfl
@[simp] theorem State.modSec_shadow : (s.modSec f).shadow = s.shadow := rfl
@[simp] theorem State.modSec_applied : (s.modSec f).applied = s.applied := rfl
@[simp] theorem State.modSec_rw : (s.modSec f).rw = s.rw := rfl
@[simp] theorem State.modSec_ev : (s.modSec f).ev = s.ev := rfl
@[simp] theorem State.modSec_cnt : (s.modSec f).cnt = s.cnt := rfl
@[simp] theorem State.modSec_arms : (s.modSec f).arms = s.arms := rfl
@[simp] theorem State.modSec_guard : (s.modSec f).guard = s.guard := rfl
@[simp] theorem State.modSec_tide : (s.modSec f).tide = s.tide := rfl
@[simp] theorem State.modSec_fab : (s.modSec f).fab = s.fab := rfl
@[simp] theorem State.modSec_media : (s.modSec f).media = s.media := rfl
@[simp] theorem State.modSec_run : (s.modSec f).run = s.run := rfl
@[simp] theorem State.modSec_egr : (s.modSec f).egr = s.egr := rfl
@[simp] theorem State.modSec_bw : (s.modSec f).bw = s.bw := rfl
@[simp] theorem State.modSec_host : (s.modSec f).host = s.host := rfl
@[simp] theorem State.modSec_cvu : (s.modSec f).cvu = s.cvu := rfl
@[simp] theorem State.modSec_pwr : (s.modSec f).pwr = s.pwr := rfl
@[simp] theorem State.modSec_aon : (s.modSec f).aon = s.aon := rfl
@[simp] theorem State.modSec_sec : (s.modSec f).sec = f s.sec := rfl
@[simp] theorem State.modSec_hlth : (s.modSec f).hlth = s.hlth := rfl
@[simp] theorem State.modSec_pmc : (s.modSec f).pmc = s.pmc := rfl
@[simp] theorem State.modSec_lt : (s.modSec f).lt = s.lt := rfl
end

section
variable (f : Health → Health) (s : State)
@[simp] theorem State.modHlth_pending : (s.modHlth f).pending = s.pending := rfl
@[simp] theorem State.modHlth_free : (s.modHlth f).free = s.free := rfl
@[simp] theorem State.modHlth_out : (s.modHlth f).out = s.out := rfl
@[simp] theorem State.modHlth_shadow : (s.modHlth f).shadow = s.shadow := rfl
@[simp] theorem State.modHlth_applied : (s.modHlth f).applied = s.applied := rfl
@[simp] theorem State.modHlth_rw : (s.modHlth f).rw = s.rw := rfl
@[simp] theorem State.modHlth_ev : (s.modHlth f).ev = s.ev := rfl
@[simp] theorem State.modHlth_cnt : (s.modHlth f).cnt = s.cnt := rfl
@[simp] theorem State.modHlth_arms : (s.modHlth f).arms = s.arms := rfl
@[simp] theorem State.modHlth_guard : (s.modHlth f).guard = s.guard := rfl
@[simp] theorem State.modHlth_tide : (s.modHlth f).tide = s.tide := rfl
@[simp] theorem State.modHlth_fab : (s.modHlth f).fab = s.fab := rfl
@[simp] theorem State.modHlth_media : (s.modHlth f).media = s.media := rfl
@[simp] theorem State.modHlth_run : (s.modHlth f).run = s.run := rfl
@[simp] theorem State.modHlth_egr : (s.modHlth f).egr = s.egr := rfl
@[simp] theorem State.modHlth_bw : (s.modHlth f).bw = s.bw := rfl
@[simp] theorem State.modHlth_host : (s.modHlth f).host = s.host := rfl
@[simp] theorem State.modHlth_cvu : (s.modHlth f).cvu = s.cvu := rfl
@[simp] theorem State.modHlth_pwr : (s.modHlth f).pwr = s.pwr := rfl
@[simp] theorem State.modHlth_aon : (s.modHlth f).aon = s.aon := rfl
@[simp] theorem State.modHlth_sec : (s.modHlth f).sec = s.sec := rfl
@[simp] theorem State.modHlth_hlth : (s.modHlth f).hlth = f s.hlth := rfl
@[simp] theorem State.modHlth_pmc : (s.modHlth f).pmc = s.pmc := rfl
@[simp] theorem State.modHlth_lt : (s.modHlth f).lt = s.lt := rfl
end

section
variable (f : Pmc → Pmc) (s : State)
@[simp] theorem State.modPmc_pending : (s.modPmc f).pending = s.pending := rfl
@[simp] theorem State.modPmc_free : (s.modPmc f).free = s.free := rfl
@[simp] theorem State.modPmc_out : (s.modPmc f).out = s.out := rfl
@[simp] theorem State.modPmc_shadow : (s.modPmc f).shadow = s.shadow := rfl
@[simp] theorem State.modPmc_applied : (s.modPmc f).applied = s.applied := rfl
@[simp] theorem State.modPmc_rw : (s.modPmc f).rw = s.rw := rfl
@[simp] theorem State.modPmc_ev : (s.modPmc f).ev = s.ev := rfl
@[simp] theorem State.modPmc_cnt : (s.modPmc f).cnt = s.cnt := rfl
@[simp] theorem State.modPmc_arms : (s.modPmc f).arms = s.arms := rfl
@[simp] theorem State.modPmc_guard : (s.modPmc f).guard = s.guard := rfl
@[simp] theorem State.modPmc_tide : (s.modPmc f).tide = s.tide := rfl
@[simp] theorem State.modPmc_fab : (s.modPmc f).fab = s.fab := rfl
@[simp] theorem State.modPmc_media : (s.modPmc f).media = s.media := rfl
@[simp] theorem State.modPmc_run : (s.modPmc f).run = s.run := rfl
@[simp] theorem State.modPmc_egr : (s.modPmc f).egr = s.egr := rfl
@[simp] theorem State.modPmc_bw : (s.modPmc f).bw = s.bw := rfl
@[simp] theorem State.modPmc_host : (s.modPmc f).host = s.host := rfl
@[simp] theorem State.modPmc_cvu : (s.modPmc f).cvu = s.cvu := rfl
@[simp] theorem State.modPmc_pwr : (s.modPmc f).pwr = s.pwr := rfl
@[simp] theorem State.modPmc_aon : (s.modPmc f).aon = s.aon := rfl
@[simp] theorem State.modPmc_sec : (s.modPmc f).sec = s.sec := rfl
@[simp] theorem State.modPmc_hlth : (s.modPmc f).hlth = s.hlth := rfl
@[simp] theorem State.modPmc_pmc : (s.modPmc f).pmc = f s.pmc := rfl
@[simp] theorem State.modPmc_lt : (s.modPmc f).lt = s.lt := rfl
end

section
variable (f : LinkTest → LinkTest) (s : State)
@[simp] theorem State.modLt_pending : (s.modLt f).pending = s.pending := rfl
@[simp] theorem State.modLt_free : (s.modLt f).free = s.free := rfl
@[simp] theorem State.modLt_out : (s.modLt f).out = s.out := rfl
@[simp] theorem State.modLt_shadow : (s.modLt f).shadow = s.shadow := rfl
@[simp] theorem State.modLt_applied : (s.modLt f).applied = s.applied := rfl
@[simp] theorem State.modLt_rw : (s.modLt f).rw = s.rw := rfl
@[simp] theorem State.modLt_ev : (s.modLt f).ev = s.ev := rfl
@[simp] theorem State.modLt_cnt : (s.modLt f).cnt = s.cnt := rfl
@[simp] theorem State.modLt_arms : (s.modLt f).arms = s.arms := rfl
@[simp] theorem State.modLt_guard : (s.modLt f).guard = s.guard := rfl
@[simp] theorem State.modLt_tide : (s.modLt f).tide = s.tide := rfl
@[simp] theorem State.modLt_fab : (s.modLt f).fab = s.fab := rfl
@[simp] theorem State.modLt_media : (s.modLt f).media = s.media := rfl
@[simp] theorem State.modLt_run : (s.modLt f).run = s.run := rfl
@[simp] theorem State.modLt_egr : (s.modLt f).egr = s.egr := rfl
@[simp] theorem State.modLt_bw : (s.modLt f).bw = s.bw := rfl
@[simp] theorem State.modLt_host : (s.modLt f).host = s.host := rfl
@[simp] theorem State.modLt_cvu : (s.modLt f).cvu = s.cvu := rfl
@[simp] theorem State.modLt_pwr : (s.modLt f).pwr = s.pwr := rfl
@[simp] theorem State.modLt_aon : (s.modLt f).aon = s.aon := rfl
@[simp] theorem State.modLt_sec : (s.modLt f).sec = s.sec := rfl
@[simp] theorem State.modLt_hlth : (s.modLt f).hlth = s.hlth := rfl
@[simp] theorem State.modLt_pmc : (s.modLt f).pmc = s.pmc := rfl
@[simp] theorem State.modLt_lt : (s.modLt f).lt = f s.lt := rfl
end

section
variable (o : Output) (s : State)
@[simp] theorem State.emit_pending : (s.emit o).pending = s.pending := rfl
@[simp] theorem State.emit_free : (s.emit o).free = s.free := rfl
@[simp] theorem State.emit_out : (s.emit o).out = o :: s.out := rfl
@[simp] theorem State.emit_shadow : (s.emit o).shadow = s.shadow := rfl
@[simp] theorem State.emit_applied : (s.emit o).applied = s.applied := rfl
@[simp] theorem State.emit_rw : (s.emit o).rw = s.rw := rfl
@[simp] theorem State.emit_ev : (s.emit o).ev = s.ev := rfl
@[simp] theorem State.emit_cnt : (s.emit o).cnt = s.cnt := rfl
@[simp] theorem State.emit_arms : (s.emit o).arms = s.arms := rfl
@[simp] theorem State.emit_guard : (s.emit o).guard = s.guard := rfl
@[simp] theorem State.emit_tide : (s.emit o).tide = s.tide := rfl
@[simp] theorem State.emit_fab : (s.emit o).fab = s.fab := rfl
@[simp] theorem State.emit_media : (s.emit o).media = s.media := rfl
@[simp] theorem State.emit_run : (s.emit o).run = s.run := rfl
@[simp] theorem State.emit_egr : (s.emit o).egr = s.egr := rfl
@[simp] theorem State.emit_bw : (s.emit o).bw = s.bw := rfl
@[simp] theorem State.emit_host : (s.emit o).host = s.host := rfl
@[simp] theorem State.emit_cvu : (s.emit o).cvu = s.cvu := rfl
@[simp] theorem State.emit_pwr : (s.emit o).pwr = s.pwr := rfl
@[simp] theorem State.emit_aon : (s.emit o).aon = s.aon := rfl
@[simp] theorem State.emit_sec : (s.emit o).sec = s.sec := rfl
@[simp] theorem State.emit_hlth : (s.emit o).hlth = s.hlth := rfl
@[simp] theorem State.emit_pmc : (s.emit o).pmc = s.pmc := rfl
@[simp] theorem State.emit_lt : (s.emit o).lt = s.lt := rfl
end

section
variable (q : List Instr) (s : State)
@[simp] theorem withPending_pending : (withPending s q).pending = q := rfl
@[simp] theorem withPending_free : (withPending s q).free = s.free := rfl
@[simp] theorem withPending_out : (withPending s q).out = s.out := rfl
@[simp] theorem withPending_shadow : (withPending s q).shadow = s.shadow := rfl
@[simp] theorem withPending_applied : (withPending s q).applied = s.applied := rfl
@[simp] theorem withPending_rw : (withPending s q).rw = s.rw := rfl
@[simp] theorem withPending_ev : (withPending s q).ev = s.ev := rfl
@[simp] theorem withPending_cnt : (withPending s q).cnt = s.cnt := rfl
@[simp] theorem withPending_arms : (withPending s q).arms = s.arms := rfl
@[simp] theorem withPending_guard : (withPending s q).guard = s.guard := rfl
@[simp] theorem withPending_tide : (withPending s q).tide = s.tide := rfl
@[simp] theorem withPending_fab : (withPending s q).fab = s.fab := rfl
@[simp] theorem withPending_media : (withPending s q).media = s.media := rfl
@[simp] theorem withPending_run : (withPending s q).run = s.run := rfl
@[simp] theorem withPending_egr : (withPending s q).egr = s.egr := rfl
@[simp] theorem withPending_bw : (withPending s q).bw = s.bw := rfl
@[simp] theorem withPending_host : (withPending s q).host = s.host := rfl
@[simp] theorem withPending_cvu : (withPending s q).cvu = s.cvu := rfl
@[simp] theorem withPending_pwr : (withPending s q).pwr = s.pwr := rfl
@[simp] theorem withPending_aon : (withPending s q).aon = s.aon := rfl
@[simp] theorem withPending_sec : (withPending s q).sec = s.sec := rfl
@[simp] theorem withPending_hlth : (withPending s q).hlth = s.hlth := rfl
@[simp] theorem withPending_pmc : (withPending s q).pmc = s.pmc := rfl
@[simp] theorem withPending_lt : (withPending s q).lt = s.lt := rfl
end

/-- Counting on a die touches the counters and their event register alone. -/
theorem State.modDieCounters_eq (die : Nat) (f : DieCounters → DieCounters) (s : State) :
    ∃ p e, s.modDieCounters die f = { s with pmc := p, ev := e } := by
  unfold State.modDieCounters State.onlyIf
  split
  · exact ⟨_, _, rfl⟩
  · dsimp only
    repeat' split
    all_goals exact ⟨_, _, rfl⟩

/-- The idle count of a nanosecond touches the counters and their event register alone. -/
theorem tickCounters_eq (s : State) : ∃ p e, tickCounters s = { s with pmc := p, ev := e } := by
  unfold tickCounters State.each
  generalize List.range 12 = l
  induction l generalizing s with
  | nil => exact ⟨_, _, rfl⟩
  | cons n l ih =>
    obtain ⟨p, e, h⟩ : ∃ p e, tickDie n s = { s with pmc := p, ev := e } := by
      unfold tickDie
      split
      · exact ⟨_, _, rfl⟩
      · exact State.modDieCounters_eq _ _ _
    rw [List.foldl_cons, h]
    obtain ⟨p', e', h'⟩ := ih { s with pmc := p, ev := e }
    exact ⟨p', e', h'⟩

section
variable (s : State)
@[simp] theorem clockTick_pending : (clockTick s).pending = s.pending := by
  obtain ⟨p, e, h⟩ := tickCounters_eq s; simp only [clockTick, h]
@[simp] theorem clockTick_free : (clockTick s).free = s.free := by
  obtain ⟨p, e, h⟩ := tickCounters_eq s; simp only [clockTick, h]
@[simp] theorem clockTick_out : (clockTick s).out = s.out := by
  obtain ⟨p, e, h⟩ := tickCounters_eq s; simp only [clockTick, h]
@[simp] theorem clockTick_shadow : (clockTick s).shadow = s.shadow := by
  obtain ⟨p, e, h⟩ := tickCounters_eq s; simp only [clockTick, h]
@[simp] theorem clockTick_applied : (clockTick s).applied = s.applied := by
  obtain ⟨p, e, h⟩ := tickCounters_eq s; simp only [clockTick, h]
@[simp] theorem clockTick_rw : (clockTick s).rw = s.rw := by
  obtain ⟨p, e, h⟩ := tickCounters_eq s; simp only [clockTick, h]
@[simp] theorem clockTick_cnt : (clockTick s).cnt = s.cnt := by
  obtain ⟨p, e, h⟩ := tickCounters_eq s; simp only [clockTick, h]
@[simp] theorem clockTick_arms : (clockTick s).arms = s.arms := by
  obtain ⟨p, e, h⟩ := tickCounters_eq s; simp only [clockTick, h]
@[simp] theorem clockTick_guard : (clockTick s).guard = s.guard := by
  obtain ⟨p, e, h⟩ := tickCounters_eq s; simp only [clockTick, h]
@[simp] theorem clockTick_fab : (clockTick s).fab = s.fab := by
  obtain ⟨p, e, h⟩ := tickCounters_eq s; simp only [clockTick, h]
@[simp] theorem clockTick_media : (clockTick s).media = s.media := by
  obtain ⟨p, e, h⟩ := tickCounters_eq s; simp only [clockTick, h]
@[simp] theorem clockTick_run : (clockTick s).run = s.run := by
  obtain ⟨p, e, h⟩ := tickCounters_eq s; simp only [clockTick, h]
@[simp] theorem clockTick_egr : (clockTick s).egr = s.egr := by
  obtain ⟨p, e, h⟩ := tickCounters_eq s; simp only [clockTick, h]
@[simp] theorem clockTick_bw : (clockTick s).bw = s.bw := by
  obtain ⟨p, e, h⟩ := tickCounters_eq s; simp only [clockTick, h]
@[simp] theorem clockTick_cvu : (clockTick s).cvu = s.cvu := by
  obtain ⟨p, e, h⟩ := tickCounters_eq s; simp only [clockTick, h]
@[simp] theorem clockTick_sec : (clockTick s).sec = s.sec := by
  obtain ⟨p, e, h⟩ := tickCounters_eq s; simp only [clockTick, h]
@[simp] theorem clockTick_hlth : (clockTick s).hlth = s.hlth := by
  obtain ⟨p, e, h⟩ := tickCounters_eq s; simp only [clockTick, h]
@[simp] theorem clockTick_lt : (clockTick s).lt = s.lt := by
  obtain ⟨p, e, h⟩ := tickCounters_eq s; simp only [clockTick, h]
end

/-- Outside Night exit, with no ZEROISE under way, nothing goes on without a command. -/
theorem dueWork_none {s : State} (h : s.pwr.exiting = false) (k : s.sec.zeroising = none) : dueWork s = s := by
  simp [dueWork, takeExitSteps, keelStep, h, k]

end Sys2Proof.Machine
end

