-- ==== Sys2Proof/Laws/Events.lean ====
section
/-! SUPPORT. What the shared event, reason and count operations leave unchanged, one lemma per operation and field, and what
they set. -/

namespace Sys2Proof.Machine

section
variable (p : Port) (v : Nat) (s : State)
@[simp] theorem sendMsix_pending : (sendMsix p v s).pending = s.pending := by
  unfold sendMsix; dsimp only; repeat' split
  all_goals rfl
@[simp] theorem sendMsix_free : (sendMsix p v s).free = s.free := by
  unfold sendMsix; dsimp only; repeat' split
  all_goals rfl
@[simp] theorem sendMsix_shadow : (sendMsix p v s).shadow = s.shadow := by
  unfold sendMsix; dsimp only; repeat' split
  all_goals rfl
@[simp] theorem sendMsix_applied : (sendMsix p v s).applied = s.applied := by
  unfold sendMsix; dsimp only; repeat' split
  all_goals rfl
@[simp] theorem sendMsix_rw : (sendMsix p v s).rw = s.rw := by
  unfold sendMsix; dsimp only; repeat' split
  all_goals rfl
@[simp] theorem sendMsix_ev : (sendMsix p v s).ev = s.ev := by
  unfold sendMsix; dsimp only; repeat' split
  all_goals rfl
@[simp] theorem sendMsix_cnt : (sendMsix p v s).cnt = s.cnt := by
  unfold sendMsix; dsimp only; repeat' split
  all_goals rfl
@[simp] theorem sendMsix_arms : (sendMsix p v s).arms = s.arms := by
  unfold sendMsix; dsimp only; repeat' split
  all_goals rfl
@[simp] theorem sendMsix_guard : (sendMsix p v s).guard = s.guard := by
  unfold sendMsix; dsimp only; repeat' split
  all_goals rfl
@[simp] theorem sendMsix_tide : (sendMsix p v s).tide = s.tide := by
  unfold sendMsix; dsimp only; repeat' split
  all_goals rfl
@[simp] theorem sendMsix_fab : (sendMsix p v s).fab = s.fab := by
  unfold sendMsix; dsimp only; repeat' split
  all_goals rfl
@[simp] theorem sendMsix_media : (sendMsix p v s).media = s.media := by
  unfold sendMsix; dsimp only; repeat' split
  all_goals rfl
@[simp] theorem sendMsix_run : (sendMsix p v s).run = s.run := by
  unfold sendMsix; dsimp only; repeat' split
  all_goals rfl
@[simp] theorem sendMsix_egr : (sendMsix p v s).egr = s.egr := by
  unfold sendMsix; dsimp only; repeat' split
  all_goals rfl
@[simp] theorem sendMsix_bw : (sendMsix p v s).bw = s.bw := by
  unfold sendMsix; dsimp only; repeat' split
  all_goals rfl
@[simp] theorem sendMsix_cvu : (sendMsix p v s).cvu = s.cvu := by
  unfold sendMsix; dsimp only; repeat' split
  all_goals rfl
@[simp] theorem sendMsix_pwr : (sendMsix p v s).pwr = s.pwr := by
  unfold sendMsix; dsimp only; repeat' split
  all_goals rfl
@[simp] theorem sendMsix_aon : (sendMsix p v s).aon = s.aon := by
  unfold sendMsix; dsimp only; repeat' split
  all_goals rfl
@[simp] theorem sendMsix_sec : (sendMsix p v s).sec = s.sec := by
  unfold sendMsix; dsimp only; repeat' split
  all_goals rfl
@[simp] theorem sendMsix_hlth : (sendMsix p v s).hlth = s.hlth := by
  unfold sendMsix; dsimp only; repeat' split
  all_goals rfl
@[simp] theorem sendMsix_pmc : (sendMsix p v s).pmc = s.pmc := by
  unfold sendMsix; dsimp only; repeat' split
  all_goals rfl
@[simp] theorem sendMsix_lt : (sendMsix p v s).lt = s.lt := by
  unfold sendMsix; dsimp only; repeat' split
  all_goals rfl
end

section
variable (p : Port) (i : Nat) (s : State)
@[simp] theorem irqMessage_pending : (irqMessage p i s).pending = s.pending := by
  unfold irqMessage; split <;> simp
@[simp] theorem irqMessage_free : (irqMessage p i s).free = s.free := by
  unfold irqMessage; split <;> simp
@[simp] theorem irqMessage_shadow : (irqMessage p i s).shadow = s.shadow := by
  unfold irqMessage; split <;> simp
@[simp] theorem irqMessage_applied : (irqMessage p i s).applied = s.applied := by
  unfold irqMessage; split <;> simp
@[simp] theorem irqMessage_rw : (irqMessage p i s).rw = s.rw := by
  unfold irqMessage; split <;> simp
@[simp] theorem irqMessage_ev : (irqMessage p i s).ev = s.ev := by
  unfold irqMessage; split <;> simp
@[simp] theorem irqMessage_cnt : (irqMessage p i s).cnt = s.cnt := by
  unfold irqMessage; split <;> simp
@[simp] theorem irqMessage_arms : (irqMessage p i s).arms = s.arms := by
  unfold irqMessage; split <;> simp
@[simp] theorem irqMessage_guard : (irqMessage p i s).guard = s.guard := by
  unfold irqMessage; split <;> simp
@[simp] theorem irqMessage_tide : (irqMessage p i s).tide = s.tide := by
  unfold irqMessage; split <;> simp
@[simp] theorem irqMessage_fab : (irqMessage p i s).fab = s.fab := by
  unfold irqMessage; split <;> simp
@[simp] theorem irqMessage_media : (irqMessage p i s).media = s.media := by
  unfold irqMessage; split <;> simp
@[simp] theorem irqMessage_run : (irqMessage p i s).run = s.run := by
  unfold irqMessage; split <;> simp
@[simp] theorem irqMessage_egr : (irqMessage p i s).egr = s.egr := by
  unfold irqMessage; split <;> simp
@[simp] theorem irqMessage_bw : (irqMessage p i s).bw = s.bw := by
  unfold irqMessage; split <;> simp
@[simp] theorem irqMessage_cvu : (irqMessage p i s).cvu = s.cvu := by
  unfold irqMessage; split <;> simp
@[simp] theorem irqMessage_pwr : (irqMessage p i s).pwr = s.pwr := by
  unfold irqMessage; split <;> simp
@[simp] theorem irqMessage_aon : (irqMessage p i s).aon = s.aon := by
  unfold irqMessage; split <;> simp
@[simp] theorem irqMessage_sec : (irqMessage p i s).sec = s.sec := by
  unfold irqMessage; split <;> simp
@[simp] theorem irqMessage_hlth : (irqMessage p i s).hlth = s.hlth := by
  unfold irqMessage; split <;> simp
@[simp] theorem irqMessage_pmc : (irqMessage p i s).pmc = s.pmc := by
  unfold irqMessage; split <;> simp
@[simp] theorem irqMessage_lt : (irqMessage p i s).lt = s.lt := by
  unfold irqMessage; split <;> simp
end

section
variable (i : Nat) (s : State)
@[simp] theorem irqMessages_pending : (irqMessages i s).pending = s.pending := by
  simp [irqMessages]
@[simp] theorem irqMessages_free : (irqMessages i s).free = s.free := by
  simp [irqMessages]
@[simp] theorem irqMessages_shadow : (irqMessages i s).shadow = s.shadow := by
  simp [irqMessages]
@[simp] theorem irqMessages_applied : (irqMessages i s).applied = s.applied := by
  simp [irqMessages]
@[simp] theorem irqMessages_rw : (irqMessages i s).rw = s.rw := by
  simp [irqMessages]
@[simp] theorem irqMessages_ev : (irqMessages i s).ev = s.ev := by
  simp [irqMessages]
@[simp] theorem irqMessages_cnt : (irqMessages i s).cnt = s.cnt := by
  simp [irqMessages]
@[simp] theorem irqMessages_arms : (irqMessages i s).arms = s.arms := by
  simp [irqMessages]
@[simp] theorem irqMessages_guard : (irqMessages i s).guard = s.guard := by
  simp [irqMessages]
@[simp] theorem irqMessages_tide : (irqMessages i s).tide = s.tide := by
  simp [irqMessages]
@[simp] theorem irqMessages_fab : (irqMessages i s).fab = s.fab := by
  simp [irqMessages]
@[simp] theorem irqMessages_media : (irqMessages i s).media = s.media := by
  simp [irqMessages]
@[simp] theorem irqMessages_run : (irqMessages i s).run = s.run := by
  simp [irqMessages]
@[simp] theorem irqMessages_egr : (irqMessages i s).egr = s.egr := by
  simp [irqMessages]
@[simp] theorem irqMessages_bw : (irqMessages i s).bw = s.bw := by
  simp [irqMessages]
@[simp] theorem irqMessages_cvu : (irqMessages i s).cvu = s.cvu := by
  simp [irqMessages]
@[simp] theorem irqMessages_pwr : (irqMessages i s).pwr = s.pwr := by
  simp [irqMessages]
@[simp] theorem irqMessages_aon : (irqMessages i s).aon = s.aon := by
  simp [irqMessages]
@[simp] theorem irqMessages_sec : (irqMessages i s).sec = s.sec := by
  simp [irqMessages]
@[simp] theorem irqMessages_hlth : (irqMessages i s).hlth = s.hlth := by
  simp [irqMessages]
@[simp] theorem irqMessages_pmc : (irqMessages i s).pmc = s.pmc := by
  simp [irqMessages]
@[simp] theorem irqMessages_lt : (irqMessages i s).lt = s.lt := by
  simp [irqMessages]
end

section
variable (src : Source) (b : Word) (s : State)
@[simp] theorem setEv_pending : (setEv src b s).pending = s.pending := by
  unfold setEv; dsimp only; split <;> simp
@[simp] theorem setEv_free : (setEv src b s).free = s.free := by
  unfold setEv; dsimp only; split <;> simp
@[simp] theorem setEv_shadow : (setEv src b s).shadow = s.shadow := by
  unfold setEv; dsimp only; split <;> simp
@[simp] theorem setEv_applied : (setEv src b s).applied = s.applied := by
  unfold setEv; dsimp only; split <;> simp
@[simp] theorem setEv_rw : (setEv src b s).rw = s.rw := by
  unfold setEv; dsimp only; split <;> simp
@[simp] theorem setEv_cnt : (setEv src b s).cnt = s.cnt := by
  unfold setEv; dsimp only; split <;> simp
@[simp] theorem setEv_arms : (setEv src b s).arms = s.arms := by
  unfold setEv; dsimp only; split <;> simp
@[simp] theorem setEv_guard : (setEv src b s).guard = s.guard := by
  unfold setEv; dsimp only; split <;> simp
@[simp] theorem setEv_tide : (setEv src b s).tide = s.tide := by
  unfold setEv; dsimp only; split <;> simp
@[simp] theorem setEv_fab : (setEv src b s).fab = s.fab := by
  unfold setEv; dsimp only; split <;> simp
@[simp] theorem setEv_media : (setEv src b s).media = s.media := by
  unfold setEv; dsimp only; split <;> simp
@[simp] theorem setEv_run : (setEv src b s).run = s.run := by
  unfold setEv; dsimp only; split <;> simp
@[simp] theorem setEv_egr : (setEv src b s).egr = s.egr := by
  unfold setEv; dsimp only; split <;> simp
@[simp] theorem setEv_bw : (setEv src b s).bw = s.bw := by
  unfold setEv; dsimp only; split <;> simp
@[simp] theorem setEv_cvu : (setEv src b s).cvu = s.cvu := by
  unfold setEv; dsimp only; split <;> simp
@[simp] theorem setEv_pwr : (setEv src b s).pwr = s.pwr := by
  unfold setEv; dsimp only; split <;> simp
@[simp] theorem setEv_aon : (setEv src b s).aon = s.aon := by
  unfold setEv; dsimp only; split <;> simp
@[simp] theorem setEv_sec : (setEv src b s).sec = s.sec := by
  unfold setEv; dsimp only; split <;> simp
@[simp] theorem setEv_hlth : (setEv src b s).hlth = s.hlth := by
  unfold setEv; dsimp only; split <;> simp
@[simp] theorem setEv_pmc : (setEv src b s).pmc = s.pmc := by
  unfold setEv; dsimp only; split <;> simp
@[simp] theorem setEv_lt : (setEv src b s).lt = s.lt := by
  unfold setEv; dsimp only; split <;> simp
end

section
variable (src : Source) (b : Word) (s : State)
@[simp] theorem clearEv_pending : (clearEv src b s).pending = s.pending := by
  unfold clearEv; dsimp only; split <;> simp
@[simp] theorem clearEv_free : (clearEv src b s).free = s.free := by
  unfold clearEv; dsimp only; split <;> simp
@[simp] theorem clearEv_shadow : (clearEv src b s).shadow = s.shadow := by
  unfold clearEv; dsimp only; split <;> simp
@[simp] theorem clearEv_applied : (clearEv src b s).applied = s.applied := by
  unfold clearEv; dsimp only; split <;> simp
@[simp] theorem clearEv_rw : (clearEv src b s).rw = s.rw := by
  unfold clearEv; dsimp only; split <;> simp
@[simp] theorem clearEv_cnt : (clearEv src b s).cnt = s.cnt := by
  unfold clearEv; dsimp only; split <;> simp
@[simp] theorem clearEv_arms : (clearEv src b s).arms = s.arms := by
  unfold clearEv; dsimp only; split <;> simp
@[simp] theorem clearEv_guard : (clearEv src b s).guard = s.guard := by
  unfold clearEv; dsimp only; split <;> simp
@[simp] theorem clearEv_tide : (clearEv src b s).tide = s.tide := by
  unfold clearEv; dsimp only; split <;> simp
@[simp] theorem clearEv_fab : (clearEv src b s).fab = s.fab := by
  unfold clearEv; dsimp only; split <;> simp
@[simp] theorem clearEv_media : (clearEv src b s).media = s.media := by
  unfold clearEv; dsimp only; split <;> simp
@[simp] theorem clearEv_run : (clearEv src b s).run = s.run := by
  unfold clearEv; dsimp only; split <;> simp
@[simp] theorem clearEv_egr : (clearEv src b s).egr = s.egr := by
  unfold clearEv; dsimp only; split <;> simp
@[simp] theorem clearEv_bw : (clearEv src b s).bw = s.bw := by
  unfold clearEv; dsimp only; split <;> simp
@[simp] theorem clearEv_cvu : (clearEv src b s).cvu = s.cvu := by
  unfold clearEv; dsimp only; split <;> simp
@[simp] theorem clearEv_pwr : (clearEv src b s).pwr = s.pwr := by
  unfold clearEv; dsimp only; split <;> simp
@[simp] theorem clearEv_aon : (clearEv src b s).aon = s.aon := by
  unfold clearEv; dsimp only; split <;> simp
@[simp] theorem clearEv_sec : (clearEv src b s).sec = s.sec := by
  unfold clearEv; dsimp only; split <;> simp
@[simp] theorem clearEv_hlth : (clearEv src b s).hlth = s.hlth := by
  unfold clearEv; dsimp only; split <;> simp
@[simp] theorem clearEv_pmc : (clearEv src b s).pmc = s.pmc := by
  unfold clearEv; dsimp only; split <;> simp
@[simp] theorem clearEv_lt : (clearEv src b s).lt = s.lt := by
  unfold clearEv; dsimp only; split <;> simp
end

section
variable (c : Nat) (r : Bool) (d : List Byte) (s : State)
@[simp] theorem postEvent_pending : (postEvent c r d s).pending = s.pending := rfl
@[simp] theorem postEvent_free : (postEvent c r d s).free = s.free := rfl
@[simp] theorem postEvent_out : (postEvent c r d s).out = s.out := rfl
@[simp] theorem postEvent_shadow : (postEvent c r d s).shadow = s.shadow := rfl
@[simp] theorem postEvent_applied : (postEvent c r d s).applied = s.applied := rfl
@[simp] theorem postEvent_rw : (postEvent c r d s).rw = s.rw := rfl
@[simp] theorem postEvent_ev : (postEvent c r d s).ev = s.ev := rfl
@[simp] theorem postEvent_cnt : (postEvent c r d s).cnt = s.cnt := rfl
@[simp] theorem postEvent_arms : (postEvent c r d s).arms = s.arms := rfl
@[simp] theorem postEvent_guard : (postEvent c r d s).guard = s.guard := rfl
@[simp] theorem postEvent_tide : (postEvent c r d s).tide = s.tide := rfl
@[simp] theorem postEvent_fab : (postEvent c r d s).fab = s.fab := rfl
@[simp] theorem postEvent_media : (postEvent c r d s).media = s.media := rfl
@[simp] theorem postEvent_run : (postEvent c r d s).run = s.run := rfl
@[simp] theorem postEvent_egr : (postEvent c r d s).egr = s.egr := rfl
@[simp] theorem postEvent_bw : (postEvent c r d s).bw = s.bw := rfl
@[simp] theorem postEvent_cvu : (postEvent c r d s).cvu = s.cvu := rfl
@[simp] theorem postEvent_pwr : (postEvent c r d s).pwr = s.pwr := rfl
@[simp] theorem postEvent_aon : (postEvent c r d s).aon = s.aon := rfl
@[simp] theorem postEvent_sec : (postEvent c r d s).sec = s.sec := rfl
@[simp] theorem postEvent_hlth : (postEvent c r d s).hlth = s.hlth := rfl
@[simp] theorem postEvent_pmc : (postEvent c r d s).pmc = s.pmc := rfl
@[simp] theorem postEvent_lt : (postEvent c r d s).lt = s.lt := rfl
end

section
variable (rs : List Reason) (c k l : Nat) (u f : Bool) (s : State)
@[simp] theorem healthChange_pending : (healthChange rs c k l u f s).pending = s.pending := by
  simp [healthChange]
@[simp] theorem healthChange_free : (healthChange rs c k l u f s).free = s.free := by
  simp [healthChange]
@[simp] theorem healthChange_shadow : (healthChange rs c k l u f s).shadow = s.shadow := by
  simp [healthChange]
@[simp] theorem healthChange_applied : (healthChange rs c k l u f s).applied = s.applied := by
  simp [healthChange]
@[simp] theorem healthChange_rw : (healthChange rs c k l u f s).rw = s.rw := by
  simp [healthChange]
@[simp] theorem healthChange_cnt : (healthChange rs c k l u f s).cnt = s.cnt := by
  simp [healthChange]
@[simp] theorem healthChange_arms : (healthChange rs c k l u f s).arms = s.arms := by
  simp [healthChange]
@[simp] theorem healthChange_guard : (healthChange rs c k l u f s).guard = s.guard := by
  simp [healthChange]
@[simp] theorem healthChange_tide : (healthChange rs c k l u f s).tide = s.tide := by
  simp [healthChange]
@[simp] theorem healthChange_fab : (healthChange rs c k l u f s).fab = s.fab := by
  simp [healthChange]
@[simp] theorem healthChange_media : (healthChange rs c k l u f s).media = s.media := by
  simp [healthChange]
@[simp] theorem healthChange_run : (healthChange rs c k l u f s).run = s.run := by
  simp [healthChange]
@[simp] theorem healthChange_egr : (healthChange rs c k l u f s).egr = s.egr := by
  simp [healthChange]
@[simp] theorem healthChange_bw : (healthChange rs c k l u f s).bw = s.bw := by
  simp [healthChange]
@[simp] theorem healthChange_cvu : (healthChange rs c k l u f s).cvu = s.cvu := by
  simp [healthChange]
@[simp] theorem healthChange_pwr : (healthChange rs c k l u f s).pwr = s.pwr := by
  simp [healthChange]
@[simp] theorem healthChange_aon : (healthChange rs c k l u f s).aon = s.aon := by
  simp [healthChange]
@[simp] theorem healthChange_sec : (healthChange rs c k l u f s).sec = s.sec := by
  simp [healthChange]
@[simp] theorem healthChange_pmc : (healthChange rs c k l u f s).pmc = s.pmc := by
  simp [healthChange]
@[simp] theorem healthChange_lt : (healthChange rs c k l u f s).lt = s.lt := by
  simp [healthChange]
end

section
variable (c k l : Nat) (s : State)
@[simp] theorem raiseReason_pending : (raiseReason c k l s).pending = s.pending := by
  unfold raiseReason; dsimp only; repeat' split
  all_goals simp
@[simp] theorem raiseReason_free : (raiseReason c k l s).free = s.free := by
  unfold raiseReason; dsimp only; repeat' split
  all_goals simp
@[simp] theorem raiseReason_shadow : (raiseReason c k l s).shadow = s.shadow := by
  unfold raiseReason; dsimp only; repeat' split
  all_goals simp
@[simp] theorem raiseReason_applied : (raiseReason c k l s).applied = s.applied := by
  unfold raiseReason; dsimp only; repeat' split
  all_goals simp
@[simp] theorem raiseReason_rw : (raiseReason c k l s).rw = s.rw := by
  unfold raiseReason; dsimp only; repeat' split
  all_goals simp
@[simp] theorem raiseReason_cnt : (raiseReason c k l s).cnt = s.cnt := by
  unfold raiseReason; dsimp only; repeat' split
  all_goals simp
@[simp] theorem raiseReason_arms : (raiseReason c k l s).arms = s.arms := by
  unfold raiseReason; dsimp only; repeat' split
  all_goals simp
@[simp] theorem raiseReason_guard : (raiseReason c k l s).guard = s.guard := by
  unfold raiseReason; dsimp only; repeat' split
  all_goals simp
@[simp] theorem raiseReason_tide : (raiseReason c k l s).tide = s.tide := by
  unfold raiseReason; dsimp only; repeat' split
  all_goals simp
@[simp] theorem raiseReason_fab : (raiseReason c k l s).fab = s.fab := by
  unfold raiseReason; dsimp only; repeat' split
  all_goals simp
@[simp] theorem raiseReason_media : (raiseReason c k l s).media = s.media := by
  unfold raiseReason; dsimp only; repeat' split
  all_goals simp
@[simp] theorem raiseReason_run : (raiseReason c k l s).run = s.run := by
  unfold raiseReason; dsimp only; repeat' split
  all_goals simp
@[simp] theorem raiseReason_egr : (raiseReason c k l s).egr = s.egr := by
  unfold raiseReason; dsimp only; repeat' split
  all_goals simp
@[simp] theorem raiseReason_bw : (raiseReason c k l s).bw = s.bw := by
  unfold raiseReason; dsimp only; repeat' split
  all_goals simp
@[simp] theorem raiseReason_cvu : (raiseReason c k l s).cvu = s.cvu := by
  unfold raiseReason; dsimp only; repeat' split
  all_goals simp
@[simp] theorem raiseReason_pwr : (raiseReason c k l s).pwr = s.pwr := by
  unfold raiseReason; dsimp only; repeat' split
  all_goals simp
@[simp] theorem raiseReason_aon : (raiseReason c k l s).aon = s.aon := by
  unfold raiseReason; dsimp only; repeat' split
  all_goals simp
@[simp] theorem raiseReason_sec : (raiseReason c k l s).sec = s.sec := by
  unfold raiseReason; dsimp only; repeat' split
  all_goals simp
@[simp] theorem raiseReason_pmc : (raiseReason c k l s).pmc = s.pmc := by
  unfold raiseReason; dsimp only; repeat' split
  all_goals simp
@[simp] theorem raiseReason_lt : (raiseReason c k l s).lt = s.lt := by
  unfold raiseReason; dsimp only; repeat' split
  all_goals simp
end

section
variable (c l : Nat) (s : State)
@[simp] theorem clearReason_pending : (clearReason c l s).pending = s.pending := by
  unfold clearReason; split <;> simp
@[simp] theorem clearReason_free : (clearReason c l s).free = s.free := by
  unfold clearReason; split <;> simp
@[simp] theorem clearReason_shadow : (clearReason c l s).shadow = s.shadow := by
  unfold clearReason; split <;> simp
@[simp] theorem clearReason_applied : (clearReason c l s).applied = s.applied := by
  unfold clearReason; split <;> simp
@[simp] theorem clearReason_rw : (clearReason c l s).rw = s.rw := by
  unfold clearReason; split <;> simp
@[simp] theorem clearReason_cnt : (clearReason c l s).cnt = s.cnt := by
  unfold clearReason; split <;> simp
@[simp] theorem clearReason_arms : (clearReason c l s).arms = s.arms := by
  unfold clearReason; split <;> simp
@[simp] theorem clearReason_guard : (clearReason c l s).guard = s.guard := by
  unfold clearReason; split <;> simp
@[simp] theorem clearReason_tide : (clearReason c l s).tide = s.tide := by
  unfold clearReason; split <;> simp
@[simp] theorem clearReason_fab : (clearReason c l s).fab = s.fab := by
  unfold clearReason; split <;> simp
@[simp] theorem clearReason_media : (clearReason c l s).media = s.media := by
  unfold clearReason; split <;> simp
@[simp] theorem clearReason_run : (clearReason c l s).run = s.run := by
  unfold clearReason; split <;> simp
@[simp] theorem clearReason_egr : (clearReason c l s).egr = s.egr := by
  unfold clearReason; split <;> simp
@[simp] theorem clearReason_bw : (clearReason c l s).bw = s.bw := by
  unfold clearReason; split <;> simp
@[simp] theorem clearReason_cvu : (clearReason c l s).cvu = s.cvu := by
  unfold clearReason; split <;> simp
@[simp] theorem clearReason_pwr : (clearReason c l s).pwr = s.pwr := by
  unfold clearReason; split <;> simp
@[simp] theorem clearReason_aon : (clearReason c l s).aon = s.aon := by
  unfold clearReason; split <;> simp
@[simp] theorem clearReason_sec : (clearReason c l s).sec = s.sec := by
  unfold clearReason; split <;> simp
@[simp] theorem clearReason_pmc : (clearReason c l s).pmc = s.pmc := by
  unfold clearReason; split <;> simp
@[simp] theorem clearReason_lt : (clearReason c l s).lt = s.lt := by
  unfold clearReason; split <;> simp
end

section
variable (c k l : Nat) (f : Bool) (s : State)
@[simp] theorem countReason_pending : (countReason c k l f s).pending = s.pending := by
  unfold countReason; repeat' split
  all_goals simp
@[simp] theorem countReason_free : (countReason c k l f s).free = s.free := by
  unfold countReason; repeat' split
  all_goals simp
@[simp] theorem countReason_shadow : (countReason c k l f s).shadow = s.shadow := by
  unfold countReason; repeat' split
  all_goals simp
@[simp] theorem countReason_applied : (countReason c k l f s).applied = s.applied := by
  unfold countReason; repeat' split
  all_goals simp
@[simp] theorem countReason_rw : (countReason c k l f s).rw = s.rw := by
  unfold countReason; repeat' split
  all_goals simp
@[simp] theorem countReason_cnt : (countReason c k l f s).cnt = s.cnt := by
  unfold countReason; repeat' split
  all_goals simp
@[simp] theorem countReason_arms : (countReason c k l f s).arms = s.arms := by
  unfold countReason; repeat' split
  all_goals simp
@[simp] theorem countReason_guard : (countReason c k l f s).guard = s.guard := by
  unfold countReason; repeat' split
  all_goals simp
@[simp] theorem countReason_tide : (countReason c k l f s).tide = s.tide := by
  unfold countReason; repeat' split
  all_goals simp
@[simp] theorem countReason_fab : (countReason c k l f s).fab = s.fab := by
  unfold countReason; repeat' split
  all_goals simp
@[simp] theorem countReason_media : (countReason c k l f s).media = s.media := by
  unfold countReason; repeat' split
  all_goals simp
@[simp] theorem countReason_run : (countReason c k l f s).run = s.run := by
  unfold countReason; repeat' split
  all_goals simp
@[simp] theorem countReason_egr : (countReason c k l f s).egr = s.egr := by
  unfold countReason; repeat' split
  all_goals simp
@[simp] theorem countReason_bw : (countReason c k l f s).bw = s.bw := by
  unfold countReason; repeat' split
  all_goals simp
@[simp] theorem countReason_cvu : (countReason c k l f s).cvu = s.cvu := by
  unfold countReason; repeat' split
  all_goals simp
@[simp] theorem countReason_pwr : (countReason c k l f s).pwr = s.pwr := by
  unfold countReason; repeat' split
  all_goals simp
@[simp] theorem countReason_aon : (countReason c k l f s).aon = s.aon := by
  unfold countReason; repeat' split
  all_goals simp
@[simp] theorem countReason_sec : (countReason c k l f s).sec = s.sec := by
  unfold countReason; repeat' split
  all_goals simp
@[simp] theorem countReason_pmc : (countReason c k l f s).pmc = s.pmc := by
  unfold countReason; repeat' split
  all_goals simp
@[simp] theorem countReason_lt : (countReason c k l f s).lt = s.lt := by
  unfold countReason; repeat' split
  all_goals simp
end

section
variable (d : Nat) (f : DieCounters → DieCounters) (s : State)
@[simp] theorem State.modDieCounters_pending : (State.modDieCounters d f s).pending = s.pending := by
  unfold State.modDieCounters; split
  · rfl
  · split
    · rfl
    · dsimp only [State.onlyIf]; split <;> rfl
@[simp] theorem State.modDieCounters_free : (State.modDieCounters d f s).free = s.free := by
  unfold State.modDieCounters; split
  · rfl
  · split
    · rfl
    · dsimp only [State.onlyIf]; split <;> rfl
@[simp] theorem State.modDieCounters_out : (State.modDieCounters d f s).out = s.out := by
  unfold State.modDieCounters; split
  · rfl
  · split
    · rfl
    · dsimp only [State.onlyIf]; split <;> rfl
@[simp] theorem State.modDieCounters_shadow : (State.modDieCounters d f s).shadow = s.shadow := by
  unfold State.modDieCounters; split
  · rfl
  · split
    · rfl
    · dsimp only [State.onlyIf]; split <;> rfl
@[simp] theorem State.modDieCounters_applied : (State.modDieCounters d f s).applied = s.applied := by
  unfold State.modDieCounters; split
  · rfl
  · split
    · rfl
    · dsimp only [State.onlyIf]; split <;> rfl
@[simp] theorem State.modDieCounters_rw : (State.modDieCounters d f s).rw = s.rw := by
  unfold State.modDieCounters; split
  · rfl
  · split
    · rfl
    · dsimp only [State.onlyIf]; split <;> rfl
@[simp] theorem State.modDieCounters_cnt : (State.modDieCounters d f s).cnt = s.cnt := by
  unfold State.modDieCounters; split
  · rfl
  · split
    · rfl
    · dsimp only [State.onlyIf]; split <;> rfl
@[simp] theorem State.modDieCounters_arms : (State.modDieCounters d f s).arms = s.arms := by
  unfold State.modDieCounters; split
  · rfl
  · split
    · rfl
    · dsimp only [State.onlyIf]; split <;> rfl
@[simp] theorem State.modDieCounters_guard : (State.modDieCounters d f s).guard = s.guard := by
  unfold State.modDieCounters; split
  · rfl
  · split
    · rfl
    · dsimp only [State.onlyIf]; split <;> rfl
@[simp] theorem State.modDieCounters_tide : (State.modDieCounters d f s).tide = s.tide := by
  unfold State.modDieCounters; split
  · rfl
  · split
    · rfl
    · dsimp only [State.onlyIf]; split <;> rfl
@[simp] theorem State.modDieCounters_fab : (State.modDieCounters d f s).fab = s.fab := by
  unfold State.modDieCounters; split
  · rfl
  · split
    · rfl
    · dsimp only [State.onlyIf]; split <;> rfl
@[simp] theorem State.modDieCounters_media : (State.modDieCounters d f s).media = s.media := by
  unfold State.modDieCounters; split
  · rfl
  · split
    · rfl
    · dsimp only [State.onlyIf]; split <;> rfl
@[simp] theorem State.modDieCounters_run : (State.modDieCounters d f s).run = s.run := by
  unfold State.modDieCounters; split
  · rfl
  · split
    · rfl
    · dsimp only [State.onlyIf]; split <;> rfl
@[simp] theorem State.modDieCounters_egr : (State.modDieCounters d f s).egr = s.egr := by
  unfold State.modDieCounters; split
  · rfl
  · split
    · rfl
    · dsimp only [State.onlyIf]; split <;> rfl
@[simp] theorem State.modDieCounters_bw : (State.modDieCounters d f s).bw = s.bw := by
  unfold State.modDieCounters; split
  · rfl
  · split
    · rfl
    · dsimp only [State.onlyIf]; split <;> rfl
@[simp] theorem State.modDieCounters_host : (State.modDieCounters d f s).host = s.host := by
  unfold State.modDieCounters; split
  · rfl
  · split
    · rfl
    · dsimp only [State.onlyIf]; split <;> rfl
@[simp] theorem State.modDieCounters_cvu : (State.modDieCounters d f s).cvu = s.cvu := by
  unfold State.modDieCounters; split
  · rfl
  · split
    · rfl
    · dsimp only [State.onlyIf]; split <;> rfl
@[simp] theorem State.modDieCounters_pwr : (State.modDieCounters d f s).pwr = s.pwr := by
  unfold State.modDieCounters; split
  · rfl
  · split
    · rfl
    · dsimp only [State.onlyIf]; split <;> rfl
@[simp] theorem State.modDieCounters_aon : (State.modDieCounters d f s).aon = s.aon := by
  unfold State.modDieCounters; split
  · rfl
  · split
    · rfl
    · dsimp only [State.onlyIf]; split <;> rfl
@[simp] theorem State.modDieCounters_sec : (State.modDieCounters d f s).sec = s.sec := by
  unfold State.modDieCounters; split
  · rfl
  · split
    · rfl
    · dsimp only [State.onlyIf]; split <;> rfl
@[simp] theorem State.modDieCounters_hlth : (State.modDieCounters d f s).hlth = s.hlth := by
  unfold State.modDieCounters; split
  · rfl
  · split
    · rfl
    · dsimp only [State.onlyIf]; split <;> rfl
@[simp] theorem State.modDieCounters_lt : (State.modDieCounters d f s).lt = s.lt := by
  unfold State.modDieCounters; split
  · rfl
  · split
    · rfl
    · dsimp only [State.onlyIf]; split <;> rfl
end

section
variable (d c : Nat) (s : State)
@[simp] theorem countPerf_pending : (countPerf d c s).pending = s.pending := by
  unfold countPerf; split <;> simp
@[simp] theorem countPerf_free : (countPerf d c s).free = s.free := by
  unfold countPerf; split <;> simp
@[simp] theorem countPerf_out : (countPerf d c s).out = s.out := by
  unfold countPerf; split <;> simp
@[simp] theorem countPerf_shadow : (countPerf d c s).shadow = s.shadow := by
  unfold countPerf; split <;> simp
@[simp] theorem countPerf_applied : (countPerf d c s).applied = s.applied := by
  unfold countPerf; split <;> simp
@[simp] theorem countPerf_rw : (countPerf d c s).rw = s.rw := by
  unfold countPerf; split <;> simp
@[simp] theorem countPerf_cnt : (countPerf d c s).cnt = s.cnt := by
  unfold countPerf; split <;> simp
@[simp] theorem countPerf_arms : (countPerf d c s).arms = s.arms := by
  unfold countPerf; split <;> simp
@[simp] theorem countPerf_guard : (countPerf d c s).guard = s.guard := by
  unfold countPerf; split <;> simp
@[simp] theorem countPerf_tide : (countPerf d c s).tide = s.tide := by
  unfold countPerf; split <;> simp
@[simp] theorem countPerf_fab : (countPerf d c s).fab = s.fab := by
  unfold countPerf; split <;> simp
@[simp] theorem countPerf_media : (countPerf d c s).media = s.media := by
  unfold countPerf; split <;> simp
@[simp] theorem countPerf_run : (countPerf d c s).run = s.run := by
  unfold countPerf; split <;> simp
@[simp] theorem countPerf_egr : (countPerf d c s).egr = s.egr := by
  unfold countPerf; split <;> simp
@[simp] theorem countPerf_bw : (countPerf d c s).bw = s.bw := by
  unfold countPerf; split <;> simp
@[simp] theorem countPerf_host : (countPerf d c s).host = s.host := by
  unfold countPerf; split <;> simp
@[simp] theorem countPerf_cvu : (countPerf d c s).cvu = s.cvu := by
  unfold countPerf; split <;> simp
@[simp] theorem countPerf_pwr : (countPerf d c s).pwr = s.pwr := by
  unfold countPerf; split <;> simp
@[simp] theorem countPerf_aon : (countPerf d c s).aon = s.aon := by
  unfold countPerf; split <;> simp
@[simp] theorem countPerf_sec : (countPerf d c s).sec = s.sec := by
  unfold countPerf; split <;> simp
@[simp] theorem countPerf_hlth : (countPerf d c s).hlth = s.hlth := by
  unfold countPerf; split <;> simp
@[simp] theorem countPerf_lt : (countPerf d c s).lt = s.lt := by
  unfold countPerf; split <;> simp
end

section
variable (d i : Nat) (s : State)
@[simp] theorem countFixed_pending : (countFixed d i s).pending = s.pending := by
  unfold countFixed; split <;> simp
@[simp] theorem countFixed_free : (countFixed d i s).free = s.free := by
  unfold countFixed; split <;> simp
@[simp] theorem countFixed_out : (countFixed d i s).out = s.out := by
  unfold countFixed; split <;> simp
@[simp] theorem countFixed_shadow : (countFixed d i s).shadow = s.shadow := by
  unfold countFixed; split <;> simp
@[simp] theorem countFixed_applied : (countFixed d i s).applied = s.applied := by
  unfold countFixed; split <;> simp
@[simp] theorem countFixed_rw : (countFixed d i s).rw = s.rw := by
  unfold countFixed; split <;> simp
@[simp] theorem countFixed_cnt : (countFixed d i s).cnt = s.cnt := by
  unfold countFixed; split <;> simp
@[simp] theorem countFixed_arms : (countFixed d i s).arms = s.arms := by
  unfold countFixed; split <;> simp
@[simp] theorem countFixed_guard : (countFixed d i s).guard = s.guard := by
  unfold countFixed; split <;> simp
@[simp] theorem countFixed_tide : (countFixed d i s).tide = s.tide := by
  unfold countFixed; split <;> simp
@[simp] theorem countFixed_fab : (countFixed d i s).fab = s.fab := by
  unfold countFixed; split <;> simp
@[simp] theorem countFixed_media : (countFixed d i s).media = s.media := by
  unfold countFixed; split <;> simp
@[simp] theorem countFixed_run : (countFixed d i s).run = s.run := by
  unfold countFixed; split <;> simp
@[simp] theorem countFixed_egr : (countFixed d i s).egr = s.egr := by
  unfold countFixed; split <;> simp
@[simp] theorem countFixed_bw : (countFixed d i s).bw = s.bw := by
  unfold countFixed; split <;> simp
@[simp] theorem countFixed_host : (countFixed d i s).host = s.host := by
  unfold countFixed; split <;> simp
@[simp] theorem countFixed_cvu : (countFixed d i s).cvu = s.cvu := by
  unfold countFixed; split <;> simp
@[simp] theorem countFixed_pwr : (countFixed d i s).pwr = s.pwr := by
  unfold countFixed; split <;> simp
@[simp] theorem countFixed_aon : (countFixed d i s).aon = s.aon := by
  unfold countFixed; split <;> simp
@[simp] theorem countFixed_sec : (countFixed d i s).sec = s.sec := by
  unfold countFixed; split <;> simp
@[simp] theorem countFixed_hlth : (countFixed d i s).hlth = s.hlth := by
  unfold countFixed; split <;> simp
@[simp] theorem countFixed_lt : (countFixed d i s).lt = s.lt := by
  unfold countFixed; split <;> simp
end

section
variable (s : State)
@[simp] theorem corrReason_pending : (corrReason s).pending = s.pending := by
  simp [corrReason]
@[simp] theorem corrReason_free : (corrReason s).free = s.free := by
  simp [corrReason]
@[simp] theorem corrReason_shadow : (corrReason s).shadow = s.shadow := by
  simp [corrReason]
@[simp] theorem corrReason_applied : (corrReason s).applied = s.applied := by
  simp [corrReason]
@[simp] theorem corrReason_rw : (corrReason s).rw = s.rw := by
  simp [corrReason]
@[simp] theorem corrReason_cnt : (corrReason s).cnt = s.cnt := by
  simp [corrReason]
@[simp] theorem corrReason_arms : (corrReason s).arms = s.arms := by
  simp [corrReason]
@[simp] theorem corrReason_guard : (corrReason s).guard = s.guard := by
  simp [corrReason]
@[simp] theorem corrReason_tide : (corrReason s).tide = s.tide := by
  simp [corrReason]
@[simp] theorem corrReason_fab : (corrReason s).fab = s.fab := by
  simp [corrReason]
@[simp] theorem corrReason_media : (corrReason s).media = s.media := by
  simp [corrReason]
@[simp] theorem corrReason_run : (corrReason s).run = s.run := by
  simp [corrReason]
@[simp] theorem corrReason_egr : (corrReason s).egr = s.egr := by
  simp [corrReason]
@[simp] theorem corrReason_bw : (corrReason s).bw = s.bw := by
  simp [corrReason]
@[simp] theorem corrReason_cvu : (corrReason s).cvu = s.cvu := by
  simp [corrReason]
@[simp] theorem corrReason_pwr : (corrReason s).pwr = s.pwr := by
  simp [corrReason]
@[simp] theorem corrReason_aon : (corrReason s).aon = s.aon := by
  simp [corrReason]
@[simp] theorem corrReason_sec : (corrReason s).sec = s.sec := by
  simp [corrReason]
@[simp] theorem corrReason_pmc : (corrReason s).pmc = s.pmc := by
  simp [corrReason]
@[simp] theorem corrReason_lt : (corrReason s).lt = s.lt := by
  simp [corrReason]
end

section
variable (d : Nat) (s : State)
@[simp] theorem countCorrected_pending : (countCorrected d s).pending = s.pending := by
  simp [countCorrected]
@[simp] theorem countCorrected_free : (countCorrected d s).free = s.free := by
  simp [countCorrected]
@[simp] theorem countCorrected_shadow : (countCorrected d s).shadow = s.shadow := by
  simp [countCorrected]
@[simp] theorem countCorrected_applied : (countCorrected d s).applied = s.applied := by
  simp [countCorrected]
@[simp] theorem countCorrected_rw : (countCorrected d s).rw = s.rw := by
  simp [countCorrected]
@[simp] theorem countCorrected_cnt : (countCorrected d s).cnt = s.cnt := by
  simp [countCorrected]
@[simp] theorem countCorrected_arms : (countCorrected d s).arms = s.arms := by
  simp [countCorrected]
@[simp] theorem countCorrected_guard : (countCorrected d s).guard = s.guard := by
  simp [countCorrected]
@[simp] theorem countCorrected_tide : (countCorrected d s).tide = s.tide := by
  simp [countCorrected]
@[simp] theorem countCorrected_fab : (countCorrected d s).fab = s.fab := by
  simp [countCorrected]
@[simp] theorem countCorrected_media : (countCorrected d s).media = s.media := by
  simp [countCorrected]
@[simp] theorem countCorrected_run : (countCorrected d s).run = s.run := by
  simp [countCorrected]
@[simp] theorem countCorrected_egr : (countCorrected d s).egr = s.egr := by
  simp [countCorrected]
@[simp] theorem countCorrected_bw : (countCorrected d s).bw = s.bw := by
  simp [countCorrected]
@[simp] theorem countCorrected_cvu : (countCorrected d s).cvu = s.cvu := by
  simp [countCorrected]
@[simp] theorem countCorrected_pwr : (countCorrected d s).pwr = s.pwr := by
  simp [countCorrected]
@[simp] theorem countCorrected_aon : (countCorrected d s).aon = s.aon := by
  simp [countCorrected]
@[simp] theorem countCorrected_sec : (countCorrected d s).sec = s.sec := by
  simp [countCorrected]
@[simp] theorem countCorrected_lt : (countCorrected d s).lt = s.lt := by
  simp [countCorrected]
end

section
variable (s : State)
@[simp] theorem countDeferred_pending : (countDeferred s).pending = s.pending := rfl
@[simp] theorem countDeferred_free : (countDeferred s).free = s.free := rfl
@[simp] theorem countDeferred_out : (countDeferred s).out = s.out := rfl
@[simp] theorem countDeferred_shadow : (countDeferred s).shadow = s.shadow := rfl
@[simp] theorem countDeferred_applied : (countDeferred s).applied = s.applied := rfl
@[simp] theorem countDeferred_rw : (countDeferred s).rw = s.rw := rfl
@[simp] theorem countDeferred_ev : (countDeferred s).ev = s.ev := rfl
@[simp] theorem countDeferred_cnt : (countDeferred s).cnt = s.cnt := rfl
@[simp] theorem countDeferred_arms : (countDeferred s).arms = s.arms := rfl
@[simp] theorem countDeferred_guard : (countDeferred s).guard = s.guard := rfl
@[simp] theorem countDeferred_tide : (countDeferred s).tide = s.tide := rfl
@[simp] theorem countDeferred_fab : (countDeferred s).fab = s.fab := rfl
@[simp] theorem countDeferred_media : (countDeferred s).media = s.media := rfl
@[simp] theorem countDeferred_run : (countDeferred s).run = s.run := rfl
@[simp] theorem countDeferred_egr : (countDeferred s).egr = s.egr := rfl
@[simp] theorem countDeferred_bw : (countDeferred s).bw = s.bw := rfl
@[simp] theorem countDeferred_host : (countDeferred s).host = s.host := rfl
@[simp] theorem countDeferred_cvu : (countDeferred s).cvu = s.cvu := rfl
@[simp] theorem countDeferred_pwr : (countDeferred s).pwr = s.pwr := rfl
@[simp] theorem countDeferred_aon : (countDeferred s).aon = s.aon := rfl
@[simp] theorem countDeferred_sec : (countDeferred s).sec = s.sec := rfl
@[simp] theorem countDeferred_pmc : (countDeferred s).pmc = s.pmc := rfl
@[simp] theorem countDeferred_lt : (countDeferred s).lt = s.lt := rfl
end

section
variable (s : State)
@[simp] theorem countContained_pending : (countContained s).pending = s.pending := rfl
@[simp] theorem countContained_free : (countContained s).free = s.free := rfl
@[simp] theorem countContained_out : (countContained s).out = s.out := rfl
@[simp] theorem countContained_shadow : (countContained s).shadow = s.shadow := rfl
@[simp] theorem countContained_applied : (countContained s).applied = s.applied := rfl
@[simp] theorem countContained_rw : (countContained s).rw = s.rw := rfl
@[simp] theorem countContained_ev : (countContained s).ev = s.ev := rfl
@[simp] theorem countContained_cnt : (countContained s).cnt = s.cnt := rfl
@[simp] theorem countContained_arms : (countContained s).arms = s.arms := rfl
@[simp] theorem countContained_guard : (countContained s).guard = s.guard := rfl
@[simp] theorem countContained_tide : (countContained s).tide = s.tide := rfl
@[simp] theorem countContained_fab : (countContained s).fab = s.fab := rfl
@[simp] theorem countContained_media : (countContained s).media = s.media := rfl
@[simp] theorem countContained_run : (countContained s).run = s.run := rfl
@[simp] theorem countContained_egr : (countContained s).egr = s.egr := rfl
@[simp] theorem countContained_bw : (countContained s).bw = s.bw := rfl
@[simp] theorem countContained_host : (countContained s).host = s.host := rfl
@[simp] theorem countContained_cvu : (countContained s).cvu = s.cvu := rfl
@[simp] theorem countContained_pwr : (countContained s).pwr = s.pwr := rfl
@[simp] theorem countContained_aon : (countContained s).aon = s.aon := rfl
@[simp] theorem countContained_sec : (countContained s).sec = s.sec := rfl
@[simp] theorem countContained_pmc : (countContained s).pmc = s.pmc := rfl
@[simp] theorem countContained_lt : (countContained s).lt = s.lt := rfl
end

section
variable (c l : Nat) (s : State)
@[simp] theorem fatalError_pending : (fatalError c l s).pending = s.pending := by
  simp [fatalError]
@[simp] theorem fatalError_free : (fatalError c l s).free = s.free := by
  simp [fatalError]
@[simp] theorem fatalError_shadow : (fatalError c l s).shadow = s.shadow := by
  simp [fatalError]
@[simp] theorem fatalError_applied : (fatalError c l s).applied = s.applied := by
  simp [fatalError]
@[simp] theorem fatalError_rw : (fatalError c l s).rw = s.rw := by
  simp [fatalError]
@[simp] theorem fatalError_cnt : (fatalError c l s).cnt = s.cnt := by
  simp [fatalError]
@[simp] theorem fatalError_arms : (fatalError c l s).arms = s.arms := by
  simp [fatalError]
@[simp] theorem fatalError_guard : (fatalError c l s).guard = s.guard := by
  simp [fatalError]
@[simp] theorem fatalError_tide : (fatalError c l s).tide = s.tide := by
  simp [fatalError]
@[simp] theorem fatalError_fab : (fatalError c l s).fab = s.fab := by
  simp [fatalError]
@[simp] theorem fatalError_media : (fatalError c l s).media = s.media := by
  simp [fatalError]
@[simp] theorem fatalError_run : (fatalError c l s).run = s.run := by
  simp [fatalError]
@[simp] theorem fatalError_bw : (fatalError c l s).bw = s.bw := by
  simp [fatalError]
@[simp] theorem fatalError_cvu : (fatalError c l s).cvu = s.cvu := by
  simp [fatalError]
@[simp] theorem fatalError_pwr : (fatalError c l s).pwr = s.pwr := by
  simp [fatalError]
@[simp] theorem fatalError_aon : (fatalError c l s).aon = s.aon := by
  simp [fatalError]
@[simp] theorem fatalError_sec : (fatalError c l s).sec = s.sec := by
  simp [fatalError]
@[simp] theorem fatalError_pmc : (fatalError c l s).pmc = s.pmc := by
  simp [fatalError]
@[simp] theorem fatalError_lt : (fatalError c l s).lt = s.lt := by
  simp [fatalError]
end

/-- The bits of a source after a set: those it had, and those set. -/
theorem Events.get_set (e : Events) (v : Word) (a b : Source) : (e.set v a).get b = if a = b then v else e.get b := by
  cases a <;> cases b <;> rfl

@[simp] theorem setEv_get (src x : Source) (b : Word) (s : State) :
    (setEv src b s).ev.get x = if src = x then s.ev.get x ||| b else s.ev.get x := by
  unfold setEv
  dsimp only
  split
  · rw [irqMessages_ev]; simp only [State.modEv_ev, Events.get_set]; split <;> simp_all
  · simp only [State.modEv_ev, Events.get_set]; split <;> simp_all

/-- The class counters of R476 and the counts of R480. -/
def Health.counts (h : Health) : Nat × Nat × Nat × Nat × List (Nat × Nat) × List Nat × List Nat :=
  (h.errCorr, h.errDeferred, h.errContained, h.errFatal, h.corrections, h.mismatches, h.trips)

/-- A health change in full (R481): the reasons, the count of changes, the grade and the alert. -/
theorem healthChange_hlth (rs : List Reason) (c k l : Nat) (u f : Bool) (s : State) :
    ∃ a, (healthChange rs c k l u f s).hlth = { s.hlth with
      reasons := rs, seq := s.hlth.seq + 1, replace := replaceRequested rs, degraded := isDegraded rs, grade := gradeOf rs
      alertPend := a } := by
  simp only [healthChange, postEvent_hlth, setEv_hlth, State.modHlth_hlth]
  exact ⟨_, rfl⟩

@[simp] theorem healthChange_counts (rs : List Reason) (c k l : Nat) (u f : Bool) (s : State) :
    (healthChange rs c k l u f s).hlth.counts = s.hlth.counts := by
  obtain ⟨a, e⟩ := healthChange_hlth rs c k l u f s
  rw [e]; rfl

@[simp] theorem raiseReason_counts (c k l : Nat) (s : State) : (raiseReason c k l s).hlth.counts = s.hlth.counts := by
  unfold raiseReason; dsimp only
  repeat' split
  · exact healthChange_counts ..
  · rfl
  · exact healthChange_counts ..

@[simp] theorem clearReason_counts (c l : Nat) (s : State) : (clearReason c l s).hlth.counts = s.hlth.counts := by
  unfold clearReason
  split
  · rfl
  · exact healthChange_counts ..

@[simp] theorem countReason_counts (c k l : Nat) (f : Bool) (s : State) :
    (countReason c k l f s).hlth.counts = s.hlth.counts := by
  unfold countReason
  repeat' split
  all_goals simp

@[simp] theorem corrReason_counts (s : State) : (corrReason s).hlth.counts = s.hlth.counts := by simp [corrReason]

/-- A CORRECTED error in full on the counts: one more in all, and on its die at the present time of the always-on clock, while
those of 24 hours ago and earlier are left out. -/
theorem countCorrected_counts (d : Nat) (s : State) : (countCorrected d s).hlth.counts =
    (min (s.hlth.errCorr + 1) (2 ^ 48 - 1), s.hlth.errDeferred, s.hlth.errContained, s.hlth.errFatal,
      (s.hlth.corrections.filter fun x => decide (s.aon.clock < x.2 + dayNs)) ++ [(d, s.aon.clock)], s.hlth.mismatches,
      s.hlth.trips) := by
  unfold countCorrected
  rw [corrReason_counts]
  simp [Health.counts, sat48]

/-- After a raise the reason is active at the confidence given. -/
theorem raiseReason_mem (c k l : Nat) (s : State) : ⟨c, k, l⟩ ∈ (raiseReason c k l s).hlth.reasons := by
  unfold raiseReason; dsimp only
  split
  · obtain ⟨a, e⟩ := healthChange_hlth (s.hlth.reasons ++ [⟨c, k, l⟩]) c k l true (reasonRank c == 2) s
    rw [e]; simp
  · rename_i r hr
    have hm : ⟨c, k, l⟩ ∈ s.hlth.reasons.map fun q => if q.isFor c l then (⟨c, k, l⟩ : Reason) else q :=
      List.mem_map.2 ⟨r, List.mem_of_find?_eq_some hr, by simp [List.find?_some hr]⟩
    split
    · exact hm
    · obtain ⟨a, e⟩ := healthChange_hlth (s.hlth.reasons.map fun q => if q.isFor c l then (⟨c, k, l⟩ : Reason) else q) c k l
        true false s
      rw [e]; exact hm

end Sys2Proof.Machine
end

