-- ==== Sys2Proof/Laws/Held.lean ====
section
/-! SUPPORT. What every shared operation keeps: the queue, the fuses that are blown, and the invariant `Sound`. One lemma
per operation, so that a proof about a command cites them and unfolds nothing. -/

namespace Sys2Proof.Machine

/-- From `s` to `t` the queue stands, no fuse falls back, and `Sound` is kept. -/
structure Held (s t : State) : Prop where
  pending : t.pending = s.pending
  fuses : FusesKept s.sec t.sec
  sound : Sound s → Sound t

/-- An answer whose next state is held. -/
def HeldA (s : State) (a : Answer) : Prop := ∀ t, a = .next t → Held s t

theorem FusesKept.refl (x : Security) : FusesKept x x :=
  ⟨Nat.le_refl _, Nat.le_refl _, fun _ h => h, fun _ _ h _ => h, fun _ h => h⟩

theorem FusesKept.step {x y z : Security} (a : FusesKept x y) (b : FusesKept y z) : FusesKept x z :=
  ⟨a.1.trans b.1, a.2.trans b.2, fun i h => b.3 i (a.3 i h), fun i k h n => b.4 i k (a.4 i k h n) n, fun i h => b.5 i (a.5 i h)⟩

theorem Held.refl (s : State) : Held s s := ⟨rfl, .refl _, fun h => h⟩

theorem Held.step {s t u : State} (a : Held s t) (b : Held t u) : Held s u :=
  ⟨b.1.trans a.1, a.2.step b.2, fun h => b.3 (a.3 h)⟩

/-- The security data that fuses and debug memory are: equal before and after. -/
abbrev Security.core (x : Security) : List (BitVec 256) × BitVec 4 × Nat × Lifecycle × BitVec 256 × List (Nat × Byte) :=
  (x.keyHash, x.revoke, x.svnMin, x.lifecycle, x.deviceSeed, x.rawMem)

theorem FusesKept.of_core {x y : Security} (h : y.core = x.core) : FusesKept x y := by
  simp only [Security.core, Prod.mk.injEq] at h
  obtain ⟨h1, h2, h3, h4, h5, -⟩ := h
  exact ⟨by rw [h4], by rw [h3], by simp [h2], fun _ _ k _ => by rw [h1]; exact k, by simp [h5]⟩

/-- Nothing that `Held` speaks of has changed. -/
theorem Held.same {s t u : State} (h : Held s t) (h1 : u.pending = t.pending) (h2 : u.sec.core = t.sec.core)
    (h3 : u.egr.jobMem = t.egr.jobMem) (h4 : u.shadow = t.shadow) (h5 : u.applied = t.applied) : Held s u := by
  refine h.step ⟨h1, .of_core h2, fun k => ⟨?_, ?_, ?_, ?_⟩⟩
  · rw [h3]; exact k.1
  · have : u.sec.rawMem = t.sec.rawMem := by simp only [Security.core, Prod.mk.injEq] at h2; exact h2.2.2.2.2.2
    rw [this]; exact k.2
  · rw [h4]; exact k.3
  · rw [h5]; exact k.4

section
variable {s t : State} (h : Held s t)
include h
theorem State.modEv_held (f : Events → Events) : Held s (t.modEv f) := h.same rfl rfl rfl rfl rfl
theorem State.modCnt_held (f : Counts → Counts) : Held s (t.modCnt f) := h.same rfl rfl rfl rfl rfl
theorem State.modRw_held (f : RwRegs → RwRegs) : Held s (t.modRw f) := h.same rfl rfl rfl rfl rfl
theorem State.modGuard_held (f : Guard → Guard) : Held s (t.modGuard f) := h.same rfl rfl rfl rfl rfl
theorem State.modTide_held (f : Tide → Tide) : Held s (t.modTide f) := h.same rfl rfl rfl rfl rfl
theorem State.modFab_held (f : Fabric → Fabric) : Held s (t.modFab f) := h.same rfl rfl rfl rfl rfl
theorem State.modMedia_held (f : Media → Media) : Held s (t.modMedia f) := h.same rfl rfl rfl rfl rfl
theorem State.modRun_held (f : JobRun → JobRun) : Held s (t.modRun f) := h.same rfl rfl rfl rfl rfl
theorem State.modBw_held (f : Breakwater → Breakwater) : Held s (t.modBw f) := h.same rfl rfl rfl rfl rfl
theorem State.modHost_held (f : Hosts → Hosts) : Held s (t.modHost f) := h.same rfl rfl rfl rfl rfl
theorem State.modPwr_held (f : Power → Power) : Held s (t.modPwr f) := h.same rfl rfl rfl rfl rfl
theorem State.modAon_held (f : Aon → Aon) : Held s (t.modAon f) := h.same rfl rfl rfl rfl rfl
theorem State.modHlth_held (f : Health → Health) : Held s (t.modHlth f) := h.same rfl rfl rfl rfl rfl
theorem State.modPmc_held (f : Pmc → Pmc) : Held s (t.modPmc f) := h.same rfl rfl rfl rfl rfl
theorem State.modLt_held (f : LinkTest → LinkTest) : Held s (t.modLt f) := h.same rfl rfl rfl rfl rfl
theorem State.modEgr_held (f : Egress → Egress) (k : (f t.egr).jobMem = t.egr.jobMem) : Held s (t.modEgr f) :=
  h.same rfl rfl k rfl rfl
theorem State.modSec_held (f : Security → Security) (k : (f t.sec).core = t.sec.core) : Held s (t.modSec f) :=
  h.same rfl k rfl rfl rfl
theorem State.emit_held (o : Output) : Held s (t.emit o) := h.same rfl rfl rfl rfl rfl
theorem State.draw_held : Held s t.draw.2 := h.same rfl rfl rfl rfl rfl
theorem State.each_held {α : Type} (l : List α) (f : α → State → State) (k : ∀ a u, Held s u → Held s (f a u)) :
    Held s (t.each l f) := by
  unfold State.each
  induction l generalizing t with
  | nil => exact h
  | cons a l ih => exact ih (k a t h)
theorem foldl_held {α : Type} (l : List α) (f : State → α → State) (k : ∀ u a, Held s u → Held s (f u a)) :
    Held s (l.foldl f t) := by
  induction l generalizing t with
  | nil => exact h
  | cons a l ih => exact ih (k t a h)
theorem State.onlyIf_held (c : Bool) (f : State → State) (k : Held s (f t)) : Held s (t.onlyIf c f) := by
  unfold State.onlyIf; split <;> assumption
theorem HeldA.next : HeldA s (.next t) := fun _ e => by cases e; exact h
end

theorem held_of_eq {α : Type} {s : State} {p : α × State} {a : α} {t : State} (h : Held s p.2) (e : p = (a, t)) : Held s t := by
  rw [e] at h; exact h

theorem id_held {s t : State} (h : Held s t) : Held s (id t) := h

theorem held_of_some {s : State} {p : Option State} {t : State} (h : ∀ u, p = some u → Held s u) (e : p = some t) : Held s t :=
  h t e

end Sys2Proof.Machine
end

