-- ==== Sys2Proof/Laws/HeldConfig.lean ====
section
/-! SUPPORT. What `Held` keeps, operation by operation: the shared operations, power domains, the caches, the media pools,
the staged configuration and the Tide. -/

namespace Sys2Proof.Machine

theorem State.modPort_held (p : Port) (f : HostPort → HostPort) {s0 s : State} (h : Held s0 s) :
    Held s0 (State.modPort p f s) := by
  unfold State.modPort
  try dsimp only
  repeat' with_reducible first
    | assumption | apply State.modHost_held

theorem State.byOwner_held (o : Owner) (f : State → State) {s0 s : State} (h : Held s0 s) (k : Held s0 (f s)) :
    Held s0 (s.byOwner o f) := State.onlyIf_held h _ _ k

theorem sendMsix_held (p : Port) (vec : Nat) {s0 s : State} (h : Held s0 s) :
    Held s0 (sendMsix p vec s) := by
  unfold sendMsix
  try dsimp only
  repeat' with_reducible first
    | assumption | apply State.modPort_held | apply State.emit_held | split

theorem flushMsix_held (p : Port) {s0 s : State} (h : Held s0 s) :
    Held s0 (flushMsix p s) := by
  unfold flushMsix
  try dsimp only
  repeat' with_reducible first
    | assumption | apply sendMsix_held | apply State.modPort_held | apply State.each_held | split | intro _

theorem irqMessage_held (p : Port) (i : Nat) {s0 s : State} (h : Held s0 s) :
    Held s0 (irqMessage p i s) := by
  unfold irqMessage
  try dsimp only
  repeat' with_reducible first
    | assumption | apply sendMsix_held | split

theorem irqMessages_held (i : Nat) {s0 s : State} (h : Held s0 s) :
    Held s0 (irqMessages i s) := by
  unfold irqMessages
  try dsimp only
  repeat' with_reducible first
    | assumption | apply irqMessage_held

theorem setEv_held (src : Source) (bits : Word) {s0 s : State} (h : Held s0 s) :
    Held s0 (setEv src bits s) := by
  unfold setEv
  try dsimp only
  repeat' with_reducible first
    | assumption | apply irqMessages_held | apply State.modEv_held | split

theorem clearEv_held (src : Source) (v : Word) {s0 s : State} (h : Held s0 s) :
    Held s0 (clearEv src v s) := by
  unfold clearEv
  try dsimp only
  repeat' with_reducible first
    | assumption | apply irqMessages_held | apply State.modEv_held | split

theorem postEvent_held (code : Nat) (rise : Bool) (detail : List Byte) {s0 s : State} (h : Held s0 s) :
    Held s0 (postEvent code rise detail s) := by
  unfold postEvent
  try dsimp only
  repeat' with_reducible first
    | assumption | apply State.modHost_held

theorem healthChange_held (rs : List Reason) (code conf loc : Nat) (up fatal : Bool) {s0 s : State} (h : Held s0 s) :
    Held s0 (healthChange rs code conf loc up fatal s) := by
  unfold healthChange
  try dsimp only
  repeat' with_reducible first
    | assumption | apply postEvent_held | apply setEv_held | apply State.modHlth_held

theorem raiseReason_held (code conf loc : Nat) {s0 s : State} (h : Held s0 s) :
    Held s0 (raiseReason code conf loc s) := by
  unfold raiseReason
  try dsimp only
  repeat' with_reducible first
    | assumption | apply healthChange_held | apply State.modHlth_held | split

theorem clearReason_held (code loc : Nat) {s0 s : State} (h : Held s0 s) :
    Held s0 (clearReason code loc s) := by
  unfold clearReason
  try dsimp only
  repeat' with_reducible first
    | assumption | apply healthChange_held | split

theorem countReason_held (code conf loc : Nat) (fall : Bool) {s0 s : State} (h : Held s0 s) :
    Held s0 (countReason code conf loc fall s) := by
  unfold countReason
  try dsimp only
  repeat' with_reducible first
    | assumption | apply clearReason_held | apply raiseReason_held | split

theorem State.modDieCounters_held (die : Nat) (f : DieCounters → DieCounters) {s0 s : State} (h : Held s0 s) :
    Held s0 (State.modDieCounters die f s) := by
  unfold State.modDieCounters
  try dsimp only
  repeat' with_reducible first
    | assumption | apply State.modEv_held | apply State.modPmc_held | apply State.onlyIf_held | split

theorem countPerf_held (die code : Nat) {s0 s : State} (h : Held s0 s) :
    Held s0 (countPerf die code s) := by
  unfold countPerf
  try dsimp only
  repeat' with_reducible first
    | assumption | apply State.modDieCounters_held | split

theorem countFixed_held (spd i : Nat) {s0 s : State} (h : Held s0 s) :
    Held s0 (countFixed spd i s) := by
  unfold countFixed
  try dsimp only
  repeat' with_reducible first
    | assumption | apply State.modDieCounters_held | split

theorem corrReason_held {s0 s : State} (h : Held s0 s) :
    Held s0 (corrReason s) := by
  unfold corrReason
  try dsimp only
  repeat' with_reducible first
    | assumption | apply countReason_held

theorem countCorrected_held (die : Nat) {s0 s : State} (h : Held s0 s) :
    Held s0 (countCorrected die s) := by
  unfold countCorrected
  try dsimp only
  repeat' with_reducible first
    | assumption | apply corrReason_held | apply countFixed_held | apply State.modHlth_held

theorem lockstepReason_held (pair : Nat) {s0 s : State} (h : Held s0 s) :
    Held s0 (lockstepReason pair s) := by
  unfold lockstepReason
  try dsimp only
  repeat' with_reducible first
    | assumption | apply countReason_held | apply clearReason_held | split

theorem tripReason_held {s0 s : State} (h : Held s0 s) :
    Held s0 (tripReason s) := by
  unfold tripReason
  try dsimp only
  repeat' with_reducible first
    | assumption | apply countReason_held | apply clearReason_held | split

theorem countDeferred_held {s0 s : State} (h : Held s0 s) :
    Held s0 (countDeferred s) := by
  unfold countDeferred
  try dsimp only
  repeat' with_reducible first
    | assumption | apply State.modHlth_held

theorem countContained_held {s0 s : State} (h : Held s0 s) :
    Held s0 (countContained s) := by
  unfold countContained
  try dsimp only
  repeat' with_reducible first
    | assumption | apply State.modHlth_held

theorem fatalError_held (code loc : Nat) {s0 s : State} (h : Held s0 s) :
    Held s0 (fatalError code loc s) := by
  unfold fatalError
  try dsimp only
  repeat' with_reducible first
    | assumption | apply raiseReason_held | apply State.modHlth_held | apply State.modEgr_held
    | exact @rfl (List (Nat × Byte)) _

theorem State.modSpd_held (n : Nat) (f : Spd → Spd) {s0 s : State} (h : Held s0 s) :
    Held s0 (State.modSpd n f s) := by
  unfold State.modSpd
  try dsimp only
  repeat' with_reducible first
    | assumption | apply State.modFab_held

theorem sluCycle_held (k : Nat) (take : Bool) (t : Int) {s0 s : State} (h : Held s0 s) :
    Held s0 (sluCycle k take t s) := by
  unfold sluCycle
  try dsimp only
  repeat' with_reducible first
    | assumption | apply setEv_held | apply State.modBw_held | split

theorem sluApply_held (immediate : Bool) (old : StRegs) {s0 s : State} (h : Held s0 s) :
    Held s0 (sluApply immediate old s) := by
  unfold sluApply
  try dsimp only
  repeat' with_reducible first
    | assumption | apply sluCycle_held | apply State.modBw_held | apply State.each_held | split | intro _

theorem sluStepStart_held (t0 : Int) {s0 s : State} (h : Held s0 s) :
    Held s0 (sluStepStart t0 s) := by
  unfold sluStepStart
  try dsimp only
  repeat' with_reducible first
    | assumption | apply sluCycle_held | apply State.each_held | split | intro _

theorem sluEntryChange_held (k : Nat) {s0 s : State} (h : Held s0 s) :
    Held s0 (sluEntryChange k s) := by
  unfold sluEntryChange
  try dsimp only
  repeat' with_reducible first
    | assumption | apply sluCycle_held | apply State.modBw_held | split

theorem execSluiceEntryChange_held (list : Fin 4) {s0 s : State} (h : Held s0 s) :
    HeldA s0 (execSluiceEntryChange list s) := by
  unfold execSluiceEntryChange
  try dsimp only
  repeat' with_reducible first
    | assumption | apply HeldA.next | apply sluEntryChange_held

theorem execSluiceListTakeover_held (list : Fin 4) {s0 s : State} (h : Held s0 s) :
    HeldA s0 (execSluiceListTakeover list s) := by
  unfold execSluiceListTakeover
  try dsimp only
  repeat' with_reducible first
    | assumption | apply HeldA.next | apply sluCycle_held | split

theorem bwApply_held (old : StRegs) {s0 s : State} (h : Held s0 s) :
    Held s0 (bwApply old s) := by
  unfold bwApply
  try dsimp only
  repeat' with_reducible first
    | assumption | apply HeldA.next | apply State.modBw_held | apply State.modEgr_held
    | exact @rfl (List (Nat × Byte)) _

theorem State.modPower_held (n : Nat) (f : SpdPower → SpdPower) {s0 s : State} (h : Held s0 s) :
    Held s0 (State.modPower n f s) := by
  unfold State.modPower
  try dsimp only
  repeat' with_reducible first
    | assumption | apply State.modSpd_held

theorem sendOnEdges_held (n : Nat) (k : FlitKind) {s0 s : State} (h : Held s0 s) :
    Held s0 (sendOnEdges n k s) := by
  unfold sendOnEdges
  try dsimp only
  repeat' with_reducible first
    | assumption | apply State.modFab_held | apply State.emit_held | apply State.each_held | split | intro _

theorem entryStepOn_held (k n : Nat) {s0 s : State} (h : Held s0 s) :
    Held s0 (entryStepOn k n s) := by
  unfold entryStepOn
  try dsimp only
  repeat' with_reducible first
    | assumption | apply sendOnEdges_held | apply State.modPower_held | split

theorem exitStepOn_held (k n : Nat) {s0 s : State} (h : Held s0 s) :
    Held s0 (exitStepOn k n s) := by
  unfold exitStepOn
  try dsimp only
  repeat' with_reducible first
    | assumption | apply sendOnEdges_held | apply State.modPower_held | split

theorem exitStepAll_held (k : Nat) (l : List Nat) {s0 s : State} (h : Held s0 s) :
    Held s0 (exitStepAll k l s) := by
  unfold exitStepAll
  try dsimp only
  repeat' with_reducible first
    | assumption | apply exitStepOn_held | apply State.each_held | split | intro _

theorem nightEntry_held {s0 s : State} (h : Held s0 s) :
    Held s0 (nightEntry s) := by
  unfold nightEntry
  try dsimp only
  repeat' with_reducible first
    | assumption | apply entryStepOn_held | apply State.each_held | split | intro _

theorem nextExitStep_held {s0 s : State} (h : Held s0 s) :
    Held s0 (nextExitStep s) := by
  unfold nextExitStep
  try dsimp only
  repeat' with_reducible first
    | assumption | apply exitStepAll_held | apply State.modPwr_held

theorem beginExit_held {s0 s : State} (h : Held s0 s) :
    Held s0 (beginExit s) := by
  unfold beginExit
  try dsimp only
  repeat' with_reducible first
    | assumption | apply nextExitStep_held | apply State.modPwr_held | split

theorem finishExit_held {s0 s : State} (h : Held s0 s) :
    Held s0 (finishExit s) := by
  unfold finishExit
  try dsimp only
  repeat' with_reducible first
    | assumption | apply nextExitStep_held | apply State.each_held | split | intro _

theorem wakeBit_held (i : Nat) {s0 s : State} (h : Held s0 s) :
    Held s0 (wakeBit i s) := by
  unfold wakeBit
  try dsimp only
  repeat' with_reducible first
    | assumption | apply State.modAon_held

theorem wake_held (i : Nat) (level : Bool) {s0 s : State} (h : Held s0 s) :
    Held s0 (wake i level s) := by
  unfold wake
  try dsimp only
  repeat' with_reducible first
    | assumption | apply wakeBit_held | apply beginExit_held | apply State.modPwr_held | split

theorem State.modConn_held (i : Nat) (f : Conn → Conn) {s0 s : State} (h : Held s0 s) :
    Held s0 (State.modConn i f s) := by
  unfold State.modConn
  try dsimp only
  repeat' with_reducible first
    | assumption | apply State.modEgr_held | exact @rfl (List (Nat × Byte)) _

theorem overcommitRise_held {s0 s : State} (h : Held s0 s) :
    Held s0 (overcommitRise s) := by
  unfold overcommitRise
  try dsimp only
  repeat' with_reducible first
    | assumption | apply postEvent_held | apply setEv_held | apply State.modBw_held | split

theorem postWr_held (i : Nat) (wr : Wr) {s0 s : State} (h : Held s0 s) :
    Held s0 (postWr i wr s) := by
  unfold postWr
  try dsimp only
  repeat' with_reducible first
    | assumption | apply overcommitRise_held | apply State.modConn_held | split

theorem postWrite_held (i : Nat) (owner : WrFor) (addr : Nat) (rkey : Word) (bytes : List Byte) (wait : Option (Nat × Nat)) (budget : Nat) {s0 s : State} (h : Held s0 s) :
    Held s0 (postWrite i owner addr rkey bytes wait budget s) := by
  unfold postWrite
  try dsimp only
  repeat' with_reducible first
    | assumption | apply postWr_held | split

theorem postSend_held (i : Nat) (owner : WrFor) (bytes : List Byte) {s0 s : State} (h : Held s0 s) :
    Held s0 (postSend i owner bytes s) := by
  unfold postSend
  try dsimp only
  repeat' with_reducible first
    | assumption | apply postWr_held | split

theorem goBack_held (i : Nat) {s0 s : State} (h : Held s0 s) :
    Held s0 (goBack i s) := by
  unfold goBack
  try dsimp only
  repeat' with_reducible first
    | assumption | apply State.modConn_held | apply countPerf_held | apply State.modCnt_held | apply State.each_held
    | split | intro _

theorem openQuiet_held (i : Nat) {s0 s : State} (h : Held s0 s) :
    Held s0 (openQuiet i s) := by
  unfold openQuiet
  try dsimp only
  repeat' with_reducible first
    | assumption | apply State.modConn_held

theorem changePath_held (i : Nat) (alt : Bool) {s0 s : State} (h : Held s0 s) :
    Held s0 (changePath i alt s) := by
  unfold changePath
  try dsimp only
  repeat' with_reducible first
    | assumption | apply openQuiet_held | apply State.modConn_held | apply setEv_held

theorem leaveLink_held (m : Nat) {s0 s : State} (h : Held s0 s) :
    Held s0 (leaveLink m s) := by
  unfold leaveLink
  try dsimp only
  repeat' with_reducible first
    | assumption | apply changePath_held | apply goBack_held | apply State.each_held | split | intro _

theorem downLinks_held (ms : List Nat) {s0 s : State} (h : Held s0 s) :
    Held s0 (downLinks ms s) := by
  unfold downLinks
  try dsimp only
  repeat' with_reducible first
    | assumption | apply leaveLink_held | apply wake_held | apply setEv_held | apply State.modEgr_held
    | apply State.each_held | apply foldl_held | exact @rfl (List (Nat × Byte)) _ | split | intro _

theorem State.modPart_held (slot : Nat) (f : Partition → Partition) {s0 s : State} (h : Held s0 s) :
    Held s0 (State.modPart slot f s) := by
  unfold State.modPart
  try dsimp only
  repeat' with_reducible first
    | assumption | apply State.modMedia_held

theorem State.modStream_held (n : Nat) (f : Stream → Stream) {s0 s : State} (h : Held s0 s) :
    Held s0 (State.modStream n f s) := by
  unfold State.modStream
  try dsimp only
  repeat' with_reducible first
    | assumption | apply State.modRun_held

theorem setMedia_held (f : Media → Media) {s0 s : State} (h : Held s0 s) :
    Held s0 (setMedia f s) := by
  unfold setMedia
  try dsimp only
  repeat' with_reducible first
    | assumption | apply postEvent_held | apply State.modMedia_held | split

theorem mediaReasons_held {s0 s : State} (h : Held s0 s) :
    Held s0 (mediaReasons s) := by
  unfold mediaReasons
  try dsimp only
  repeat' with_reducible first
    | assumption | apply clearReason_held | apply raiseReason_held | split

theorem programMedia_held (f : Media → Media) {s0 s : State} (h : Held s0 s) :
    Held s0 (programMedia f s) := by
  unfold programMedia
  try dsimp only
  repeat' with_reducible first
    | assumption | apply mediaReasons_held | apply setMedia_held

theorem drawFailed_held (n k : Nat) {s0 s : State} (h : Held s0 s) :
    Held s0 (drawFailed n k s) := by
  unfold drawFailed
  try dsimp only
  repeat' with_reducible first
    | assumption | apply State.modSpd_held | apply countFixed_held | apply countPerf_held | apply setEv_held

theorem drawOrPart_held (n o : Nat) (hbm : Bool) (req : Option ReqKey) (sizes : List Nat) {s0 s : State} (h : Held s0 s) :
    ∀ u, drawOrPart n o hbm req sizes s = .ok u → Held s0 u := by
  intro u e
  unfold drawOrPart at e
  split at e
  · cases e
  · cases e; exact State.modSpd_held _ _ h
  · cases e

theorem drawBerths_held (n o : Nat) (hbm : Bool) (req : Option ReqKey) (sizes : List Nat) {s0 s : State} (h : Held s0 s) :
    Held s0 (drawBerths n o hbm req sizes s).2 := by
  unfold drawBerths
  try dsimp only
  repeat' with_reducible first
    | assumption | apply drawFailed_held | split | intro _ | refine held_of_eq ?_ (by assumption)
    | refine drawOrPart_held _ _ _ _ _ ?_ _ (by assumption)

theorem releaseBerths_held (n : Nat) (req : ReqKey) {s0 s : State} (h : Held s0 s) :
    Held s0 (releaseBerths n req s) := by
  unfold releaseBerths
  try dsimp only
  repeat' with_reducible first
    | assumption | apply State.modSpd_held

theorem keepSpill_held (n : Nat) (keep : List CacheEntry → List CacheEntry) {s0 s : State} (h : Held s0 s) :
    Held s0 (keepSpill n keep s) := by
  unfold keepSpill
  try dsimp only
  repeat' with_reducible first
    | assumption | apply State.modSpd_held | apply State.modMedia_held | split

theorem spillWrite_held (n : Nat) (e : CacheEntry) {s0 s : State} (h : Held s0 s) :
    Held s0 (spillWrite n e s) := by
  unfold spillWrite
  try dsimp only
  repeat' with_reducible first
    | assumption | apply keepSpill_held | apply drawBerths_held | apply programMedia_held | apply countPerf_held
    | split

theorem cacheAdmit_held (n : Nat) (dec : Bool) (dsSlot index : Nat) (remote : Bool) (form : Form) (digest : Dword) (made : Option DecodeParams) {s0 s : State} (h : Held s0 s) :
    Held s0 (cacheAdmit n dec dsSlot index remote form digest made s) := by
  unfold cacheAdmit
  try dsimp only
  repeat' with_reducible first
    | assumption | apply spillWrite_held | apply drawBerths_held | apply State.modSpd_held | apply countFixed_held
    | apply countPerf_held | apply State.each_held | split | intro _ | refine held_of_eq ?_ (by assumption)
    | exact Held.same h rfl rfl rfl rfl rfl | refine id_held ?_

theorem countLookup_held (n : Nat) (dec hit : Bool) {s0 s : State} (h : Held s0 s) :
    Held s0 (countLookup n dec hit s) := by
  unfold countLookup
  try dsimp only
  repeat' with_reducible first
    | assumption | apply countFixed_held | apply countPerf_held

theorem cacheHit_held (n : Nat) (dec : Bool) (dsSlot index : Nat) (remote : Bool) (stream : Nat) (g : Nat) {s0 s : State} (h : Held s0 s) :
    Held s0 (cacheHit n dec dsSlot index remote stream g s) := by
  unfold cacheHit
  try dsimp only
  repeat' with_reducible first
    | assumption | apply State.modSpd_held

theorem spillHit_held (n dsSlot index : Nat) (remote : Bool) (stream : Nat) (g : Nat) {s0 s : State} (h : Held s0 s) :
    Held s0 (spillHit n dsSlot index remote stream g s) := by
  unfold spillHit
  try dsimp only
  repeat' with_reducible first
    | assumption | apply State.modSpd_held

theorem cacheUnpin_held (n : Nat) (dec : Bool) (dsSlot index : Nat) (remote : Bool) {s0 s : State} (h : Held s0 s) :
    Held s0 (cacheUnpin n dec dsSlot index remote s) := by
  unfold cacheUnpin
  try dsimp only
  repeat' with_reducible first
    | assumption | apply State.modSpd_held

theorem cacheDrop_held (n : Nat) (dec : Bool) (dsSlot index : Nat) (remote : Bool) {s0 s : State} (h : Held s0 s) :
    Held s0 (cacheDrop n dec dsSlot index remote s) := by
  unfold cacheDrop
  try dsimp only
  repeat' with_reducible first
    | assumption | apply State.modSpd_held

theorem markKeys_held (dsSlot : Nat) (f : CacheEntry → CacheEntry) {s0 s : State} (h : Held s0 s) :
    Held s0 (markKeys dsSlot f s) := by
  unfold markKeys
  try dsimp only
  repeat' with_reducible first
    | assumption | apply State.modFab_held

theorem dueKeys_held (dsSlot : Nat) (which : CacheEntry → Bool) {s0 s : State} (h : Held s0 s) :
    Held s0 (dueKeys dsSlot which s) := by
  unfold dueKeys
  try dsimp only
  repeat' with_reducible first
    | assumption | apply markKeys_held

theorem staleKeys_held (dsSlot : Nat) {s0 s : State} (h : Held s0 s) :
    Held s0 (staleKeys dsSlot s) := by
  unfold staleKeys
  try dsimp only
  repeat' with_reducible first
    | assumption | apply markKeys_held

theorem execKeySweepDone_held (spd : Fin 8) {s0 s : State} (h : Held s0 s) :
    HeldA s0 (execKeySweepDone spd s) := by
  unfold execKeySweepDone
  try dsimp only
  repeat' with_reducible first
    | assumption | apply HeldA.next | apply State.modSpd_held | apply countFixed_held | apply countPerf_held | split

theorem execCacheSplitDone_held (spd : Fin 8) {s0 s : State} (h : Held s0 s) :
    HeldA s0 (execCacheSplitDone spd s) := by
  unfold execCacheSplitDone
  try dsimp only
  repeat' with_reducible first
    | assumption | apply HeldA.next | apply State.modSpd_held | apply setEv_held | split

theorem updateThrottle_held {s0 s : State} (h : Held s0 s) :
    Held s0 (updateThrottle s) := by
  unfold updateThrottle
  try dsimp only
  repeat' with_reducible first
    | assumption | apply setEv_held | apply State.modPwr_held | split

theorem opSettle_held {s0 s : State} (h : Held s0 s) :
    Held s0 (opSettle s) := by
  unfold opSettle
  try dsimp only
  repeat' with_reducible first
    | assumption | apply setEv_held | apply State.modTide_held | apply State.modPwr_held | split

theorem opRetarget_held {s0 s : State} (h : Held s0 s) :
    Held s0 (opRetarget s) := by
  unfold opRetarget
  try dsimp only
  repeat' with_reducible first
    | assumption | apply opSettle_held | apply updateThrottle_held | apply State.modFab_held | apply State.modPwr_held
    | split

theorem execOpStepDone_held (spd : Fin 8) (freqStep : Bool) {s0 s : State} (h : Held s0 s) :
    HeldA s0 (execOpStepDone spd freqStep s) := by
  unfold execOpStepDone
  try dsimp only
  repeat' with_reducible first
    | assumption | apply HeldA.next | apply opSettle_held | apply State.modSpd_held | apply setEv_held | split

theorem egressApply_held (old : StRegs) {s0 s : State} (h : Held s0 s) :
    Held s0 (egressApply old s) := by
  unfold egressApply
  try dsimp only
  repeat' with_reducible first
    | assumption | apply downLinks_held | apply State.modEgr_held | exact @rfl (List (Nat × Byte)) _

theorem timeSourceApply_held (old : Word) {s0 s : State} (h : Held s0 s) :
    Held s0 (timeSourceApply old s) := by
  unfold timeSourceApply
  try dsimp only
  repeat' with_reducible first
    | assumption | apply State.modTide_held | split

theorem groupEffect_held (g : Nat) (old : StRegs) {s0 s : State} (h : Held s0 s) :
    Held s0 (groupEffect g old s) := by
  unfold groupEffect
  try dsimp only
  repeat' with_reducible first
    | assumption | apply timeSourceApply_held | apply egressApply_held | apply opRetarget_held | apply keepSpill_held
    | apply bwApply_held | apply sluApply_held | apply State.modFab_held | apply State.each_held | split | intro _

theorem guardCheck_held {s0 s : State} (h : Held s0 s) :
    Held s0 (guardCheck s) := by
  unfold guardCheck
  try dsimp only
  repeat' with_reducible first
    | assumption | apply setEv_held | apply State.modGuard_held | split

theorem guardApply_held {s0 s : State} (h : Held s0 s) :
    Held s0 (guardApply s) := by
  unfold guardApply
  try dsimp only
  repeat' with_reducible first
    | assumption | apply guardCheck_held | apply State.modGuard_held

theorem copyGroup_masked (g : Nat) {sh ap : StRegs} (h1 : sh.masked = true) (h2 : ap.masked = true) :
    (StRegs.copyGroup g sh ap).masked = true := by
  simp only [StRegs.masked, StRegs.direct, directMasks, List.zipWith, List.all_cons, List.all_nil, Bool.and_eq_true, Bool.and_true, id] at h1 h2
  unfold StRegs.copyGroup
  split <;> simp only [StRegs.masked, StRegs.direct, directMasks, List.zipWith, List.all_cons, List.all_nil, Bool.and_eq_true, Bool.and_true, id] <;> simp only [h1, h2, and_self]

theorem copyGroups_masked (gs : List Nat) {sh ap : StRegs} (h1 : sh.masked = true) (h2 : ap.masked = true) :
    (gs.foldl (fun ap g => StRegs.copyGroup g sh ap) ap).masked = true := by
  induction gs generalizing ap with
  | nil => exact h2
  | cons g gs ih => exact ih (copyGroup_masked g h1 h2)

theorem applyGroups_held (gs : List Nat) {s0 s : State} (h : Held s0 s) :
    Held s0 (applyGroups gs s) := by
  unfold applyGroups
  split
  · exact h
  · have key : Held s0 { s with
        applied := gs.foldl (fun ap g => StRegs.copyGroup g s.shadow ap) s.applied
        arms := s.arms.filter fun a => !gs.contains a.group } := by
      refine ⟨h.1, h.2, fun k => ⟨(h.3 k).1, (h.3 k).2, (h.3 k).3, ?_⟩⟩
      exact copyGroups_masked gs (h.3 k).3 (h.3 k).4
    dsimp only
    split
    · exact setEv_held _ _ (guardApply_held (State.each_held (setEv_held _ _ key) _ _ fun a u k => groupEffect_held _ _ k))
    · exact guardApply_held (State.each_held (setEv_held _ _ key) _ _ fun a u k => groupEffect_held _ _ k)

theorem takeBoundaries_held (due : Arm → Bool) {s0 s : State} (h : Held s0 s) :
    Held s0 (takeBoundaries due s) := by
  unfold takeBoundaries
  try dsimp only
  repeat' with_reducible first
    | assumption | apply applyGroups_held | apply setEv_held | split

theorem armGroup_held (g : Nat) {s0 s : State} (h : Held s0 s) :
    Held s0 (armGroup g s) := by
  unfold armGroup
  try dsimp only
  repeat' with_reducible first
    | assumption | apply setEv_held | split | intro _ | refine held_of_eq ?_ (by assumption)
    | exact Held.same h rfl rfl rfl rfl rfl

theorem armGroups_held (m : BitVec 11) {s0 s : State} (h : Held s0 s) :
    Held s0 (armGroups m s) := by
  unfold armGroups
  try dsimp only
  repeat' with_reducible first
    | assumption | apply armGroup_held | apply State.each_held | split | intro _

theorem cancelGroups_held (m : BitVec 11) {s0 s : State} (h : Held s0 s) :
    Held s0 (cancelGroups m s) := by
  unfold cancelGroups
  try dsimp only
  repeat' with_reducible first
    | assumption | split | intro _ | refine held_of_eq ?_ (by assumption) | exact Held.same h rfl rfl rfl rfl rfl

theorem execCfgArm_held (writer : Owner) (groups : BitVec 11) {s0 s : State} (h : Held s0 s) :
    HeldA s0 (execCfgArm writer groups s) := by
  unfold execCfgArm
  try dsimp only
  repeat' with_reducible first
    | assumption | apply HeldA.next | apply armGroups_held | apply State.byOwner_held

theorem execCfgCancel_held (writer : Owner) (groups : BitVec 11) {s0 s : State} (h : Held s0 s) :
    HeldA s0 (execCfgCancel writer groups s) := by
  unfold execCfgCancel
  try dsimp only
  repeat' with_reducible first
    | assumption | apply HeldA.next | apply cancelGroups_held | apply State.byOwner_held

theorem execStepBoundaryApply_held {s0 s : State} (h : Held s0 s) :
    HeldA s0 (execStepBoundaryApply s) := by
  unfold execStepBoundaryApply
  try dsimp only
  repeat' with_reducible first
    | assumption | apply HeldA.next | apply takeBoundaries_held

theorem execGuardComputeStart_held {s0 s : State} (h : Held s0 s) :
    HeldA s0 (execGuardComputeStart s) := by
  unfold execGuardComputeStart
  try dsimp only
  repeat' with_reducible first
    | assumption | apply HeldA.next | apply State.modGuard_held

theorem execGuardComputeDone_held {s0 s : State} (h : Held s0 s) :
    HeldA s0 (execGuardComputeDone s) := by
  unfold execGuardComputeDone
  try dsimp only
  repeat' with_reducible first
    | assumption | apply HeldA.next | apply guardCheck_held | apply State.modGuard_held | split

theorem guardCommit_held {s0 s : State} (h : Held s0 s) :
    Held s0 (guardCommit s) := by
  unfold guardCommit
  try dsimp only
  repeat' with_reducible first
    | assumption | apply HeldA.next | apply guardCheck_held | apply setEv_held | apply State.modGuard_held | split

theorem execGuardCommit_held (writer : Owner) {s0 s : State} (h : Held s0 s) :
    HeldA s0 (execGuardCommit writer s) := by
  unfold execGuardCommit
  try dsimp only
  repeat' with_reducible first
    | assumption | apply HeldA.next | apply guardCommit_held | apply State.byOwner_held

theorem acceptStart_held (step : Nat) (t : Int) (interval : Option Nat) (restart : Bool) (seq : Option Nat) (evt : Word) {s0 s : State} (h : Held s0 s) :
    Held s0 (acceptStart step t interval restart seq evt s) := by
  unfold acceptStart
  try dsimp only
  repeat' with_reducible first
    | assumption | apply takeBoundaries_held | apply wake_held | apply sluStepStart_held | apply setEv_held
    | apply State.modTide_held | apply State.modRun_held

theorem rejectMark_held {s0 s : State} (h : Held s0 s) :
    Held s0 (rejectMark s) := by
  unfold rejectMark
  try dsimp only
  repeat' with_reducible first
    | assumption | apply setEv_held | apply State.modTide_held

theorem judge_held (step : Nat) (t : Int) (restart : Bool) (seq : Option Nat) {z0 s0 : State} (h : Held z0 s0) :
    Held z0 (judge step t restart seq s0) := by
  unfold judge
  try dsimp only
  repeat' with_reducible first
    | assumption | apply rejectMark_held | apply acceptStart_held | apply setEv_held | apply State.modTide_held
    | split

theorem restartEstimator_held {s0 s : State} (h : Held s0 s) :
    Held s0 (restartEstimator s) := by
  unfold restartEstimator
  try dsimp only
  repeat' with_reducible first
    | assumption | apply State.modTide_held

theorem receiveMark_held (sourceOk : Bool) (msg : List Byte) (rx : Nat) {s0 s : State} (h : Held s0 s) :
    Held s0 (receiveMark sourceOk msg rx s) := by
  unfold receiveMark
  try dsimp only
  repeat' with_reducible first
    | assumption | apply restartEstimator_held | apply judge_held | apply rejectMark_held | apply setEv_held
    | apply State.modTide_held | split

theorem execStepMarkDatagram_held (d : MarkDatagram) {s0 s : State} (h : Held s0 s) :
    HeldA s0 (execStepMarkDatagram d s) := by
  unfold execStepMarkDatagram
  try dsimp only
  repeat' with_reducible first
    | assumption | apply HeldA.next | apply receiveMark_held | split

theorem releaseBarrier_held (t : Int) {s0 s : State} (h : Held s0 s) :
    Held s0 (releaseBarrier t s) := by
  unfold releaseBarrier
  try dsimp only
  repeat' with_reducible first
    | assumption | apply HeldA.next | apply acceptStart_held | apply State.modTide_held

theorem execSyncInEdge_held (captured : Dword) (rising : Bool) {z0 s0 : State} (h : Held z0 s0) :
    HeldA z0 (execSyncInEdge captured rising s0) := by
  unfold execSyncInEdge
  try dsimp only
  repeat' with_reducible first
    | assumption | apply HeldA.next | apply releaseBarrier_held | apply judge_held | apply State.modTide_held | split

theorem execMarkPairWindowExpiry_held {s0 s : State} (h : Held s0 s) :
    HeldA s0 (execMarkPairWindowExpiry s) := by
  unfold execMarkPairWindowExpiry
  try dsimp only
  repeat' with_reducible first
    | assumption | apply HeldA.next | apply judge_held | apply setEv_held | apply State.modTide_held | split

theorem execStepLost_held {s0 s : State} (h : Held s0 s) :
    HeldA s0 (execStepLost s) := by
  unfold execStepLost
  try dsimp only
  repeat' with_reducible first
    | assumption | apply HeldA.next | apply setEv_held | apply State.modTide_held | split

theorem disciplineTime_held (offset : Int) {s0 s : State} (h : Held s0 s) :
    Held s0 (disciplineTime offset s) := by
  unfold disciplineTime
  try dsimp only
  repeat' with_reducible first
    | assumption | apply HeldA.next | split | intro _ | refine held_of_eq ?_ (by assumption)
    | exact Held.same h rfl rfl rfl rfl rfl

theorem losePtp_held {s0 s : State} (h : Held s0 s) :
    Held s0 (losePtp s) := by
  unfold losePtp
  try dsimp only
  repeat' with_reducible first
    | assumption | apply setEv_held | apply State.modTide_held | split

theorem leaveHoldover_held (isAlt : Bool) (offset : Int) (wasAlt : Bool) {s0 s : State} (h : Held s0 s) :
    Held s0 (leaveHoldover isAlt offset wasAlt s) := by
  unfold leaveHoldover
  try dsimp only
  repeat' with_reducible first
    | assumption | apply disciplineTime_held | apply setEv_held | apply State.modTide_held | split

theorem execPtpSyncRx_held (port : Fin 8) (msg : PtpSync) {s0 s : State} (h : Held s0 s) :
    HeldA s0 (execPtpSyncRx port msg s) := by
  unfold execPtpSyncRx
  try dsimp only
  repeat' with_reducible first
    | assumption | apply HeldA.next | apply leaveHoldover_held | apply losePtp_held | apply disciplineTime_held
    | apply State.modTide_held | split

theorem execTimeSourceLost_held {s0 s : State} (h : Held s0 s) :
    HeldA s0 (execTimeSourceLost s) := by
  unfold execTimeSourceLost
  try dsimp only
  repeat' with_reducible first
    | assumption | apply HeldA.next | apply losePtp_held | apply setEv_held | apply State.modTide_held | split

theorem execPtpFailback_held {s0 s : State} (h : Held s0 s) :
    HeldA s0 (execPtpFailback s) := by
  unfold execPtpFailback
  try dsimp only
  repeat' with_reducible first
    | assumption | apply HeldA.next | apply setEv_held | apply State.modTide_held | split

theorem execPpsEdge_held (captured : Dword) {s0 s : State} (h : Held s0 s) :
    HeldA s0 (execPpsEdge captured s) := by
  unfold execPpsEdge
  try dsimp only
  repeat' with_reducible first
    | assumption | apply HeldA.next | apply disciplineTime_held | apply State.modTide_held | split

theorem takeSnap_held (o : Owner) {s0 s : State} (h : Held s0 s) :
    Held s0 (takeSnap o s) := by
  unfold takeSnap
  try dsimp only
  repeat' with_reducible first
    | assumption | apply HeldA.next | apply State.modTide_held

theorem cancelBarrier_held {s0 s : State} (h : Held s0 s) :
    Held s0 (cancelBarrier s) := by
  unfold cancelBarrier
  try dsimp only
  repeat' with_reducible first
    | assumption | apply HeldA.next | apply State.modTide_held | split

theorem armBarrier_held {s0 s : State} (h : Held s0 s) :
    Held s0 (armBarrier s) := by
  unfold armBarrier
  try dsimp only
  repeat' with_reducible first
    | assumption | apply HeldA.next | apply State.modTide_held | split

theorem tideControl_held (o : Owner) (v : Word) {s0 s : State} (h : Held s0 s) :
    Held s0 (tideControl o v s) := by
  unfold tideControl
  try dsimp only
  repeat' with_reducible first
    | assumption | apply HeldA.next | apply armBarrier_held | apply cancelBarrier_held | apply takeSnap_held
    | apply restartEstimator_held | split

theorem execTideSnap_held (owner : Owner) {s0 s : State} (h : Held s0 s) :
    HeldA s0 (execTideSnap owner s) := by
  unfold execTideSnap
  try dsimp only
  repeat' with_reducible first
    | assumption | apply HeldA.next | apply takeSnap_held | apply State.byOwner_held

theorem execTideCancel_held (owner : Owner) {s0 s : State} (h : Held s0 s) :
    HeldA s0 (execTideCancel owner s) := by
  unfold execTideCancel
  try dsimp only
  repeat' with_reducible first
    | assumption | apply HeldA.next | apply cancelBarrier_held | apply State.byOwner_held

theorem execTideArm_held (owner : Owner) {s0 s : State} (h : Held s0 s) :
    HeldA s0 (execTideArm owner s) := by
  unfold execTideArm
  try dsimp only
  repeat' with_reducible first
    | assumption | apply HeldA.next | apply armBarrier_held | apply State.byOwner_held

theorem execTideRestartEst_held (owner : Owner) {s0 s : State} (h : Held s0 s) :
    HeldA s0 (execTideRestartEst owner s) := by
  unfold execTideRestartEst
  try dsimp only
  repeat' with_reducible first
    | assumption | apply HeldA.next | apply restartEstimator_held | apply State.byOwner_held

theorem execBarrierReady_held {s0 s : State} (h : Held s0 s) :
    HeldA s0 (execBarrierReady s) := by
  unfold execBarrierReady
  try dsimp only
  repeat' with_reducible first
    | assumption | apply HeldA.next | apply State.modTide_held | split

theorem tideNewJob_held {s0 s : State} (h : Held s0 s) :
    Held s0 (tideNewJob s) := by
  unfold tideNewJob
  try dsimp only
  repeat' with_reducible first
    | assumption | apply HeldA.next | apply State.modTide_held

end Sys2Proof.Machine
end

