-- ==== Sys2Proof/Laws/HeldRequests.lean ====
section
/-! SUPPORT. What `Held` keeps, operation by operation: batches, the Pilot, the stages of a request and the completion of
commands. -/

namespace Sys2Proof.Machine

theorem State.modBatch_held (stream num : Nat) (f : Batch → Batch) {s0 s : State} (h : Held s0 s) :
    Held s0 (State.modBatch stream num f s) := by
  unfold State.modBatch
  try dsimp only
  repeat' with_reducible first
    | assumption | apply State.modRun_held

theorem State.modReq_held (k : ReqKey) (f : Request → Request) {s0 s : State} (h : Held s0 s) :
    Held s0 (State.modReq k f s) := by
  unfold State.modReq
  try dsimp only
  repeat' with_reducible first
    | assumption | apply State.modRun_held

theorem dropReq_held (k : ReqKey) {s0 s : State} (h : Held s0 s) :
    Held s0 (dropReq k s) := by
  unfold dropReq
  try dsimp only
  repeat' with_reducible first
    | assumption | apply State.modRun_held

theorem budgetsDue_held {s0 s : State} (h : Held s0 s) :
    Held s0 (budgetsDue s) := by
  unfold budgetsDue
  try dsimp only
  repeat' with_reducible first
    | assumption | apply State.modTide_held

theorem replan_held (k : ReqKey) (hit : Bool) {s0 s : State} (h : Held s0 s) :
    Held s0 (replan k hit s) := by
  unfold replan
  try dsimp only
  repeat' with_reducible first
    | assumption | apply State.modReq_held | apply cacheHit_held | split

theorem markRisk_held (k : ReqKey) {s0 s : State} (h : Held s0 s) :
    Held s0 (markRisk k s) := by
  unfold markRisk
  try dsimp only
  repeat' with_reducible first
    | assumption | apply State.modReq_held | apply State.modBatch_held | apply countPerf_held | apply setEv_held
    | split

theorem startStage_held (k : ReqKey) (st : Stage) {s0 s : State} (h : Held s0 s) :
    Held s0 (startStage k st s) := by
  unfold startStage
  try dsimp only
  repeat' with_reducible first
    | assumption | apply markRisk_held | split

theorem State.setEngine_held (n : Nat) (k : EngineKind) (i : Nat) (f : Engine → Engine) {s0 s : State} (h : Held s0 s) :
    Held s0 (State.setEngine n k i f s) := by
  unfold State.setEngine
  try dsimp only
  repeat' with_reducible first
    | assumption | apply State.modSpd_held

theorem takeEngine_held (n : Nat) (k : EngineKind) (req : ReqKey) (i : Nat) {s0 s : State} (h : Held s0 s) :
    Held s0 (takeEngine n k req i s) := by
  unfold takeEngine
  try dsimp only
  repeat' with_reducible first
    | assumption | apply State.setEngine_held | apply countPerf_held

theorem countReserve_held (n : Nat) {s0 s : State} (h : Held s0 s) :
    Held s0 (countReserve n s) := by
  unfold countReserve
  try dsimp only
  repeat' with_reducible first
    | assumption | apply countFixed_held | apply countPerf_held

theorem releaseEngines_held (n : Nat) (req : ReqKey) {s0 s : State} (h : Held s0 s) :
    Held s0 (releaseEngines n req s) := by
  unfold releaseEngines
  try dsimp only
  repeat' with_reducible first
    | assumption | apply State.modSpd_held

theorem releaseAll_held (r : Request) {s0 s : State} (h : Held s0 s) :
    Held s0 (releaseAll r s) := by
  unfold releaseAll
  try dsimp only
  repeat' with_reducible first
    | assumption | apply releaseEngines_held | apply releaseBerths_held

theorem unpinReq_held (r : Request) {s0 s : State} (h : Held s0 s) :
    Held s0 (unpinReq r s) := by
  unfold unpinReq
  try dsimp only
  repeat' with_reducible first
    | assumption | apply cacheUnpin_held | split

theorem recordDefect_held (k : ReqKey) (t : Stream) (d : Partition) (r : Request) (detail : Nat) {s0 s : State} (h : Held s0 s) :
    Held s0 (recordDefect k t d r detail s) := by
  unfold recordDefect
  try dsimp only
  repeat' with_reducible first
    | assumption | apply State.modReq_held | apply State.modBatch_held | apply State.modPart_held
    | apply raiseReason_held | split

theorem maskSlot_held (key : ReqKey) (t : Stream) {s0 s : State} (h : Held s0 s) :
    Held s0 (maskSlot key t s) := by
  unfold maskSlot
  try dsimp only
  repeat' with_reducible first
    | assumption | apply State.modReq_held

theorem serveCandidate_held (key : ReqKey) (t : Stream) (d : Partition) (k v : Nat) {s0 s : State} (h : Held s0 s) :
    Held s0 (serveCandidate key t d k v s) := by
  unfold serveCandidate
  try dsimp only
  repeat' with_reducible first
    | assumption | apply replan_held | apply State.modReq_held

theorem waitForUnit_held (key : ReqKey) (k : Option Nat) {s0 s : State} (h : Held s0 s) :
    Held s0 (waitForUnit key k s) := by
  unfold waitForUnit
  try dsimp only
  repeat' with_reducible first
    | assumption | apply State.modReq_held

theorem chainAt_held (key : ReqKey) (t : Stream) (d : Partition) (fuel k : Nat) {s0 s : State} (h : Held s0 s) :
    Held s0 (chainAt key t d fuel k s) := by
  induction fuel generalizing k with
  | zero => exact maskSlot_held _ _ h
  | succ n ih =>
    unfold chainAt
    split
    · exact waitForUnit_held _ _ h
    · dsimp only
      split
      · exact ih _
      · exact serveCandidate_held _ _ _ _ _ h

theorem endWalk_held (key : ReqKey) (t : Stream) (d : Partition) (k : Option Nat) (v : Nat) {s0 s : State} (h : Held s0 s) :
    Held s0 (endWalk key t d k v s) := by
  unfold endWalk
  try dsimp only
  repeat' with_reducible first
    | assumption | apply chainAt_held | apply serveCandidate_held | apply replan_held | apply State.modReq_held
    | split

theorem applyDecision_held (k : ReqKey) (t : Stream) (d : Partition) (x : Decision) {s0 s : State} (h : Held s0 s) :
    Held s0 (applyDecision k t d x s) := by
  unfold applyDecision
  try dsimp only
  repeat' with_reducible first
    | assumption | apply endWalk_held | apply waitForUnit_held | apply maskSlot_held | apply State.modReq_held | split

theorem enterSlot_held (t : Stream) (d : Partition) (b : Batch) (slot : Nat) {s0 s : State} (h : Held s0 s) :
    Held s0 (enterSlot t d b slot s) := by
  unfold enterSlot
  try dsimp only
  repeat' with_reducible first
    | assumption | apply applyDecision_held | apply endWalk_held | apply chainAt_held | apply State.modRun_held
    | split

theorem enterSlots_held (t : Stream) (d : Partition) (b : Batch) {s0 s : State} (h : Held s0 s) :
    Held s0 (enterSlots t d b s) := by
  unfold enterSlots
  try dsimp only
  repeat' with_reducible first
    | assumption | apply enterSlot_held | apply State.each_held | split | intro _

theorem unplace_held (k : ReqKey) {s0 s : State} (h : Held s0 s) :
    Held s0 (unplace k s) := by
  unfold unplace
  try dsimp only
  repeat' with_reducible first
    | assumption | apply enterSlot_held | apply State.modBatch_held | apply State.modRun_held | apply State.each_held
    | split | intro _

theorem backToReady_held (k : ReqKey) {s0 s : State} (h : Held s0 s) :
    Held s0 (backToReady k s) := by
  unfold backToReady
  try dsimp only
  repeat' with_reducible first
    | assumption | apply unplace_held | apply unpinReq_held | apply releaseAll_held | apply State.modReq_held | split

theorem berthRetry_held (k : ReqKey) {s0 s : State} (h : Held s0 s) :
    Held s0 (berthRetry k s) := by
  unfold berthRetry
  try dsimp only
  repeat' with_reducible first
    | assumption | apply backToReady_held | apply countPerf_held | apply setEv_held | split

theorem chainFrom_held (key : ReqKey) (from_ : Nat) {s0 s : State} (h : Held s0 s) :
    Held s0 (chainFrom key from_ s) := by
  unfold chainFrom
  try dsimp only
  repeat' with_reducible first
    | assumption | apply backToReady_held | apply chainAt_held | split

theorem chainNext_held (key : ReqKey) {s0 s : State} (h : Held s0 s) :
    Held s0 (chainNext key s) := by
  unfold chainNext
  try dsimp only
  repeat' with_reducible first
    | assumption | apply chainFrom_held | split

theorem failSample_held (key : ReqKey) (detail : Nat) (soft : Bool) {s0 s : State} (h : Held s0 s) :
    Held s0 (failSample key detail soft s) := by
  unfold failSample
  try dsimp only
  repeat' with_reducible first
    | assumption | apply chainNext_held | apply recordDefect_held | apply State.modReq_held | apply countDeferred_held
    | split

theorem engineOutReason_held (die : Nat) (k : EngineKind) (i : Nat) {s0 s : State} (h : Held s0 s) :
    Held s0 (engineOutReason die k i s) := by
  unfold engineOutReason
  try dsimp only
  repeat' with_reducible first
    | assumption | apply countReason_held

theorem formBatch_held (t : Stream) (d : Partition) (num : Nat) (plan : Plan) {s0 s : State} (h : Held s0 s) :
    Held s0 (formBatch t d num plan s) := by
  unfold formBatch
  try dsimp only
  repeat' with_reducible first
    | assumption | apply enterSlots_held | apply State.modStream_held | apply State.modRun_held

theorem beginWalk_held (req : ReqKey) (spd : Nat) {s0 s : State} (h : Held s0 s) :
    Held s0 (beginWalk req spd s) := by
  unfold beginWalk
  try dsimp only
  repeat' with_reducible first
    | assumption | apply State.modReq_held | split

theorem execPermPositionAdmit_held (req : ReqKey) (spd : Fin 8) (plan : Plan) {s0 s : State} (h : Held s0 s) :
    HeldA s0 (execPermPositionAdmit req spd plan s) := by
  unfold execPermPositionAdmit
  try dsimp only
  repeat' with_reducible first
    | assumption | apply HeldA.next | apply beginWalk_held | apply formBatch_held | apply State.onlyIf_held | split

theorem permUnitFails_held (n : Nat) {s0 s : State} (h : Held s0 s) :
    Held s0 (permUnitFails n s) := by
  unfold permUnitFails
  try dsimp only
  repeat' with_reducible first
    | assumption | apply HeldA.next | apply engineOutReason_held | apply waitForUnit_held | apply State.modSpd_held
    | apply countContained_held | apply State.each_held | apply State.onlyIf_held | split | intro _

theorem execPermPassDone_held (req : ReqKey) (agree : Bool) {s0 s : State} (h : Held s0 s) :
    HeldA s0 (execPermPassDone req agree s) := by
  unfold execPermPassDone
  try dsimp only
  repeat' with_reducible first
    | assumption | apply HeldA.next | apply permUnitFails_held | apply endWalk_held | apply State.modReq_held
    | apply countCorrected_held | apply countFixed_held | apply countPerf_held | split

theorem execGroupApply_held (groups : BitVec 11) {s0 s : State} (h : Held s0 s) :
    HeldA s0 (execGroupApply groups s) := by
  unfold execGroupApply
  try dsimp only
  repeat' with_reducible first
    | assumption | apply HeldA.next | apply takeBoundaries_held

theorem beginBatch_held (k : ReqKey) {s0 s : State} (h : Held s0 s) :
    Held s0 (beginBatch k s) := by
  unfold beginBatch
  try dsimp only
  repeat' with_reducible first
    | assumption | apply HeldA.next | apply State.modBatch_held | apply takeBoundaries_held | split

theorem peersExhausted_held (k : ReqKey) {s0 s : State} (h : Held s0 s) :
    Held s0 (peersExhausted k s) := by
  unfold peersExhausted
  try dsimp only
  repeat' with_reducible first
    | assumption | apply HeldA.next | apply failSample_held | apply State.modReq_held | split

theorem askPeers_held (k : ReqKey) (fuel : Nat) {s0 s : State} (h : Held s0 s) : Held s0 (askPeers k fuel s) := by
  induction fuel generalizing s with
  | zero => exact peersExhausted_held _ h
  | succ n ih =>
    unfold askPeers
    split
    · split
      · exact h
      · split
        · exact peersExhausted_held _ h
        · split
          · exact postSend_held _ _ _ (State.modReq_held _ _ (Held.same h rfl rfl rfl rfl rfl))
          · exact ih (setEv_held _ _ (State.modReq_held _ _ h))
    · exact h

theorem peerFailed_held (k : ReqKey) (soft : Bool) {s0 s : State} (h : Held s0 s) :
    Held s0 (peerFailed k soft s) := by
  unfold peerFailed
  try dsimp only
  repeat' with_reducible first
    | assumption | apply askPeers_held | apply State.modReq_held | apply setEv_held

theorem takeEngines_held (t : Stream) (r : Request) {s0 s : State} (h : Held s0 s) :
    Held s0 (takeEngines t r s) := by
  unfold takeEngines
  try dsimp only
  repeat' with_reducible first
    | assumption | apply countReserve_held | apply takeEngine_held | apply State.modReq_held | apply State.each_held
    | split | intro _

theorem advanceIssue_held (t : Stream) (p : Partition) (k : ReqKey) {s0 s : State} (h : Held s0 s) :
    Held s0 (advanceIssue t p k s) := by
  unfold advanceIssue
  try dsimp only
  repeat' with_reducible first
    | assumption | apply dueKeys_held | apply State.modStream_held | split

theorem startFound_held (t : Stream) (p : Partition) (r : Request) (f : Found) {s0 s : State} (h : Held s0 s) :
    Held s0 (startFound t p r f s) := by
  unfold startFound
  try dsimp only
  repeat' with_reducible first
    | assumption | apply askPeers_held | apply startStage_held | apply replan_held | apply State.modReq_held
    | apply spillHit_held | apply cacheHit_held | apply State.onlyIf_held | split

theorem countFound_held (n : Nat) (f : Found) {s0 s : State} (h : Held s0 s) :
    Held s0 (countFound n f s) := by
  unfold countFound
  try dsimp only
  repeat' with_reducible first
    | assumption | apply countLookup_held | split

theorem issueNow_held (t : Stream) (p : Partition) (r : Request) {s0 s : State} (h : Held s0 s) :
    Held s0 (issueNow t p r s) := by
  unfold issueNow
  try dsimp only
  repeat' with_reducible first
    | assumption | apply countFound_held | apply startFound_held | apply advanceIssue_held | apply takeEngines_held
    | apply beginBatch_held | apply startStage_held | apply State.modReq_held | apply drawFailed_held
    | apply countFixed_held | apply countPerf_held | split | intro _ | refine held_of_eq ?_ (by assumption)
    | refine drawOrPart_held _ _ _ _ _ ?_ _ (by assumption)

theorem execRequestIssue_held (req : ReqKey) {s0 s : State} (h : Held s0 s) :
    HeldA s0 (execRequestIssue req s) := by
  unfold execRequestIssue
  try dsimp only
  repeat' with_reducible first
    | assumption | apply HeldA.next | apply issueNow_held | apply beginBatch_held | apply failSample_held
    | apply chainNext_held | split

theorem deadlineSub_held (t : Stream) (p : Partition) (k : ReqKey) (r : Request) {s0 s : State} (h : Held s0 s) :
    Held s0 (deadlineSub t p k r s) := by
  unfold deadlineSub
  try dsimp only
  repeat' with_reducible first
    | assumption | apply backToReady_held | apply replan_held | apply State.modReq_held | apply cacheHit_held
    | apply countPerf_held | split

theorem execLatestStartReached_held (req : ReqKey) (stage : Stage) {s0 s : State} (h : Held s0 s) :
    HeldA s0 (execLatestStartReached req stage s) := by
  unfold execLatestStartReached
  try dsimp only
  repeat' with_reducible first
    | assumption | apply HeldA.next | apply deadlineSub_held | apply markRisk_held | apply State.modReq_held
    | apply cacheHit_held | split

theorem execDeadlineRecomputeDone_held {s0 s : State} (h : Held s0 s) :
    HeldA s0 (execDeadlineRecomputeDone s) := by
  unfold execDeadlineRecomputeDone
  try dsimp only
  repeat' with_reducible first
    | assumption | apply HeldA.next | apply cacheHit_held | apply State.modTide_held | apply State.modRun_held | split

theorem execPeerRoundRetry_held (req : ReqKey) {s0 s : State} (h : Held s0 s) :
    HeldA s0 (execPeerRoundRetry req s) := by
  unfold execPeerRoundRetry
  try dsimp only
  repeat' with_reducible first
    | assumption | apply HeldA.next | apply askPeers_held | apply State.modReq_held | split

theorem execPeerReadGiveUp_held (req : ReqKey) {s0 s : State} (h : Held s0 s) :
    HeldA s0 (execPeerReadGiveUp req s) := by
  unfold execPeerReadGiveUp
  try dsimp only
  repeat' with_reducible first
    | assumption | apply HeldA.next | apply failSample_held | split

theorem execDefectEntryDurable_held (dsSlot : Nat) (index : Nat) (global : Bool) {s0 s : State} (h : Held s0 s) :
    HeldA s0 (execDefectEntryDurable dsSlot index global s) := by
  unfold execDefectEntryDurable
  try dsimp only
  repeat' with_reducible first
    | assumption | apply HeldA.next | apply programMedia_held | apply State.modPart_held | split

theorem abandonOn_held (n : Nat) {s0 s : State} (h : Held s0 s) :
    Held s0 (abandonOn n s) := by
  unfold abandonOn
  try dsimp only
  repeat' with_reducible first
    | assumption | apply HeldA.next | apply backToReady_held | apply waitForUnit_held | apply State.each_held | split
    | intro _

theorem execHomeMapApply_held {s0 s : State} (h : Held s0 s) :
    HeldA s0 (execHomeMapApply s) := by
  unfold execHomeMapApply
  try dsimp only
  repeat' with_reducible first
    | assumption | apply HeldA.next | apply backToReady_held | apply enterSlots_held | apply waitForUnit_held
    | apply unpinReq_held | apply releaseAll_held | apply dropReq_held | apply State.modReq_held
    | apply State.modFab_held | apply State.modRun_held | apply State.each_held | split | intro _

theorem cvuMessages_held (c : Cvu) {s0 s : State} (h : Held s0 s) :
    Held s0 (cvuMessages c s) := by
  unfold cvuMessages
  try dsimp only
  repeat' with_reducible first
    | assumption | apply sendMsix_held | split

theorem State.modCvu_held (n : Nat) (f : Cvu → Cvu) {s0 s : State} (h : Held s0 s) :
    Held s0 (State.modCvu n f s) := by
  unfold State.modCvu
  try dsimp only
  repeat' with_reducible first
    | assumption | split | intro _ | refine held_of_eq ?_ (by assumption) | exact Held.same h rfl rfl rfl rfl rfl

theorem cvuFinish_held (n : Nat) {s0 s : State} (h : Held s0 s) :
    Held s0 (cvuFinish n s) := by
  unfold cvuFinish
  try dsimp only
  repeat' with_reducible first
    | assumption | apply State.modCvu_held | apply cvuMessages_held | split

theorem cvuControl_held (n : Nat) (v : Word) {s0 s : State} (h : Held s0 s) :
    Held s0 (cvuControl n v s) := by
  unfold cvuControl
  try dsimp only
  repeat' with_reducible first
    | assumption | apply cvuFinish_held | apply State.modCvu_held | split

theorem execCvuStart_held (unit : Fin 8) {s0 s : State} (h : Held s0 s) :
    HeldA s0 (execCvuStart unit s) := by
  unfold execCvuStart
  try dsimp only
  repeat' with_reducible first
    | assumption | apply HeldA.next | apply State.modCvu_held

theorem execCvuTail_held (unit : Fin 8) (tail : Fin 4) {s0 s : State} (h : Held s0 s) :
    HeldA s0 (execCvuTail unit tail s) := by
  unfold execCvuTail
  try dsimp only
  repeat' with_reducible first
    | assumption | apply HeldA.next | apply State.modCvu_held

theorem execCvuFinish_held (unit : Fin 8) {s0 s : State} (h : Held s0 s) :
    HeldA s0 (execCvuFinish unit s) := by
  unfold execCvuFinish
  try dsimp only
  repeat' with_reducible first
    | assumption | apply HeldA.next | apply cvuFinish_held

theorem execCvuDataWrite_held (unit : Fin 8) (value : Word) {s0 s : State} (h : Held s0 s) :
    HeldA s0 (execCvuDataWrite unit value s) := by
  unfold execCvuDataWrite
  try dsimp only
  repeat' with_reducible first
    | assumption | apply HeldA.next | apply State.modCvu_held

theorem decodeFail_held (r : Request) (detail : Nat) {s0 s : State} (h : Held s0 s) :
    Held s0 (decodeFail r detail s) := by
  unfold decodeFail
  try dsimp only
  repeat' with_reducible first
    | assumption | apply failSample_held | apply setEv_held | apply State.modCnt_held

theorem xfFail_held (r : Request) (detail : Nat) {s0 s : State} (h : Held s0 s) :
    Held s0 (xfFail r detail s) := by
  unfold xfFail
  try dsimp only
  repeat' with_reducible first
    | assumption | apply failSample_held | apply setEv_held | apply State.modCnt_held

theorem txtFail_held (r : Request) (detail : Nat) {s0 s : State} (h : Held s0 s) :
    Held s0 (txtFail r detail s) := by
  unfold txtFail
  try dsimp only
  repeat' with_reducible first
    | assumption | apply failSample_held | apply setEv_held | apply State.modCnt_held

theorem packFail_held (r : Request) (detail : Nat) {s0 s : State} (h : Held s0 s) :
    Held s0 (packFail r detail s) := by
  unfold packFail
  try dsimp only
  repeat' with_reducible first
    | assumption | apply failSample_held | apply setEv_held | apply State.modCnt_held

theorem enterPhase_held (k : ReqKey) (ph : Phase) (st : Stage) {s0 s : State} (h : Held s0 s) :
    Held s0 (enterPhase k ph st s) := by
  unfold enterPhase
  try dsimp only
  repeat' with_reducible first
    | assumption | apply startStage_held | apply State.modReq_held

theorem reqDrawBerths_held (r : Request) (t : Stream) (p : Partition) (sizes : List Nat) {s0 s : State} (h : Held s0 s) :
    Held s0 (reqDrawBerths r t p sizes s).2 := by
  unfold reqDrawBerths
  try dsimp only
  repeat' with_reducible first
    | assumption | apply drawBerths_held

theorem runWraps_held (r : Request) (t : Stream) (p : Partition) (cs : List Nat) (tar : Bool)
    (bs : List Byte) {s0 s : State} (h : Held s0 s) : Held s0 (runWraps r t p cs tar bs s).2 := by
  induction cs generalizing tar bs s with
  | nil => exact h
  | cons c cs ih =>
    unfold runWraps
    repeat' with_reducible first
      | assumption | apply reqDrawBerths_held | apply ih | split | refine held_of_eq ?_ (by assumption)

theorem engineOut_held (n : Nat) (k : EngineKind) (i : Nat) {s0 s : State} (h : Held s0 s) :
    Held s0 (engineOut n k i s) := by
  unfold engineOut
  try dsimp only
  repeat' with_reducible first
    | assumption | apply engineOutReason_held | apply budgetsDue_held | apply setEv_held | apply State.onlyIf_held

theorem engineFault_held (n : Nat) (k : EngineKind) (i : Nat) {s0 s : State} (h : Held s0 s) :
    Held s0 (engineFault n k i s).2 := by
  unfold engineFault
  try dsimp only
  repeat' with_reducible first
    | assumption | apply engineOut_held | apply State.setEngine_held | apply countContained_held | split

theorem takeRestart_held (n : Nat) (k : EngineKind) (key : ReqKey) (i : Nat) {s0 s : State} (h : Held s0 s) :
    Held s0 (takeRestart n k key i s) := by
  unfold takeRestart
  try dsimp only
  repeat' with_reducible first
    | assumption | apply countReserve_held | apply takeEngine_held | apply State.onlyIf_held | split

theorem divideStage_held (key : ReqKey) (k : EngineKind) (splitEn : Bool) {s0 s : State} (h : Held s0 s) :
    Held s0 (divideStage key k splitEn s) := by
  unfold divideStage
  try dsimp only
  repeat' with_reducible first
    | assumption | apply takeRestart_held | apply State.modReq_held | apply State.onlyIf_held | split

theorem freeSecond_held (r : Request) (k : EngineKind) {s0 s : State} (h : Held s0 s) :
    Held s0 (freeSecond r k s) := by
  unfold freeSecond
  try dsimp only
  repeat' with_reducible first
    | assumption | apply State.setEngine_held | apply State.modReq_held | split

theorem packTakes_held (key : ReqKey) {s0 s : State} (h : Held s0 s) :
    Held s0 (packTakes key s) := by
  unfold packTakes
  try dsimp only
  repeat' with_reducible first
    | assumption | apply takeRestart_held | apply State.modReq_held | apply State.onlyIf_held | split

theorem enterPack_held (key : ReqKey) {s0 s : State} (h : Held s0 s) :
    Held s0 (enterPack key s) := by
  unfold enterPack
  try dsimp only
  repeat' with_reducible first
    | assumption | apply packTakes_held | apply divideStage_held | apply enterPhase_held

theorem restartTransform_held (key : ReqKey) (left : Option Nat) {s0 s : State} (h : Held s0 s) :
    Held s0 (restartTransform key left s) := by
  unfold restartTransform
  try dsimp only
  repeat' with_reducible first
    | assumption | apply takeRestart_held | apply State.modReq_held | split

theorem enterTransform_held (key : ReqKey) {s0 s : State} (h : Held s0 s) :
    Held s0 (enterTransform key s) := by
  unfold enterTransform
  try dsimp only
  repeat' with_reducible first
    | assumption | apply restartTransform_held | apply divideStage_held | apply startStage_held
    | apply State.modReq_held | split

theorem startTransform_held (r : Request) (t : Stream) (p : Partition) (f : Form) {s0 s : State} (h : Held s0 s) :
    Held s0 (startTransform r t p f s) := by
  unfold startTransform
  try dsimp only
  repeat' with_reducible first
    | assumption | apply enterTransform_held | apply reqDrawBerths_held | apply packFail_held | apply berthRetry_held
    | split

theorem takeForm_held (r : Request) (t : Stream) (p : Partition) (f : Form) {s0 s : State} (h : Held s0 s) :
    Held s0 (takeForm r t p f s) := by
  unfold takeForm
  try dsimp only
  repeat' with_reducible first
    | assumption | apply startTransform_held | apply enterPack_held | apply State.modReq_held | split

theorem rawReadDone_held (r : Request) {s0 s : State} (h : Held s0 s) :
    Held s0 (rawReadDone r s) := by
  unfold rawReadDone
  try dsimp only
  repeat' with_reducible first
    | assumption | apply unpinReq_held | apply State.modReq_held | apply countLookup_held | split

theorem keepIndex_held (n dsSlot index : Nat) (remote : Bool) (hdr : PayloadHdr) {s0 s : State} (h : Held s0 s) :
    Held s0 (keepIndex n dsSlot index remote hdr s) := by
  unfold keepIndex
  try dsimp only
  repeat' with_reducible first
    | assumption | apply State.modSpd_held | split

theorem finishDecode_held (r : Request) (t : Stream) (p : Partition) (window : Option Region) (q : Parsed) (bs : List Byte) (i : DecodeInput) {s0 s : State} (h : Held s0 s) :
    Held s0 (finishDecode r t p window q bs i s) := by
  unfold finishDecode
  try dsimp only
  repeat' with_reducible first
    | assumption | apply takeForm_held | apply reqDrawBerths_held | apply decodeFail_held | apply berthRetry_held
    | apply State.modReq_held | apply cacheAdmit_held | apply setEv_held | apply State.onlyIf_held | split

theorem decodePayload_held (r : Request) (t : Stream) (p : Partition) (bs : List Byte) (inp : DecodeInput) {s0 s : State} (h : Held s0 s) :
    Held s0 (decodePayload r t p bs inp s) := by
  unfold decodePayload
  try dsimp only
  repeat' with_reducible first
    | assumption | apply finishDecode_held | apply keepIndex_held | apply decodeFail_held | apply State.draw_held
    | split

theorem execDecodeDone_held (req : ReqKey) (inp : DecodeInput) {s0 s : State} (h : Held s0 s) :
    HeldA s0 (execDecodeDone req inp s) := by
  unfold execDecodeDone
  try dsimp only
  repeat' with_reducible first
    | assumption | apply HeldA.next | apply decodePayload_held | apply rawReadDone_held | apply runWraps_held
    | apply decodeFail_held | apply berthRetry_held | split | intro _ | refine held_of_eq ?_ (by assumption)

theorem countUnit_held (pua : Nat) (cs : List CodewordResult) {s0 s : State} (h : Held s0 s) :
    Held s0 (countUnit pua cs s) := by
  unfold countUnit
  try dsimp only
  repeat' with_reducible first
    | assumption | apply countCorrected_held | apply State.modMedia_held | apply State.each_held | split | intro _

theorem countPerfN_held (die code n : Nat) {s0 s : State} (h : Held s0 s) :
    Held s0 (countPerfN die code n s) := by
  unfold countPerfN
  try dsimp only
  repeat' with_reducible first
    | assumption | apply countPerf_held | apply State.each_held | split | intro _

theorem countUnitPerf_held (pua : Nat) (cs : List CodewordResult) {s0 s : State} (h : Held s0 s) :
    Held s0 (countUnitPerf pua cs s) := by
  unfold countUnitPerf
  try dsimp only
  repeat' with_reducible first
    | assumption | apply countPerfN_held

theorem execFlashReadDone_held (req : ReqKey) (results : List CodewordResult) {s0 s : State} (h : Held s0 s) :
    HeldA s0 (execFlashReadDone req results s) := by
  unfold execFlashReadDone
  try dsimp only
  repeat' with_reducible first
    | assumption | apply HeldA.next | apply countUnitPerf_held | apply countUnit_held | apply takeForm_held
    | apply enterPhase_held | apply askPeers_held | apply failSample_held | apply State.modReq_held
    | apply cacheAdmit_held | apply keepSpill_held | apply State.each_held | split | intro _

theorem execCacheReadDone_held (req : ReqKey) {s0 s : State} (h : Held s0 s) :
    HeldA s0 (execCacheReadDone req s) := by
  unfold execCacheReadDone
  try dsimp only
  repeat' with_reducible first
    | assumption | apply HeldA.next | apply takeForm_held | apply unpinReq_held | apply State.modReq_held
    | apply countLookup_held | split

theorem execDecodeEngineFault_held (spd : Fin 8) (engine : Fin 48) {s0 s : State} (h : Held s0 s) :
    HeldA s0 (execDecodeEngineFault spd engine s) := by
  unfold execDecodeEngineFault
  try dsimp only
  repeat' with_reducible first
    | assumption | apply HeldA.next | apply engineFault_held | apply decodeFail_held | apply backToReady_held
    | apply State.modReq_held | apply setEv_held | split

theorem execTxtEngineFault_held (spd : Fin 8) (engine : Fin 8) {s0 s : State} (h : Held s0 s) :
    HeldA s0 (execTxtEngineFault spd engine s) := by
  unfold execTxtEngineFault
  try dsimp only
  repeat' with_reducible first
    | assumption | apply HeldA.next | apply engineFault_held | apply txtFail_held | apply backToReady_held
    | apply State.modReq_held | apply setEv_held | split

theorem execResidueMismatch_held (spd : Fin 8) (engine : Fin 32) {s0 s : State} (h : Held s0 s) :
    HeldA s0 (execResidueMismatch spd engine s) := by
  unfold execResidueMismatch
  try dsimp only
  repeat' with_reducible first
    | assumption | apply HeldA.next | apply restartTransform_held | apply engineOut_held | apply xfFail_held
    | apply State.setEngine_held | apply State.modReq_held | apply countCorrected_held | apply countPerf_held
    | apply setEv_held | apply State.modCnt_held | split

theorem execXfEngineFault_held (spd : Fin 8) (engine : Fin 32) {s0 s : State} (h : Held s0 s) :
    HeldA s0 (execXfEngineFault spd engine s) := by
  unfold execXfEngineFault
  try dsimp only
  repeat' with_reducible first
    | assumption | apply HeldA.next | apply restartTransform_held | apply engineFault_held | apply xfFail_held
    | apply State.modReq_held | apply setEv_held | split

theorem execTransformRestart_held (req : ReqKey) (engine : Fin 32) {s0 s : State} (h : Held s0 s) :
    HeldA s0 (execTransformRestart req engine s) := by
  unfold execTransformRestart
  try dsimp only
  repeat' with_reducible first
    | assumption | apply HeldA.next | apply takeRestart_held | apply State.modReq_held | split

theorem execPackEngineFault_held (spd : Fin 8) (engine : Fin 16) {s0 s : State} (h : Held s0 s) :
    HeldA s0 (execPackEngineFault spd engine s) := by
  unfold execPackEngineFault
  try dsimp only
  repeat' with_reducible first
    | assumption | apply HeldA.next | apply takeRestart_held | apply engineFault_held | apply packFail_held
    | apply State.modReq_held | apply setEv_held | split

theorem execEngineResetDone_held (spd : Fin 8) (kind : EngineKind) (engine : Nat) (passed : Bool) {s0 s : State} (h : Held s0 s) :
    HeldA s0 (execEngineResetDone spd kind engine passed s) := by
  unfold execEngineResetDone
  try dsimp only
  repeat' with_reducible first
    | assumption | apply HeldA.next | apply packTakes_held | apply engineOut_held | apply State.setEngine_held
    | apply State.each_held | split | intro _

theorem execCvuParityError_held (unit : CheckUnit) (req : Option ReqKey) {s0 s : State} (h : Held s0 s) :
    HeldA s0 (execCvuParityError unit req s) := by
  unfold execCvuParityError
  try dsimp only
  repeat' with_reducible first
    | assumption | apply HeldA.next | apply State.modCvu_held | apply State.modReq_held | apply countContained_held
    | split

theorem execTransformDone_held (req : ReqKey) {s0 s : State} (h : Held s0 s) :
    HeldA s0 (execTransformDone req s) := by
  unfold execTransformDone
  try dsimp only
  repeat' with_reducible first
    | assumption | apply HeldA.next | apply enterPack_held | apply freeSecond_held | apply State.modReq_held | split

theorem execTokeniseChunk_held (req : ReqKey) {s0 s : State} (h : Held s0 s) :
    HeldA s0 (execTokeniseChunk req s) := by
  unfold execTokeniseChunk
  try dsimp only
  repeat' with_reducible first
    | assumption | apply HeldA.next | apply State.modReq_held | split

theorem execVocabLineFill_held (spd : Fin 8) (engine : Fin 8) (line : Nat) {s0 s : State} (h : Held s0 s) :
    HeldA s0 (execVocabLineFill spd engine line s) := by
  unfold execVocabLineFill
  try dsimp only
  repeat' with_reducible first
    | assumption | apply HeldA.next | apply State.modSpd_held | apply State.modCnt_held | split

theorem execTokeniseDone_held (req : ReqKey) {s0 s : State} (h : Held s0 s) :
    HeldA s0 (execTokeniseDone req s) := by
  unfold execTokeniseDone
  try dsimp only
  repeat' with_reducible first
    | assumption | apply HeldA.next | apply rawReadDone_held | apply takeForm_held | apply reqDrawBerths_held
    | apply txtFail_held | apply berthRetry_held | apply State.modReq_held | apply cacheAdmit_held | apply setEv_held
    | apply State.onlyIf_held | split

theorem execTextPlacement_held (req : ReqKey) {s0 s : State} (h : Held s0 s) :
    HeldA s0 (execTextPlacement req s) := by
  unfold execTextPlacement
  try dsimp only
  repeat' with_reducible first
    | assumption | apply HeldA.next | apply enterPack_held | apply State.modReq_held | apply State.modBatch_held
    | split

theorem writeSlot_held (t : Stream) (p : Partition) (m : Member) (num lane offset : Nat) (owner : WrFor) (bytes : List Byte) (budget : Nat) {s0 s : State} (h : Held s0 s) :
    Held s0 (writeSlot t p m num lane offset owner bytes budget s) := by
  unfold writeSlot
  try dsimp only
  repeat' with_reducible first
    | assumption | apply postWrite_held | split

theorem sendSlot_held (t : Stream) (p : Partition) (b : Batch) (slot : Nat) (o : SlotOut) (budget : Nat) {s0 s : State} (h : Held s0 s) :
    Held s0 (sendSlot t p b slot o budget s) := by
  unfold sendSlot
  try dsimp only
  repeat' with_reducible first
    | assumption | apply writeSlot_held | apply State.each_held | split | intro _

theorem reportDecision_held (r : Request) {s0 s : State} (h : Held s0 s) :
    Held s0 (reportDecision r s) := by
  unfold reportDecision
  try dsimp only
  repeat' with_reducible first
    | assumption | apply State.modBatch_held | split

theorem packEvents_held (cls : Nat) (o : SlotOut) {s0 s : State} (h : Held s0 s) :
    Held s0 (packEvents cls o s) := by
  unfold packEvents
  try dsimp only
  repeat' with_reducible first
    | assumption | apply setEv_held | apply State.modCnt_held | apply State.onlyIf_held

theorem execPackDone_held (req : ReqKey) {s0 s : State} (h : Held s0 s) :
    HeldA s0 (execPackDone req s) := by
  unfold execPackDone
  try dsimp only
  repeat' with_reducible first
    | assumption | apply HeldA.next | apply packEvents_held | apply reportDecision_held | apply sendSlot_held
    | apply packTakes_held | apply packFail_held | apply beginBatch_held | apply releaseAll_held
    | apply startStage_held | apply dropReq_held | apply State.modBatch_held | apply countFixed_held | split

theorem Cmd.writeData_held (c : Cmd) (d : HostData) (bs : List Byte) {s0 s : State} (h : Held s0 s) :
    Held s0 (Cmd.writeData c d bs s) := by
  unfold Cmd.writeData
  try dsimp only
  repeat' with_reducible first
    | assumption | apply State.emit_held | apply State.each_held | split | intro _

theorem State.modQuay_held (q : QuayId) (f : Quay → Quay) {s0 s : State} (h : Held s0 s) :
    Held s0 (State.modQuay q f s) := by
  unfold State.modQuay
  try dsimp only
  repeat' with_reducible first
    | assumption | apply State.modHost_held

theorem State.modCmd_held (order : Nat) (f : Cmd → Cmd) {s0 s : State} (h : Held s0 s) :
    Held s0 (State.modCmd order f s) := by
  unfold State.modCmd
  try dsimp only
  repeat' with_reducible first
    | assumption | apply State.modHost_held

theorem State.setRun_held (c : Cmd) (r : CmdRun) {s0 s : State} (h : Held s0 s) :
    Held s0 (State.setRun c r s) := by
  unfold State.setRun
  try dsimp only
  repeat' with_reducible first
    | assumption | apply State.modCmd_held

theorem route_held (x : Completion) {s0 s : State} (h : Held s0 s) :
    Held s0 (route x s) := by
  unfold route
  try dsimp only
  repeat' with_reducible first
    | assumption | apply State.modQuay_held | apply State.modHost_held | apply State.emit_held | split

theorem complete_held (c : Cmd) (status : Nat) (result : List Byte) {s0 s : State} (h : Held s0 s) :
    Held s0 (complete c status result s) := by
  unfold complete
  try dsimp only
  repeat' with_reducible first
    | assumption | apply route_held | apply State.modHost_held

theorem targetDone_held (order : Nat) {s0 s : State} (h : Held s0 s) :
    Held s0 (targetDone order s) := by
  unfold targetDone
  try dsimp only
  repeat' with_reducible first
    | assumption | apply complete_held | apply State.each_held | split | intro _

theorem finishDelete_held (q : QuayId) {s0 s : State} (h : Held s0 s) :
    Held s0 (finishDelete q s) := by
  unfold finishDelete
  try dsimp only
  repeat' with_reducible first
    | assumption | apply targetDone_held | apply complete_held | apply State.modHost_held | apply State.each_held
    | split | intro _

theorem finish_held (c : Cmd) (status : Nat) (result : List Byte) {s0 s : State} (h : Held s0 s) :
    Held s0 (finish c status result s) := by
  unfold finish
  try dsimp only
  repeat' with_reducible first
    | assumption | apply finishDelete_held | apply targetDone_held | apply complete_held | split

theorem firstChecks_none {c : Cmd} {fieldBad : Bool} {secBad : Option Nat} {s : State}
    (h : firstChecks c fieldBad secBad s = none) : fieldBad = false ∧ secBad = none := by
  unfold firstChecks at h
  dsimp only at h
  cases fieldBad <;> cases secBad <;> simp at h ⊢
  all_goals repeat' (split at h)
  all_goals simp_all

/-- All that a command of one opcode can do: nothing, a completion with the status of a first check, or its own meaning. -/
theorem runCmd_cases (id : CmdId) (op : Nat) (fieldBad : Cmd → Bool) (secBad : Cmd → Option Nat) (body : Cmd → State → State)
    (s : State) : runCmd id op fieldBad secBad body s = .next s ∨
      (∃ c st r, firstChecks c (fieldBad c) (secBad c) s = some (st, r) ∧
        runCmd id op fieldBad secBad body s = .next (finish c st r s)) ∨
      ∃ c, s.queuedCmd id (·.opcode == op) = some c ∧ fieldBad c = false ∧ secBad c = none ∧
        runCmd id op fieldBad secBad body s = .next (body c s) := by
  unfold runCmd
  split
  · exact .inl rfl
  · rename_i c hc
    split
    · exact .inl rfl
    · split
      · rename_i e; exact .inr (.inl ⟨c, _, _, e, rfl⟩)
      · rename_i e; exact .inr (.inr ⟨c, hc, (firstChecks_none e).1, (firstChecks_none e).2, rfl⟩)

theorem runCmd_held (id : CmdId) (op : Nat) (fieldBad : Cmd → Bool) (secBad : Cmd → Option Nat) (body : Cmd → State → State)
    {s0 s : State} (h : Held s0 s) (k : ∀ c u, Held s0 u → Held s0 (body c u)) :
    HeldA s0 (runCmd id op fieldBad secBad body s) := by
  rcases runCmd_cases id op fieldBad secBad body s with e | ⟨c, st, r, -, e⟩ | ⟨c, -, -, -, e⟩ <;> rw [e] <;> refine HeldA.next ?_
  · exact h
  · exact finish_held _ _ _ h
  · exact k _ _ h

theorem runPlain_held (id : CmdId) (op : Nat) (body : Cmd → State → State) {s0 s : State} (h : Held s0 s)
    (k : ∀ c u, Held s0 u → Held s0 (body c u)) : HeldA s0 (runPlain id op body s) := runCmd_held _ _ _ _ _ h k

theorem runDataSec_held (id : CmdId) (op : Nat) (d : HostData) (bad : Cmd → Option (List Byte) → Bool)
    (sec : Cmd → Option (List Byte) → Option Nat) (body : Cmd → List Byte → State → State) {s0 s : State} (h : Held s0 s)
    (k : ∀ c bs u, Held s0 u → Held s0 (body c bs u)) : HeldA s0 (runDataSec id op d bad sec body s) := by
  refine runCmd_held _ _ _ _ _ h fun c u hu => ?_
  split
  · exact finish_held _ _ _ hu
  · exact k _ _ _ hu

theorem runData_held (id : CmdId) (op : Nat) (d : HostData) (bad : Cmd → Option (List Byte) → Bool)
    (body : Cmd → List Byte → State → State) {s0 s : State} (h : Held s0 s)
    (k : ∀ c bs u, Held s0 u → Held s0 (body c bs u)) : HeldA s0 (runData id op d bad body s) := runDataSec_held _ _ _ _ _ _ h k

theorem execInvalidOpcode_held (cmd : CmdId) {s0 s : State} (h : Held s0 s) :
    HeldA s0 (execInvalidOpcode cmd s) := by
  unfold execInvalidOpcode
  try dsimp only
  repeat' with_reducible first
    | assumption | apply HeldA.next | apply finish_held | split

end Sys2Proof.Machine
end

