-- ==== Sys2Proof/Laws/HeldHost.lean ====
section
/-! SUPPORT. What `Held` keeps, operation by operation: host ports, mailboxes, Quays and the media manager. -/

namespace Sys2Proof.Machine

theorem State.modMbx_held (m : MbxId) (f : Mailbox → Mailbox) {s0 s : State} (h : Held s0 s) :
    Held s0 (State.modMbx m f s) := by
  unfold State.modMbx
  try dsimp only
  repeat' with_reducible first
    | assumption | apply State.modHost_held

theorem State.modSem_held (k : Nat) (f : Sem → Sem) {s0 s : State} (h : Held s0 s) :
    Held s0 (State.modSem k f s) := by
  unfold State.modSem
  try dsimp only
  repeat' with_reducible first
    | assumption | apply State.modHost_held

theorem mbxEvent_held (m : MbxId) (bit : Nat) {s0 s : State} (h : Held s0 s) :
    Held s0 (mbxEvent m bit s) := by
  unfold mbxEvent
  try dsimp only
  repeat' with_reducible first
    | assumption | apply State.modMbx_held | apply sendMsix_held | split

theorem execMbxLockRead_held (readers : List Owner) (m : MbxId) {s0 s : State} (h : Held s0 s) :
    HeldA s0 (execMbxLockRead readers m s) := by
  unfold execMbxLockRead
  try dsimp only
  repeat' with_reducible first
    | assumption | apply HeldA.next | apply State.modMbx_held | apply State.emit_held | apply State.each_held | split
    | intro _

theorem mbxRelease_held (writer : Owner) (m : MbxId) (value : Word) {s0 s : State} (h : Held s0 s) :
    Held s0 (mbxRelease writer m value s) := by
  unfold mbxRelease
  try dsimp only
  repeat' with_reducible first
    | assumption | apply mbxEvent_held | apply State.modMbx_held | split

theorem execMbxLockRelease_held (writer : Owner) (m : MbxId) (value : Word) {s0 s : State} (h : Held s0 s) :
    HeldA s0 (execMbxLockRelease writer m value s) := by
  unfold execMbxLockRelease
  try dsimp only
  repeat' with_reducible first
    | assumption | apply HeldA.next | apply mbxRelease_held

theorem mbxAct_held (writer : Owner) (m : MbxId) (fits : Mailbox → Bool) (act : State → State) {s0 s : State} (h : Held s0 s)
    (k : ∀ u, Held s0 u → Held s0 (act u)) : Held s0 (mbxAct writer m fits act s) := by
  unfold mbxAct
  split
  · exact h
  · split
    · exact k _ h
    · exact mbxEvent_held _ _ h

theorem mbxWriteBuf_held (writer : Owner) (m : MbxId) (word : Nat) (value : Word) {s0 s : State} (h : Held s0 s) :
    Held s0 (mbxWriteBuf writer m word value s) := by
  unfold mbxWriteBuf
  try dsimp only
  repeat' with_reducible first
    | assumption | apply mbxAct_held | apply State.modMbx_held

theorem execMbxBufWrite_held (writer : Owner) (m : MbxId) (word : Fin 16) (value : Word) {s0 s : State} (h : Held s0 s) :
    HeldA s0 (execMbxBufWrite writer m word value s) := by
  unfold execMbxBufWrite
  try dsimp only
  repeat' with_reducible first
    | assumption | apply HeldA.next | apply mbxWriteBuf_held

theorem ringBell_held (v : Via) (tail : Nat) {s0 s : State} (h : Held s0 s) :
    Held s0 (ringBell v tail s) := by
  unfold ringBell
  try dsimp only
  repeat' with_reducible first
    | assumption | apply HeldA.next | apply wake_held | apply State.modHost_held

theorem mbxRing_held (writer : Owner) (m : MbxId) {s0 s : State} (h : Held s0 s) :
    Held s0 (mbxRing writer m s) := by
  unfold mbxRing
  try dsimp only
  repeat' with_reducible first
    | assumption | apply HeldA.next | apply ringBell_held | apply mbxAct_held | apply State.modMbx_held | split
    | intro _

theorem execMbxDoorbell_held (writer : Owner) (m : MbxId) {s0 s : State} (h : Held s0 s) :
    HeldA s0 (execMbxDoorbell writer m s) := by
  unfold execMbxDoorbell
  try dsimp only
  repeat' with_reducible first
    | assumption | apply HeldA.next | apply mbxRing_held

theorem mbxAcknowledge_held (writer : Owner) (m : MbxId) {s0 s : State} (h : Held s0 s) :
    Held s0 (mbxAcknowledge writer m s) := by
  unfold mbxAcknowledge
  try dsimp only
  repeat' with_reducible first
    | assumption | apply HeldA.next | apply mbxAct_held | apply State.modMbx_held

theorem execMbxAck_held (writer : Owner) (m : MbxId) {s0 s : State} (h : Held s0 s) :
    HeldA s0 (execMbxAck writer m s) := by
  unfold execMbxAck
  try dsimp only
  repeat' with_reducible first
    | assumption | apply HeldA.next | apply mbxAcknowledge_held

theorem enqueueCmd_held (id : CmdId) (entry : BitVec 512) (stamp : Nat) {s0 s : State} (h : Held s0 s) :
    Held s0 (enqueueCmd id entry stamp s) := by
  unfold enqueueCmd
  try dsimp only
  repeat' with_reducible first
    | assumption | apply HeldA.next | apply State.modHost_held

theorem execMbxTake_held (m : MbxId) {s0 s : State} (h : Held s0 s) :
    HeldA s0 (execMbxTake m s) := by
  unfold execMbxTake
  try dsimp only
  repeat' with_reducible first
    | assumption | apply HeldA.next | apply enqueueCmd_held | apply mbxEvent_held | apply State.modMbx_held
    | apply countPerf_held | apply State.modHost_held | split

theorem State.modOrphan_held (p : Port) (run done : Half → Half) {s0 s : State} (h : Held s0 s) :
    Held s0 (State.modOrphan p run done s) := by
  unfold State.modOrphan
  try dsimp only
  repeat' with_reducible first
    | assumption | apply State.modHost_held

theorem orphanReply_held (m : MbxId) {s0 s : State} (h : Held s0 s) :
    Held s0 (orphanReply m s) := by
  unfold orphanReply
  try dsimp only
  repeat' with_reducible first
    | assumption | apply State.modOrphan_held

theorem execMbxReply_held (m : MbxId) {s0 s : State} (h : Held s0 s) :
    HeldA s0 (execMbxReply m s) := by
  unfold execMbxReply
  try dsimp only
  repeat' with_reducible first
    | assumption | apply HeldA.next | apply orphanReply_held | apply mbxEvent_held | apply State.modMbx_held
    | apply targetDone_held | apply State.modHost_held | split

theorem execSemRead_held (readers : List Owner) (k : Fin 64) {s0 s : State} (h : Held s0 s) :
    HeldA s0 (execSemRead readers k s) := by
  unfold execSemRead
  try dsimp only
  repeat' with_reducible first
    | assumption | apply HeldA.next | apply State.modSem_held | apply State.emit_held | apply State.each_held | split
    | intro _

theorem releaseSem_held (writer : Owner) (k : Nat) (value : Word) {s0 s : State} (h : Held s0 s) :
    Held s0 (releaseSem writer k value s) := by
  unfold releaseSem
  try dsimp only
  repeat' with_reducible first
    | assumption | apply State.modSem_held | split

theorem execSemRelease_held (writer : Owner) (k : Fin 64) (value : Word) {s0 s : State} (h : Held s0 s) :
    HeldA s0 (execSemRelease writer k value s) := by
  unfold execSemRelease
  try dsimp only
  repeat' with_reducible first
    | assumption | apply HeldA.next | apply releaseSem_held

theorem abandonSems_held (o : Owner) {s0 s : State} (h : Held s0 s) :
    Held s0 (abandonSems o s) := by
  unfold abandonSems
  try dsimp only
  repeat' with_reducible first
    | assumption | apply HeldA.next | apply State.modSem_held | apply State.modHost_held | apply State.each_held
    | split | intro _

theorem mbxPortReset_held (m : MbxId) {s0 s : State} (h : Held s0 s) :
    Held s0 (mbxPortReset m s) := by
  unfold mbxPortReset
  try dsimp only
  repeat' with_reducible first
    | assumption | apply State.modOrphan_held | apply State.modMbx_held | apply State.modHost_held | split

theorem quaysPortReset_held (p : Port) {s0 s : State} (h : Held s0 s) :
    Held s0 (quaysPortReset p s) := by
  unfold quaysPortReset
  try dsimp only
  repeat' with_reducible first
    | assumption | apply finishDelete_held | apply targetDone_held | apply State.modHost_held | apply State.each_held
    | split | intro _

theorem clearSnap_held (p : Port) {s0 s : State} (h : Held s0 s) :
    Held s0 (clearSnap p s) := by
  unfold clearSnap
  try dsimp only
  repeat' with_reducible first
    | assumption | apply State.modTide_held

theorem stopPcieTest_held (p : Port) {s0 s : State} (h : Held s0 s) :
    Held s0 (stopPcieTest p s) := by
  unfold stopPcieTest
  try dsimp only
  repeat' with_reducible first
    | assumption | apply State.modEv_held | apply State.modLt_held | split

theorem resetPort_held (p : Port) (cause : PortResetCause) {s0 s : State} (h : Held s0 s) :
    Held s0 (resetPort p cause s) := by
  unfold resetPort
  try dsimp only
  repeat' with_reducible first
    | assumption | apply stopPcieTest_held | apply clearSnap_held | apply quaysPortReset_held
    | apply mbxPortReset_held | apply abandonSems_held | apply State.modPort_held | apply State.modSec_held
    | apply State.each_held | exact @rfl (List (BitVec 256) × _) _ | split | intro _

theorem execPortReset_held (port : Port) (cause : PortResetCause) {s0 s : State} (h : Held s0 s) :
    HeldA s0 (execPortReset port cause s) := by
  unfold execPortReset
  try dsimp only
  repeat' with_reducible first
    | assumption | apply HeldA.next | apply resetPort_held

theorem execPerstRelease_held (port : Port) {s0 s : State} (h : Held s0 s) :
    HeldA s0 (execPerstRelease port s) := by
  unfold execPerstRelease
  try dsimp only
  repeat' with_reducible first
    | assumption | apply HeldA.next | apply State.modPort_held

theorem execPcieLinkUp_held (port : Port) {s0 s : State} (h : Held s0 s) :
    HeldA s0 (execPcieLinkUp port s) := by
  unfold execPcieLinkUp
  try dsimp only
  repeat' with_reducible first
    | assumption | apply HeldA.next | apply wake_held | apply State.modPort_held | split

theorem execPciePmStateChange_held (port : Port) (d3 : Bool) {s0 s : State} (h : Held s0 s) :
    HeldA s0 (execPciePmStateChange port d3 s) := by
  unfold execPciePmStateChange
  try dsimp only
  repeat' with_reducible first
    | assumption | apply HeldA.next | apply State.modPort_held | split

theorem takeLocks_held {s0 s : State} (h : Held s0 s) :
    Held s0 (takeLocks s) := by
  unfold takeLocks
  try dsimp only
  repeat' with_reducible first
    | assumption | apply HeldA.next | apply State.modMbx_held | apply State.each_held | split | intro _

theorem firmwareReady_held {s0 s : State} (h : Held s0 s) :
    Held s0 (firmwareReady s) := by
  unfold firmwareReady
  try dsimp only
  repeat' with_reducible first
    | assumption | apply HeldA.next | apply State.modMbx_held | apply State.modHost_held | apply State.each_held
    | split | intro _

theorem mbxRestart_held (m : MbxId) {s0 s : State} (h : Held s0 s) :
    Held s0 (mbxRestart m s) := by
  unfold mbxRestart
  try dsimp only
  repeat' with_reducible first
    | assumption | apply mbxEvent_held | apply State.modMbx_held | split

theorem interruptCmds_held {s0 s : State} (h : Held s0 s) :
    Held s0 (interruptCmds s) := by
  unfold interruptCmds
  try dsimp only
  repeat' with_reducible first
    | assumption | apply complete_held | apply State.modHost_held | apply State.each_held | split | intro _

theorem restartHarbourmaster_held {s0 s : State} (h : Held s0 s) :
    Held s0 (restartHarbourmaster s) := by
  unfold restartHarbourmaster
  try dsimp only
  repeat' with_reducible first
    | assumption | apply interruptCmds_held | apply mbxRestart_held | apply takeLocks_held | apply abandonSems_held
    | apply State.modHost_held | apply State.each_held | split | intro _

theorem execHarbourmasterRestartDone_held {s0 s : State} (h : Held s0 s) :
    HeldA s0 (execHarbourmasterRestartDone s) := by
  unfold execHarbourmasterRestartDone
  try dsimp only
  repeat' with_reducible first
    | assumption | apply HeldA.next | apply firmwareReady_held | split

theorem quayError_held (q : QuayId) (reason : Nat) {s0 s : State} (h : Held s0 s) :
    Held s0 (quayError q reason s) := by
  unfold quayError
  try dsimp only
  repeat' with_reducible first
    | assumption | apply State.modQuay_held | apply postEvent_held | apply State.modHost_held | split

theorem ringSq_held (q : QuayId) (tail : Nat) {s0 s : State} (h : Held s0 s) :
    Held s0 (ringSq q tail s) := by
  unfold ringSq
  try dsimp only
  repeat' with_reducible first
    | assumption | apply quayError_held | apply ringBell_held | apply State.modQuay_held | split

theorem ringCq_held (q : QuayId) (head : Nat) {s0 s : State} (h : Held s0 s) :
    Held s0 (ringCq q head s) := by
  unfold ringCq
  try dsimp only
  repeat' with_reducible first
    | assumption | apply quayError_held | apply State.modQuay_held | split

theorem execQuaySqDoorbell_held (q : QuayId) (value : Word) {s0 s : State} (h : Held s0 s) :
    HeldA s0 (execQuaySqDoorbell q value s) := by
  unfold execQuaySqDoorbell
  try dsimp only
  repeat' with_reducible first
    | assumption | apply HeldA.next | apply ringSq_held | apply State.byOwner_held

theorem execQuayCqDoorbell_held (q : QuayId) (value : Word) {s0 s : State} (h : Held s0 s) :
    HeldA s0 (execQuayCqDoorbell q value s) := by
  unfold execQuayCqDoorbell
  try dsimp only
  repeat' with_reducible first
    | assumption | apply HeldA.next | apply ringCq_held | apply State.byOwner_held

theorem takeEntry_held (q : QuayId) (entry : BitVec 512) (stamp : Nat) {s0 s : State} (h : Held s0 s) :
    Held s0 (takeEntry q entry stamp s) := by
  unfold takeEntry
  try dsimp only
  repeat' with_reducible first
    | assumption | apply HeldA.next | apply enqueueCmd_held | apply State.modHost_held

theorem execQuayFetch_held (q : QuayId) (entry : Option (BitVec 512)) {s0 s : State} (h : Held s0 s) :
    HeldA s0 (execQuayFetch q entry s) := by
  unfold execQuayFetch
  try dsimp only
  repeat' with_reducible first
    | assumption | apply HeldA.next | apply takeEntry_held | apply quayError_held | apply State.modQuay_held
    | apply countPerf_held | apply State.modHost_held | split

theorem quayMessage_held (q : QuayId) {s0 s : State} (h : Held s0 s) :
    Held s0 (quayMessage q s) := by
  unfold quayMessage
  try dsimp only
  repeat' with_reducible first
    | assumption | apply State.modQuay_held | apply sendMsix_held | split

theorem writeCompletion_held (q : QuayId) (y : Quay) (x : Completion) {s0 s : State} (h : Held s0 s) :
    Held s0 (writeCompletion q y x s) := by
  unfold writeCompletion
  try dsimp only
  repeat' with_reducible first
    | assumption | apply quayMessage_held | apply State.modQuay_held | apply State.emit_held | split

theorem execCompletionWrite_held (q : QuayId) (linkOk : Bool) {s0 s : State} (h : Held s0 s) :
    HeldA s0 (execCompletionWrite q linkOk s) := by
  unfold execCompletionWrite
  try dsimp only
  repeat' with_reducible first
    | assumption | apply HeldA.next | apply writeCompletion_held | apply quayError_held | apply finishDelete_held
    | apply targetDone_held | apply State.modQuay_held | split

theorem execCqCoalesceTimer_held (q : QuayId) {s0 s : State} (h : Held s0 s) :
    HeldA s0 (execCqCoalesceTimer q s) := by
  unfold execCqCoalesceTimer
  try dsimp only
  repeat' with_reducible first
    | assumption | apply HeldA.next | apply quayMessage_held | split

theorem execCreateQuay_held (cmd : CmdId) {s0 s : State} (h : Held s0 s) :
    HeldA s0 (execCreateQuay cmd s) := by
  unfold execCreateQuay
  try dsimp only
  repeat' with_reducible first
    | assumption | apply HeldA.next | apply runCmd_held | apply finish_held | apply State.modHost_held | split
    | intro _

theorem execDeleteQuay_held (cmd : CmdId) {s0 s : State} (h : Held s0 s) :
    HeldA s0 (execDeleteQuay cmd s) := by
  unfold execDeleteQuay
  try dsimp only
  repeat' with_reducible first
    | assumption | apply HeldA.next | apply runCmd_held | apply finishDelete_held | apply State.setRun_held
    | apply State.modHost_held | split | intro _

theorem execSelfTest_held (cmd : CmdId) {s0 s : State} (h : Held s0 s) :
    HeldA s0 (execSelfTest cmd s) := by
  unfold execSelfTest
  try dsimp only
  repeat' with_reducible first
    | assumption | apply HeldA.next | apply runPlain_held | apply finish_held | apply State.setRun_held
    | apply State.modHost_held | split | intro _

theorem execGetEvent_held (cmd : CmdId) {s0 s : State} (h : Held s0 s) :
    HeldA s0 (execGetEvent cmd s) := by
  unfold execGetEvent
  try dsimp only
  repeat' with_reducible first
    | assumption | apply HeldA.next | apply runCmd_held | apply State.setRun_held | split | intro _

theorem execGetEventComplete_held (port : Port) {s0 s : State} (h : Held s0 s) :
    HeldA s0 (execGetEventComplete port s) := by
  unfold execGetEventComplete
  try dsimp only
  repeat' with_reducible first
    | assumption | apply HeldA.next | apply finish_held | apply State.modPort_held | split

theorem exhaust_held {s0 s : State} (h : Held s0 s) :
    Held s0 (exhaust s) := by
  unfold exhaust
  try dsimp only
  repeat' with_reducible first
    | assumption | apply finish_held | apply setMedia_held | apply raiseReason_held | apply State.each_held | split
    | intro _

theorem afterRetirement_held (left : Nat) {s0 s : State} (h : Held s0 s) :
    Held s0 (afterRetirement left s) := by
  unfold afterRetirement
  try dsimp only
  repeat' with_reducible first
    | assumption | apply exhaust_held | apply mediaReasons_held | split

theorem retire_held (die block : Nat) {s0 s : State} (h : Held s0 s) :
    Held s0 (retire die block s) := by
  unfold retire
  try dsimp only
  repeat' with_reducible first
    | assumption | apply afterRetirement_held | apply State.modMedia_held

theorem failBlock_held (die block : Nat) {s0 s : State} (h : Held s0 s) :
    Held s0 (failBlock die block s) := by
  unfold failBlock
  try dsimp only
  repeat' with_reducible first
    | assumption | apply retire_held | apply State.modMedia_held

theorem programPerf_held (die stream : Nat) (src : UnitSource) {s0 s : State} (h : Held s0 s) :
    Held s0 (programPerf die stream src s) := by
  unfold programPerf
  try dsimp only
  repeat' with_reducible first
    | assumption | apply countPerfN_held | apply countPerf_held

theorem copyBuffer_held (src : UnitSource) {s0 s : State} (h : Held s0 s) :
    Held s0 (copyBuffer src s).2 := by
  unfold copyBuffer
  try dsimp only
  repeat' with_reducible first
    | assumption | apply drawFailed_held | split

theorem execProgramDone_held (die block page : Nat) (src : ProgramSource) (ok : Bool) {s0 s : State} (h : Held s0 s) :
    HeldA s0 (execProgramDone die block page src ok s) := by
  unfold execProgramDone
  try dsimp only
  repeat' with_reducible first
    | assumption | apply HeldA.next | apply copyBuffer_held | apply programPerf_held | apply failBlock_held
    | apply programMedia_held | apply State.modMedia_held | split

theorem execEraseDone_held (die block : Nat) (ok : Bool) {s0 s : State} (h : Held s0 s) :
    HeldA s0 (execEraseDone die block ok s) := by
  unfold execEraseDone
  try dsimp only
  repeat' with_reducible first
    | assumption | apply HeldA.next | apply failBlock_held | apply programMedia_held | apply countPerf_held | split

theorem execStripeVerifyDone_held (group stripe : Nat) (badBlocks : List Nat) {s0 s : State} (h : Held s0 s) :
    HeldA s0 (execStripeVerifyDone group stripe badBlocks s) := by
  unfold execStripeVerifyDone
  try dsimp only
  repeat' with_reducible first
    | assumption | apply HeldA.next | apply State.modMedia_held | apply foldl_held | split

theorem execStagingResize_held {s0 s : State} (h : Held s0 s) :
    HeldA s0 (execStagingResize s) := by
  unfold execStagingResize
  try dsimp only
  repeat' with_reducible first
    | assumption | apply HeldA.next | apply setMedia_held | split

theorem execFoldStart_held {s0 s : State} (h : Held s0 s) :
    HeldA s0 (execFoldStart s) := by
  unfold execFoldStart
  try dsimp only
  repeat' with_reducible first
    | assumption | apply HeldA.next | apply State.modMedia_held | split

theorem drainBlock_held (die block : Nat) (why : Drain) {s0 s : State} (h : Held s0 s) :
    Held s0 (drainBlock die block why s) := by
  unfold drainBlock
  try dsimp only
  repeat' with_reducible first
    | assumption | apply HeldA.next | apply State.modMedia_held

theorem execGcStart_held (die : Nat) {s0 s : State} (h : Held s0 s) :
    HeldA s0 (execGcStart die s) := by
  unfold execGcStart
  try dsimp only
  repeat' with_reducible first
    | assumption | apply HeldA.next | apply drainBlock_held | split

theorem execStaticRelocation_held (die : Nat) {s0 s : State} (h : Held s0 s) :
    HeldA s0 (execStaticRelocation die s) := by
  unfold execStaticRelocation
  try dsimp only
  repeat' with_reducible first
    | assumption | apply HeldA.next | apply drainBlock_held | apply State.modMedia_held | apply foldl_held | split

theorem execBlockRewriteStart_held (die block : Nat) {s0 s : State} (h : Held s0 s) :
    HeldA s0 (execBlockRewriteStart die block s) := by
  unfold execBlockRewriteStart
  try dsimp only
  repeat' with_reducible first
    | assumption | apply HeldA.next | apply drainBlock_held | apply retire_held | split

theorem storeSample_held (slot wseq index home : Nat) (bs : List Byte) {s0 s : State} (h : Held s0 s) :
    Held s0 (storeSample slot wseq index home bs s) := by
  unfold storeSample
  try dsimp only
  repeat' with_reducible first
    | assumption | apply HeldA.next | apply State.modPart_held | apply State.modMedia_held | split

theorem storeShard_held (slot shard first : Nat) (samples : List (List Byte)) {s0 s : State} (h : Held s0 s) :
    Held s0 (storeShard slot shard first samples s).2 := by
  unfold storeShard
  try dsimp only
  repeat' with_reducible first
    | assumption | apply HeldA.next | apply storeSample_held | apply setMedia_held | apply State.modPart_held
    | apply State.each_held | split | intro _

theorem shardIn_held (slot shard first : Nat) (samples : List (List Byte)) {s0 s : State} (h : Held s0 s) :
    Held s0 (shardIn slot shard first samples s).2 := by
  unfold shardIn
  try dsimp only
  repeat' with_reducible first
    | assumption | apply storeShard_held | apply drawFailed_held | split

theorem execWriteBufferAdmit_held (cmd : CmdId) {s0 s : State} (h : Held s0 s) :
    HeldA s0 (execWriteBufferAdmit cmd s) := by
  unfold execWriteBufferAdmit
  try dsimp only
  repeat' with_reducible first
    | assumption | apply HeldA.next | apply shardIn_held | apply finish_held | split | intro _
    | refine held_of_eq ?_ (by assumption)

theorem flushRecord_held (slot d : Nat) {s0 s : State} (h : Held s0 s) :
    Held s0 (flushRecord slot d s) := by
  unfold flushRecord
  try dsimp only
  repeat' with_reducible first
    | assumption | apply programMedia_held

theorem markLost_held (slot l d : Nat) {s0 s : State} (h : Held s0 s) :
    Held s0 (markLost slot l d s) := by
  unfold markLost
  try dsimp only
  repeat' with_reducible first
    | assumption | apply State.modHost_held

theorem flushPart_held (slot w : Nat) {s0 s : State} (h : Held s0 s) :
    Held s0 (flushPart slot w s).2.2 := by
  unfold flushPart
  try dsimp only
  repeat' with_reducible first
    | assumption | apply markLost_held | apply flushRecord_held | apply programMedia_held | apply setMedia_held
    | apply State.modPart_held | apply State.modMedia_held | split

theorem sealPart_held (slot d : Nat) {s0 s : State} (h : Held s0 s) :
    Held s0 (sealPart slot d s).2 := by
  unfold sealPart
  try dsimp only
  repeat' with_reducible first
    | assumption | apply programMedia_held | apply State.modPart_held | split

theorem execFlushComplete_held (cmd : CmdId) {s0 s : State} (h : Held s0 s) :
    HeldA s0 (execFlushComplete cmd s) := by
  unfold execFlushComplete
  try dsimp only
  repeat' with_reducible first
    | assumption | apply HeldA.next | apply sealPart_held | apply flushPart_held | apply finish_held | split

theorem loseBuffer_held (spd : Nat) {s0 s : State} (h : Held s0 s) :
    Held s0 (loseBuffer spd s) := by
  unfold loseBuffer
  try dsimp only
  repeat' with_reducible first
    | assumption | apply HeldA.next | apply countContained_held | apply setEv_held | apply State.modMedia_held
    | apply foldl_held | split

theorem execJournalProgram_held {s0 s : State} (h : Held s0 s) :
    HeldA s0 (execJournalProgram s) := by
  unfold execJournalProgram
  try dsimp only
  repeat' with_reducible first
    | assumption | apply HeldA.next | apply programMedia_held | split

theorem execCheckpointStart_held {s0 s : State} (h : Held s0 s) :
    HeldA s0 (execCheckpointStart s) := by
  unfold execCheckpointStart
  try dsimp only
  repeat' with_reducible first
    | assumption | apply HeldA.next | apply programMedia_held | split

theorem execCheckpointRootDone_held (med0 med1 : Bool) {s0 s : State} (h : Held s0 s) :
    HeldA s0 (execCheckpointRootDone med0 med1 s) := by
  unfold execCheckpointRootDone
  try dsimp only
  repeat' with_reducible first
    | assumption | apply HeldA.next | apply programMedia_held | split

theorem execMapSegmentReloadDone_held (segment : Nat) {s0 s : State} (h : Held s0 s) :
    HeldA s0 (execMapSegmentReloadDone segment s) := by
  unfold execMapSegmentReloadDone
  try dsimp only
  repeat' with_reducible first
    | assumption | apply HeldA.next | apply State.modMedia_held | split

theorem execMapMirrorRecopyDone_held (spd : Fin 8) {s0 s : State} (h : Held s0 s) :
    HeldA s0 (execMapMirrorRecopyDone spd s) := by
  unfold execMapMirrorRecopyDone
  try dsimp only
  repeat' with_reducible first
    | assumption | apply HeldA.next | apply State.modFab_held | apply State.onlyIf_held

theorem refuseMount_held (die : Nat) (check : MountCheck) {s0 s : State} (h : Held s0 s) :
    Held s0 (refuseMount die check s) := by
  unfold refuseMount
  try dsimp only
  repeat' with_reducible first
    | assumption | apply HeldA.next | apply finish_held | apply setMedia_held | apply fatalError_held
    | apply State.each_held | split | intro _

theorem mountReasons_held {s0 s : State} (h : Held s0 s) :
    Held s0 (mountReasons s) := by
  unfold mountReasons
  try dsimp only
  repeat' with_reducible first
    | assumption | apply mediaReasons_held | apply clearReason_held | apply raiseReason_held | apply State.each_held
    | split | intro _

theorem execMediaTempSample_held (temp0 temp1 : Int) {s0 s : State} (h : Held s0 s) :
    HeldA s0 (execMediaTempSample temp0 temp1 s) := by
  unfold execMediaTempSample
  try dsimp only
  repeat' with_reducible first
    | assumption | apply HeldA.next | apply State.modMedia_held

end Sys2Proof.Machine
end

