-- ==== Sys2Proof/Laws/HeldEgress.lean ====
section
/-! SUPPORT. What `Held` keeps, operation by operation: delivery, the copies peers hold, and the connections. -/

namespace Sys2Proof.Machine

theorem writeJob_held (a : Nat) (bs : List Byte) {s0 s : State} (h : Held s0 s) : Held s0 (writeJob a bs s) :=
  h.step ⟨rfl, .refl _, fun k => ⟨writeCells_wf zeroBase a bs _ k.1, k.2, k.3, k.4⟩⟩

theorem dropBatch_held (stream num : Nat) {s0 s : State} (h : Held s0 s) :
    Held s0 (dropBatch stream num s) := by
  unfold dropBatch
  try dsimp only
  repeat' with_reducible first
    | assumption | apply unpinReq_held | apply releaseAll_held | apply dropReq_held | apply State.modRun_held
    | apply State.each_held | split | intro _

theorem endIfDone_held (stream : Nat) {s0 s : State} (h : Held s0 s) :
    Held s0 (endIfDone stream s) := by
  unfold endIfDone
  try dsimp only
  repeat' with_reducible first
    | assumption | apply dueKeys_held | apply State.modStream_held | apply postEvent_held | split

theorem settleBatch_held (stream num : Nat) {s0 s : State} (h : Held s0 s) :
    Held s0 (settleBatch stream num s) := by
  unfold settleBatch
  try dsimp only
  repeat' with_reducible first
    | assumption | apply endIfDone_held | apply dropBatch_held | split

theorem postHeader_held (t : Stream) (p : Partition) (b : Batch) {s0 s : State} (h : Held s0 s) :
    Held s0 (postHeader t p b s) := by
  unfold postHeader
  try dsimp only
  repeat' with_reducible first
    | assumption | apply State.modBatch_held | apply postWrite_held | apply countFixed_held | apply State.each_held
    | split | intro _

theorem execTrailerHeaderSend_held (stream : Fin 64) (batch : Nat) {s0 s : State} (h : Held s0 s) :
    HeldA s0 (execTrailerHeaderSend stream batch s) := by
  unfold execTrailerHeaderSend
  try dsimp only
  repeat' with_reducible first
    | assumption | apply HeldA.next | apply postHeader_held | apply State.modBatch_held | split

theorem execTimelockHoldExpiry_held (stream : Fin 64) (batch : Nat) {s0 s : State} (h : Held s0 s) :
    HeldA s0 (execTimelockHoldExpiry stream batch s) := by
  unfold execTimelockHoldExpiry
  try dsimp only
  repeat' with_reducible first
    | assumption | apply HeldA.next | apply postHeader_held | apply State.modBatch_held | split

theorem headerAck_held (stream num : Nat) {s0 s : State} (h : Held s0 s) :
    Held s0 (headerAck stream num s) := by
  unfold headerAck
  try dsimp only
  repeat' with_reducible first
    | assumption | apply HeldA.next | apply State.modBatch_held | apply setEv_held | apply State.modTide_held | split

theorem wrDone_held (w : Wr) {s0 s : State} (h : Held s0 s) :
    Held s0 (wrDone w s) := by
  unfold wrDone
  try dsimp only
  repeat' with_reducible first
    | assumption | apply HeldA.next | apply headerAck_held | split

theorem execReleaseTokenSend_held (stream : Fin 64) (batch : Nat) (member : Nat) {s0 s : State} (h : Held s0 s) :
    HeldA s0 (execReleaseTokenSend stream batch member s) := by
  unfold execReleaseTokenSend
  try dsimp only
  repeat' with_reducible first
    | assumption | apply HeldA.next | apply settleBatch_held | apply State.modBatch_held | apply State.modStream_held
    | apply postWrite_held | apply countPerf_held | split

theorem takeReturn_held (conn : Nat) (bs : List Byte) {s0 s : State} (h : Held s0 s) :
    Held s0 (takeReturn conn bs s) := by
  unfold takeReturn
  try dsimp only
  repeat' with_reducible first
    | assumption | apply State.modStream_held | apply countPerf_held | apply setEv_held | split

theorem execQuietPeriodEnd_held (conn : Nat) {s0 s : State} (h : Held s0 s) :
    HeldA s0 (execQuietPeriodEnd conn s) := by
  unfold execQuietPeriodEnd
  try dsimp only
  repeat' with_reducible first
    | assumption | apply HeldA.next | apply State.modConn_held | split

theorem loseMember_held (stream group i : Nat) {s0 s : State} (h : Held s0 s) :
    Held s0 (loseMember stream group i s) := by
  unfold loseMember
  try dsimp only
  repeat' with_reducible first
    | assumption | apply HeldA.next | apply headerAck_held | apply settleBatch_held | apply endIfDone_held
    | apply State.modStream_held | apply postEvent_held | apply setEv_held | apply State.each_held | split | intro _

theorem headerOwed_held (stream num i : Nat) {s0 s : State} (h : Held s0 s) :
    Held s0 (headerOwed stream num i s) := by
  unfold headerOwed
  try dsimp only
  repeat' with_reducible first
    | assumption | apply State.modBatch_held

theorem reissue_held (i : Nat) (lane : Nat) (w : Wr) {s0 s : State} (h : Held s0 s) :
    Held s0 (reissue i lane w s) := by
  unfold reissue
  try dsimp only
  repeat' with_reducible first
    | assumption | apply headerOwed_held | apply postWrite_held | split

theorem failWaits_held (lost : Nat) {s0 s : State} (h : Held s0 s) :
    Held s0 (failWaits lost s) := by
  unfold failWaits
  try dsimp only
  repeat' with_reducible first
    | assumption | apply headerOwed_held | apply State.modConn_held | apply State.each_held | split | intro _

theorem laneLost_held (lane : Nat) (ws : List Wr) {s0 s : State} (h : Held s0 s) :
    Held s0 (laneLost lane ws s) := by
  unfold laneLost
  try dsimp only
  repeat' with_reducible first
    | assumption | apply reissue_held | apply loseMember_held | apply openQuiet_held | apply State.each_held | split
    | intro _

theorem loseDead_held (stream : Nat) {s0 s : State} (h : Held s0 s) :
    Held s0 (loseDead stream s) := by
  unfold loseDead
  try dsimp only
  repeat' with_reducible first
    | assumption | apply loseMember_held | apply State.each_held | split | intro _

theorem State.modFetches_held (f : List Fetch → List Fetch) {s0 s : State} (h : Held s0 s) :
    Held s0 (State.modFetches f s) := by
  unfold State.modFetches
  try dsimp only
  repeat' with_reducible first
    | assumption | apply State.modEgr_held | exact @rfl (List (Nat × Byte)) _

theorem State.modFetch_held (id : FetchId) (f : Fetch → Fetch) {s0 s : State} (h : Held s0 s) :
    Held s0 (State.modFetch id f s) := by
  unfold State.modFetch
  try dsimp only
  repeat' with_reducible first
    | assumption | apply State.modFetches_held

theorem dropFetch_held (id : FetchId) {s0 s : State} (h : Held s0 s) :
    Held s0 (dropFetch id s) := by
  unfold dropFetch
  try dsimp only
  repeat' with_reducible first
    | assumption | apply State.modFetches_held

theorem askFetch_held (x : Fetch) (c : Nat) {s0 s : State} (h : Held s0 s) :
    Held s0 (askFetch x c s) := by
  unfold askFetch
  try dsimp only
  repeat' with_reducible first
    | assumption | apply State.modFetch_held | apply postSend_held | split | intro _
    | refine held_of_eq ?_ (by assumption) | exact Held.same h rfl rfl rfl rfl rfl

theorem fetchExhausted_held (x : Fetch) {s0 s : State} (h : Held s0 s) :
    Held s0 (fetchExhausted x s) := by
  unfold fetchExhausted
  try dsimp only
  repeat' with_reducible first
    | assumption | apply dropFetch_held | apply State.modFetch_held | apply State.modMedia_held | split

theorem pumpFetches_held (n : Nat) {s0 s : State} (h : Held s0 s) : Held s0 (pumpFetches n s) := by
  induction n generalizing s with
  | zero => exact h
  | succ n ih =>
    unfold pumpFetches
    split
    · exact h
    · split
      · exact h
      · split
        · exact ih (fetchExhausted_held _ h)
        · split
          · exact askFetch_held _ _ h
          · exact ih (setEv_held _ _ (State.modFetch_held _ _ h))

theorem goFetch_held {s0 s : State} (h : Held s0 s) :
    Held s0 (goFetch s) := by
  unfold goFetch
  try dsimp only
  repeat' with_reducible first
    | assumption | apply pumpFetches_held

theorem fetchFailed_held (x : Fetch) {s0 s : State} (h : Held s0 s) :
    Held s0 (fetchFailed x s) := by
  unfold fetchFailed
  try dsimp only
  repeat' with_reducible first
    | assumption | apply goFetch_held | apply State.modFetch_held | apply setEv_held

theorem fetchArrived_held (x : Fetch) {s0 s : State} (h : Held s0 s) :
    Held s0 (fetchArrived x s) := by
  unfold fetchArrived
  try dsimp only
  repeat' with_reducible first
    | assumption | apply goFetch_held | apply dropFetch_held | apply State.modFetch_held | apply complete_held
    | apply State.modMedia_held | split

theorem fetchConnFailed_held (i : Nat) {s0 s : State} (h : Held s0 s) :
    Held s0 (fetchConnFailed i s) := by
  unfold fetchConnFailed
  try dsimp only
  repeat' with_reducible first
    | assumption | apply fetchFailed_held | apply State.each_held | split | intro _

theorem rescueUnits_held {s0 s : State} (h : Held s0 s) :
    Held s0 (rescueUnits s) := by
  unfold rescueUnits
  try dsimp only
  repeat' with_reducible first
    | assumption | apply goFetch_held | apply State.modFetches_held | apply State.modMedia_held

theorem failDie_held (die : Nat) {s0 s : State} (h : Held s0 s) :
    Held s0 (failDie die s) := by
  unfold failDie
  try dsimp only
  repeat' with_reducible first
    | assumption | apply rescueUnits_held | apply afterRetirement_held | apply setMedia_held | apply raiseReason_held

theorem dropDie_held (die : Nat) {s0 s : State} (h : Held s0 s) :
    Held s0 (dropDie die s) := by
  unfold dropDie
  try dsimp only
  repeat' with_reducible first
    | assumption | apply failDie_held | split

theorem execFlashDieFailed_held (die : Nat) (noReset : Bool) {s0 s : State} (h : Held s0 s) :
    HeldA s0 (execFlashDieFailed die noReset s) := by
  unfold execFlashDieFailed
  try dsimp only
  repeat' with_reducible first
    | assumption | apply HeldA.next | apply dropDie_held | split

theorem execFlashTrainingTimer_held (channel : Fin 64) (failed : List (Fin 16)) {s0 s : State} (h : Held s0 s) :
    HeldA s0 (execFlashTrainingTimer channel failed s) := by
  unfold execFlashTrainingTimer
  try dsimp only
  repeat' with_reducible first
    | assumption | apply HeldA.next | apply dropDie_held | apply State.each_held | split | intro _

theorem execRecoveryDone_held (badRoots torn : List Nat) (wiped : List (Nat × Nat)) {s0 s : State} (h : Held s0 s) :
    HeldA s0 (execRecoveryDone badRoots torn wiped s) := by
  unfold execRecoveryDone
  try dsimp only
  repeat' with_reducible first
    | assumption | apply HeldA.next | apply dropDie_held | apply mountReasons_held | apply refuseMount_held
    | apply setMedia_held | apply State.each_held | split | intro _

theorem State.modMooring_held (i : Nat) (f : Mooring → Mooring) {s0 s : State} (h : Held s0 s) :
    Held s0 (State.modMooring i f s) := by
  unfold State.modMooring
  try dsimp only
  repeat' with_reducible first
    | assumption | apply State.modEgr_held | exact @rfl (List (Nat × Byte)) _

theorem returnBuffers_held (n o size : Nat) {s0 s : State} (h : Held s0 s) :
    Held s0 (returnBuffers n o size s) := by
  unfold returnBuffers
  try dsimp only
  repeat' with_reducible first
    | assumption | apply State.modSpd_held | apply foldl_held | split

theorem freeMooring_held (i : Nat) {s0 s : State} (h : Held s0 s) :
    Held s0 (freeMooring i s) := by
  unfold freeMooring
  try dsimp only
  repeat' with_reducible first
    | assumption | apply returnBuffers_held | apply State.modMooring_held | apply State.modEgr_held
    | exact @rfl (List (Nat × Byte)) _ | split

theorem beginRevoke_held (i : Nat) {s0 s : State} (h : Held s0 s) :
    Held s0 (beginRevoke i s) := by
  unfold beginRevoke
  try dsimp only
  repeat' with_reducible first
    | assumption | apply State.modMooring_held

theorem revokeServe_held (i : Nat) {s0 s : State} (h : Held s0 s) :
    Held s0 (revokeServe i s) := by
  unfold revokeServe
  try dsimp only
  repeat' with_reducible first
    | assumption | apply beginRevoke_held | apply freeMooring_held | apply setEv_held | split

theorem endMessage_held (conn : Nat) (key : Word) {s0 s : State} (h : Held s0 s) :
    Held s0 (endMessage conn key s) := by
  unfold endMessage
  try dsimp only
  repeat' with_reducible first
    | assumption | apply State.modMooring_held

theorem peerConnFailed_held (i : Nat) {s0 s : State} (h : Held s0 s) :
    Held s0 (peerConnFailed i s) := by
  unfold peerConnFailed
  try dsimp only
  repeat' with_reducible first
    | assumption | apply peerFailed_held | apply State.each_held | split | intro _

theorem dropServes_held (c : Conn) {s0 s : State} (h : Held s0 s) :
    Held s0 (dropServes c s) := by
  unfold dropServes
  try dsimp only
  repeat' with_reducible first
    | assumption | apply freeMooring_held | apply returnBuffers_held | apply State.modConn_held
    | apply State.each_held | split | intro _

theorem connErrorOne_held (i reason : Nat) {s0 s : State} (h : Held s0 s) :
    Held s0 (connErrorOne i reason s) := by
  unfold connErrorOne
  try dsimp only
  repeat' with_reducible first
    | assumption | apply dropServes_held | apply peerConnFailed_held | apply fetchConnFailed_held
    | apply laneLost_held | apply failWaits_held | apply State.modConn_held | apply setEv_held
    | apply State.modCnt_held | apply State.modEgr_held | exact @rfl (List (Nat × Byte)) _ | split

theorem connErrors_held (fuel : Nat) (l : List (Nat × Nat)) {s0 s : State} (h : Held s0 s) :
    Held s0 (connErrors fuel l s) := by
  induction fuel generalizing l s with
  | zero => simp only [connErrors]; exact h
  | succ n ih =>
    cases l with
    | nil => exact h
    | cons x l => exact ih _ (connErrorOne_held _ _ h)

theorem connError_held (i reason : Nat) {s0 s : State} (h : Held s0 s) : Held s0 (connError i reason s) :=
  connErrors_held _ _ h

theorem fatalLoss_held (code loc : Nat) {s0 s : State} (h : Held s0 s) :
    Held s0 (fatalLoss code loc s) := by
  unfold fatalLoss
  try dsimp only
  repeat' with_reducible first
    | assumption | apply connError_held | apply fatalError_held | apply State.each_held | split | intro _

theorem ackUpTo_held (i una : Nat) {s0 s : State} (h : Held s0 s) :
    Held s0 (ackUpTo i una s) := by
  unfold ackUpTo
  try dsimp only
  repeat' with_reducible first
    | assumption | apply wrDone_held | apply State.modConn_held | apply State.each_held | split | intro _

theorem retryOrFail_held (i : Nat) {s0 s : State} (h : Held s0 s) :
    Held s0 (retryOrFail i s) := by
  unfold retryOrFail
  try dsimp only
  repeat' with_reducible first
    | assumption | apply connError_held | apply goBack_held | apply State.modConn_held | split

theorem execAckTimeout_held (conn : Nat) {s0 s : State} (h : Held s0 s) :
    HeldA s0 (execAckTimeout conn s) := by
  unfold execAckTimeout
  try dsimp only
  repeat' with_reducible first
    | assumption | apply HeldA.next | apply retryOrFail_held | apply State.modConn_held | split

theorem execRnrRetryTimer_held (conn : Nat) {s0 s : State} (h : Held s0 s) :
    HeldA s0 (execRnrRetryTimer conn s) := by
  unfold execRnrRetryTimer
  try dsimp only
  repeat' with_reducible first
    | assumption | apply HeldA.next | apply goBack_held | apply State.modConn_held | split

theorem execWaitSatisfied_held (conn : Nat) {s0 s : State} (h : Held s0 s) :
    HeldA s0 (execWaitSatisfied conn s) := by
  unfold execWaitSatisfied
  try dsimp only
  repeat' with_reducible first
    | assumption | apply HeldA.next | apply State.modConn_held

theorem answer_held (i what : Nat) (psn : BitVec 24) {s0 s : State} (h : Held s0 s) :
    Held s0 (answer i what psn s) := by
  unfold answer
  try dsimp only
  repeat' with_reducible first
    | assumption | apply HeldA.next | apply State.emit_held | apply State.onlyIf_held

theorem keyExhausted_held (i : Nat) {s0 s : State} (h : Held s0 s) :
    Held s0 (keyExhausted i s) := by
  unfold keyExhausted
  try dsimp only
  repeat' with_reducible first
    | assumption | apply HeldA.next | apply connError_held | apply setEv_held

theorem advanceRq_held (i n : Nat) {s0 s : State} (h : Held s0 s) :
    Held s0 (advanceRq i n s) := by
  unfold advanceRq
  try dsimp only
  repeat' with_reducible first
    | assumption | apply HeldA.next | apply keyExhausted_held | apply State.modConn_held | split

theorem countRefused_held {s0 s : State} (h : Held s0 s) :
    Held s0 (countRefused s) := by
  unfold countRefused
  try dsimp only
  repeat' with_reducible first
    | assumption | apply HeldA.next | apply State.modEgr_held | exact @rfl (List (Nat × Byte)) _

theorem invalidRequest_held (i : Nat) (psn : BitVec 24) {s0 s : State} (h : Held s0 s) :
    Held s0 (invalidRequest i psn s) := by
  unfold invalidRequest
  try dsimp only
  repeat' with_reducible first
    | assumption | apply HeldA.next | apply answer_held | apply connError_held

theorem refuseAccess_held (i : Nat) (psn : BitVec 24) {s0 s : State} (h : Held s0 s) :
    Held s0 (refuseAccess i psn s) := by
  unfold refuseAccess
  try dsimp only
  repeat' with_reducible first
    | assumption | apply HeldA.next | apply answer_held | apply connError_held | apply countPerf_held
    | apply setEv_held | apply State.modCnt_held

theorem landWrite_held (i : Nat) (psn : BitVec 24) (key : Word) (at_ left : Nat) (last : Bool) (bs : List Byte) {s0 s : State} (h : Held s0 s) :
    Held s0 (landWrite i psn key at_ left last bs s) := by
  unfold landWrite
  try dsimp only
  repeat' with_reducible first
    | assumption | apply invalidRequest_held | apply advanceRq_held | apply answer_held | apply endMessage_held
    | apply writeJob_held | apply State.modConn_held | split

theorem rxWrite_held (c : Conn) (w : Wire) (key : Word) (va len : Nat) (first last : Bool) (bs : List Byte) {s0 s : State}
    (h : Held s0 s) : Held s0 (rxWrite c w key va len first last bs s) := by
  unfold rxWrite
  generalize psnPlace c w.psn = p
  cases p with
  | past e => exact answer_held _ _ _ h
  | future => exact answer_held _ _ _ h
  | expected =>
    dsimp only
    split
    · split
      · exact invalidRequest_held _ _ h
      · split
        · exact landWrite_held _ _ _ _ _ _ _ (State.modMooring_held _ _ h)
        · exact refuseAccess_held _ _ h
    · split
      · exact landWrite_held _ _ _ _ _ _ _ h
      · exact invalidRequest_held _ _ h

theorem postResponse_held (c : Conn) (ext va : Nat) (key : Word) (bs : List Byte) {s0 s : State} (h : Held s0 s) :
    Held s0 (postResponse c ext va key bs s) := by
  unfold postResponse
  try dsimp only
  repeat' with_reducible first
    | assumption | apply postWr_held

theorem rxRead_held (c : Conn) (w : Wire) (key : Word) (va len : Nat) {s0 s : State} (h : Held s0 s) :
    Held s0 (rxRead c w key va len s) := by
  unfold rxRead
  generalize psnPlace c w.psn = p
  cases p with
  | past e =>
    dsimp only
    split
    · exact postResponse_held _ _ _ _ _ h
    · exact answer_held _ _ _ h
  | future => exact answer_held _ _ _ h
  | expected =>
    dsimp only
    split
    · exact invalidRequest_held _ _ h
    · split
      · split
        · exact h
        · exact advanceRq_held _ _ (postResponse_held _ _ _ _ _ (State.modConn_held _ _ (State.modMooring_held _ _ h)))
      · exact refuseAccess_held _ _ h

theorem peerRefuse_held (i tag status : Nat) {s0 s : State} (h : Held s0 s) :
    Held s0 (peerRefuse i tag status s) := by
  unfold peerRefuse
  try dsimp only
  repeat' with_reducible first
    | assumption | apply postSend_held

theorem takePeerReq_held (c : Conn) (bs : List Byte) {s0 s : State} (h : Held s0 s) :
    Held s0 (takePeerReq c bs s) := by
  unfold takePeerReq
  try dsimp only
  repeat' with_reducible first
    | assumption | apply peerRefuse_held | apply drawBerths_held | apply State.modConn_held | split

theorem serveMooring_held (i n : Nat) (v : Serve) {s0 s : State} (h : Held s0 s) :
    Held s0 (serveMooring i n v s) := by
  unfold serveMooring
  try dsimp only
  repeat' with_reducible first
    | assumption | apply postSend_held | apply State.modConn_held | apply State.modEgr_held | apply State.draw_held
    | exact @rfl (List (Nat × Byte)) _

theorem execPeerServeReady_held (conn : Nat) (tag : Half) (mediaFailed : Bool) {s0 s : State} (h : Held s0 s) :
    HeldA s0 (execPeerServeReady conn tag mediaFailed s) := by
  unfold execPeerServeReady
  try dsimp only
  repeat' with_reducible first
    | assumption | apply HeldA.next | apply serveMooring_held | apply peerRefuse_held | apply returnBuffers_held
    | apply State.modConn_held | split

theorem takeFetchRsp_held (c : Conn) (bs : List Byte) (x : Fetch) {s0 s : State} (h : Held s0 s) :
    Held s0 (takeFetchRsp c bs x s) := by
  unfold takeFetchRsp
  try dsimp only
  repeat' with_reducible first
    | assumption | apply fetchFailed_held | apply State.modFetch_held | apply postWr_held | split

theorem takePeerRsp_held (c : Conn) (bs : List Byte) {s0 s : State} (h : Held s0 s) :
    Held s0 (takePeerRsp c bs s) := by
  unfold takePeerRsp
  try dsimp only
  repeat' with_reducible first
    | assumption | apply takeFetchRsp_held | apply reqDrawBerths_held | apply peerFailed_held | apply berthRetry_held
    | apply State.modReq_held | apply postSend_held | apply postWr_held | split

theorem takePeerDone_held (c : Conn) (bs : List Byte) {s0 s : State} (h : Held s0 s) :
    Held s0 (takePeerDone c bs s) := by
  unfold takePeerDone
  try dsimp only
  repeat' with_reducible first
    | assumption | apply revokeServe_held | split

theorem execPeerHoldExpiry_held (conn : Nat) (tag : Half) {s0 s : State} (h : Held s0 s) :
    HeldA s0 (execPeerHoldExpiry conn tag s) := by
  unfold execPeerHoldExpiry
  try dsimp only
  repeat' with_reducible first
    | assumption | apply HeldA.next | apply revokeServe_held | split

theorem fetchReadDone_held (conn : Nat) (x : Fetch) (complete : Bool) {s0 s : State} (h : Held s0 s) :
    Held s0 (fetchReadDone conn x complete s) := by
  unfold fetchReadDone
  try dsimp only
  repeat' with_reducible first
    | assumption | apply HeldA.next | apply fetchArrived_held | apply fetchFailed_held | apply complete_held
    | apply postSend_held | apply State.modConn_held | split

theorem execPeerReadDone_held (conn : Nat) (tag : Half) (complete : Bool) {s0 s : State} (h : Held s0 s) :
    HeldA s0 (execPeerReadDone conn tag complete s) := by
  unfold execPeerReadDone
  try dsimp only
  repeat' with_reducible first
    | assumption | apply HeldA.next | apply fetchReadDone_held | apply complete_held | apply enterPhase_held
    | apply peerFailed_held | apply cacheAdmit_held | apply postSend_held | apply State.modConn_held | split

theorem takeMessage_held (c : Conn) (bs : List Byte) {s0 s : State} (h : Held s0 s) :
    Held s0 (takeMessage c bs s) := by
  unfold takeMessage
  try dsimp only
  repeat' with_reducible first
    | assumption | apply takePeerDone_held | apply takePeerRsp_held | apply takePeerReq_held | apply takeReturn_held
    | split

theorem rxMessage_held (c : Conn) (w : Wire) (bs : List Byte) {s0 s : State} (h : Held s0 s) :
    Held s0 (rxMessage c w bs s) := by
  unfold rxMessage
  generalize psnPlace c w.psn = p
  cases p with
  | past e => exact answer_held _ _ _ h
  | future => exact answer_held _ _ _ h
  | expected =>
    dsimp only
    split
    · exact invalidRequest_held _ _ (countRefused_held h)
    · split
      · exact invalidRequest_held _ _ h
      · split
        · exact answer_held _ _ _ h
        · exact takeMessage_held _ _ (advanceRq_held _ _ (answer_held _ _ _ (State.modConn_held _ _ h)))

theorem rxNak_held (c : Conn) (w : Wire) (code : Nat) {s0 s : State} (h : Held s0 s) :
    Held s0 (rxNak c w code s) := by
  unfold rxNak
  try dsimp only
  repeat' with_reducible first
    | assumption | apply retryOrFail_held | apply ackUpTo_held | apply connError_held | split

theorem rxRnr_held (c : Conn) (w : Wire) {s0 s : State} (h : Held s0 s) :
    Held s0 (rxRnr c w s) := by
  unfold rxRnr
  try dsimp only
  repeat' with_reducible first
    | assumption | apply ackUpTo_held | apply connError_held | apply State.modConn_held | split

theorem rxReadRsp_held (c : Conn) (w : Wire) (bs : List Byte) {s0 s : State} (h : Held s0 s) :
    Held s0 (rxReadRsp c w bs s) := by
  unfold rxReadRsp
  try dsimp only
  repeat' with_reducible first
    | assumption | apply keyExhausted_held | apply retryOrFail_held | apply ackUpTo_held | apply State.modFetches_held
    | apply State.modReq_held | apply State.modConn_held | split

theorem rxCnp_held (c : Conn) {s0 s : State} (h : Held s0 s) :
    Held s0 (rxCnp c s) := by
  unfold rxCnp
  try dsimp only
  repeat' with_reducible first
    | assumption | apply State.modConn_held | apply countPerf_held | split

theorem rxBad_held (c : Conn) (kind : RefusedKind) {s0 s : State} (h : Held s0 s) :
    Held s0 (rxBad c kind s) := by
  unfold rxBad
  try dsimp only
  repeat' with_reducible first
    | assumption | apply invalidRequest_held | apply countRefused_held | split

theorem sendCnp_held (c : Conn) (ce : Bool) {s0 s : State} (h : Held s0 s) :
    Held s0 (sendCnp c ce s) := by
  unfold sendCnp
  try dsimp only
  repeat' with_reducible first
    | assumption | apply answer_held | apply State.modConn_held | apply countPerf_held | split

theorem dropTagged_held (c : Conn) {s0 s : State} (h : Held s0 s) :
    Held s0 (dropTagged c s) := by
  unfold dropTagged
  try dsimp only
  repeat' with_reducible first
    | assumption | apply connError_held | apply State.modConn_held | apply countPerf_held | split

theorem process_held (c : Conn) (p : RxPacket) {s0 s : State} (h : Held s0 s) :
    Held s0 (process c p s) := by
  unfold process
  try dsimp only
  repeat' with_reducible first
    | assumption | apply rxBad_held | apply rxCnp_held | apply rxReadRsp_held | apply rxRnr_held | apply rxNak_held
    | apply rxMessage_held | apply rxRead_held | apply rxWrite_held | apply ackUpTo_held | split

theorem deliver_held (i : Nat) (p : RxPacket) {s0 s : State} (h : Held s0 s) :
    Held s0 (deliver i p s) := by
  unfold deliver
  try dsimp only
  repeat' with_reducible first
    | assumption | apply process_held | apply dropTagged_held | apply sendCnp_held | apply State.modConn_held | split

theorem restoreCredits_held (i : Nat) {s0 s : State} (h : Held s0 s) :
    Held s0 (restoreCredits i s) := by
  unfold restoreCredits
  try dsimp only
  repeat' with_reducible first
    | assumption | apply State.modConn_held

theorem pfcRise_held (c : Conn) (was : State) {s0 s : State} (h : Held s0 s) : Held s0 (pfcRise c was s) := by
  unfold pfcRise
  split
  · exact h
  · split
    · exact State.emit_held h _
    · exact h

theorem receive_held (i : Nat) (p : RxPacket) {s0 s : State} (h : Held s0 s) :
    Held s0 (receive i p s) := by
  unfold receive
  try dsimp only
  repeat' with_reducible first
    | assumption | apply pfcRise_held | apply restoreCredits_held | apply deliver_held | apply overcommitRise_held
    | apply State.modConn_held | apply wake_held | apply countPerf_held | apply State.onlyIf_held | split

theorem becomeResident_held (i : Nat) {s0 s : State} (h : Held s0 s) :
    Held s0 (becomeResident i s) := by
  unfold becomeResident
  try dsimp only
  repeat' with_reducible first
    | assumption | apply restoreCredits_held | apply deliver_held | apply retryOrFail_held | apply State.modConn_held
    | apply State.each_held | split | intro _

theorem execRxRdmaWrite_held (conn : Nat) (wire : Wire) (key : Word) (va length : Nat) (first last : Bool) (payload : List Byte) {s0 s : State} (h : Held s0 s) :
    HeldA s0 (execRxRdmaWrite conn wire key va length first last payload s) := by
  unfold execRxRdmaWrite
  try dsimp only
  repeat' with_reducible first
    | assumption | apply HeldA.next | apply receive_held

theorem execRxRdmaRead_held (conn : Nat) (wire : Wire) (key : Word) (va length : Nat) {s0 s : State} (h : Held s0 s) :
    HeldA s0 (execRxRdmaRead conn wire key va length s) := by
  unfold execRxRdmaRead
  try dsimp only
  repeat' with_reducible first
    | assumption | apply HeldA.next | apply receive_held

theorem execRxAck_held (conn : Nat) (wire : Wire) {s0 s : State} (h : Held s0 s) :
    HeldA s0 (execRxAck conn wire s) := by
  unfold execRxAck
  try dsimp only
  repeat' with_reducible first
    | assumption | apply HeldA.next | apply receive_held

theorem execRxNak_held (conn : Nat) (wire : Wire) (code : Nat) {s0 s : State} (h : Held s0 s) :
    HeldA s0 (execRxNak conn wire code s) := by
  unfold execRxNak
  try dsimp only
  repeat' with_reducible first
    | assumption | apply HeldA.next | apply receive_held

theorem execRxRnrNak_held (conn : Nat) (wire : Wire) {s0 s : State} (h : Held s0 s) :
    HeldA s0 (execRxRnrNak conn wire s) := by
  unfold execRxRnrNak
  try dsimp only
  repeat' with_reducible first
    | assumption | apply HeldA.next | apply receive_held

theorem execRxReadResponse_held (conn : Nat) (wire : Wire) (last : Bool) (payload : List Byte) {s0 s : State} (h : Held s0 s) :
    HeldA s0 (execRxReadResponse conn wire last payload s) := by
  unfold execRxReadResponse
  try dsimp only
  repeat' with_reducible first
    | assumption | apply HeldA.next | apply receive_held

theorem execRxCnp_held (conn : Nat) (ce : Bool) {s0 s : State} (h : Held s0 s) :
    HeldA s0 (execRxCnp conn ce s) := by
  unfold execRxCnp
  try dsimp only
  repeat' with_reducible first
    | assumption | apply HeldA.next | apply receive_held

theorem execRxRefusedPacket_held (conn : Option Nat) (kind : RefusedKind) (ce : Bool) {s0 s : State} (h : Held s0 s) :
    HeldA s0 (execRxRefusedPacket conn kind ce s) := by
  unfold execRxRefusedPacket
  try dsimp only
  repeat' with_reducible first
    | assumption | apply HeldA.next | apply receive_held | apply countRefused_held | split

theorem execReturnRx_held (conn : Nat) (wire : Wire) (payload : List Byte) {s0 s : State} (h : Held s0 s) :
    HeldA s0 (execReturnRx conn wire payload s) := by
  unfold execReturnRx
  try dsimp only
  repeat' with_reducible first
    | assumption | apply HeldA.next | apply receive_held

theorem execPeerReqRx_held (conn : Nat) (wire : Wire) (payload : List Byte) {s0 s : State} (h : Held s0 s) :
    HeldA s0 (execPeerReqRx conn wire payload s) := by
  unfold execPeerReqRx
  try dsimp only
  repeat' with_reducible first
    | assumption | apply HeldA.next | apply receive_held

theorem execPeerRspRx_held (conn : Nat) (wire : Wire) (payload : List Byte) {s0 s : State} (h : Held s0 s) :
    HeldA s0 (execPeerRspRx conn wire payload s) := by
  unfold execPeerRspRx
  try dsimp only
  repeat' with_reducible first
    | assumption | apply HeldA.next | apply receive_held

theorem execPeerDoneRx_held (conn : Nat) (wire : Wire) (payload : List Byte) {s0 s : State} (h : Held s0 s) :
    HeldA s0 (execPeerDoneRx conn wire payload s) := by
  unfold execPeerDoneRx
  try dsimp only
  repeat' with_reducible first
    | assumption | apply HeldA.next | apply receive_held

theorem downLink_held (m : Nat) (conf : Option Nat) {s0 s : State} (h : Held s0 s) :
    Held s0 (downLink m conf s) := by
  unfold downLink
  try dsimp only
  repeat' with_reducible first
    | assumption | apply HeldA.next | apply downLinks_held | apply raiseReason_held | split

theorem execLinkDown_held (link : Fin 16) (ownSerdes : Bool) {s0 s : State} (h : Held s0 s) :
    HeldA s0 (execLinkDown link ownSerdes s) := by
  unfold execLinkDown
  try dsimp only
  repeat' with_reducible first
    | assumption | apply HeldA.next | apply downLink_held

theorem execLinkUp_held (link : Fin 16) {s0 s : State} (h : Held s0 s) :
    HeldA s0 (execLinkUp link s) := by
  unfold execLinkUp
  try dsimp only
  repeat' with_reducible first
    | assumption | apply HeldA.next | apply wake_held | apply clearReason_held | apply setEv_held
    | apply State.modEgr_held | exact @rfl (List (Nat × Byte)) _ | split

theorem execPathMigrateBack_held (conn : Nat) {s0 s : State} (h : Held s0 s) :
    HeldA s0 (execPathMigrateBack conn s) := by
  unfold execPathMigrateBack
  try dsimp only
  repeat' with_reducible first
    | assumption | apply HeldA.next | apply changePath_held | split

theorem execHeartbeatSend_held (conn : Nat) {s0 s : State} (h : Held s0 s) :
    HeldA s0 (execHeartbeatSend conn s) := by
  unfold execHeartbeatSend
  try dsimp only
  repeat' with_reducible first
    | assumption | apply HeldA.next | apply postWrite_held | apply State.modConn_held | apply countPerf_held | split

end Sys2Proof.Machine
end

