-- ==== Sys2Proof/Laws/HeldCommands.lean ====
section
/-! SUPPORT. What `Held` keeps, operation by operation: losses, power, the dataset, job and security commands, and the
resets. -/

namespace Sys2Proof.Machine

theorem State.modEdge_held (e : Nat) (f : Edge → Edge) {s0 s : State} (h : Held s0 s) :
    Held s0 (State.modEdge e f s) := by
  unfold State.modEdge
  try dsimp only
  repeat' with_reducible first
    | assumption | apply State.modFab_held

theorem arriveFlit_held (c : TrafficClass) (src dst place : Nat) {s0 s : State} (h : Held s0 s) :
    Held s0 (arriveFlit c src dst place s) := by
  unfold arriveFlit
  try dsimp only
  repeat' with_reducible first
    | assumption | apply State.modFab_held | split

theorem forwardFlit_held (at_ dst : Nat) (k : FlitKind) {s0 s : State} (h : Held s0 s) :
    Held s0 (forwardFlit at_ dst k s) := by
  unfold forwardFlit
  split
  · rename_i m _ _
    cases edgeBetween at_ m with
    | none => exact h
    | some e => exact State.emit_held h _
  · exact h

theorem execSlipwayFlitRx_held (edge : Fin 42) (fromLow : Bool) (kind : FlitKind) (crcOk : Bool) {s0 s : State} (h : Held s0 s) :
    HeldA s0 (execSlipwayFlitRx edge fromLow kind crcOk s) := by
  unfold execSlipwayFlitRx
  try dsimp only
  repeat' with_reducible first
    | assumption | apply HeldA.next | apply forwardFlit_held | apply arriveFlit_held | apply State.modEdge_held
    | apply countCorrected_held | apply countPerf_held | split

theorem execIdleFlitTimer_held (edge : Fin 42) (fromLow : Bool) {s0 s : State} (h : Held s0 s) :
    HeldA s0 (execIdleFlitTimer edge fromLow s) := by
  unfold execIdleFlitTimer
  try dsimp only
  repeat' with_reducible first
    | assumption | apply HeldA.next | apply State.emit_held | split

theorem lastSpdCheck_held {s0 s : State} (h : Held s0 s) :
    Held s0 (lastSpdCheck s) := by
  unfold lastSpdCheck
  try dsimp only
  repeat' with_reducible first
    | assumption | apply HeldA.next | apply fatalLoss_held | split

theorem loseCopies_held (n : Nat) (serving : List Nat) {s0 s : State} (h : Held s0 s) :
    Held s0 (loseCopies n serving s) := by
  unfold loseCopies
  try dsimp only
  repeat' with_reducible first
    | assumption | apply HeldA.next | apply State.modFab_held | apply State.modMedia_held | apply State.modEgr_held
    | exact @rfl (List (Nat × Byte)) _

theorem loseBufferQuiet_held (n : Nat) {s0 s : State} (h : Held s0 s) : Held s0 (loseBufferQuiet n s) :=
  Held.same (loseBuffer_held n h) rfl rfl rfl rfl rfl

theorem loseServes_held (n : Nat) {s0 s : State} (h : Held s0 s) :
    Held s0 (loseServes n s) := by
  unfold loseServes
  try dsimp only
  repeat' with_reducible first
    | assumption | apply revokeServe_held | apply State.modConn_held | apply State.each_held | split | intro _

theorem staleDie_held (d : Nat) {s0 s : State} (h : Held s0 s) :
    Held s0 (staleDie d s) := by
  unfold staleDie
  try dsimp only
  repeat' with_reducible first
    | assumption | apply State.modPmc_held

theorem loseSpd_held (n : Nat) {s0 s : State} (h : Held s0 s) :
    Held s0 (loseSpd n s) := by
  unfold loseSpd
  try dsimp only
  repeat' with_reducible first
    | assumption | apply staleDie_held | apply loseServes_held | apply loseBufferQuiet_held | apply loseCopies_held
    | apply lastSpdCheck_held | apply abandonOn_held | apply budgetsDue_held | apply opSettle_held
    | apply keepSpill_held | apply countContained_held | apply raiseReason_held | apply State.modFab_held
    | apply State.modSec_held | apply State.onlyIf_held | exact @rfl (List (BitVec 256) × _) _ | split

theorem loseIod1_held {s0 s : State} (h : Held s0 s) :
    Held s0 (loseIod1 s) := by
  unfold loseIod1
  try dsimp only
  repeat' with_reducible first
    | assumption | apply staleDie_held | apply downLink_held | apply resetPort_held | apply countContained_held
    | apply raiseReason_held | apply State.modFab_held | apply State.each_held | split | intro _

theorem loseMed_held (k : Nat) {s0 s : State} (h : Held s0 s) :
    Held s0 (loseMed k s) := by
  unfold loseMed
  try dsimp only
  repeat' with_reducible first
    | assumption | apply staleDie_held | apply fatalLoss_held | apply State.modFab_held | split

theorem loseIod0_held {s0 s : State} (h : Held s0 s) : Held s0 (loseIod0 s) := by
  unfold loseIod0
  split
  · exact h
  · exact h.step ⟨rfl, ⟨Nat.le_refl _, Nat.le_refl _, fun _ k => k, fun _ _ k _ => k, fun _ k => k⟩,
      fun k => ⟨k.1, rfl, k.3, k.4⟩⟩

theorem loseDie_held (d : Nat) {s0 s : State} (h : Held s0 s) :
    Held s0 (loseDie d s) := by
  unfold loseDie
  try dsimp only
  repeat' with_reducible first
    | assumption | apply loseIod0_held | apply loseMed_held | apply loseIod1_held | apply loseSpd_held | split

theorem execEdgeSilenceTimeout_held (edges : List (Fin 42)) {s0 s : State} (h : Held s0 s) :
    HeldA s0 (execEdgeSilenceTimeout edges s) := by
  unfold execEdgeSilenceTimeout
  try dsimp only
  repeat' with_reducible first
    | assumption | apply HeldA.next | apply loseDie_held | apply State.modEdge_held | apply countContained_held
    | apply raiseReason_held | apply State.each_held | split | intro _

theorem readCold_held (r : Request) {s0 s : State} (h : Held s0 s) :
    Held s0 (readCold r s) := by
  unfold readCold
  try dsimp only
  repeat' with_reducible first
    | assumption | apply askPeers_held | apply replan_held | apply State.modReq_held | apply countLookup_held | split

theorem dropFromCaches_held (n left : Nat) {s0 s : State} (h : Held s0 s) :
    Held s0 (dropFromCaches n left s) := by
  unfold dropFromCaches
  try dsimp only
  repeat' with_reducible first
    | assumption | apply readCold_held | apply State.modSpd_held | apply State.each_held | split | intro _
    | refine held_of_eq ?_ (by assumption) | exact Held.same h rfl rfl rfl rfl rfl

theorem loseStack_held (i : Nat) {s0 s : State} (h : Held s0 s) :
    Held s0 (loseStack i s) := by
  unfold loseStack
  try dsimp only
  repeat' with_reducible first
    | assumption | apply dropFromCaches_held | apply loseSpd_held | apply loseBuffer_held | apply countContained_held
    | apply raiseReason_held | apply setEv_held | apply State.modFab_held | apply State.onlyIf_held | split

theorem execHbmStackLost_held (stack : Fin 24) {s0 s : State} (h : Held s0 s) :
    HeldA s0 (execHbmStackLost stack s) := by
  unfold execHbmStackLost
  try dsimp only
  repeat' with_reducible first
    | assumption | apply HeldA.next | apply loseStack_held | split

theorem execStackRebuildDone_held (stack : Fin 24) {s0 s : State} (h : Held s0 s) :
    HeldA s0 (execStackRebuildDone stack s) := by
  unfold execStackRebuildDone
  try dsimp only
  repeat' with_reducible first
    | assumption | apply HeldA.next | apply State.modFab_held | split

theorem retireRow_held (r : HbmRow) {s0 s : State} (h : Held s0 s) :
    Held s0 (retireRow r s) := by
  unfold retireRow
  try dsimp only
  repeat' with_reducible first
    | assumption | apply HeldA.next | apply dropFromCaches_held | apply raiseReason_held | apply setEv_held
    | apply State.modFab_held | split

theorem execMemoryCe_held (spd : Fin 8) (row : Option HbmRow) {s0 s : State} (h : Held s0 s) :
    HeldA s0 (execMemoryCe spd row s) := by
  unfold execMemoryCe
  try dsimp only
  repeat' with_reducible first
    | assumption | apply HeldA.next | apply retireRow_held | apply countCorrected_held | apply countPerf_held
    | apply State.modFab_held | split

theorem berthError_held (spd : Nat) (k : ReqKey) {s0 s : State} (h : Held s0 s) :
    Held s0 (berthError spd k s) := by
  unfold berthError
  try dsimp only
  repeat' with_reducible first
    | assumption | apply failSample_held | apply backToReady_held | apply State.modReq_held
    | apply countCorrected_held | split

theorem cacheError_held (n : Nat) (dec : Bool) (dsSlot index : Nat) (remote : Bool) {s0 s : State} (h : Held s0 s) :
    Held s0 (cacheError n dec dsSlot index remote s) := by
  unfold cacheError
  try dsimp only
  repeat' with_reducible first
    | assumption | apply readCold_held | apply cacheDrop_held | apply countCorrected_held | apply State.each_held
    | split | intro _

theorem readError_held (serve : Option Nat) (va : Nat) (nak : Bool) {s0 s : State} (h : Held s0 s) :
    Held s0 (readError serve va nak s) := by
  unfold readError
  try dsimp only
  repeat' with_reducible first
    | assumption | apply answer_held | apply connError_held | apply State.each_held | apply State.onlyIf_held | split
    | intro _

theorem execMemoryUe_held (place : MemPlace) (row : Option HbmRow) {s0 s : State} (h : Held s0 s) :
    HeldA s0 (execMemoryUe place row s) := by
  unfold execMemoryUe
  try dsimp only
  repeat' with_reducible first
    | assumption | apply HeldA.next | apply readError_held | apply cacheError_held | apply berthError_held
    | apply retireRow_held | apply loseBuffer_held | apply State.modSpd_held | apply countContained_held
    | apply countCorrected_held | apply setEv_held | apply State.modMedia_held | apply State.onlyIf_held | split

theorem execPatrolScrub_held (hbm : Bool) (start : Nat) {s0 s : State} (h : Held s0 s) :
    HeldA s0 (execPatrolScrub hbm start s) := by
  unfold execPatrolScrub
  try dsimp only
  repeat' with_reducible first
    | assumption | apply HeldA.next | apply State.modFab_held | split

theorem execTextTableReloadDone_held (spd : Fin 8) {s0 s : State} (h : Held s0 s) :
    HeldA s0 (execTextTableReloadDone spd s) := by
  unfold execTextTableReloadDone
  try dsimp only
  repeat' with_reducible first
    | assumption | apply HeldA.next | apply State.modSpd_held | split

/-- The job's memory is emptied: what `Held` speaks of stands. -/
theorem jobCleared_held {s t u : State} (h : Held s t) (h1 : u.pending = t.pending) (h2 : u.sec = t.sec) (h3 : u.egr.jobMem = [])
    (h4 : u.shadow = t.shadow) (h5 : u.applied = t.applied) : Held s u :=
  h.step ⟨h1, h2 ▸ .refl _, fun k => ⟨h3 ▸ rfl, h2 ▸ k.2, h4 ▸ k.3, h5 ▸ k.4⟩⟩

theorem execJobClearDone_held {s0 s : State} (h : Held s0 s) : HeldA s0 (execJobClearDone s) := by
  have t := State.each_held h (List.range 8) (fun n u => keepSpill n (fun _ => []) u) fun a u k => keepSpill_held _ _ k
  unfold execJobClearDone
  split
  · exact HeldA.next h
  · dsimp only
    generalize (s.each (List.range 8) fun n u => keepSpill n (fun _ => []) u) = u at t ⊢
    refine HeldA.next (State.each_held ?_ _ _ fun a u k => finish_held _ _ _ k)
    refine postEvent_held _ _ _ ?_
    exact jobCleared_held t rfl rfl rfl rfl rfl

theorem execDuskEntryStart_held {s0 s : State} (h : Held s0 s) :
    HeldA s0 (execDuskEntryStart s) := by
  unfold execDuskEntryStart
  try dsimp only
  repeat' with_reducible first
    | assumption | apply HeldA.next | apply State.modPwr_held | split

theorem execEntryCommit_held {s0 s : State} (h : Held s0 s) :
    HeldA s0 (execEntryCommit s) := by
  unfold execEntryCommit
  try dsimp only
  repeat' with_reducible first
    | assumption | apply HeldA.next | apply State.modPwr_held | split

theorem entered_held (st : PowerState) {s0 s : State} (h : Held s0 s) :
    Held s0 (entered st s) := by
  unfold entered
  try dsimp only
  repeat' with_reducible first
    | assumption | apply HeldA.next | apply beginExit_held | apply State.modPwr_held | apply State.onlyIf_held

theorem execDuskEntryDone_held {s0 s : State} (h : Held s0 s) :
    HeldA s0 (execDuskEntryDone s) := by
  unfold execDuskEntryDone
  try dsimp only
  repeat' with_reducible first
    | assumption | apply HeldA.next | apply entered_held | apply State.modPower_held | apply setEv_held
    | apply State.modPwr_held | apply State.each_held | split | intro _

theorem execNightEntryStart_held {s0 s : State} (h : Held s0 s) :
    HeldA s0 (execNightEntryStart s) := by
  unfold execNightEntryStart
  try dsimp only
  repeat' with_reducible first
    | assumption | apply HeldA.next | apply State.modPwr_held | split

theorem execNightEntryDone_held {s0 s : State} (h : Held s0 s) :
    HeldA s0 (execNightEntryDone s) := by
  unfold execNightEntryDone
  try dsimp only
  repeat' with_reducible first
    | assumption | apply HeldA.next | apply entered_held | apply nightEntry_held | apply setEv_held | split

theorem execWakeNEdge_held (low : Bool) {s0 s : State} (h : Held s0 s) :
    HeldA s0 (execWakeNEdge low s) := by
  unfold execWakeNEdge
  try dsimp only
  repeat' with_reducible first
    | assumption | apply HeldA.next | apply wake_held | apply State.modPwr_held | split

theorem execTideWakeTimer_held {s0 s : State} (h : Held s0 s) :
    HeldA s0 (execTideWakeTimer s) := by
  unfold execTideWakeTimer
  try dsimp only
  repeat' with_reducible first
    | assumption | apply HeldA.next | apply wake_held | apply State.modPwr_held | split

theorem toNoon_held {s0 s : State} (h : Held s0 s) :
    Held s0 (toNoon s) := by
  unfold toNoon
  try dsimp only
  repeat' with_reducible first
    | assumption | apply HeldA.next | apply State.modPwr_held

theorem takeHeld_held {s0 s : State} (h : Held s0 s) :
    Held s0 (takeHeld s) := by
  unfold takeHeld
  try dsimp only
  repeat' with_reducible first
    | assumption | apply HeldA.next | apply becomeResident_held | apply State.each_held | split | intro _

theorem execDuskExitDone_held {s0 s : State} (h : Held s0 s) :
    HeldA s0 (execDuskExitDone s) := by
  unfold execDuskExitDone
  try dsimp only
  repeat' with_reducible first
    | assumption | apply HeldA.next | apply takeHeld_held | apply toNoon_held | apply State.modPower_held
    | apply setEv_held | apply State.each_held | split | intro _

theorem startAtPoint_held {s0 s : State} (h : Held s0 s) :
    Held s0 (startAtPoint s) := by
  unfold startAtPoint
  try dsimp only
  repeat' with_reducible first
    | assumption | apply opSettle_held | apply exitStepAll_held | apply State.modFab_held | apply State.modPwr_held

theorem execNightExitDone_held {s0 s : State} (h : Held s0 s) :
    HeldA s0 (execNightExitDone s) := by
  unfold execNightExitDone
  try dsimp only
  repeat' with_reducible first
    | assumption | apply HeldA.next | apply startAtPoint_held | apply takeHeld_held | apply toNoon_held
    | apply finishExit_held | apply setEv_held | split

theorem onMedia_held (f : Cmd → State → State) (c : Cmd) {s0 s : State} (h : Held s0 s)
    (k : ∀ c u, Held s0 u → Held s0 (f c u)) : Held s0 (onMedia f c s) := by
  unfold onMedia
  split
  · exact finish_held _ _ _ h
  · exact k _ _ h

theorem onPart_held (f : Cmd → Partition → State → State) (c : Cmd) {s0 s : State} (h : Held s0 s)
    (k : ∀ c p u, Held s0 u → Held s0 (f c p u)) : Held s0 (onPart f c s) := by
  refine onMedia_held _ _ h fun c u hu => ?_
  split
  · exact finish_held _ _ _ hu
  · exact k _ _ _ hu

theorem drawBytes_held (n : Nat) {s0 s : State} (h : Held s0 s) : Held s0 (drawBytes n s).2 := by
  induction n generalizing s with
  | zero => exact h
  | succ n ih => exact ih (State.draw_held h)

theorem execDatasetCreate_held (cmd : CmdId) (data : HostData) {s0 s : State} (h : Held s0 s) :
    HeldA s0 (execDatasetCreate cmd data s) := by
  unfold execDatasetCreate
  try dsimp only
  repeat' with_reducible first
    | assumption | apply HeldA.next | apply drawBytes_held | apply onMedia_held | apply runDataSec_held
    | apply finish_held | apply programMedia_held | split | intro _

theorem execWrite_held (cmd : CmdId) (data : HostData) {s0 s : State} (h : Held s0 s) :
    HeldA s0 (execWrite cmd data s) := by
  unfold execWrite
  try dsimp only
  repeat' with_reducible first
    | assumption | apply HeldA.next | apply onPart_held | apply shardIn_held | apply runDataSec_held
    | apply finish_held | apply State.setRun_held | split | intro _ | refine held_of_eq ?_ (by assumption)

theorem execFlush_held (cmd : CmdId) {s0 s : State} (h : Held s0 s) :
    HeldA s0 (execFlush cmd s) := by
  unfold execFlush
  try dsimp only
  repeat' with_reducible first
    | assumption | apply HeldA.next | apply onPart_held | apply runPlain_held | apply finish_held
    | apply State.setRun_held | split | intro _

theorem execSealPartition_held (cmd : CmdId) {s0 s : State} (h : Held s0 s) :
    HeldA s0 (execSealPartition cmd s) := by
  unfold execSealPartition
  try dsimp only
  repeat' with_reducible first
    | assumption | apply HeldA.next | apply onPart_held | apply runCmd_held | apply finish_held
    | apply State.setRun_held | split | intro _

theorem deletePartition_held (p : Partition) {s0 s : State} (h : Held s0 s) :
    Held s0 (deletePartition p s) := by
  unfold deletePartition
  try dsimp only
  repeat' with_reducible first
    | assumption | apply keepSpill_held | apply programMedia_held | apply clearReason_held | apply State.modFab_held
    | apply State.each_held | split | intro _

theorem execDatasetDelete_held (cmd : CmdId) {s0 s : State} (h : Held s0 s) :
    HeldA s0 (execDatasetDelete cmd s) := by
  unfold execDatasetDelete
  try dsimp only
  repeat' with_reducible first
    | assumption | apply HeldA.next | apply deletePartition_held | apply onPart_held | apply runPlain_held
    | apply finish_held | split | intro _

theorem execFormat_held (cmd : CmdId) {s0 s : State} (h : Held s0 s) :
    HeldA s0 (execFormat cmd s) := by
  unfold execFormat
  try dsimp only
  repeat' with_reducible first
    | assumption | apply HeldA.next | apply onMedia_held | apply runPlain_held | apply finish_held
    | apply mediaReasons_held | apply setMedia_held | apply clearReason_held | apply State.each_held | split | intro _

theorem execDefectList_held (cmd : CmdId) (data : HostData) {s0 s : State} (h : Held s0 s) :
    HeldA s0 (execDefectList cmd data s) := by
  unfold execDefectList
  try dsimp only
  repeat' with_reducible first
    | assumption | apply HeldA.next | apply onPart_held | apply runData_held | apply finish_held
    | apply Cmd.writeData_held | split | intro _

theorem execMediaStatus_held (cmd : CmdId) (data : HostData) {s0 s : State} (h : Held s0 s) :
    HeldA s0 (execMediaStatus cmd data s) := by
  unfold execMediaStatus
  try dsimp only
  repeat' with_reducible first
    | assumption | apply HeldA.next | apply onMedia_held | apply runData_held | apply finish_held
    | apply Cmd.writeData_held | split | intro _

theorem execMediaHealth_held (cmd : CmdId) (data : HostData) {s0 s : State} (h : Held s0 s) :
    HeldA s0 (execMediaHealth cmd data s) := by
  unfold execMediaHealth
  try dsimp only
  repeat' with_reducible first
    | assumption | apply HeldA.next | apply runData_held | apply finish_held | apply Cmd.writeData_held | split
    | intro _

theorem execIdentify_held (cmd : CmdId) {s0 s : State} (h : Held s0 s) :
    HeldA s0 (execIdentify cmd s) := by
  unfold execIdentify
  try dsimp only
  repeat' with_reducible first
    | assumption | apply HeldA.next | apply runPlain_held | apply finish_held | split | intro _

theorem execPortConfig_held (cmd : CmdId) {s0 s : State} (h : Held s0 s) :
    HeldA s0 (execPortConfig cmd s) := by
  unfold execPortConfig
  try dsimp only
  repeat' with_reducible first
    | assumption | apply HeldA.next | apply runCmd_held | apply finish_held | apply State.modEgr_held
    | exact @rfl (List (Nat × Byte)) _ | split | intro _

theorem setTimeOfDay_held (j : Job) {s0 s : State} (h : Held s0 s) :
    Held s0 (setTimeOfDay j s) := by
  unfold setTimeOfDay
  try dsimp only
  repeat' with_reducible first
    | assumption | apply State.modTide_held

theorem reservedTide (r : StRegs) (v : Word) : StRegs.masked { r with tideJobId := v } = r.masked := by
  simp [StRegs.masked, StRegs.direct, directMasks, within]

theorem beginJob_held (j : Job) {s0 s : State} (h : Held s0 s) : Held s0 (beginJob j s) := by
  unfold beginJob
  refine guardApply_held (setEv_held _ _ (State.modTide_held (tideNewJob_held (setTimeOfDay_held j ?_)) _))
  refine h.step ⟨rfl, .of_core rfl, fun k => ⟨k.1, k.2, ?_, ?_⟩⟩
  · exact (reservedTide _ _).trans k.3
  · exact (reservedTide _ _).trans k.4

theorem execJobSetup_held (cmd : CmdId) (data : HostData) {s0 s : State} (h : Held s0 s) :
    HeldA s0 (execJobSetup cmd data s) := by
  unfold execJobSetup
  try dsimp only
  repeat' with_reducible first
    | assumption | apply HeldA.next | apply beginJob_held | apply runData_held | apply finish_held | split | intro _

theorem stopJob_held {s0 s : State} (h : Held s0 s) :
    Held s0 (stopJob s) := by
  unfold stopJob
  try dsimp only
  repeat' with_reducible first
    | assumption | apply HeldA.next | apply beginRevoke_held | apply freeMooring_held | apply unpinReq_held
    | apply releaseAll_held | apply tideNewJob_held | apply cancelBarrier_held | apply setEv_held
    | apply State.modRun_held | apply State.each_held | split | intro _

theorem clearJob_held {s0 s : State} (h : Held s0 s) :
    Held s0 (clearJob s) := by
  unfold clearJob
  try dsimp only
  repeat' with_reducible first
    | assumption | apply connError_held | apply State.modRun_held | apply State.modEgr_held | apply State.modSec_held
    | apply State.each_held | exact @rfl (List (Nat × Byte)) _ | exact @rfl (List (BitVec 256) × _) _ | split
    | intro _

theorem jobEndOn_held {s0 s : State} (h : Held s0 s) :
    Held s0 (jobEndOn s) := by
  unfold jobEndOn
  try dsimp only
  repeat' with_reducible first
    | assumption | apply clearJob_held | apply stopJob_held | split

theorem execJobEnd_held (cmd : CmdId) {s0 s : State} (h : Held s0 s) : HeldA s0 (execJobEnd cmd s) := by
  refine runPlain_held _ _ _ h fun c t ht => ?_
  split
  · exact finish_held _ _ _ ht
  · refine jobEndOn_held (State.setRun_held _ _ (State.modRun_held ?_ _))
    exact Held.same ht rfl rfl rfl rfl rfl

theorem cancel_held (t : Cmd) {s0 s : State} (h : Held s0 s) :
    Held s0 (cancel t s) := by
  unfold cancel
  try dsimp only
  repeat' with_reducible first
    | assumption | apply finish_held | apply State.setRun_held | apply State.modHost_held | split

theorem execAbort_held (cmd : CmdId) {s0 s : State} (h : Held s0 s) :
    HeldA s0 (execAbort cmd s) := by
  unfold execAbort
  try dsimp only
  repeat' with_reducible first
    | assumption | apply HeldA.next | apply cancel_held | apply jobEndOn_held | apply runPlain_held
    | apply finish_held | apply State.setRun_held | split | intro _

theorem execStepMark_held (cmd : CmdId) {s0 s : State} (h : Held s0 s) :
    HeldA s0 (execStepMark cmd s) := by
  unfold execStepMark
  try dsimp only
  repeat' with_reducible first
    | assumption | apply HeldA.next | apply runPlain_held | apply finish_held | apply receiveMark_held | split
    | intro _

theorem copyNext_held (c : Cmd) (p : Partition) (w : Nat) (plan : List (Nat × Nat × List Nat)) (aborted : Bool) {s0 s : State} (h : Held s0 s) :
    Held s0 (copyNext c p w plan aborted s) := by
  unfold copyNext
  try dsimp only
  repeat' with_reducible first
    | assumption | apply goFetch_held | apply State.modFetches_held | apply finish_held | apply State.setRun_held
    | split

theorem copyShard_held (c : Cmd) (p : Partition) (w shard first : Nat) (lens : List Nat) (rest : List (Nat × Nat × List Nat)) (aborted : Bool) (bs : List Byte) {s0 s : State} (h : Held s0 s) :
    Held s0 (copyShard c p w shard first lens rest aborted bs s) := by
  unfold copyShard
  try dsimp only
  repeat' with_reducible first
    | assumption | apply copyNext_held | apply dropFetch_held | apply shardIn_held | apply finish_held | split
    | intro _ | refine held_of_eq ?_ (by assumption)

theorem copyOn_held (c : Cmd) (p : Partition) (w : Nat) (plan : List (Nat × Nat × List Nat)) (aborted : Bool) {s0 s : State} (h : Held s0 s) :
    Held s0 (copyOn c p w plan aborted s) := by
  unfold copyOn
  try dsimp only
  repeat' with_reducible first
    | assumption | apply copyShard_held | apply copyNext_held | apply dropFetch_held | apply finish_held
    | apply complete_held | split

theorem execCopyFromPeer_held (cmd : CmdId) (plan : List (Nat × Nat × List Nat)) {s0 s : State} (h : Held s0 s) :
    HeldA s0 (execCopyFromPeer cmd plan s) := by
  unfold execCopyFromPeer
  try dsimp only
  repeat' with_reducible first
    | assumption | apply HeldA.next | apply copyOn_held | apply copyNext_held | apply jobEndOn_held
    | apply onPart_held | apply dropFetch_held | apply runCmd_held | apply finish_held | apply setEv_held | split
    | intro _

theorem startImage_core (g : List Byte) (x : Security) : (startImage g x).core = x.core := rfl

theorem execSecStatus_held (cmd : CmdId) {s0 s : State} (h : Held s0 s) :
    HeldA s0 (execSecStatus cmd s) := by
  unfold execSecStatus
  try dsimp only
  repeat' with_reducible first
    | assumption | apply HeldA.next | apply runPlain_held | apply finish_held | split | intro _

theorem refuseField_held (c : Cmd) (reason : Nat) {s0 s : State} (h : Held s0 s) :
    Held s0 (refuseField c reason s) := by
  unfold refuseField
  try dsimp only
  repeat' with_reducible first
    | assumption | apply HeldA.next | apply finish_held

theorem causeBit_held (i : Nat) {s0 s : State} (h : Held s0 s) :
    Held s0 (causeBit i s) := by
  unfold causeBit
  try dsimp only
  repeat' with_reducible first
    | assumption | apply HeldA.next | apply State.modAon_held

theorem execFwStage_held (cmd : CmdId) (data : HostData) {s0 s : State} (h : Held s0 s) :
    HeldA s0 (execFwStage cmd data s) := by
  unfold execFwStage
  try dsimp only
  repeat' with_reducible first
    | assumption | apply HeldA.next | apply refuseField_held | apply runData_held | apply finish_held
    | apply setEv_held | apply State.modSec_held | exact @rfl (List (BitVec 256) × _) _ | split | intro _

theorem execFwActivate_held (cmd : CmdId) {s0 s : State} (h : Held s0 s) :
    HeldA s0 (execFwActivate cmd s) := by
  unfold execFwActivate
  try dsimp only
  repeat' with_reducible first
    | assumption | apply HeldA.next | apply refuseField_held | apply runPlain_held | apply State.setRun_held
    | apply State.modSec_held | exact @rfl (List (BitVec 256) × _) _ | split | intro _

theorem execFwNorWriteDone_held (cmd : CmdId) (matched : Bool) {s0 s : State} (h : Held s0 s) :
    HeldA s0 (execFwNorWriteDone cmd matched s) := by
  unfold execFwNorWriteDone
  try dsimp only
  repeat' with_reducible first
    | assumption | apply HeldA.next | apply refuseField_held | apply finish_held | apply State.setRun_held
    | apply State.modSec_held | exact @rfl (List (BitVec 256) × _) _ | split

theorem execFwActivateRestart_held {s0 s : State} (h : Held s0 s) :
    HeldA s0 (execFwActivateRestart s) := by
  unfold execFwActivateRestart
  try dsimp only
  repeat' with_reducible first
    | assumption | apply HeldA.next | apply causeBit_held | apply restartHarbourmaster_held | apply State.modSec_held
    | exact @rfl (List (BitVec 256) × _) _ | split | intro _ | refine held_of_eq ?_ (by assumption)
    | exact Held.same h rfl rfl rfl rfl rfl | exact startImage_core _ _

theorem execSlotProgram_held (cmd : CmdId) (data : HostData) {s0 s : State} (h : Held s0 s) :
    HeldA s0 (execSlotProgram cmd data s) := by
  unfold execSlotProgram runDataSec
  rcases runCmd_cases _ _ _ _ _ s with e | ⟨c, st, r, -, e⟩ | ⟨c, -, -, hs, e⟩ <;> rw [e] <;> refine HeldA.next ?_
  · exact h
  · exact finish_held _ _ _ h
  · clear e
    dsimp only at hs ⊢
    have hz : s.sec.keyOf (c.arg 24 1) = 0 := by
      by_contra hne
      split at hs
      · rename_i k; exact hne k.2
      · cases hs
    split
    · exact finish_held _ _ _ h
    · refine finish_held _ _ _ (h.step ⟨rfl, ⟨Nat.le_refl _, Nat.le_refl _, fun _ k => k, fun i v hv hn => ?_, fun _ k => k⟩,
        fun k => ⟨k.1, k.2, k.3, k.4⟩⟩)
      show (s.sec.keyHash.set _ _)[i]? = some v
      rw [List.getElem?_set]
      split
      · rename_i e
        subst e
        simp only [Security.keyOf, List.getD_eq_getElem?_getD, hv, Option.getD_some] at hz
        exact absurd hz hn
      · exact hv

theorem execSvnCommit_held (cmd : CmdId) {s0 s : State} (h : Held s0 s) : HeldA s0 (execSvnCommit cmd s) := by
  refine runPlain_held _ _ _ h fun c t ht => finish_held _ _ _ (ht.step ⟨rfl, ?_, fun k => ⟨k.1, k.2, k.3, k.4⟩⟩)
  exact ⟨Nat.le_refl _, Nat.le_max_left _ _, fun _ k => k, fun _ _ k _ => k, fun _ k => k⟩

theorem execLifecycleSecure_held (cmd : CmdId) {s0 s : State} (h : Held s0 s) : HeldA s0 (execLifecycleSecure cmd s) := by
  unfold execLifecycleSecure
  dsimp only
  rcases runCmd_cases cmd 0x63 (fun _ => false) (fun _ => if s.sec.lifecycle = .provisioning ∧
      (List.range 4).any s.sec.programmed ∧ s.sec.cert.isSome then none else some 2)
    (fun c t => finish c stSuccess [] (t.modSec fun x => { x with lifecycle := .secured })) s
    with e | ⟨c, st, r, -, e⟩ | ⟨c, -, -, hs, e⟩ <;> rw [e] <;> refine HeldA.next ?_
  · exact h
  · exact finish_held _ _ _ h
  · have hp : s.sec.lifecycle = .provisioning := by
      by_contra hne
      simp [hne] at hs
    refine finish_held _ _ _ (h.step ⟨rfl, ⟨?_, Nat.le_refl _, fun _ k => k, fun _ _ k _ => k, fun _ k => k⟩,
      fun k => ⟨k.1, k.2, k.3, k.4⟩⟩)
    rw [hp]; exact Nat.zero_le _

theorem execKeyLoad_held (cmd : CmdId) (data : HostData) {s0 s : State} (h : Held s0 s) :
    HeldA s0 (execKeyLoad cmd data s) := by
  unfold execKeyLoad
  try dsimp only
  repeat' with_reducible first
    | assumption | apply HeldA.next | apply runDataSec_held | apply finish_held | apply State.modSec_held
    | exact @rfl (List (BitVec 256) × _) _ | split | intro _

theorem execKeyClear_held (cmd : CmdId) {s0 s : State} (h : Held s0 s) :
    HeldA s0 (execKeyClear cmd s) := by
  unfold execKeyClear
  try dsimp only
  repeat' with_reducible first
    | assumption | apply HeldA.next | apply runCmd_held | apply finish_held | apply State.modSec_held
    | exact @rfl (List (BitVec 256) × _) _ | split | intro _

theorem revokeSlot_held (slot : Nat) {s0 s : State} (h : Held s0 s) : Held s0 (revokeSlot slot s) := by
  refine setEv_held _ _ (h.step ⟨rfl, ⟨Nat.le_refl _, Nat.le_refl _, fun i k => ?_, fun _ _ k _ => k, fun _ k => k⟩,
    fun k => ⟨k.1, k.2, k.3, k.4⟩⟩)
  simp only [State.modSec_sec, BitVec.getLsbD_or, k, Bool.true_or]

theorem execKeyRevoke_held (cmd : CmdId) (data : HostData) {s0 s : State} (h : Held s0 s) :
    HeldA s0 (execKeyRevoke cmd data s) := by
  unfold execKeyRevoke
  try dsimp only
  repeat' with_reducible first
    | assumption | apply HeldA.next | apply revokeSlot_held | apply refuseField_held | apply runData_held
    | apply finish_held | split | intro _

theorem newNonce_held {s0 s : State} (h : Held s0 s) :
    Held s0 (newNonce s).2 := by
  unfold newNonce
  try dsimp only
  repeat' with_reducible first
    | assumption | apply State.modSec_held | apply State.draw_held | exact @rfl (List (BitVec 256) × _) _

theorem execDebugChallenge_held (cmd : CmdId) {s0 s : State} (h : Held s0 s) :
    HeldA s0 (execDebugChallenge cmd s) := by
  unfold execDebugChallenge
  try dsimp only
  repeat' with_reducible first
    | assumption | apply HeldA.next | apply newNonce_held | apply runCmd_held | apply finish_held | split | intro _

theorem execDebugResponse_held (cmd : CmdId) (data : HostData) {s0 s : State} (h : Held s0 s) :
    HeldA s0 (execDebugResponse cmd data s) := by
  unfold execDebugResponse
  try dsimp only
  repeat' with_reducible first
    | assumption | apply HeldA.next | apply refuseField_held | apply runDataSec_held | apply finish_held
    | apply setEv_held | apply State.modSec_held | exact @rfl (List (BitVec 256) × _) _ | split | intro _

theorem endDebug_held {s0 s : State} (h : Held s0 s) :
    Held s0 (endDebug s) := by
  unfold endDebug
  try dsimp only
  repeat' with_reducible first
    | assumption | apply abandonSems_held | apply setEv_held | apply State.modSec_held
    | exact @rfl (List (BitVec 256) × _) _

theorem execDebugExit_held (cmd : CmdId) {s0 s : State} (h : Held s0 s) :
    HeldA s0 (execDebugExit cmd s) := by
  unfold execDebugExit
  try dsimp only
  repeat' with_reducible first
    | assumption | apply HeldA.next | apply endDebug_held | apply runCmd_held | apply finish_held | split | intro _

theorem execDebugGrantExpiry_held {s0 s : State} (h : Held s0 s) :
    HeldA s0 (execDebugGrantExpiry s) := by
  unfold execDebugGrantExpiry
  try dsimp only
  repeat' with_reducible first
    | assumption | apply HeldA.next | apply endDebug_held | split

theorem zeroiseStep_held (k : Nat) {s0 s : State} (h : Held s0 s) : Held s0 (zeroiseStep k s) := by
  unfold zeroiseStep
  split
  · have a : Held s0 (s.modSec fun x => { x with jobKey := none, connKeys := [], spillKey := none }) := h.same rfl rfl rfl rfl rfl
    exact State.each_held a _ _ fun c u hu => connError_held _ _ hu
  · refine h.step ⟨rfl, ⟨Nat.le_refl _, Nat.le_refl _, fun _ k => k, fun _ _ k _ => k, fun i k => ?_⟩,
      fun k => ⟨k.1, k.2, k.3, k.4⟩⟩
    have hi := BitVec.lt_of_getLsbD k
    show (BitVec.allOnes 256).getLsbD i = true
    simp only [BitVec.getLsbD_allOnes, hi, decide_true]
  · refine setEv_held _ _ (h.step ⟨rfl, ⟨?_, Nat.le_refl _, fun _ k => k, fun _ _ k _ => k, fun _ k => k⟩,
      fun k => ⟨k.1, k.2, k.3, k.4⟩⟩)
    show _ ≤ Lifecycle.zeroised.rank
    cases s.sec.lifecycle <;> decide

theorem execZeroise_held (cmd : CmdId) {s0 s : State} (h : Held s0 s) :
    HeldA s0 (execZeroise cmd s) := by
  unfold execZeroise
  try dsimp only
  repeat' with_reducible first
    | assumption | apply HeldA.next | apply zeroiseStep_held | apply runCmd_held | apply State.setRun_held
    | apply State.modSec_held | exact @rfl (List (BitVec 256) × _) _ | split | intro _

theorem keelStep_held {s0 s : State} (h : Held s0 s) :
    Held s0 (keelStep s) := by
  unfold keelStep
  try dsimp only
  repeat' with_reducible first
    | assumption | apply zeroiseStep_held | apply finish_held | apply State.modSec_held | apply State.each_held
    | exact @rfl (List (BitVec 256) × _) _ | split | intro _

theorem execDebugOpen_held (cmd : CmdId) {s0 s : State} (h : Held s0 s) :
    HeldA s0 (execDebugOpen cmd s) := by
  unfold execDebugOpen
  try dsimp only
  repeat' with_reducible first
    | assumption | apply HeldA.next | apply runCmd_held | apply finish_held | apply setEv_held
    | apply State.modSec_held | exact @rfl (List (BitVec 256) × _) _ | split | intro _

theorem resetMasked : StRegs.reset.masked = true := by
  have a : ClassRegs.reset.masked = true := by decide
  have b : SluList.reset.masked = true := by
    simp only [SluList.masked, SluList.reset, List.all_replicate]; decide
  simp only [StRegs.masked, StRegs.reset, List.all_replicate, a, b]
  decide

theorem resetCore_held {s0 s : State} (h : Held s0 s) : Held s0 (resetCore s) :=
  h.step ⟨rfl, ⟨Nat.le_refl _, Nat.le_refl _, fun _ k => k, fun _ _ k _ => k, fun _ k => k⟩,
    fun _ => ⟨rfl, rfl, resetMasked, resetMasked⟩⟩

theorem resetCold_held {s0 s : State} (h : Held s0 s) : Held s0 (resetCold s) :=
  h.step ⟨rfl, ⟨Nat.le_refl _, Nat.le_refl _, fun _ k => k, fun _ _ k _ => k, fun _ k => k⟩,
    fun _ => ⟨rfl, rfl, resetMasked, resetMasked⟩⟩

theorem startUp_held {s0 s : State} (h : Held s0 s) :
    Held s0 (startUp s) := by
  unfold startUp
  try dsimp only
  repeat' with_reducible first
    | assumption | apply exitStepAll_held | apply State.modTide_held | apply State.modPwr_held
    | apply State.modAon_held

theorem execColdReset_held {s0 s : State} (h : Held s0 s) :
    HeldA s0 (execColdReset s) := by
  unfold execColdReset
  try dsimp only
  repeat' with_reducible first
    | assumption | apply HeldA.next | apply resetCold_held

theorem startIfGood_held {s0 s : State} (h : Held s0 s) :
    Held s0 (startIfGood s) := by
  unfold startIfGood
  try dsimp only
  repeat' with_reducible first
    | assumption | apply HeldA.next | apply startUp_held | apply causeBit_held | split

theorem execPowerGood_held (testEn : Bool) {s0 s : State} (h : Held s0 s) :
    HeldA s0 (execPowerGood testEn s) := by
  unfold execPowerGood
  try dsimp only
  repeat' with_reducible first
    | assumption | apply HeldA.next | apply startIfGood_held | apply State.modPwr_held | split

theorem execRailLost_held (rail : Rail) {s0 s : State} (h : Held s0 s) :
    HeldA s0 (execRailLost rail s) := by
  unfold execRailLost
  try dsimp only
  repeat' with_reducible first
    | assumption | apply HeldA.next | apply resetCore_held | apply State.modPwr_held | split

theorem holdReset_held {s0 s : State} (h : Held s0 s) :
    Held s0 (holdReset s) := by
  unfold holdReset
  try dsimp only
  repeat' with_reducible first
    | assumption | apply HeldA.next | apply resetCore_held | apply State.modPwr_held | split

theorem execWarmReset_held (pin : ResetPin) {s0 s : State} (h : Held s0 s) :
    HeldA s0 (execWarmReset pin s) := by
  unfold execWarmReset
  try dsimp only
  repeat' with_reducible first
    | assumption | apply HeldA.next | apply holdReset_held | apply startIfGood_held | apply startUp_held
    | apply resetCore_held | apply causeBit_held | apply State.modPwr_held | split | intro _
    | refine held_of_eq ?_ (by assumption) | exact Held.same h rfl rfl rfl rfl rfl

theorem execClockFault_held (c : ClockInput) {s0 s : State} (h : Held s0 s) :
    HeldA s0 (execClockFault c s) := by
  unfold execClockFault
  try dsimp only
  repeat' with_reducible first
    | assumption | apply HeldA.next | apply loseIod0_held | apply downLink_held | apply resetPort_held
    | apply State.modAon_held | apply State.each_held | split | intro _

theorem execKeelFault_held {s0 s : State} (h : Held s0 s) :
    HeldA s0 (execKeelFault s) := by
  unfold execKeelFault
  try dsimp only
  repeat' with_reducible first
    | assumption | apply HeldA.next | apply fatalLoss_held

theorem lockstepRestart_held (pair : Nat) {s0 s : State} (h : Held s0 s) :
    Held s0 (lockstepRestart pair s) := by
  unfold lockstepRestart
  try dsimp only
  repeat' with_reducible first
    | assumption | apply HeldA.next | apply restartHarbourmaster_held | apply lockstepReason_held
    | apply State.modHlth_held | split

theorem execLockstepMismatch_held (pair : Fin 2) {s0 s : State} (h : Held s0 s) :
    HeldA s0 (execLockstepMismatch pair s) := by
  unfold execLockstepMismatch
  try dsimp only
  repeat' with_reducible first
    | assumption | apply HeldA.next | apply lockstepRestart_held

theorem execHmWatchdogExpiry_held (pair : Fin 2) {s0 s : State} (h : Held s0 s) :
    HeldA s0 (execHmWatchdogExpiry pair s) := by
  unfold execHmWatchdogExpiry
  try dsimp only
  repeat' with_reducible first
    | assumption | apply HeldA.next | apply lockstepRestart_held

theorem enterRecovery_held {s0 s : State} (h : Held s0 s) :
    Held s0 (enterRecovery s) := by
  unfold enterRecovery
  try dsimp only
  repeat' with_reducible first
    | assumption | apply HeldA.next | apply toNoon_held | apply firmwareReady_held | apply State.modSec_held
    | exact @rfl (List (BitVec 256) × _) _

theorem repeatZeroise_held {s0 s : State} (h : Held s0 s) :
    Held s0 (repeatZeroise s) := by
  unfold repeatZeroise
  try dsimp only
  repeat' with_reducible first
    | assumption | apply zeroiseStep_held | apply State.each_held | split | intro _

theorem startSpds_held {s0 s : State} (h : Held s0 s) :
    Held s0 (startSpds s) := by
  unfold startSpds
  try dsimp only
  repeat' with_reducible first
    | assumption | apply exitStepAll_held | apply State.each_held | split | intro _

theorem execBootImageVerified_held (strapRecovery : Bool) {s0 s : State} (h : Held s0 s) :
    HeldA s0 (execBootImageVerified strapRecovery s) := by
  unfold execBootImageVerified
  try dsimp only
  repeat' with_reducible first
    | assumption | apply HeldA.next | apply startSpds_held | apply repeatZeroise_held | apply enterRecovery_held
    | apply State.modPower_held | apply State.modSec_held | exact @rfl (List (BitVec 256) × _) _ | split | intro _
    | refine held_of_eq ?_ (by assumption) | exact Held.same h rfl rfl rfl rfl rfl | exact startImage_core _ _

theorem unitReason_held (code loc : Nat) (ok : Bool) {s0 s : State} (h : Held s0 s) :
    Held s0 (unitReason code loc ok s) := by
  unfold unitReason
  try dsimp only
  repeat' with_reducible first
    | assumption | apply countContained_held | apply clearReason_held | apply raiseReason_held | split

theorem fatalUnit_held (code loc : Nat) (ok : Bool) {s0 s : State} (h : Held s0 s) :
    Held s0 (fatalUnit code loc ok s) := by
  unfold fatalUnit
  try dsimp only
  repeat' with_reducible first
    | assumption | apply fatalLoss_held | apply clearReason_held | split

theorem bringReasons_held (b : Bringup) {s0 s : State} (h : Held s0 s) :
    Held s0 (bringReasons b s) := by
  unfold bringReasons
  try dsimp only
  repeat' with_reducible first
    | assumption | apply fatalUnit_held | apply unitReason_held | apply engineOutReason_held | apply clearReason_held
    | apply State.each_held | split | intro _

theorem transmittersAfter_held {s0 s : State} (h : Held s0 s) :
    Held s0 (transmittersAfter s) := by
  unfold transmittersAfter
  try dsimp only
  repeat' with_reducible first
    | assumption | apply State.modEgr_held | exact @rfl (List (Nat × Byte)) _

theorem execBringupDone_held (b : Bringup) {s0 s : State} (h : Held s0 s) :
    HeldA s0 (execBringupDone b s) := by
  unfold execBringupDone
  try dsimp only
  repeat' with_reducible first
    | assumption | apply HeldA.next | apply transmittersAfter_held | apply bringReasons_held | apply startAtPoint_held
    | apply toNoon_held | apply firmwareReady_held | apply State.modFab_held | apply State.modMedia_held
    | apply State.modHost_held | apply State.modPmc_held | apply State.modEgr_held | exact @rfl (List (Nat × Byte)) _
    | split

end Sys2Proof.Machine
end

