-- ==== Sys2Proof/Laws/HeldWindow.lean ====
section
/-! SUPPORT. What `Held` keeps, operation by operation: health, shaping, the Host Window, attestation, and the connection,
temperature and stream rows. -/

namespace Sys2Proof.Machine

theorem execSmbusHealthRead_held {s0 s : State} (h : Held s0 s) :
    HeldA s0 (execSmbusHealthRead s) := by
  unfold execSmbusHealthRead
  try dsimp only
  repeat' with_reducible first
    | assumption | apply HeldA.next | apply State.emit_held | split

theorem execSmbusAlertClear_held {s0 s : State} (h : Held s0 s) :
    HeldA s0 (execSmbusAlertClear s) := by
  unfold execSmbusAlertClear
  try dsimp only
  repeat' with_reducible first
    | assumption | apply HeldA.next | apply State.modHlth_held | split

theorem execSmbusAra_held {s0 s : State} (h : Held s0 s) :
    HeldA s0 (execSmbusAra s) := by
  unfold execSmbusAra
  try dsimp only
  repeat' with_reducible first
    | assumption | apply HeldA.next | apply State.emit_held | split

theorem execHealthReasonTimer_held (code location : Nat) {s0 s : State} (h : Held s0 s) :
    HeldA s0 (execHealthReasonTimer code location s) := by
  unfold execHealthReasonTimer
  try dsimp only
  repeat' with_reducible first
    | assumption | apply HeldA.next | apply tripReason_held | apply lockstepReason_held | apply corrReason_held
    | apply clearReason_held | split

theorem execSelfTestItemDone_held (passed : Bool) (item : Nat) (lastOfStep : Bool) (reads : List (Nat × List CodewordResult)) {s0 s : State} (h : Held s0 s) :
    HeldA s0 (execSelfTestItemDone passed item lastOfStep reads s) := by
  unfold execSelfTestItemDone
  try dsimp only
  repeat' with_reducible first
    | assumption | apply HeldA.next | apply finish_held | apply countUnitPerf_held | apply countUnit_held
    | apply State.modHost_held | apply State.each_held | split | intro _

theorem execSelfTestResume_held {s0 s : State} (h : Held s0 s) :
    HeldA s0 (execSelfTestResume s) := by
  unfold execSelfTestResume
  try dsimp only
  repeat' with_reducible first
    | assumption | apply HeldA.next | apply State.modHost_held | split

theorem ltBegin_held {s0 s : State} (h : Held s0 s) :
    Held s0 (ltBegin s) := by
  unfold ltBegin
  try dsimp only
  repeat' with_reducible first
    | assumption | apply HeldA.next | apply State.modEdge_held | apply State.modPort_held | apply State.modLt_held
    | split

theorem ltStart_held (writer : Owner) {s0 s : State} (h : Held s0 s) :
    Held s0 (ltStart writer s) := by
  unfold ltStart
  try dsimp only
  repeat' with_reducible first
    | assumption | apply ltBegin_held | apply State.modEv_held | apply State.modLt_held | split

theorem ltStop_held {s0 s : State} (h : Held s0 s) :
    Held s0 (ltStop s) := by
  unfold ltStop
  try dsimp only
  repeat' with_reducible first
    | assumption | apply State.modEdge_held | apply resetPort_held | apply State.modEv_held | apply State.modLt_held
    | apply State.draw_held | split

theorem ltInject_held {s0 s : State} (h : Held s0 s) :
    Held s0 (ltInject s) := by
  unfold ltInject
  try dsimp only
  repeat' with_reducible first
    | assumption | apply State.modLt_held | split

theorem execLtStart_held (writer : Owner) {s0 s : State} (h : Held s0 s) :
    HeldA s0 (execLtStart writer s) := by
  unfold execLtStart
  try dsimp only
  repeat' with_reducible first
    | assumption | apply HeldA.next | apply ltStart_held | apply State.byOwner_held

theorem execLtStop_held (writer : Owner) {s0 s : State} (h : Held s0 s) :
    HeldA s0 (execLtStop writer s) := by
  unfold execLtStop
  try dsimp only
  repeat' with_reducible first
    | assumption | apply HeldA.next | apply ltStop_held | apply State.byOwner_held

theorem execLtInject_held (writer : Owner) {s0 s : State} (h : Held s0 s) :
    HeldA s0 (execLtInject writer s) := by
  unfold execLtInject
  try dsimp only
  repeat' with_reducible first
    | assumption | apply HeldA.next | apply ltInject_held | apply State.byOwner_held

theorem execLtLaneLock_held (lane : Fin 32) {s0 s : State} (h : Held s0 s) :
    HeldA s0 (execLtLaneLock lane s) := by
  unfold execLtLaneLock
  try dsimp only
  repeat' with_reducible first
    | assumption | apply HeldA.next | apply State.modLt_held | split

theorem execLtLockLost_held (lane : Fin 32) {s0 s : State} (h : Held s0 s) :
    HeldA s0 (execLtLockLost lane s) := by
  unfold execLtLockLost
  try dsimp only
  repeat' with_reducible first
    | assumption | apply HeldA.next | apply State.modEv_held | apply State.modLt_held | split

theorem pmcFreeze_held {s0 s : State} (h : Held s0 s) :
    Held s0 (pmcFreeze s) := by
  unfold pmcFreeze
  try dsimp only
  repeat' with_reducible first
    | assumption | apply HeldA.next | apply State.modPmc_held

theorem pmcUnfreeze_held {s0 s : State} (h : Held s0 s) :
    Held s0 (pmcUnfreeze s) := by
  unfold pmcUnfreeze
  try dsimp only
  repeat' with_reducible first
    | assumption | apply HeldA.next | apply State.modPmc_held

theorem writeBwWin_held (v : Word) {s0 s : State} (h : Held s0 s) :
    Held s0 (writeBwWin v s) := by
  unfold writeBwWin
  try dsimp only
  repeat' with_reducible first
    | assumption | apply HeldA.next | apply State.modRw_held | apply State.modPmc_held

theorem pmcClear_held {s0 s : State} (h : Held s0 s) :
    Held s0 (pmcClear s) := by
  unfold pmcClear
  try dsimp only
  repeat' with_reducible first
    | assumption | apply HeldA.next | apply State.modPmc_held

theorem pmcSnap_held (answering : BitVec 12) {s0 s : State} (h : Held s0 s) :
    Held s0 (pmcSnap answering s) := by
  unfold pmcSnap
  try dsimp only
  repeat' with_reducible first
    | assumption | apply HeldA.next | apply takeSnap_held | apply State.modPmc_held | split

theorem execPmcFreeze_held {s0 s : State} (h : Held s0 s) :
    HeldA s0 (execPmcFreeze s) := by
  unfold execPmcFreeze
  try dsimp only
  repeat' with_reducible first
    | assumption | apply HeldA.next | apply pmcFreeze_held

theorem execPmcUnfreeze_held {s0 s : State} (h : Held s0 s) :
    HeldA s0 (execPmcUnfreeze s) := by
  unfold execPmcUnfreeze
  try dsimp only
  repeat' with_reducible first
    | assumption | apply HeldA.next | apply pmcUnfreeze_held

theorem execPmcSnap_held (answering : BitVec 12) {s0 s : State} (h : Held s0 s) :
    HeldA s0 (execPmcSnap answering s) := by
  unfold execPmcSnap
  try dsimp only
  repeat' with_reducible first
    | assumption | apply HeldA.next | apply pmcSnap_held

theorem execPmcClear_held {s0 s : State} (h : Held s0 s) :
    HeldA s0 (execPmcClear s) := by
  unfold execPmcClear
  try dsimp only
  repeat' with_reducible first
    | assumption | apply HeldA.next | apply pmcClear_held

theorem execPmcSnapDone_held {s0 s : State} (h : Held s0 s) :
    HeldA s0 (execPmcSnapDone s) := by
  unfold execPmcSnapDone
  try dsimp only
  repeat' with_reducible first
    | assumption | apply HeldA.next | apply State.modEv_held | apply State.modPmc_held | split

theorem execPmcBwWinWrite_held (value : Word) {s0 s : State} (h : Held s0 s) :
    HeldA s0 (execPmcBwWinWrite value s) := by
  unfold execPmcBwWinWrite
  try dsimp only
  repeat' with_reducible first
    | assumption | apply HeldA.next | apply writeBwWin_held

theorem execPmcBwWindowEnd_held (bytes : List (Nat × Nat)) {s0 s : State} (h : Held s0 s) :
    HeldA s0 (execPmcBwWindowEnd bytes s) := by
  unfold execPmcBwWindowEnd
  try dsimp only
  repeat' with_reducible first
    | assumption | apply HeldA.next | apply State.modPmc_held | split

theorem sendFrame_held (m k : Nat) (c : Conn) (w : Wr) (j len : Nat) {s0 s : State} (h : Held s0 s) :
    Held s0 (sendFrame m k c w j len s) := by
  unfold sendFrame
  try dsimp only
  repeat' with_reducible first
    | assumption | apply keyExhausted_held | apply endMessage_held | apply State.modConn_held | apply countPerf_held
    | apply State.modBw_held | apply State.emit_held | apply State.onlyIf_held | split

theorem execFrameTxDone_held (link : Fin 16) {s0 s : State} (h : Held s0 s) :
    HeldA s0 (execFrameTxDone link s) := by
  unfold execFrameTxDone
  try dsimp only
  repeat' with_reducible first
    | assumption | apply HeldA.next | apply sendFrame_held | apply State.modBw_held | split

theorem execPfcRx_held (link : Fin 16) (priority : Fin 8) (pause : Bool) {s0 s : State} (h : Held s0 s) :
    HeldA s0 (execPfcRx link priority pause s) := by
  unfold execPfcRx
  try dsimp only
  repeat' with_reducible first
    | assumption | apply HeldA.next | apply State.modBw_held

theorem execCcRateRecover_held (conn : Nat) {s0 s : State} (h : Held s0 s) :
    HeldA s0 (execCcRateRecover conn s) := by
  unfold execCcRateRecover
  try dsimp only
  repeat' with_reducible first
    | assumption | apply HeldA.next | apply State.modConn_held | split

theorem execShaperCreditRestored_held (link : Fin 16) (cls : Fin 8) {s0 s : State} (h : Held s0 s) :
    HeldA s0 (execShaperCreditRestored link cls s) := by
  unfold execShaperCreditRestored
  try dsimp only
  repeat' with_reducible first
    | assumption | apply HeldA.next | apply State.modBw_held | apply State.modEgr_held
    | exact @rfl (List (Nat × Byte)) _

theorem execContextLoadDone_held (conn : Nat) {s0 s : State} (h : Held s0 s) :
    HeldA s0 (execContextLoadDone conn s) := by
  unfold execContextLoadDone
  try dsimp only
  repeat' with_reducible first
    | assumption | apply HeldA.next | apply becomeResident_held | apply State.modConn_held | split

theorem reportRisk_held (firstSend : Int) (c : Conn) {s0 s : State} (h : Held s0 s) :
    Held s0 (reportRisk firstSend c s) := by
  unfold reportRisk
  try dsimp only
  repeat' with_reducible first
    | assumption | apply HeldA.next | apply State.modBatch_held | apply postEvent_held | apply setEv_held
    | apply State.modCnt_held | split

theorem swapOne_held (p : Nat × Nat) {s0 s : State} (h : Held s0 s) :
    Held s0 (swapOne p s) := by
  unfold swapOne
  try dsimp only
  repeat' with_reducible first
    | assumption | apply State.modConn_held | apply countPerf_held | apply State.modCnt_held

theorem sliceBoundary_held {s0 s : State} (h : Held s0 s) :
    HeldA s0 (sliceBoundary s) := by
  unfold sliceBoundary
  try dsimp only
  repeat' with_reducible first
    | assumption | apply HeldA.next | apply swapOne_held | apply reportRisk_held | apply becomeResident_held
    | apply State.modConn_held | apply setEv_held | apply State.modBw_held | apply State.each_held
    | apply State.onlyIf_held | split | intro _

theorem execSliceBoundary_held {s0 s : State} (h : Held s0 s) :
    HeldA s0 (execSliceBoundary s) := by
  unfold execSliceBoundary
  try dsimp only
  repeat' with_reducible first
    | assumption | apply HeldA.next | apply sliceBoundary_held | apply State.modBw_held | split

theorem execConnContextRecopyDone_held (spd : Fin 8) {s0 s : State} (h : Held s0 s) :
    HeldA s0 (execConnContextRecopyDone spd s) := by
  unfold execConnContextRecopyDone
  try dsimp only
  repeat' with_reducible first
    | assumption | apply HeldA.next | apply State.modFab_held | apply State.modEgr_held
    | exact @rfl (List (Nat × Byte)) _ | split

theorem windowRead_held (o : Owner) (off : Nat) {s0 s : State} (h : Held s0 s) :
    Held s0 (windowRead o off s).2 := by
  unfold windowRead
  try dsimp only
  repeat' with_reducible first
    | assumption | apply State.modSem_held | apply State.modMbx_held | split

theorem readWords_held (o : Owner) (n a : Nat) {s0 s : State} (h : Held s0 s) : Held s0 (readWords o n a s).2 := by
  induction n generalizing a s with
  | zero => exact h
  | succ n ih => exact ih _ (windowRead_held _ _ h)

theorem abortRequest_held (o : Owner) {s0 s : State} (h : Held s0 s) :
    Held s0 (abortRequest o s) := by
  unfold abortRequest
  try dsimp only
  repeat' with_reducible first
    | assumption | apply setEv_held | apply State.modPort_held | apply State.emit_held | split

theorem hostRead_held (o : Owner) (r : HostRead) {s0 s : State} (h : Held s0 s) :
    Held s0 (hostRead o r s) := by
  unfold hostRead
  try dsimp only
  repeat' with_reducible first
    | assumption | apply abortRequest_held | apply readWords_held | apply State.emit_held | split

theorem clearOvf_held (f : DieCounters → DieCounters) {s0 s : State} (h : Held s0 s) :
    Held s0 (clearOvf f s) := by
  unfold clearOvf
  try dsimp only
  repeat' with_reducible first
    | assumption | apply State.modPmc_held | split

theorem mbxEvWrite_held (o : Owner) (a : Nat) (v : Word) {s0 s : State} (h : Held s0 s) :
    ∀ u, mbxEvWrite o a v s = some u → Held s0 u := by
  intro u e
  unfold mbxEvWrite at e
  split at e
  · cases e; split
    · exact State.modMbx_held _ _ h
    · exact h
  · cases e; split
    · exact State.modOrphan_held _ _ _ h
    · exact h
  · cases e

theorem evWrite_held (o : Owner) (off : Nat) (v : Word) {s0 s : State} (h : Held s0 s) :
    ∀ u, evWrite o off v s = some u → Held s0 u := by
  intro u e
  unfold evWrite at e
  dsimp only at e
  split at e
  · cases e; exact clearEv_held _ _ h
  · split at e
    · exact mbxEvWrite_held _ _ _ h u e
    · split at e
      · cases e; exact State.modHost_held h _
      · cases e; exact State.modHost_held h _
      · cases e; exact State.modEv_held h _
      · cases e; exact clearOvf_held _ h
      · cases e; exact State.modEv_held h _
      · split at e
        · cases e; exact State.modCvu_held _ _ h
        · cases e

theorem writeIrqEn_held (p : Port) (v : Word) {s0 s : State} (h : Held s0 s) :
    Held s0 (writeIrqEn p v s) := by
  unfold writeIrqEn
  try dsimp only
  repeat' with_reducible first
    | assumption | apply irqMessage_held | apply State.modRw_held | apply State.each_held | split | intro _

theorem execIrqEnableWrite_held (writer : Owner) (port : Port) (value : Word) {s0 s : State} (h : Held s0 s) :
    HeldA s0 (execIrqEnableWrite writer port value s) := by
  unfold execIrqEnableWrite
  try dsimp only
  repeat' with_reducible first
    | assumption | apply HeldA.next | apply writeIrqEn_held | apply State.byOwner_held

theorem writeShadow_held (g : Nat) (set : StRegs → StRegs) {s0 s : State} (h : Held s0 s)
    (k : s.shadow.masked = true → (set s.shadow).masked = true) : Held s0 (writeShadow g set s) := by
  unfold writeShadow
  split
  · exact setEv_held _ _ h
  · exact h.step ⟨rfl, .refl _, fun m => ⟨m.1, m.2, k m.3, m.4⟩⟩

theorem within_and (m v : Word) : within m (v &&& m) = true := by
  simp [within, BitVec.and_assoc]

theorem all_modify {α : Type} (p : α → Bool) (l : List α) (i : Nat) (f : α → α) (hf : ∀ x, p x = true → p (f x) = true)
    (h : l.all p = true) : (updAt l i f).all p = true := by
  simp only [updAt, List.all_eq_true] at h ⊢
  intro x hx
  rw [List.mem_iff_getElem?] at hx
  obtain ⟨j, hj⟩ := hx
  rw [List.getElem?_modify] at hj
  cases e : l[j]? with
  | none => simp [e] at hj
  | some y =>
    have hy := h y (List.mem_of_getElem? e)
    simp only [e, Option.map_eq_map, Option.map_some, Option.some.injEq] at hj
    subst hj
    split
    · exact hf y hy
    · exact hy

theorem stReg_masked (rw' : RwRegs) (a g : Nat) (m v : Word) (get : StRegs → Word) (set : Word → StRegs → StRegs) (r : StRegs)
    (e : stReg rw' a = some (g, m, get, set)) (h : r.masked = true) : (set (v &&& m) r).masked = true := by
  simp only [StRegs.masked, StRegs.direct, directMasks, List.zipWith, List.all_cons, List.all_nil, Bool.and_eq_true,
    Bool.and_true, id] at h
  unfold stReg at e
  dsimp only at e
  split at e
  all_goals (first | cases e | skip)
  all_goals simp only [StRegs.masked, StRegs.direct, directMasks, List.zipWith, List.all_cons, List.all_nil, Bool.and_eq_true,
    Bool.and_true, id, within_and]
  all_goals try simp only [h, and_self]
  all_goals try (refine ⟨⟨trivial, ?_⟩, trivial⟩; refine all_modify _ _ _ _ (fun c hc => ?_) h.1.2; simp only [ClassRegs.masked, Bool.and_eq_true, within_and] at hc ⊢; simp only [hc, and_self])
  all_goals try (refine ⟨trivial, ?_⟩; refine all_modify _ _ _ _ (fun c hc => ?_) h.2; simp only [SluList.masked, Bool.and_eq_true, within_and] at hc ⊢; first | exact hc | exact ⟨trivial, hc.2⟩ | exact ⟨hc.1, all_modify _ _ _ _ (fun e he => by first | exact within_and _ _ | exact he) hc.2⟩)

theorem writeConfig_held (o : Owner) (a : Nat) (v : Word) {s0 s : State} (h : Held s0 s) :
    Held s0 (writeConfig o a v s) := by
  unfold writeConfig
  split
  · rename_i g m get set e
    exact writeShadow_held _ _ h (stReg_masked _ _ _ _ v _ _ _ e)
  · split
    · split
      · exact cancelGroups_held _ h
      · exact armGroups_held _ h
    · split
      · exact guardCommit_held h
      · exact h
    · exact tideControl_held _ _ h
    · exact h

theorem writeMbx_held (o : Owner) (a : Nat) (v : Word) {s0 s : State} (h : Held s0 s) :
    Held s0 (writeMbx o a v s) := by
  unfold writeMbx
  try dsimp only
  repeat' with_reducible first
    | assumption | apply mbxAcknowledge_held | apply mbxWriteBuf_held | apply mbxAct_held | apply mbxRelease_held
    | apply State.modMbx_held | split | intro _ | refine held_of_eq ?_ (by assumption)
    | exact Held.same h rfl rfl rfl rfl rfl | refine id_held ?_

theorem writeDoorbell_held (o : Owner) (a : Nat) (v : Word) {s0 s : State} (h : Held s0 s) :
    Held s0 (writeDoorbell o a v s) := by
  unfold writeDoorbell
  try dsimp only
  repeat' with_reducible first
    | assumption | apply ringCq_held | apply ringSq_held | apply mbxRing_held | split

theorem mixedOvf_held (a : Nat) (v : Word) {s0 s : State} (h : Held s0 s) :
    Held s0 (mixedOvf a v s) := by
  unfold mixedOvf
  try dsimp only
  repeat' with_reducible first
    | assumption | apply clearOvf_held

theorem writeCounter_held (a : Nat) (v : Word) {s0 s : State} (h : Held s0 s) :
    Held s0 (writeCounter a v s) := by
  unfold writeCounter
  try dsimp only
  repeat' with_reducible first
    | assumption | apply mixedOvf_held | apply clearOvf_held | apply State.modPmc_held | split

theorem pmcControl_held (v : Word) {s0 s : State} (h : Held s0 s) :
    Held s0 (pmcControl v s) := by
  unfold pmcControl
  try dsimp only
  repeat' with_reducible first
    | assumption | apply pmcSnap_held | apply pmcClear_held | apply pmcUnfreeze_held | apply pmcFreeze_held | split

theorem ltControl_held (o : Owner) (v : Word) {s0 s : State} (h : Held s0 s) :
    Held s0 (ltControl o v s) := by
  unfold ltControl
  try dsimp only
  repeat' with_reducible first
    | assumption | apply ltInject_held | apply ltStop_held | apply ltStart_held | split

theorem writeCvu_held (n r : Nat) (v : Word) {s0 s : State} (h : Held s0 s) :
    Held s0 (writeCvu n r v s) := by
  unfold writeCvu
  try dsimp only
  repeat' with_reducible first
    | assumption | apply cvuControl_held | apply State.modCvu_held | split

theorem aonPost_held (a : Nat) (v : Word) {s0 s : State} (h : Held s0 s) :
    Held s0 (aonPost a v s) := by
  unfold aonPost
  try dsimp only
  repeat' with_reducible first
    | assumption | apply State.modAon_held | split

theorem execAonWrite_held (writer : Owner) (offset : Nat) (value : Word) {s0 s : State} (h : Held s0 s) :
    HeldA s0 (execAonWrite writer offset value s) := by
  unfold execAonWrite
  try dsimp only
  repeat' with_reducible first
    | assumption | apply HeldA.next | apply aonPost_held | apply State.byOwner_held | split

theorem execAonWriteTaken_held {s0 s : State} (h : Held s0 s) :
    HeldA s0 (execAonWriteTaken s) := by
  unfold execAonWriteTaken
  try dsimp only
  repeat' with_reducible first
    | assumption | apply HeldA.next | apply State.modAon_held | apply State.onlyIf_held

theorem execSlowclkLost_held {s0 s : State} (h : Held s0 s) :
    HeldA s0 (execSlowclkLost s) := by
  unfold execSlowclkLost
  try dsimp only
  repeat' with_reducible first
    | assumption | apply HeldA.next | apply State.modAon_held

theorem blockWrite_held (o : Owner) (r : Nat) (v : Word) {s0 s : State} (h : Held s0 s) :
    Held s0 (blockWrite o r v s) := by
  unfold blockWrite
  try dsimp only
  repeat' with_reducible first
    | assumption | apply HeldA.next | apply aonPost_held | apply writeCvu_held | apply ltControl_held
    | apply pmcControl_held | apply writeCounter_held | apply writeDoorbell_held | apply writeMbx_held
    | apply writeConfig_held | apply writeIrqEn_held | apply writeBwWin_held | apply releaseSem_held
    | apply State.modRw_held | split

theorem windowWrite_held (o : Owner) (off : Nat) (v : Word) {s0 s : State} (h : Held s0 s) :
    Held s0 (windowWrite o off v s) := by
  unfold windowWrite
  split
  · exact h
  · split
    · exact setEv_held _ _ h
    · cases e : evWrite o off v s with
      | some t => exact evWrite_held _ _ _ h t e
      | none =>
        dsimp only
        split
        · exact State.modRw_held h _
        · exact blockWrite_held _ _ _ h

theorem mixedEvWrite_held (off : Nat) (v : Word) {s0 s : State} (h : Held s0 s) :
    Held s0 (mixedEvWrite off v s) := by
  unfold mixedEvWrite
  try dsimp only
  repeat' with_reducible first
    | assumption | apply aonPost_held | apply mixedOvf_held | split

theorem execEvClear_held (writer : Owner) (offset : Nat) (value : Word) {s0 s : State} (h : Held s0 s) :
    HeldA s0 (execEvClear writer offset value s) := by
  refine HeldA.next (State.byOwner_held _ _ h ?_)
  split
  · exact setEv_held _ _ h
  · cases e : evWrite writer offset value s with
    | none => exact mixedEvWrite_held _ _ h
    | some u => exact evWrite_held _ _ _ h u e

theorem vectorWrite_held (p : Port) (a : Nat) (v : Word) {s0 s : State} (h : Held s0 s) :
    Held s0 (vectorWrite p a v s) := by
  unfold vectorWrite
  try dsimp only
  repeat' with_reducible first
    | assumption | apply flushMsix_held | apply State.modPort_held | split

theorem hostWrite_held (o : Owner) (w : HostWrite) {s0 s : State} (h : Held s0 s) :
    Held s0 (hostWrite o w s) := by
  unfold hostWrite
  try dsimp only
  repeat' with_reducible first
    | assumption | apply vectorWrite_held | apply windowWrite_held | apply abortRequest_held | apply setEv_held
    | apply flushMsix_held | apply State.modPort_held | split

theorem execRegWrite_held (writer : Owner) (w : HostWrite) {s0 s : State} (h : Held s0 s) :
    HeldA s0 (execRegWrite writer w s) := by
  unfold execRegWrite
  try dsimp only
  repeat' with_reducible first
    | assumption | apply HeldA.next | apply hostWrite_held

theorem execAliasWrite_held (writer : Owner) (_offset : Nat) (_value : Word) {s0 s : State} (h : Held s0 s) :
    HeldA s0 (execAliasWrite writer _offset _value s) := by
  unfold execAliasWrite
  try dsimp only
  repeat' with_reducible first
    | assumption | apply HeldA.next | apply setEv_held | apply State.byOwner_held

theorem execWindowAccessReject_held (port : Port) (a : HostAccess) {s0 s : State} (h : Held s0 s) :
    HeldA s0 (execWindowAccessReject port a s) := by
  unfold execWindowAccessReject
  try dsimp only
  repeat' with_reducible first
    | assumption | apply HeldA.next | apply hostWrite_held | apply hostRead_held | split

theorem execAttestReady_held {s0 s : State} (h : Held s0 s) :
    HeldA s0 (execAttestReady s) := by
  unfold execAttestReady
  try dsimp only
  repeat' with_reducible first
    | assumption | apply HeldA.next | apply State.modSec_held | exact @rfl (List (BitVec 256) × _) _ | split

theorem spdmError_held {s0 s : State} (h : Held s0 s) :
    Held s0 (spdmError s) := by
  unfold spdmError
  try dsimp only
  repeat' with_reducible first
    | assumption | apply HeldA.next | apply State.emit_held

theorem spdmFree_held (code : Nat) {s0 s : State} (h : Held s0 s) :
    Held s0 (spdmFree code s) := by
  unfold spdmFree
  try dsimp only
  repeat' with_reducible first
    | assumption | apply HeldA.next | apply State.emit_held | split | intro _ | refine held_of_eq ?_ (by assumption)
    | exact Held.same h rfl rfl rfl rfl rfl

theorem certReply_held (ok : Bool) (f : List Byte → List Byte) {s0 s : State} (h : Held s0 s) :
    Held s0 (certReply ok f s) := by
  unfold certReply
  try dsimp only
  repeat' with_reducible first
    | assumption | apply spdmError_held | apply State.emit_held | split

theorem spdmReply_held (code : Nat) (supported : Bool) {s0 s : State} (h : Held s0 s) :
    Held s0 (spdmReply code supported s) := by
  unfold spdmReply
  try dsimp only
  repeat' with_reducible first
    | assumption | apply spdmFree_held | apply spdmError_held | split

theorem spdmAsk_held (t : SpdmTransport) (f : State → State) {s0 s : State} (h : Held s0 s)
    (k : ∀ u, Held s0 u → Held s0 (f u)) : HeldA s0 (spdmAsk t f s) := by
  refine HeldA.next ?_
  generalize (!s.pwr.off && _ && _) = b
  cases b
  · exact h
  · exact k _ h

theorem execGetVersion_held (t : SpdmTransport) {s0 s : State} (h : Held s0 s) :
    HeldA s0 (execGetVersion t s) := by
  unfold execGetVersion
  try dsimp only
  repeat' with_reducible first
    | assumption | apply HeldA.next | apply spdmAsk_held | apply State.emit_held | split | intro _

theorem execGetCapabilities_held (t : SpdmTransport) {s0 s : State} (h : Held s0 s) :
    HeldA s0 (execGetCapabilities t s) := by
  unfold execGetCapabilities
  try dsimp only
  repeat' with_reducible first
    | assumption | apply HeldA.next | apply spdmAsk_held | apply spdmError_held | apply State.emit_held | split
    | intro _

theorem execNegotiateAlgorithms_held (t : SpdmTransport) {s0 s : State} (h : Held s0 s) :
    HeldA s0 (execNegotiateAlgorithms t s) := by
  unfold execNegotiateAlgorithms
  try dsimp only
  repeat' with_reducible first
    | assumption | apply HeldA.next | apply spdmAsk_held | apply spdmError_held | apply State.emit_held | split
    | intro _

theorem execGetDigests_held (t : SpdmTransport) {s0 s : State} (h : Held s0 s) :
    HeldA s0 (execGetDigests t s) := by
  unfold execGetDigests
  try dsimp only
  repeat' with_reducible first
    | assumption | apply HeldA.next | apply spdmAsk_held | apply certReply_held

theorem execGetCertificate_held (t : SpdmTransport) (slot offset length : Nat) {s0 s : State} (h : Held s0 s) :
    HeldA s0 (execGetCertificate t slot offset length s) := by
  unfold execGetCertificate
  try dsimp only
  repeat' with_reducible first
    | assumption | apply HeldA.next | apply spdmAsk_held | apply certReply_held

theorem execChallenge_held (t : SpdmTransport) (slot : Nat) (_nonce : BitVec 256) {s0 s : State} (h : Held s0 s) :
    HeldA s0 (execChallenge t slot _nonce s) := by
  unfold execChallenge
  try dsimp only
  repeat' with_reducible first
    | assumption | apply HeldA.next | apply spdmAsk_held | apply spdmReply_held

theorem execGetMeasurements_held (t : SpdmTransport) (index : Nat) {s0 s : State} (h : Held s0 s) :
    HeldA s0 (execGetMeasurements t index s) := by
  unfold execGetMeasurements
  try dsimp only
  repeat' with_reducible first
    | assumption | apply HeldA.next | apply spdmAsk_held | apply spdmError_held | apply State.emit_held | split
    | intro _

theorem dropSession_held (t : SpdmTransport) (id : Nat) {s0 s : State} (h : Held s0 s) :
    Held s0 (dropSession t id s) := by
  unfold dropSession
  try dsimp only
  repeat' with_reducible first
    | assumption | apply State.modSec_held | exact @rfl (List (BitVec 256) × _) _

theorem execKeyExchange_held (t : SpdmTransport) (slot : Nat) {s0 s : State} (h : Held s0 s) :
    HeldA s0 (execKeyExchange t slot s) := by
  unfold execKeyExchange
  try dsimp only
  repeat' with_reducible first
    | assumption | apply HeldA.next | apply spdmAsk_held | apply spdmError_held | apply State.modSec_held
    | apply State.emit_held | exact @rfl (List (BitVec 256) × _) _ | split | intro _

theorem execFinish_held (t : SpdmTransport) (session : Nat) (verifyOk : Bool) {s0 s : State} (h : Held s0 s) :
    HeldA s0 (execFinish t session verifyOk s) := by
  unfold execFinish
  try dsimp only
  repeat' with_reducible first
    | assumption | apply HeldA.next | apply dropSession_held | apply spdmAsk_held | apply spdmError_held
    | apply State.modSec_held | apply State.emit_held | exact @rfl (List (BitVec 256) × _) _ | split | intro _

theorem execHeartbeat_held (t : SpdmTransport) (session : Nat) {s0 s : State} (h : Held s0 s) :
    HeldA s0 (execHeartbeat t session s) := by
  unfold execHeartbeat
  try dsimp only
  repeat' with_reducible first
    | assumption | apply HeldA.next | apply spdmAsk_held | apply spdmError_held | apply State.emit_held | split
    | intro _

theorem execKeyUpdate_held (t : SpdmTransport) (session : Nat) {s0 s : State} (h : Held s0 s) :
    HeldA s0 (execKeyUpdate t session s) := by
  unfold execKeyUpdate
  try dsimp only
  repeat' with_reducible first
    | assumption | apply HeldA.next | apply spdmAsk_held | apply spdmFree_held | apply spdmError_held | split
    | intro _

theorem execEndSession_held (t : SpdmTransport) (session : Nat) {s0 s : State} (h : Held s0 s) :
    HeldA s0 (execEndSession t session s) := by
  unfold execEndSession
  try dsimp only
  repeat' with_reducible first
    | assumption | apply HeldA.next | apply dropSession_held | apply spdmAsk_held | apply spdmError_held
    | apply State.emit_held | split | intro _

theorem execVendorDefinedRequest_held (t : SpdmTransport) (session : Option Nat) (entry : BitVec 512) {s0 s : State} (h : Held s0 s) :
    HeldA s0 (execVendorDefinedRequest t session entry s) := by
  unfold execVendorDefinedRequest
  try dsimp only
  repeat' with_reducible first
    | assumption | apply HeldA.next | apply spdmAsk_held | apply spdmError_held | apply enqueueCmd_held
    | apply State.modHost_held | split | intro _

theorem writeCacheByte_held (n : Nat) (dec : Bool) (i o : Nat) (v : Byte) {s0 s : State} (h : Held s0 s) :
    Held s0 (writeCacheByte n dec i o v s) := by
  unfold writeCacheByte
  try dsimp only
  repeat' with_reducible first
    | assumption | apply State.modSpd_held

theorem debugWrite_held (cls : DebugClass) (x : DebugTarget) (addr : Nat) (v : Byte) {s0 s : State} (h : Held s0 s) :
    Held s0 (debugWrite cls x addr v s) := by
  have raw : Held s0 (s.modSec fun y => { y with rawMem := writeCell Config.rawByte (rawKey cls x addr y.steps) v y.rawMem }) :=
    h.step ⟨rfl, ⟨Nat.le_refl _, Nat.le_refl _, fun _ k => k, fun _ _ k _ => k, fun _ k => k⟩,
      fun k => ⟨k.1, writeCell_wf _ _ _ _ k.2, k.3, k.4⟩⟩
  unfold debugWrite
  dsimp only
  split
  · exact raw
  · split
    · exact State.modMedia_held raw _
    · split
      · exact h.step ⟨rfl, .refl _, fun k => ⟨writeCell_wf _ _ _ _ k.1, k.2, k.3, k.4⟩⟩
      · exact writeCacheByte_held _ _ _ _ _ raw
      · exact raw
    · exact raw
    · exact raw

theorem captureLands_held {s0 s : State} (h : Held s0 s) :
    Held s0 (captureLands s).2 := by
  unfold captureLands
  try dsimp only
  repeat' with_reducible first
    | assumption | apply State.draw_held

theorem jtagOk_held (v : Word) {s0 s : State} (h : Held s0 s) :
    Held s0 (jtagOk v s) := by
  unfold jtagOk
  try dsimp only
  repeat' with_reducible first
    | assumption | apply State.emit_held

theorem jtagDo_held (cls : DebugClass) (op : JtagOp) {s0 s : State} (h : Held s0 s) : Held s0 (jtagDo cls op s) := by
  unfold jtagDo
  split
  · exact jtagOk_held _ h
  · exact jtagOk_held _ h
  · exact jtagOk_held _ (State.modSec_held (captureLands_held h) _ rfl)
  · exact jtagOk_held _ (State.emit_held (State.modSec_held (captureLands_held h) _ rfl) _)
  · exact jtagOk_held _ (State.emit_held h _)
  · exact foldl_held (newNonce_held h) _ _ fun u a k => jtagOk_held _ k
  · exact jtagOk_held _ (windowRead_held _ _ h)
  · exact jtagOk_held _ (windowWrite_held _ _ _ h)
  · exact jtagOk_held _ (State.modSec_held h _ rfl)
  · exact jtagOk_held _ (State.modSec_held h _ rfl)
  · exact jtagOk_held _ (State.onlyIf_held h _ _ (State.modSec_held h _ rfl))
  · exact jtagOk_held _ h
  · exact jtagOk_held _ (debugWrite_held _ _ _ _ h)

theorem execJtagAccess_held (cls : DebugClass) (op : JtagOp) {s0 s : State} (h : Held s0 s) :
    HeldA s0 (execJtagAccess cls op s) := by
  unfold execJtagAccess
  try dsimp only
  repeat' with_reducible first
    | assumption | apply HeldA.next | apply jtagDo_held | apply State.emit_held | split

theorem firstHeartbeat_held (i : Nat) {s0 s : State} (h : Held s0 s) :
    Held s0 (firstHeartbeat i s).2 := by
  unfold firstHeartbeat
  try dsimp only
  repeat' with_reducible first
    | assumption | apply State.draw_held | split

theorem execConnect_held (cmd : CmdId) (data : HostData) {s0 s : State} (h : Held s0 s) :
    HeldA s0 (execConnect cmd data s) := by
  unfold execConnect
  try dsimp only
  repeat' with_reducible first
    | assumption | apply HeldA.next | apply firstHeartbeat_held | apply runDataSec_held | apply finish_held
    | apply State.modEgr_held | exact @rfl (List (Nat × Byte)) _ | split | intro _

theorem removeConn_held (i : Nat) {s0 s : State} (h : Held s0 s) :
    Held s0 (removeConn i s) := by
  unfold removeConn
  try dsimp only
  repeat' with_reducible first
    | assumption | apply connError_held | apply State.modEgr_held | exact @rfl (List (Nat × Byte)) _

theorem execDisconnect_held (cmd : CmdId) {s0 s : State} (h : Held s0 s) :
    HeldA s0 (execDisconnect cmd s) := by
  unfold execDisconnect
  try dsimp only
  repeat' with_reducible first
    | assumption | apply HeldA.next | apply removeConn_held | apply runPlain_held | apply finish_held | split
    | intro _

theorem putMooring_held (i pd base len rights : Nat) {s0 s : State} (h : Held s0 s) :
    Held s0 (putMooring i pd base len rights s).2 := by
  unfold putMooring
  try dsimp only
  repeat' with_reducible first
    | assumption | apply State.modEgr_held | exact @rfl (List (Nat × Byte)) _

theorem execMooringCreate_held (cmd : CmdId) {s0 s : State} (h : Held s0 s) :
    HeldA s0 (execMooringCreate cmd s) := by
  unfold execMooringCreate
  try dsimp only
  repeat' with_reducible first
    | assumption | apply HeldA.next | apply putMooring_held | apply runCmd_held | apply finish_held | split | intro _

theorem revoke_held (m : Mooring) {s0 s : State} (h : Held s0 s) :
    Held s0 (revoke m s) := by
  unfold revoke
  try dsimp only
  repeat' with_reducible first
    | assumption | apply HeldA.next | apply beginRevoke_held | apply freeMooring_held | apply setEv_held | split

theorem execMooringGrant_held (cmd : CmdId) {s0 s : State} (h : Held s0 s) :
    HeldA s0 (execMooringGrant cmd s) := by
  unfold execMooringGrant
  try dsimp only
  repeat' with_reducible first
    | assumption | apply HeldA.next | apply revoke_held | apply putMooring_held | apply State.modMooring_held
    | apply runCmd_held | apply finish_held | split | intro _

theorem execMooringRevoke_held (cmd : CmdId) {s0 s : State} (h : Held s0 s) :
    HeldA s0 (execMooringRevoke cmd s) := by
  unfold execMooringRevoke
  try dsimp only
  repeat' with_reducible first
    | assumption | apply HeldA.next | apply revoke_held | apply runPlain_held | apply finish_held
    | apply State.setRun_held | split | intro _

theorem revoked_held (key : Word) (status : Nat) {s0 s : State} (h : Held s0 s) :
    Held s0 (revoked key status s) := by
  unfold revoked
  try dsimp only
  repeat' with_reducible first
    | assumption | apply revoke_held | apply jobEndOn_held | apply finish_held | apply State.each_held | split
    | intro _

theorem execRevokeComplete_held (key : Word) {s0 s : State} (h : Held s0 s) :
    HeldA s0 (execRevokeComplete key s) := by
  unfold execRevokeComplete
  try dsimp only
  repeat' with_reducible first
    | assumption | apply HeldA.next | apply revoked_held | apply freeMooring_held | apply setEv_held | split

theorem execRevokeTimeout_held (key : Word) {s0 s : State} (h : Held s0 s) :
    HeldA s0 (execRevokeTimeout key s) := by
  unfold execRevokeTimeout
  try dsimp only
  repeat' with_reducible first
    | assumption | apply HeldA.next | apply revoked_held | apply connError_held | apply freeMooring_held
    | apply setEv_held | apply State.each_held | split | intro _

theorem execQueueStats_held (cmd : CmdId) (data : HostData) {s0 s : State} (h : Held s0 s) :
    HeldA s0 (execQueueStats cmd data s) := by
  unfold execQueueStats
  try dsimp only
  repeat' with_reducible first
    | assumption | apply HeldA.next | apply runData_held | apply finish_held | apply Cmd.writeData_held
    | apply State.modConn_held | split | intro _

theorem moveThermal_held (slower : Bool) {s0 s : State} (h : Held s0 s) :
    Held s0 (moveThermal slower s) := by
  unfold moveThermal
  try dsimp only
  repeat' with_reducible first
    | assumption | apply opRetarget_held | apply State.modPwr_held

theorem assertTherm_held (sensor : Nat) {s0 s : State} (h : Held s0 s) :
    Held s0 (assertTherm sensor s) := by
  unfold assertTherm
  try dsimp only
  repeat' with_reducible first
    | assumption | apply opRetarget_held | apply raiseReason_held | apply setEv_held | apply State.modPwr_held | split

theorem releaseTherm_held {s0 s : State} (h : Held s0 s) :
    Held s0 (releaseTherm s) := by
  unfold releaseTherm
  try dsimp only
  repeat' with_reducible first
    | assumption | apply clearReason_held | apply State.modPwr_held | split

theorem recordSample_held (l : List (Nat × Int)) {s0 s : State} (h : Held s0 s) :
    Held s0 (recordSample l s) := by
  unfold recordSample
  try dsimp only
  repeat' with_reducible first
    | assumption | apply State.modPwr_held

theorem execThrottleStep_held {s0 s : State} (h : Held s0 s) :
    HeldA s0 (execThrottleStep s) := by
  unfold execThrottleStep
  try dsimp only
  repeat' with_reducible first
    | assumption | apply HeldA.next | apply moveThermal_held | apply State.modPwr_held | split

theorem thermalTrip_held {s0 s : State} (h : Held s0 s) :
    Held s0 (thermalTrip s) := by
  unfold thermalTrip
  try dsimp only
  repeat' with_reducible first
    | assumption | apply HeldA.next | apply resetCore_held | apply causeBit_held | apply tripReason_held
    | apply State.modPwr_held | apply State.modHlth_held

theorem execThermalTrip_held (readings : Sensors) {s0 s : State} (h : Held s0 s) :
    HeldA s0 (execThermalTrip readings s) := by
  unfold execThermalTrip
  try dsimp only
  repeat' with_reducible first
    | assumption | apply HeldA.next | apply thermalTrip_held | split

theorem execTripCooled_held (readings : Sensors) {s0 s : State} (h : Held s0 s) :
    HeldA s0 (execTripCooled readings s) := by
  unfold execTripCooled
  try dsimp only
  repeat' with_reducible first
    | assumption | apply HeldA.next | apply startIfGood_held | apply State.modPwr_held | split

theorem execThermalSample_held (readings : Sensors) {s0 s : State} (h : Held s0 s) :
    HeldA s0 (execThermalSample readings s) := by
  unfold execThermalSample
  try dsimp only
  repeat' with_reducible first
    | assumption | apply HeldA.next | apply thermalTrip_held | apply recordSample_held | apply releaseTherm_held
    | apply assertTherm_held | apply moveThermal_held | apply wake_held | apply State.onlyIf_held | split

theorem addStream_held (t : Stream) {s0 s : State} (h : Held s0 s) :
    Held s0 (addStream t s) := by
  unfold addStream
  try dsimp only
  repeat' with_reducible first
    | assumption | apply State.modFab_held | apply State.modRun_held | apply State.onlyIf_held

theorem execStreamSetup_held (cmd : CmdId) (data : HostData) {s0 s : State} (h : Held s0 s) :
    HeldA s0 (execStreamSetup cmd data s) := by
  unfold execStreamSetup
  try dsimp only
  repeat' with_reducible first
    | assumption | apply HeldA.next | apply addStream_held | apply loseDead_held | apply runDataSec_held
    | apply finish_held | split | intro _

theorem onStream_held (f : Cmd → Stream → State → State) (c : Cmd) {s0 s : State} (h : Held s0 s)
    (k : ∀ c t u, Held s0 u → Held s0 (f c t u)) : Held s0 (onStream f c s) := by
  unfold onStream
  split
  · exact finish_held _ _ _ h
  · exact k _ _ _ h

theorem execStreamStart_held (cmd : CmdId) {s0 s : State} (h : Held s0 s) :
    HeldA s0 (execStreamStart cmd s) := by
  unfold execStreamStart
  try dsimp only
  repeat' with_reducible first
    | assumption | apply HeldA.next | apply onStream_held | apply endIfDone_held | apply runPlain_held
    | apply finish_held | apply dueKeys_held | apply State.modStream_held | split | intro _

theorem execStreamStop_held (cmd : CmdId) {s0 s : State} (h : Held s0 s) :
    HeldA s0 (execStreamStop cmd s) := by
  unfold execStreamStop
  try dsimp only
  repeat' with_reducible first
    | assumption | apply HeldA.next | apply onStream_held | apply runPlain_held | apply finish_held
    | apply State.setRun_held | apply dueKeys_held | apply State.modStream_held | split | intro _

theorem execStreamStopComplete_held (cmd : CmdId) {s0 s : State} (h : Held s0 s) :
    HeldA s0 (execStreamStopComplete cmd s) := by
  unfold execStreamStopComplete
  try dsimp only
  repeat' with_reducible first
    | assumption | apply HeldA.next | apply jobEndOn_held | apply finish_held | split

theorem execSeek_held (cmd : CmdId) {s0 s : State} (h : Held s0 s) :
    HeldA s0 (execSeek cmd s) := by
  unfold execSeek
  try dsimp only
  repeat' with_reducible first
    | assumption | apply HeldA.next | apply onStream_held | apply loseDead_held | apply runPlain_held
    | apply finish_held | apply staleKeys_held | apply State.modStream_held | split | intro _

theorem execStreamStatus_held (cmd : CmdId) {s0 s : State} (h : Held s0 s) :
    HeldA s0 (execStreamStatus cmd s) := by
  unfold execStreamStatus
  try dsimp only
  repeat' with_reducible first
    | assumption | apply HeldA.next | apply onStream_held | apply runPlain_held | apply finish_held | split | intro _

theorem placeTable_held (x : TextTable) {s0 s : State} (h : Held s0 s) :
    Held s0 (placeTable x s) := by
  unfold placeTable
  try dsimp only
  repeat' with_reducible first
    | assumption | apply HeldA.next | apply State.modFab_held | apply State.modRun_held | split

theorem execTableLoad_held (cmd : CmdId) (data : HostData) {s0 s : State} (h : Held s0 s) :
    HeldA s0 (execTableLoad cmd data s) := by
  unfold execTableLoad
  try dsimp only
  repeat' with_reducible first
    | assumption | apply HeldA.next | apply placeTable_held | apply runData_held | apply finish_held | split | intro _

theorem execDetokenise_held (cmd : CmdId) (data : HostData) {s0 s : State} (h : Held s0 s) :
    HeldA s0 (execDetokenise cmd data s) := by
  unfold execDetokenise
  try dsimp only
  repeat' with_reducible first
    | assumption | apply HeldA.next | apply onStream_held | apply runData_held | apply finish_held
    | apply Cmd.writeData_held | split | intro _

end Sys2Proof.Machine
end

