-- ==== Sys2Proof/WellFormed.lean ====
section
/-! DEFINITION. Well-formed commands: the operands that the outside can bring. A number lies in the field that carries it,
a list has the length its rule gives, and a name names something the block has. The machine answers an ill-formed command
too; these checks say which commands a host, a wire or a die can send. -/

namespace Sys2Proof

/-- The checks, each by its name. -/
inductive IllFormed where
  /-- a connection index of 262,144 or more (R272) -/
  | connection
  /-- a batch number outside 64 bits (R68) -/
  | batchNumber
  /-- a step outside 48 bits (R31) -/
  | stepNumber
  /-- a sample or local index outside 48 bits (R65) -/
  | sampleIndex
  /-- a flash die of 1,024 or more (R85) -/
  | flashDie
  /-- a logical unit address outside 40 bits (R89) -/
  | unitAddress
  /-- an engine number that its kind does not have (R5) -/
  | engineNumber
  /-- a reading owner named twice, or none (R327) -/
  | readers
  /-- not the number of readings of R445 -/
  | sensorCount
  /-- not the number of units of R496 -/
  | bringupUnits
  /-- a flash page or population outside R5, R85 and R89, or units of QS media that do not hold their sample (R103) -/
  | flashPopulation
  /-- a codeword step outside 1 to 4 (R104) -/
  | codewordStep
  /-- a register offset outside the 256 KiB window, or not of a word (R323, R371) -/
  | registerOffset
  /-- a virtual address outside 64 bits (R276) -/
  | virtualAddress
  /-- a message length outside 32 bits (R269) -/
  | messageLength
  /-- a UDP port outside 16 bits (R35) -/
  | udpPort
  /-- a certificate slot outside 0 to 7 (R462) -/
  | certificateSlot
  /-- a data element outside 64 bits of address or 32 of length (R344) -/
  | dataElement
  /-- a self-test item outside one byte (R368) -/
  | selfTestItem
  /-- an edge named twice (R17) -/
  | edgeTwice
  /-- not one count per bandwidth counter (R491) -/
  | bandwidthCounts
  deriving DecidableEq, Repr

/-- Engines of each kind on an SPD (R5). -/
def EngineKind.count : EngineKind → Nat
  | .de => 48
  | .te => 32
  | .pe => 16
  | .ke => 8
  | .ce => 4
  | .pu => 1
  | .cvu => 8

/-- A check: its name when it fails. -/
def unlessHolds (ok : Bool) (e : IllFormed) : List IllFormed := if ok then [] else [e]

def wfConn (c : Nat) : List IllFormed := unlessHolds (decide (c < 262144)) .connection
def wfBatch (b : Nat) : List IllFormed := unlessHolds (decide (b < 2 ^ 64)) .batchNumber
def wfStep (n : Nat) : List IllFormed := unlessHolds (decide (n < 2 ^ 48)) .stepNumber
def wfIndex (i : Nat) : List IllFormed := unlessHolds (decide (i < 2 ^ 48)) .sampleIndex
def wfDie (d : Nat) : List IllFormed := unlessHolds (decide (d < 1024)) .flashDie
def wfLua (l : Nat) : List IllFormed := unlessHolds (decide (l < 2 ^ 40)) .unitAddress
def wfReq (r : ReqKey) : List IllFormed := wfBatch r.batch
def wfReaders (l : List Owner) : List IllFormed := unlessHolds (!l.isEmpty && decide l.Nodup) .readers
def wfSensors (l : Sensors) : List IllFormed := unlessHolds (l.length == 104) .sensorCount
def wfOffset (o : Nat) : List IllFormed := unlessHolds (decide (o < 0x40000) && o % 4 == 0) .registerOffset
/-- A write lies in its space and moves no more than a host request does (R322). -/
def wfHostWrite (w : HostWrite) : List IllFormed :=
  unlessHolds (decide (w.addr < (match w.space with | .window => 0x40000 | .vectors => 0x4000 | .config _ => 4)) &&
    decide (w.bytes.length ≤ 4096)) .registerOffset
def wfVa (v : Nat) : List IllFormed := unlessHolds (decide (v < 2 ^ 64)) .virtualAddress
def wfLength (n : Nat) : List IllFormed := unlessHolds (decide (n < 2 ^ 32)) .messageLength
def wfSlot (n : Nat) : List IllFormed := unlessHolds (decide (n < 8)) .certificateSlot

def wfData (d : HostData) : List IllFormed :=
  unlessHolds (d.list.all fun e => decide (e.len < 2 ^ 32)) .dataElement

/-- The population of R5, R85 and R89: 64 channels, at most 256 TB of units of 32 KiB, a die's units within 30 bits. -/
def wfFlash (b : Bringup) : Bool :=
  let g := b.page
  b.targets.length == 64 && decide (1 ≤ g.blocks ∧ 1 ≤ g.unitsPerBlock) && decide (g.blocks * g.unitsPerBlock ≤ 2 ^ 30) &&
    decide ((b.targets.map fun m => ((List.range 16).filter (m.getLsbD ·)).length).sum * g.blocks * g.unitsPerBlock * 32768 ≤
      256 * 10 ^ 12) &&
    b.odd.all (fun x => decide (x.1 < 1024)) && b.untrained.all (fun d => decide (d < 1024)) && decide (b.layout ≤ 1)

/-- The partitions of QS media: at most 4,096, each sample's bytes in its units, no unit named twice. -/
def wfQs (b : Bringup) : Bool :=
  let units := b.qs.flatMap fun q => q.samples.flatMap (·.puas)
  decide (b.qs.length ≤ 4096) && decide units.Nodup && units.all (fun p => decide (p < 2 ^ 40 - 1)) &&
    b.qs.all fun q => decide (1 ≤ q.parts ∧ q.parts ≤ 16384 ∧ q.p < q.parts ∧ q.n ≤ 2 ^ 48) &&
      q.samples.all fun x => decide (x.puas.length = (x.bytes.length + 32767) / 32768)

/-- Engines that fail alone: a number its kind has; on an I/O or media die its four Check-Value Units (R13). -/
def wfBadEngine (e : Fin 12 × EngineKind × Nat) : Bool :=
  if e.1 < 8 then decide (e.2.2 < e.2.1.count)
  else e.2.1 == .cvu && decide (e.2.2 < 4)

def wfBringup (b : Bringup) : List IllFormed :=
  unlessHolds (b.spdOk.length == 8 && b.stackOk.length == 24 && b.edgeOk.length == 42) .bringupUnits ++
    unlessHolds (b.badEngines.all wfBadEngine) .engineNumber ++ unlessHolds (wfFlash b && wfQs b) .flashPopulation

/-- Every check that a command fails. -/
def Instr.illFormed : Instr → List IllFormed
  | .slipwayFlitRx .. | .idleFlitTimer .. | .homeMapApply => []
  | .edgeSilenceTimeout es => unlessHolds (decide es.Nodup) .edgeTwice
  | .requestIssue r => wfReq r
  | .latestStartReached r _ => wfReq r
  | .ptpSyncRx .. | .timeSourceLost | .ptpFailback | .ppsEdge _ => []
  | .stepMarkDatagram d => unlessHolds (decide (d.destPort < 2 ^ 16)) .udpPort
  | .syncInEdge .. | .markPairWindowExpiry | .deadlineRecomputeDone | .stepLost | .stepBoundaryApply => []
  | .tideSnap _ | .tideCancel _ | .tideArm _ | .tideRestartEst _ | .barrierReady => []
  | .heartbeatSend c => wfConn c
  | .permPositionAdmit r _ p => wfReq r ++ wfStep p.dlStep
  | .permPassDone r _ => wfReq r
  | .defectEntryDurable _ i _ => wfIndex i
  | .peerRoundRetry r | .peerReadGiveUp r => wfReq r
  | .flashTrainingTimer .. => []
  | .flashReadDone r cs =>
    wfReq r ++ unlessHolds (cs.all fun c => (c.step.map fun n => decide (1 ≤ n ∧ n ≤ 4)).getD true) .codewordStep
  | .programDone d _ _ x _ =>
    wfDie d ++ match x with
      | .unit l => wfLua l
      | .copy p => wfLua p
      | .filler => []
  | .eraseDone d _ _ => wfDie d
  | .stripeVerifyDone .. | .stagingResize | .foldStart => []
  | .gcStart d | .staticRelocation d | .blockRewriteStart d _ | .flashDieFailed d _ => wfDie d
  | .writeBufferAdmit _ | .flushComplete _ | .journalProgram | .checkpointStart | .checkpointRootDone .. => []
  | .mapSegmentReloadDone _ | .mapMirrorRecopyDone _ | .recoveryDone .. | .mediaTempSample .. => []
  | .memoryCe .. | .patrolScrub .. | .jobClearDone | .keySweepDone _ | .cacheSplitDone _ => []
  | .memoryUe place _ =>
    match place with
    | .berth _ r => (r.map wfReq).getD []
    | .cacheExtent _ _ _ i _ => wfIndex i
    | .mapSegment .. | .firmware _ | .writeBuffer .. | .textTables _ | .serveBerth .. | .jobSpace _ => []
  | .hbmStackLost _ | .stackRebuildDone _ => []
  | .decodeDone r _ => wfReq r
  | .decodeEngineFault .. => []
  | .engineResetDone _ k n _ => unlessHolds (decide (n < k.count)) .engineNumber
  | .transformDone r => wfReq r
  | .residueMismatch .. => []
  | .transformRestart r _ => wfReq r
  | .xfEngineFault .. => []
  | .tokeniseChunk r => wfReq r
  | .vocabLineFill .. => []
  | .tokeniseDone r => wfReq r
  | .txtEngineFault .. => []
  | .textPlacement r | .packDone r => wfReq r
  | .packEngineFault .. => []
  | .trailerHeaderSend _ b | .timelockHoldExpiry _ b => wfBatch b
  | .linkDown .. | .linkUp _ => []
  | .pathMigrateBack c | .quietPeriodEnd c => wfConn c
  | .rxRdmaWrite c _ _ va n _ _ _ => wfConn c ++ wfVa va ++ wfLength n
  | .rxRdmaRead c _ _ va n => wfConn c ++ wfVa va ++ wfLength n
  | .rxAck c _ | .rxNak c _ _ | .rxRnrNak c _ | .rxReadResponse c _ _ _ | .rxCnp c _ => wfConn c
  | .rxRefusedPacket c _ _ => (c.map wfConn).getD []
  | .ackTimeout c | .rnrRetryTimer c | .waitSatisfied c => wfConn c
  | .revokeComplete _ | .revokeTimeout _ => []
  | .releaseTokenSend _ b _ => wfBatch b
  | .returnRx c _ _ | .peerReqRx c _ _ | .peerServeReady c _ _ | .peerRspRx c _ _ => wfConn c
  | .peerReadDone c _ _ | .peerDoneRx c _ _ | .peerHoldExpiry c _ => wfConn c
  | .frameTxDone _ | .pfcRx .. => []
  | .ccRateRecover c => wfConn c
  | .sluiceEntryChange _ | .sluiceListTakeover _ => []
  | .contextLoadDone c => wfConn c
  | .sliceBoundary => []
  | .mbxLockRead rs _ => wfReaders rs
  | .mbxLockRelease .. | .mbxBufWrite .. | .mbxDoorbell .. | .mbxAck .. | .mbxTake _ | .mbxReply _ => []
  | .semRead rs _ => wfReaders rs
  | .semRelease .. | .portReset .. | .perstRelease _ => []
  | .quaySqDoorbell .. | .quayCqDoorbell .. | .quayFetch .. | .completionWrite .. | .cqCoalesceTimer _ => []
  | .invalidOpcode _ | .identify _ | .createQuay _ | .deleteQuay _ | .abort _ | .getEvent _ => []
  | .getEventComplete _ | .selfTest _ => []
  | .selfTestItemDone _ i _ _ => unlessHolds (decide (i < 256)) .selfTestItem
  | .selfTestResume => []
  | .fwStage _ d => wfData d
  | .fwActivate _ | .fwNorWriteDone .. | .fwActivateRestart | .portConfig _ | .format _ => []
  | .jobSetup _ d => wfData d
  | .jobEnd _ | .stepMark _ => []
  | .datasetCreate _ d | .write _ d => wfData d
  | .flush _ | .sealPartition _ | .datasetDelete _ => []
  | .defectList _ d | .mediaStatus _ d | .mediaHealth _ d => wfData d
  | .copyFromPeer _ plan => plan.flatMap fun y => wfIndex y.2.1
  | .streamSetup _ d => wfData d
  | .streamStart _ | .streamStop _ | .streamStopComplete _ | .seek _ | .streamStatus _ => []
  | .tableLoad _ d | .detokenise _ d | .connect _ d => wfData d
  | .disconnect _ | .mooringCreate _ | .mooringRevoke _ | .mooringGrant _ => []
  | .queueStats _ d => wfData d
  | .secStatus _ => []
  | .slotProgram _ d => wfData d
  | .svnCommit _ | .lifecycleSecure _ => []
  | .keyLoad _ d => wfData d
  | .keyClear _ => []
  | .keyRevoke _ d => wfData d
  | .debugChallenge _ => []
  | .debugResponse _ d => wfData d
  | .debugExit _ | .debugGrantExpiry | .zeroise _ | .debugOpen _ => []
  | .regWrite _ w => wfHostWrite w
  | .evClear _ o _ => wfOffset o
  | .windowAccessReject _ (.write w) => wfHostWrite w
  | .irqEnableWrite .. | .windowAccessReject .. => []
  | .aliasWrite _ o _ => wfOffset o
  | .cfgArm .. | .cfgCancel .. | .groupApply _ | .guardComputeStart | .guardComputeDone | .guardCommit _ => []
  | .aonWrite _ o _ => wfOffset o
  | .aonWriteTaken | .slowclkLost => []
  | .cvuStart _ | .cvuTail .. | .cvuFinish _ | .cvuDataWrite .. => []
  | .cvuParityError _ r => (r.map wfReq).getD []
  | .duskEntryStart | .entryCommit | .duskEntryDone | .nightEntryStart | .nightEntryDone | .wakeNEdge _ => []
  | .tideWakeTimer | .duskExitDone | .nightExitDone | .opStepDone .. => []
  | .thermalSample l | .thermalTrip l => wfSensors l
  | .throttleStep => []
  | .tripCooled l => wfSensors l
  | .bootImageVerified _ => []
  | .attestReady | .getVersion _ | .getCapabilities _ | .negotiateAlgorithms _ | .getDigests _ => []
  | .getCertificate _ n _ _ | .challenge _ n _ => wfSlot n
  | .getMeasurements .. => []
  | .keyExchange _ n => wfSlot n
  | .finish .. | .heartbeat .. | .keyUpdate .. | .endSession .. | .vendorDefinedRequest .. => []
  | .jtagAccess _ op =>
    match op with
    | .read o => wfOffset o
    | .write o _ => wfOffset o
    | .bypass _ | .idcode | .sample _ | .extest _ | .clamp _ | .challenge | .halt _ | .resume _ | .stepCore _ | .memRead .. | .memWrite .. => []
  | .smbusHealthRead | .smbusAlertClear | .smbusAra | .healthReasonTimer .. => []
  | .ltStart _ | .ltStop _ | .ltInject _ | .ltLaneLock _ => []
  | .pmcFreeze | .pmcUnfreeze | .pmcSnap _ | .pmcClear | .pmcSnapDone | .pmcBwWinWrite _ => []
  | .pmcBwWindowEnd l => unlessHolds (l.length == 148) .bandwidthCounts
  | .coldReset | .warmReset .. | .lockstepMismatch _ | .hmWatchdogExpiry _ => []
  | .bringupDone b => wfBringup b
  | .powerGood _ | .railLost _ | .clockFault _ => []
  | .cacheReadDone r => wfReq r
  | .ltLockLost _ | .harbourmasterRestartDone | .textTableReloadDone _ | .connContextRecopyDone _ => []
  | .pcieLinkUp _ | .pciePmStateChange .. | .shaperCreditRestored .. | .keelFault => []

/-- A well-formed command fails no check. -/
def Instr.wf (i : Instr) : Bool := i.illFormed.isEmpty

end Sys2Proof
end

