-- ==== Sys2Proof/Tests/Slice0.lean ====
section
/-! SUPPORT. Small states, witnesses that the hypotheses of the statements can be met, the checks of well-formed commands,
and values of the specification. -/

namespace Sys2Proof.Tests

set_option Elab.async false
set_option maxRecDepth 20000
set_option linter.unusedTactic false
set_option linter.unreachableTactic false
set_option linter.unusedVariables false
set_option linter.constructorNameAsVariable false

open Sys2Proof Sys2Proof.Machine

/-! ### Small states -/

/-- A port that its host has enabled. -/
def tPort : HostPort :=
  { HostPort.reset with linkUp := true, vecMask := 0, cfg := { PciConfig.reset with memSpace := true, busMaster := true, msixOn := true } }

/-- An SPD that serves. -/
def tSpd : Spd := { Spd.reset with serving := true, power := SpdPower.noon }

/-- The block in Noon with its dies serving and its firmware running. -/
def tNoon : State :=
  { State.reset with
    pwr := { Power.reset with state := .noon, off := false, vin48 := true, v1p8 := true }
    fab := { Fabric.reset with
      spds := List.replicate 8 tSpd, edges := List.replicate 42 ⟨true, false, 0, 0, 0, false⟩
      iod1 := true, med0 := true, med1 := true, homes := [0, 1, 2, 3, 4, 5, 6, 7] }
    host := { Hosts.reset with hm := .running, fwReady := true, broughtUp := true, portA := tPort, portB := tPort }
    sec := { Security.reset with verified := true, keyHash := [0, 0, 0, 0], nor := [], deviceSeed := 0, cert := some [] } }

def tJob : Job := ⟨1, 0, 2, 0, 0, 0, [3], poolDefaults, [], []⟩

/-- The same with a job active. -/
def tRun : State := { tNoon with run := { JobRun.reset with job := some tJob } }

/-- A step mark of R35: job 1, step 7, sequence 4, no start time. -/
def tMarkBody : List Byte := natBytes 4 0x54444D4B ++ natBytes 4 1 ++ natBytes 6 7 ++ [1, 0] ++ natBytes 8 0 ++ natBytes 4 4
def tMark : List Byte := tMarkBody ++ leBytes 4 (crc32c tMarkBody)
def tRestartBody : List Byte := tMarkBody.set 14 2
def tRestart : List Byte := tRestartBody ++ leBytes 4 (crc32c tRestartBody)

def tXf : XfParams := ⟨0, 8, 8, 100, 100, 100, 0, 8, 8, 0, 0, 0, 0, 0, 0, 0, 0, 0, 0, 0, [0, 0, 0], [1, 1, 1]⟩
def tTxt : TextParams := ⟨0, 0, 0, 0, 0, 0, 0, 0, 0, 0, 0, 1, 2, 0, 16, 16, 1, 0, 0⟩
def tPackP : PackParams := ⟨[⟨0, 0, 0, 0⟩], 0, 0, 3, 0, 0, 0, 0⟩
def tDec : DecodeParams := ⟨0, [], [], 1, 1, 1, 0⟩
def tGeom : Geometry := ⟨7, 1, 4, 100, 64, 1500, 4, 16, 2208, 7, true, true, true⟩
def tMember : Member := ⟨[0], 2, 0x1000, 0x9000, 0x800, 0x10000, 0x10001, false, []⟩
/-- A running stream of batches of two samples, its order a permutation. -/
def tStream (cls : Nat) : Stream :=
  ⟨3, 5, 0, cls, 1, 0, 2, false, 10, tDec, tXf, tTxt, tPackP, [0], [⟨0, false, [tMember]⟩], [], .running, 0, 0, none, []⟩
/-- Four samples of four bytes. -/
def tPart (cls : Nat) : Partition :=
  ⟨0, 5, 4, 1, 0, cls, [], true, 4, 5, 4, 4, none, [(0, 0, 4)],
    (List.range 4).map fun i => ⟨i, i + 1, [1, 2, 3, BitVec.ofNat 8 i], [i]⟩, [], 0, [], []⟩
def tKey : ReqKey := ⟨3, 0, 0⟩
def tPlan : Plan := ⟨9, 0⟩
def tBudgets : List Nat := [1, 1, 1, 1, 1, 1, 1, 1]
def tBatch : Batch := newBatch 3 0 tPlan 0
def tReq : Request := newRequest tKey 0 tBudgets [0, 0, 0, 0, 0, 0, 0, 0] false .ready
/-- A job with the stream and its partition. -/
def tStreams (cls : Nat) : State :=
  { tRun with
    run := { tRun.run with streams := [tStream cls], batches := [tBatch] }
    media := { Media.reset with mounted := true, targets := 16, geom := tGeom, partitions := [tPart cls] } }
/-- The same with one request. -/
def tWith (cls : Nat) (r : Request) : State :=
  { tStreams cls with run := { (tStreams cls).run with requests := [r] } }
/-- The same with the start step at the batch's deadline step. -/
def tIssue (r : Request) : State := { tWith 1 r with applied := { StRegs.reset with tideStartLo := 9 } }
/-- The block with engine 0 of a kind on SPD 0 replaced. -/
def tEngineSpd (k : EngineKind) (e : Engine) : Spd :=
  (tSpd).setEngines (updAt ((tSpd : Spd).engines k) 0 fun _ => e) k
def tEngine (k : EngineKind) (e : Engine) : State :=
  { tStreams 1 with fab := { (tStreams 1).fab with spds := tEngineSpd k e :: List.replicate 7 tSpd } }
def busyPhase : EngineKind → Phase
  | .de => .decode
  | .te => .transform
  | .pe => .pack
  | _ => .tokenise
/-- The same with the engine held by a request in its stage. -/
def tBusy (k : EngineKind) : State :=
  { tEngine k ⟨.held tKey, [], []⟩ with run := { (tStreams 1).run with requests := [{ tReq with phase := busyPhase k }] } }
/-- The state after the mismatch of Transform Engine 0 is counted and the engine is free. -/
def afterMismatch (s : State) (n : Fin 8) (i : Fin 32) (e : Engine) : State :=
  (countCorrected n (countPerf n 0x900 (setEv .xf 1 { s with cnt := { s.cnt with xfResCnt := s.cnt.xfResCnt + 1 } }))).setEngine
    n .te i (fun x => { x with mismatches := within24h s.tide.uptime e.mismatches, state := .free })
/-- The block with the first sample's unit mapped. -/
def tMapped (r : Request) : State := { tWith 1 r with media := { (tWith 1 r).media with map := [(0, 0)] } }
/-- A PNG image of one grey sample, and what its IDAT data inflate to. -/
def tPngBytes : List Byte :=
  [137, 80, 78, 71, 13, 10, 26, 10, 0, 0, 0, 13, 73, 72, 68, 82, 0, 0, 0, 1, 0, 0, 0, 1, 8, 0, 0, 0, 0, 58, 126,
   155, 85, 0, 0, 0, 10, 73, 68, 65, 84, 120, 156, 99, 96, 7, 0, 0, 9, 0, 8, 32, 35, 195, 140, 0, 0, 0, 0, 73, 69,
   78, 68, 174, 66, 96, 130]
def tPng : DecodeInput := ⟨false, true, false, .plain, [], []⟩
def tTok : Request := { tReq with phase := .tokenise, encoded := [97], chunks := 1 }
def tTokRun : TokenRun := match tokenise (tWith 4 tTok) tTxt [97] (tTok.tok.finish tTxt).1 (tTok.tok.finish tTxt).2 with | .ok x => x | .error _ => ⟨[], 0, 0, false, false⟩
def tPk : Request := { tReq with phase := .pack, pe := some 0, form := some ⟨[], []⟩ }
def tXfReq : Request := { tReq with phase := .transform, form := some ⟨[], []⟩ }
/-- A resident connection on link 0: a delivery lane, or one to a peer. -/
def tConn (i : Nat) (peer : Bool) : Conn :=
  { newConn i 10000000 (List.replicate 64 0) State.reset with peer := peer, pmtu := 1024, resident := true, credits := 8, ccRate := 65536, copies := [0, 4] }
def tWire : Wire := ⟨0, true, false, false⟩
/-- A key over 4 KiB of the job address space, protection domain 0, read and write. -/
def tMooring : Mooring := ⟨2, 1, 0, 0x1000, 0x1000, 3, .valid, [], false, 0⟩
/-- The stream with its links up and a lane, a peer and a key. -/
def tNet (f : Conn → Conn) : State :=
  { tStreams 1 with
    run := { (tStreams 1).run with job := some { tJob with jobSpace := 1 } }
    egr := { Egress.reset with linksUp := 0xFFFF, conns := [f (tConn 0 false), f (tConn 1 true)], moorings := [tMooring] } }
def tWr : Wr := ⟨.write, .data 3 0 0, 0x1000, 0x10000, [1, 2], 1, 0, some 0, none, 0, 0, 2⟩
def tServe (ready : Bool) : Serve := ⟨7, 4, 1, 0, 0, 4, ready, 2, [1, 2, 3, 0], 0, 0⟩
def tSigned (l : List Byte) : List Byte := l ++ leBytes 4 (crc32c l)
def tReadWr : Wr := ⟨.read, .peerRead tKey, 0x1000, 0x10000, [], 1, 0, some 0, none, 0, 0, 2⟩
def tPeerStream : Stream := { tStream 1 with peers := [(0, [1])] }
/-- A request that waits for peer 1, its bytes in. -/
def tPeerReq : Request := { tReq with phase := .peerWait, encoded := [1, 2], peerCrc := crc32c [1, 2] }
def tPeerRead : State :=
  { tNet id with run := { (tNet id).run with streams := [tPeerStream], requests := [tPeerReq] } }
/-- A batch with both entries, and the streams with it. -/
def tFull : Batch := { tBatch with entries := [(0, ⟨0, 0, 0, 0, 0, 0, 0, 0, 0, 0⟩), (1, ⟨0, 0, 1, 0, 0, 0, 0, 0, 0, 0⟩)] }
def tDelivery : State := { tNet id with run := { (tNet id).run with batches := [tFull] } }
/-- Step state TRACKING from time 0 with a period of 1 s. -/
def tLocked (b : Batch) : State :=
  { tDelivery with
    run := { tDelivery.run with batches := [b] }
    tide := { Tide.reset with stepState := .tracking, seed := some (10 ^ 9), window := [10 ^ 9] } }
def tLater (s : State) : State := { s with tide := { s.tide with time := 10 ^ 12 } }
def tLater2 (s : State) : State := { s with tide := { s.tide with uptime := 10 ^ 12 } }
def tTokBatch : Batch := { tFull with headers := [0], headerSent := true }
def tToken : State := { tDelivery with run := { tDelivery.run with batches := [tTokBatch] } }
def tFrameWr : Wr := { tWr with psn := none, left := 1 }
def tFrameConn : Conn := { tConn 0 false with queue := [tFrameWr] }
/-- The network with a frame of connection 0 waiting; `w` is the class word of class 0. -/
def tFrame (w : Word) : State :=
  { tNet id with
    egr := { (tNet id).egr with conns := [tFrameConn] }
    applied := { StRegs.reset with classes := { (ClassRegs.reset) with class0 := w } :: List.replicate 127 ClassRegs.reset } }
def tRow : HbmRow := ⟨0, 5⟩
def tSpdWith (d : Spd) : State := { tNoon with fab := { tNoon.fab with spds := d :: List.replicate 7 tSpd } }
def keyAgain (s : State) (e : CacheEntry) : CacheEntry :=
  if e.due || e.key == .stale then { e with key := cacheKey s e.dsSlot e.index e.remote 64 (-1), due := false } else e
def afterSplit (s : State) (n : Fin 8) : State :=
  s.modSpd n fun d =>
    { d with splitting := false, decCache := shrinkTo (decRoom s d) d.decCache, rawCache := shrinkTo (rawRoom s d) d.rawCache }
def jobCleared (s : State) : State :=
  { s with
    run := { JobRun.reset with endedId := s.jobId }
    fab := { s.fab with spds := s.fab.spds.map Spd.cleared }
    egr := { s.egr with jobMem := [] } }
def tStripe : Stripe := ⟨0, 0, 0, [(0, 0)], 16, .opened, [], []⟩
/-- Mounted media with a unit in the write buffer and block 0 of die 0 open. -/
def tMedia : Media :=
  { Media.reset with
    mounted := true, targets := 16, geom := tGeom, buffer := [⟨0, 0, 1, 0⟩]
    blocks := [⟨0, 0, 0, .opened, true, 0, false, none, none, false, 0⟩], stripes := [tStripe], partitions := [tPart 1] }
def tFlash : State := { tNoon with media := tMedia }
def tUnopened : State := { tNoon with media := { tMedia with blocks := [], stripes := [] } }
def tOpenedMedia : Media := (tUnopened.media.openNew 16 0 0 0).getD Media.reset
def tOpenedStripe : Stripe := (tOpenedMedia.stripeOf 16 0).getD tStripe
def tClosed : State :=
  { tNoon with media := { tMedia with blocks := [⟨0, 0, 0, .closed, true, 0, false, none, none, false, 0⟩], stripes := [{ tStripe with state := .verified }] } }
def tClosing : State := { tNoon with media := { tMedia with stripes := [{ tStripe with state := .closing }] } }
def tFolding : State := { tNoon with media := { tMedia with map := [(4, 0)], slots := [⟨0, 4, 0, 0, 0, 0, 0, 0, true, []⟩] } }
def tFullDie : State :=
  { tNoon with media := { tMedia with
      geom := { tGeom with blocks := 1 }, stripes := [], blocks := [⟨0, 1, 0, .closed, false, 0, false, none, none, false, 0⟩] } }
def tWornBlock : Block := ⟨0, 1, 0, .closed, false, 200, false, none, none, false, 0⟩
def tWorn : State := { tNoon with media := { tMedia with stripes := [], blocks := [tWornBlock] } }
def tOpenPart : Partition := { tPart 1 with sealed := false }
def tId : CmdId := ⟨.mbx ⟨.a, 1⟩, 5⟩
def tCmd (r : CmdRun) : Cmd := ⟨tId, 0, 0, 0, r, false, false⟩
/-- One command under way, and an unsealed partition. -/
def tCmdRun (r : CmdRun) : State :=
  { tNoon with
    host := { tNoon.host with cmds := [tCmd r] }
    media := { tMedia with buffer := [], partitions := [tOpenPart] } }
/-- Mailbox 0 of port A as given. -/
def tMbx (b : Mailbox) : State := tNoon.modMbx ⟨.a, 0⟩ fun _ => b
def tReplying : State :=
  { tMbx ⟨0, .taken, 0, false, some .portA, none, 0, 0⟩ with
    host := { (tMbx ⟨0, .taken, 0, false, some .portA, none, 0, 0⟩).host with replies := [⟨⟨.mbx ⟨.a, 0⟩, 0⟩, 0, 0, [], false⟩] } }
def tReplied : State :=
  tReplying.modHost fun h => { h with replies := h.replies.filter (· != ⟨⟨.mbx ⟨.a, 0⟩, 0⟩, 0, 0, [], false⟩) }
def tPorts : State := (tNoon.modPort .a fun h => { h with perst := false, linkUp := false }).modPort .b fun h => { h with perst := false, linkUp := false }
/-- Applied registers cut short, and the guard computing over them. -/
def tFew : StRegs := { StRegs.reset with classes := [], slu := [] }
def tGuarded (w : Word) : State := { tNoon with applied := tFew, guard := ⟨0, w, true, false, false, true, true, false⟩ }
/-- An entry whose bytes are given by place; every other byte is 0. -/
def tEntry (bs : List (Nat × Nat)) : BitVec 512 := BitVec.ofNat 512 ((bs.map fun (i, v) => v * 2 ^ (8 * i)).sum)
def tSalsia (bs : List (Nat × Nat)) : Cmd := ⟨tId, tEntry bs, 0, 0, .queued, false, false⟩
/-- The command queued on a state. -/
def tOn (s : State) (bs : List (Nat × Nat)) : State :=
  { s with host := { s.host with cmds := [tSalsia bs] }, media := { s.media with mounted := true } }
def tQuay : Quay := ⟨⟨.a, 1⟩, 0x1000, 0x2000, 4, 4, 1, 0, 0, 0, 0, 0, 0, true, none, 0, 0, []⟩
def tQuays (f : Quay → Quay) : State := { tNoon with host := { tNoon.host with quays := [f tQuay] } }
def tTag : Completion := ⟨⟨.quay ⟨.a, 1⟩, 9⟩, 0, 0, [], false⟩
def tTarget : Cmd := ⟨⟨.mbx ⟨.a, 2⟩, 7⟩, tEntry [(0, 1), (2, 7)], 1, 1, .queued, false, false⟩
def tAborting : State :=
  { tOn tNoon [] with host := { tNoon.host with cmds := [tSalsia [(0, 4), (24, 0x82), (26, 7)], tTarget], cmdOrder := 2 } }
def tEventful : State :=
  { tCmdRun .getEvent with host := { ((tCmdRun .getEvent).modPort .a fun h => { h with events := [⟨3, true, false, []⟩] }).host with fwReady := true } }
def tTesting (n : Nat) : State :=
  { tNoon with host := { tNoon.host with cmds := [tCmd .selfTest], selfTest := some ⟨tId, false, n, false, 0, 0, none, false⟩ } }
def tCvu : Cvu := ⟨0x420, true, 0, false, 0, 0, 0, 0, 0, 0, 0⟩
def tGate : SluRun := { SluRun.reset with list := 2, entries := [⟨1, 100⟩, ⟨2, 100⟩] }
def tGates : State := { tNoon with bw := { tNoon.bw with lists := [tGate] }, tide := { Tide.reset with time := 1000 } }
def tTakeover (t : Int) : State :=
  { tNoon with
    bw := { tNoon.bw with lists := [{ tGate with pending := some t }] }
    applied := { StRegs.reset with slu := [{ SluList.reset with list := 2 }] } }
def taken (r : SluRun) (n : SluList) : SluRun :=
  { r with list := n.list, base := n.baseLo.toNat + n.baseHi.toNat * 2 ^ 32, entries := n.entries }
def tKeyPart : Partition := { tPart 1 with keyCheck := keyCheck 5, sealed := false }
/-- The job with its key, over a partition that the key fits. -/
def tKeyed (f : Partition → Partition) : State :=
  { tStreams 1 with
    sec := { (tStreams 1).sec with jobKey := some 5 }
    media := { (tStreams 1).media with partitions := [f tKeyPart] } }
def tData (bs : List Byte) : HostData := ⟨false, [], bs⟩
def tNoJob (f : Partition → Partition) : State :=
  { tNoon with media := { Media.reset with mounted := true, targets := 16, geom := tGeom, partitions := [f tOpenPart] } }
def tWriteBytes : List (Nat × Nat) := [(0, 0x21), (16, 5), (24, 5), (40, 1), (48, 1)]
/-- A job descriptor with one coordinator and the default pools. -/
def tDescriptor : List Byte := [1, 0, 0, 0, 0, 0, 1, 0] ++ List.replicate 104 0
def tCopying : State :=
  { tNoJob id with host := { tNoon.host with cmds := [{ tSalsia [(0, 0x28), (24, 5)] with run := .copying 3 [] false }] } }
def tKeyedNet : State := { tKeyed (fun p => p) with egr := (tNet id).egr }
def tPrm (id : Nat) (v : List Byte) : List Byte :=
  natBytes 2 id ++ natBytes 2 v.length ++ v ++ List.replicate ((4 - v.length % 4) % 4) 0
def tMemberRec : List Byte :=
  [1, 2, 0, 0] ++ natBytes 4 0 ++ natBytes 12 0 ++ natBytes 8 0x1000 ++ natBytes 8 0x9000 ++ natBytes 8 0x1000 ++ natBytes 4 1 ++ natBytes 4 1 ++ natBytes 12 0
/-- The records of an audio stream of two samples a batch. -/
def tRecsHead : List Rec :=
  [(0x101, natBytes 8 5), (0x102, [0]), (0x103, [0, 0]), (0x104, natBytes 4 2), (0x105, [0]), (0x106, natBytes 8 1), (0x107, natBytes 12 0),
    (0x201, [0]), (0x202, []), (0x501, [0]), (0x503, [0]), (0x505, [0]), (0x508, natBytes 4 16), (0x509, [0]), (0x50A, [1]), (0x50B, natBytes 4 0),
    (0x601, [0, 0])]
def tRecs : List Rec := tRecsHead ++ [(0x602, [0, 0, 0, 1] ++ tMemberRec)]
def tSetup : List Byte := tRecs.flatMap fun r => tPrm r.1 r.2
def tAudioPart : Partition := { tPart 3 with keyCheck := keyCheck 5 }
def tSetupState : State :=
  { tKeyed (fun _ => tAudioPart) with run := { (tKeyed id).run with streams := [] } }
def tSetupCmd : List (Nat × Nat) := [(0, 0x30), (4, 1), (16, tSetup.length), (24, 7)]
/-- An empty normalisation table with identifier 1. -/
def tTable : List Byte :=
  let head := natBytes 4 0x58544B51 ++ [1, 1, 1, 0] ++ natBytes 48 0 ++ leBytes 4 (crc32c [])
  head ++ leBytes 4 (crc32c head)
def tTextJob : State := { tRun with run := { tRun.run with job := some { tJob with textSpace := 4096 } } }
def tHalt (n : RunState) : State :=
  { tStreams 4 with run := { (tStreams 4).run with streams := [{ tStream 4 with state := n }], batches := [] } }
def stoppedOf (slot n : Nat) (s : State) : State :=
  dueKeys slot (fun _ => true) (s.modStream n fun x => { x with state := .stopped, issued := none })
/-- The record of a delivery lane on link 0 in protection domain 1. -/
def tConnRec : List Byte := [0, 0, 0, 0xFF] ++ natBytes 2 1 ++ natBytes 2 1024 ++ List.replicate 56 0
def tSpace : State := { tRun with run := { tRun.run with job := some { tJob with jobSpace := 2 ^ 20 } } }
def tRevoking (l : List Nat) : State :=
  { tNet id with
    egr := { (tNet id).egr with moorings := [{ tMooring with state := .revoking, inflight := l }] }
    tide := { Tide.reset with uptime := 10 ^ 12 } }
/-- A key of RSA-3072 made for these tests, and three blocks that it signs: an image of one byte, a revocation of slot 1 by slot
0, and a debug grant for nonce 7 of 60 s and right 0. -/
def tModulus : List Byte := (
  [0xd15a965a0ca057a0d5c8188b, 0x84899a1c1d6db793b7df6763, 0x7a6179355a8034af2cfd695d, 0x475dcaa8cda0f4460b6ed56e,
   0x69b8dd81e235a536c0a59a9, 0x4b70233ef5fa43d0444f035f, 0x5507eed47160450f50f2ec46, 0x11cdc54b5294f5445a6489b8,
   0x82ad8f57839fe7535b883010, 0x816095903f963ebd3ef9ed49, 0x6b6db5d2d715c32dbdca6b90, 0xad1a55e06cd16384de96ca42,
   0x36289169ca26718c47bfb927, 0xedb43b44dcea61ca4e92e4c3, 0xfd2b4ed5b4a2389a79b4402, 0x36c74d326ebc5c5af137439,
   0x480581ab268159524f10af27, 0xa3593d1bdb9e1556a3ee09d1, 0x8c4de65b5a6e1cf0b3eb38e1, 0x7d9841cb0da4b9f8a0a0a07a,
   0x1d4cc856cadcc74c78eedd0f, 0x4a8beaf8552ed2ca2beb0b95, 0xc7fddd7b4cacfcfe4e1d0d4f, 0xa3c831528d6789440ad3163e,
   0x4b862db6ddd9de94fee64ad6, 0x7570618f71232aee4f6e5be2, 0xb52ea6cfd3a4b39c5981d99, 0xd01655aba27ca812b88da98e,
   0x49fce00ec0ef0c691de87567, 0x43acada3aacc944cad0ec306, 0x69cb6bb9eb0dd9a98c93442a, 0x21a1cfa38e34b692adc7adcf] : List Nat).flatMap (beBytes 12)
def tImageSig : List Byte := (
  [0x219c9c45f75b5e1a740298b3, 0xc76b4bdd1ff95261b2606f51, 0xd436483780c6fe8af83f524d, 0x9c8212b360302e1ada276dda,
   0xd1cf58e3f4f0179620a81bbe, 0x36c896e7bee078a1585d999, 0x45a5dbe3f087f045b2672432, 0xb516acdf58540c9c882958b8,
   0xad0817c5342363ae103ba57b, 0x91dbe92fe6481af8633b0d9d, 0xc0d6fe51ead73cb5523c30cf, 0x3aa178f1d1bb2477dd90ab8a,
   0xf77e272f65502bf4b4cdebc9, 0x72dc5d53e158611051e2547, 0xda2ce47812403c7175a9f3df, 0x19f5fb75cd18a35098eed0d7,
   0x8e600df9502710f145b408f1, 0x8e037566429f562c69c2f6b1, 0x307f18b75bc1d4d0e26f4998, 0x37ff90ef0a323163ce62856e,
   0xf3c6ba39ac5b1d803640f137, 0x503149771180e2c470adfc78, 0x7c0a74e5533efe73a0b1c130, 0x78da84fc3bbd171097183be2,
   0x1ecb027831ae16307a4a1ce6, 0x2742f4fb6e8787a1c7e0a435, 0x9e60fdb194617075e8404595, 0x7b96d1ec011801d3a43b61cf,
   0x31e1eba68e698e4d3eefb7e9, 0xf2b8f45051c51c92ad1397f0, 0x24d4dc856421f56773c33d9c, 0x27b19c29bea8b83e779bd93c] : List Nat).flatMap (beBytes 12)
def tRevocationSig : List Byte := (
  [0xc403f5d4d8c38faed1bb7ef8, 0xa2cc3d41404e63644c2558f1, 0x66cdf729a6ed45849e3096dd, 0xabde3d02ac392aec0ed4d466,
   0x71138381a799865235f38b29, 0x64524b3835681c4c4fe2d1a4, 0xd31376abe4535fb0ff07e097, 0xc2dd5cf79a6119be34e19c33,
   0xba65fdc6ffb265f5d16ae471, 0xe5960ff96000340fac08c4d0, 0x490644af324b6c8bfb2411b4, 0x4fa391c153503a7e92335e10,
   0x4f01868cc5ca8bce886bf186, 0xbc3b765f27369b44feb131bb, 0xc8e05ca5d5f2d7e710f6404e, 0xe2479078e79f36e305840e72,
   0xc4c774a023ec8b0f998d7280, 0xdf3b846d5a0905d5a6ea1916, 0xfda4880c487a22654bd65859, 0xf88d05160563254f5df5a51d,
   0x68b046cfe755b555e7dbaf59, 0xa1aa61375a72e501f7f922ee, 0x4cf831f6379e84039127199c, 0xec2e11e9a04584ce6b93abf4,
   0x960031ae9cdb1c6bf68aefc6, 0xd9a59bae82b2779839464f9b, 0x7250d9956351870439e2d90, 0x33e0df76a6836f953c4bd199,
   0x3bae13e291e190dc70bb221c, 0x87e7afcce52f8d7f444dbe3, 0x787fe63d7820cd63c4492c39, 0x892a11b8fbb7274e530b0528] : List Nat).flatMap (beBytes 12)
def tGrantSig : List Byte := (
  [0xb5aa3047e51d397f583d59b7, 0xd517c098931a7b024e9e6b33, 0xe8d5dfbe2e0e4eedf3d11dfc, 0xdebbce6430b96d5f71e25113,
   0x6434fab447d2211fb641c8cf, 0xb745f991be6bdc4a94899ed7, 0x49fd1bdc46ac02a82019bbd1, 0xe97e4b116bd7d346feaef41d,
   0x9dbb3632c93a594bfa769e21, 0xe9ddc132d0695a6a6742d161, 0x61df462ac36b4c6e8853628f, 0x8e79c5591fd3b67ebb0d842a,
   0x85657b0f7c8c142614eaf7d2, 0xfec1b54f193229f22347499c, 0x919befab3d3d6b131b0c0eae, 0x8cf94f8c79c0a84a8de322d0,
   0xc52804df78292d13c768d7ab, 0xfddd9264b9c54f1aec659305, 0x1181815d98bf2cde4335c4c6, 0x8a058fb81ca5cd0fa89b7d1,
   0xda39f89188ebc2610fd61d17, 0xc55a4e38f0f2341a4715d609, 0x8012907262a19799d1973607, 0x1634ed53c46555aad1f14c5d,
   0x2a60e8c2494c26d04efb02b6, 0x846318e39b96ee41b8b1dc39, 0x88ae86b7ea78849f378093f3, 0xf04be0b7a88e3b5ec39a77cd,
   0x55912a63c075410ea17de824, 0xde1f4afcbc176174bb6fc567, 0x1f3d49e8678a89c555fdc807, 0xdfddb98c7ea01534150a90bc] : List Nat).flatMap (beBytes 12)
def tImageHead : List Byte :=
  natBytes 4 0x4D495751 ++ natBytes 2 1 ++ [0, 0] ++ natBytes 4 3 ++ natBytes 2 1 ++ natBytes 2 0 ++ natBytes 4 1 ++ hashBytes (sha256 [0x5A]) ++
    List.replicate 76 0
def tImage : List Byte := tImageHead ++ tModulus ++ tImageSig ++ List.replicate 128 0 ++ [0x5A]
def tRevocation : List Byte :=
  natBytes 4 0x56525751 ++ natBytes 8 0 ++ [1, 0] ++ List.replicate 114 0 ++ tModulus ++ tRevocationSig ++ List.replicate 128 0
def tGrant : List Byte :=
  natBytes 4 0x42475751 ++ natBytes 16 7 ++ natBytes 8 0 ++ [1, 0] ++ natBytes 4 60 ++ List.replicate 94 0 ++ tModulus ++ tGrantSig ++
    List.replicate 128 0
def tKeyHash : BitVec 256 := 0xda8db891845aff20efa8f60dbb27e95002fe2ad06c4c7dd91dfe80f8ccbd1f6f
/-- The security state with the key hashes of slots 0 and 1. -/
def tSecState (f : Security → Security) : State := { tNoon with sec := f { tNoon.sec with keyHash := [tKeyHash, 9, 0, 0] } }
def tDoe : CmdId := ⟨.doe .a, 5⟩
def tOnDoe (s : State) (bs : List (Nat × Nat)) : State :=
  { s with host := { s.host with cmds := [{ tSalsia bs with id := tDoe }] }, media := { s.media with mounted := true } }
def tStagedState : State := tSecState fun x => { x with staged := some ⟨1025, tImage, true⟩ }
def tOpenSpdm (l : List Session) : State := { tNoon with sec := { tNoon.sec with attest := true, sessions := l } }
def tTest : State := { tNoon with lt := ⟨.running, true, 0, 0x4003, 1, List.replicate 32 0, 0⟩ }
def tSmb : State := { tNoon with pwr := { tNoon.pwr with v3p3 := true }, fab := { tNoon.fab with iod0 := true }, hlth := { tNoon.hlth with alertPend := true } }
def tEdge1 : State := { tNoon with tide := { Tide.reset with uptime := 2 ^ 40 } }
/-- Idle with the entry to Dusk enabled, long enough; in Dusk with nothing left to do; at the boot; verified. -/
def tDusky : State :=
  { tEdge1 with
    applied := { StRegs.reset with pwrCfg := 4 }
    media := { Media.reset with mounted := true, targets := 16, geom := tGeom }
    pwr := { tNoon.pwr with idleSince := some 0, wakeN := true } }
def tNighty : State := { tEdge1 with pwr := { tNoon.pwr with state := .dusk } }
def tBooting : State :=
  { tNoon with
    host := { tNoon.host with hm := .boot, fwReady := false, broughtUp := false }
    fab := { tNoon.fab with iod0 := true }
    sec := { tNoon.sec with verified := false, keyHash := [tKeyHash, 0, 0, 0], nor := tImage, deviceSeed := Config.deviceSeed } }
/-- The fuses stand as manufacture left them. -/
theorem boot_kept : repeatZeroise tBooting = tBooting := if_neg fun h => h.1 rfl
def tVerified : State := { tBooting with sec := { tBooting.sec with verified := true } }
def tCool : Sensors := List.replicate 104 (some 30)
def tBring : Bringup :=
  ⟨List.replicate 8 true, List.replicate 24 true, List.replicate 42 true, true, true, true, [], List.replicate 64 0xFFFF, tGeom, [], [], 0, []⟩
/-- The state an answer goes to. -/
def answered (a : Answer) : State :=
  match a with
  | .next t => t
  | _ => State.reset

/-- A ready request over a partition of five samples, at the 32nd pass of a walk that leaves the space. -/
def tOutPart : Partition := { tPart 1 with n := 5 }
def tOut : State :=
  { tWith 1 { tReq with phase := .walking none 0 31 false } with media := { (tStreams 1).media with partitions := [tOutPart] } }
def tHeld : Request := { tReq with form := some ⟨[], []⟩ }
def tHit : Request := { tReq with phase := .cacheRead, form := some ⟨[], []⟩ }
def drawnOf (x : Except Nat State) : State := match x with | .ok s => s | .error _ => State.reset
def failOf (x : Except Nat State) : Nat := match x with | .ok _ => 99 | .error k => k
/-- An SPD whose Berth pools are empty. -/
def tShortSpd : Spd := { Spd.reset with serving := true, power := SpdPower.noon, pools := [] }
def tShort : State := { tIssue tReq with fab := { (tIssue tReq).fab with spds := tShortSpd :: List.replicate 7 tSpd } }
/-- The first slot of epoch 1, its sample in the defect list since epoch 0. -/
def tListedReq (x : Option Nat) : Request :=
  { newRequest ⟨3, 2, 0⟩ 0 tBudgets [0, 0, 0, 0, 0, 0, 0, 0] false .ready with tryIdx := x }
def tListedPart : Partition := { tPart 1 with defects := [⟨0, false, 1, 0, 0x100, false, none⟩] }
def tDeep : Stream := { tStream 1 with groups := [⟨0, false, [{ tMember with d := 4 }]⟩] }
def tListed (r : Request) : State :=
  { tIssue r with
    run := { (tIssue r).run with streams := [tDeep], batches := [newBatch 3 2 tPlan 0] }
    media := { (tIssue r).media with partitions := [tListedPart] } }
def tStrictRun (r : Request) : State :=
  { tWith 1 r with run := { (tWith 1 r).run with batches := [{ tBatch with begun := true, strict := true }] } }

def tSpillEntry (l : List Nat) : CacheEntry := ⟨0, 0, false, 1, .infinite, 0, 0, ⟨[], []⟩, 0, none, [], false, l⟩
def tSpilled : Request := { tReq with phase := .flash, spill := some (tSpillEntry []) }
def tSpilled1 : Request := { tReq with phase := .flash, spill := some (tSpillEntry [9]) }
/-- The streams with one request and an SPD 0 whose Berth pools are empty. -/
def tPoor (r : Request) : State :=
  { tWith 1 r with fab := { (tWith 1 r).fab with spds := tShortSpd :: List.replicate 7 tSpd } }
def tDecReq (l : List Byte) : Request := { tReq with phase := .decode, encoded := l }
def tDecoding (l : List Byte) : State := tWith 1 (tDecReq l)
/-- Three bytes in a GZIP wrapper, and a stream that takes it off. -/
def tGzBytes : List Byte := [31, 139, 8, 0, 0, 0, 0, 0, 2, 255, 99, 100, 98, 6, 0, 29, 128, 188, 85, 3, 0, 0, 0]
def tGzStream : Stream := { tStream 1 with dec := { tDec with wrap := [3] } }
def tGzReq : Request := tDecReq [1]
def tGzOk : Request := tDecReq tGzBytes
def tGz (s : State) : State := { s with run := { s.run with streams := [tGzStream] } }
def tGzState : State := tGz (tWith 1 tGzReq)
def tNoRoom : State := tGz (tPoor tGzOk)
def tNoRoomAfter : State := (runWraps tGzOk tGzStream (tPart 1) [3] false tGzBytes tNoRoom).2
def failDetail (x : Unwrapped × State) : Nat := match x.1 with | .fails d => d | _ => 0
def detailE {α : Type} (x : Except Nat α) : Nat := match x with | .error d => d | .ok _ => 0
def tPngParsed : Parsed := match headPayload tDec tPngBytes false with | .ok q => q | .error _ => ⟨.opus 0 0 0 0, false, none⟩
def tPngVals : List Int := match payloadValues tDec none 0 tPngParsed tPngBytes tPng with | .ok vs => vs | .error _ => []
/-- The same with one bit of its Adler-32 turned. -/
def tPngBad : List Byte := tPngBytes.set 50 9
def tBadParsed : Parsed := match headPayload tDec tPngBad false with | .ok q => q | .error _ => ⟨.opus 0 0 0 0, false, none⟩
def tPngBig : DecodeInput := { tPng with working := [1073741824] }
def tDecNoRoom : State := tPoor (tDecReq tPngBytes)
def tDecNoRoomAfter : State :=
  (reqDrawBerths (tDecReq tPngBytes) (tStream 1) (tPart 1) (decodeDraws tDec none tPngParsed.hdr []) tDecNoRoom).2
def tDecDrawn : State :=
  (reqDrawBerths (tDecReq tPngBytes) (tStream 1) (tPart 1) (decodeDraws tDec none tPngParsed.hdr []) (tDecoding tPngBytes)).2
def tDecDrawnBad : State :=
  (reqDrawBerths (tDecReq tPngBad) (tStream 1) (tPart 1) (decodeDraws tDec none tBadParsed.hdr []) (tDecoding tPngBad)).2
/-- An engine that faults under a request which has met a fault of each kind. -/
def tAgain (k : EngineKind) : Request := { tReq with phase := busyPhase k, deFaults := 1, xfFaults := 1, packFaults := 1 }
def tBusyAgain (k : EngineKind) : State :=
  { tEngine k ⟨.held tKey, [], []⟩ with run := { (tStreams 1).run with requests := [tAgain k] } }

def tMismatch : State :=
  { tEngine .te ⟨.held tKey, [], []⟩ with run := { (tStreams 1).run with requests := [{ tReq with phase := .transform, resMism := 1 }] } }
def tEarly : State :=
  { tEngine .te ⟨.held tKey, [], []⟩ with run := { (tStreams 1).run with requests := [{ tReq with phase := .decode }] } }
def tTokPoor : State :=
  { tWith 4 tTok with fab := { (tWith 4 tTok).fab with spds := tShortSpd :: List.replicate 7 tSpd } }
/-- Text of one byte that is no UTF-8, under a stream whose grammar has no way on. -/
def tIllStream : Stream := { tStream 4 with txt := { tTxt with grammar := 7 } }
def tIll : Request := { tTok with encoded := [0xFF], tok := nextContext tNoon tTxt .start [0xFF] }
def tIllState : State :=
  { tWith 4 tIll with run := { (tWith 4 tIll).run with streams := [tIllStream], tables := [⟨7, [], 0, .grammar [] 1 1 [] []⟩] } }
def tPkBad : Request := { tPk with form := some ⟨[3, 16, 200, 0, 0, 0, 0, 0, 0, 0, 0, 0], []⟩ }
def tTwoPe : State :=
  { tEngine .pe ⟨.held tKey, [], []⟩ with
    run := { (tStreams 1).run with requests := [{ tReq with phase := .pack, pe := some 0, pe2 := some 3 }] } }
/-- The only Pack Engine in service faults. -/
def tLastPe : State :=
  { tBusy .pe with
    fab := { (tBusy .pe).fab with spds := ((tSpd : Spd).setEngines
      (⟨.held tKey, [], []⟩ :: List.replicate 15 ⟨.out, [], []⟩) .pe) :: List.replicate 7 tSpd } }

/-- The connection of a network, and its packet as taken. -/
def tAt (i : Nat) (s : State) : Conn := (s.conn? i).getD (tConn 9 false)
def tGot (i : Nat) (p : RxPacket) (s : State) : State := packetTaken (tAt i s) p s
def tAsked : State := tNet fun c => { c with queue := [tWr] }
/-- A request that waits for a count that connection 1 has reached. -/
def tWaiting : State := tNet fun c => { c with queue := [{ tWr with psn := none, left := 1, wait := some (1, 0) }] }
def tReading : State := tNet fun c => { c with queue := [tReadWr] }
def tRnr (w : Word) : State := { tAsked with applied := { StRegs.reset with egr := w } }
def tSkipped : State := tNet fun c => { c with queue := [{ tReadWr with total := 2 }] }
def tMidWrite : State := tNet fun c => { c with rxMsg := some (0x20001, 0x1008, 1) }
def tPsn (n : Nat) : State := tNet fun c => { c with rqPsn := n }
def tPeerReqMsg : List Byte := tSigned (natBytes 4 0x51525051 ++ natBytes 56 1)
def tPeerRspMsg : List Byte := tSigned (natBytes 4 0x53525051 ++ natBytes 56 1)
def tPeerDoneMsg : List Byte := tSigned (natBytes 4 0x4E445051 ++ natBytes 24 1)
def tPeerReadOf (r : Request) : State :=
  { tNet id with run := { (tNet id).run with streams := [tPeerStream], requests := [r] } }
/-- These key indices in use. -/
def tKeys (l : List Nat) : State :=
  { tNet fun c => { c with serves := [tServe false] } with
    egr := { (tNet fun c => { c with serves := [tServe false] }).egr with moorings := l.map fun i => { tMooring with idx := i } } }
theorem keys_used (l : List Nat) : ((tKeys l).egr.moorings.filter (·.state != .free)).map (·.idx) = l := by
  have e : (tKeys l).egr.moorings = l.map fun i => { tMooring with idx := i } := rfl
  rw [e, List.filter_eq_self.mpr (by intro m h; obtain ⟨i, -, rfl⟩ := List.mem_map.mp h; rfl), List.map_map]
  exact List.map_id _
theorem no_index_left : freeIndex (tKeys (List.range spaceKey)) = none := by
  unfold freeIndex
  rw [keys_used, List.find?_eq_none]
  intro i _
  simp only [Bool.and_eq_true, Bool.not_eq_true', decide_eq_true_eq, not_and]
  intro h g
  simp [g] at h
def tFrameLen : Nat := charged tFrameConn tFrameWr (tFrame 2)
/-- Connection 0 active and not resident, with 4,096 idle ones resident. -/
def tCrowd : State :=
  { tNet id with egr := { (tNet id).egr with
      conns := { tConn 0 false with resident := false, queue := [tWr] } :: List.replicate 4096 (tConn 7 false) } }
/-- More than 4,096 active connections, all resident. -/
def tBusyNet : State :=
  { tNet id with egr := { (tNet id).egr with conns := List.replicate 4097 { tConn 7 false with queue := [tWr] } } }
/-- A slice boundary is due, and the slice that it begins. -/
def tSliced (s : State) : State := { s with tide := { s.tide with uptime := 6000 } }
def tSlicing (s : State) : State := { tSliced s with bw := { s.bw with slice := 3 } }
def tBusyIn : State :=
  { tSlicing tBusyNet with
    bw := { (tSlicing tBusyNet).bw with overcommit := tBusyNet.bw.overcommit && !tBusyNet.bw.overSlices, overSlices := false } }
def tBusyAfter : State :=
  let x := tBusyIn.each ((swapPairs tBusyIn).take 256) swapOne
  if 256 < (swapPairs tBusyIn).length then setEv .bw 8 x else x

def tFullBlock : Block := ⟨0, 1, 0, .closed, false, 0, false, none, none, false, 0⟩
def tClosingWait : State :=
  { tFlash with media := { tMedia with stripes := [{ tStripe with state := .closing, waiting := [(0, 0)] }], map := [(4, 0)]
                                       slots := [⟨0, 4, 0, 0, 0, 0, 0, 0, true, []⟩] } }
/-- A block that is emptied, and SPDs whose pools are empty. -/
def tCopied : UnitSource := .copied ⟨0, 4, 0, 0, 0, 0, 0, 0, true, []⟩
def tCopyPoor : State :=
  { tFlash with
    fab := { tFlash.fab with spds := List.replicate 8 tShortSpd }
    media := { tMedia with map := [(4, 0)], slots := [⟨0, 4, 0, 0, 0, 0, 0, 0, true, []⟩]
                           blocks := [⟨0, 0, 3, .opened, false, 0, false, none, some .gc, false, 0⟩]
                           stripes := [{ tStripe with stream := 3 }] } }
def tCopyStream : Nat := tCopyPoor.media.streamFor tCopied 3
def tCopyTarget : Media × Stripe := (tCopyPoor.media.target 0 0 tCopyStream 0 tCopied).getD (tMedia, tStripe)
def tHeldPoor : State :=
  { tCmdRun (.writeHeld 0 0 0 [[1]]) with fab := { tNoon.fab with spds := List.replicate 8 tShortSpd } }
def tHeldSealed : State :=
  { tCmdRun (.writeHeld 0 0 0 [[1]]) with media := { (tCmdRun (.writeHeld 0 0 0 [[1]])).media with partitions := [tPart 1] } }
def tEnding : State := { tNoon with run := { JobRun.reset with clearing := true } }
def tOrphan : State :=
  { tMbx ⟨0, .idle, 0, false, none, none, 0, 0⟩ with
    host := { (tMbx ⟨0, .idle, 0, false, none, none, 0, 0⟩).host with replies := [⟨⟨.mbx ⟨.a, 0⟩, 0⟩, 0, 0, [], true⟩] } }
def tLateReply : State :=
  { tMbx ⟨0, .idle, 0, false, none, none, 0, 0⟩ with
    host := { (tMbx ⟨0, .idle, 0, false, none, none, 0, 0⟩).host with replies := [⟨⟨.mbx ⟨.a, 0⟩, 0⟩, 0, 0, [], false⟩] } }

/-- A doorbell of the Quay waits, up to this tail. -/
def tBell (k : Nat) : State := (tQuays id).modHost fun h => { h with bells := [(.quay ⟨.a, 1⟩, 3, k)] }
def tAbortLate : State :=
  { tOn tNoon [] with host := { tNoon.host with
      cmds := [tSalsia [(0, 4), (24, 0x82), (26, 7)], { tTarget with run := .jobEnd }], cmdOrder := 2 } }
def tTestBusy : State := (tOn tNoon [(0, 6), (24, 1)]).modHost fun h => { h with selfTest := some ⟨tId, false, 1, false, 0, 0, none, false⟩ }
def tQuiet : State :=
  { tNoon with
    host := { tNoon.host with cmds := [tCmd .selfTest], selfTest := some ⟨tId, false, 1, true, 0, 0, some 0, false⟩ }
    tide := { Tide.reset with uptime := 1000000 } }
/-- IOD1 is lost: Port B has no way to the units of IOD0. -/
def tDeaf : State := { tNoon with fab := { tNoon.fab with iod1 := false } }
def tGatesAt (r : SluRun) : State :=
  { tNoon with bw := { tNoon.bw with lists := [r] }, tide := { Tide.reset with time := 10 ^ 10 } }
/-- The same with a step start accepted. -/
def tGatesStep (r : SluRun) : State :=
  { tGatesAt r with tide := { (tGatesAt r).tide with stepState := .tracking } }

def tWritePoor : State :=
  let s := tOn (tKeyed fun p => p) tWriteBytes
  { s with fab := { s.fab with spds := List.replicate 8 tShortSpd } }
/-- A QS medium, and one whose mount was refused, with a command queued. -/
def tQsOn (bs : List (Nat × Nat)) : State :=
  let s := tOn (tNoJob id) bs
  { s with media := { s.media with qsLayout := true } }
def tRefusedOn (bs : List (Nat × Nat)) : State :=
  let s := tOn (tNoJob id) bs
  { s with media := { s.media with unsupported := some (0, .targets) } }
def tPeerErr : State :=
  let s := tOn tKeyedNet [(0, 0x28), (4, 1), (24, 5), (36, 1)]
  { s with egr := { s.egr with conns := [{ tConn 1 true with error := some 1 }] } }
def tCopyGone : State :=
  { tNoJob id with host := { tNoon.host with cmds := [{ tSalsia [(0, 0x28), (24, 9)] with run := .copying 3 [] false }] } }

/-- 64 streams stand, none with number 200. -/
def tSetupMany : State :=
  { tSetupState with run := { tSetupState.run with streams := List.replicate 64 (tStream 3) } }
/-- The partition is not sealed yet. -/
def tSetupNoConn : State :=
  { tKeyed (fun _ => { tAudioPart with sealed := false }) with run := { (tKeyed id).run with streams := [] } }
def tConnFull : State :=
  let s := tOn tRun [(0, 0x50), (4, 1), (16, 64), (24, 9)]
  { s with egr := { s.egr with conns := List.replicate 262144 (tConn 7 false) } }
def tKeysFull : State :=
  let s := tOn tSpace [(0, 0x52), (4, 1), (24, 1), (26, 3), (40, 64)]
  { s with egr := { s.egr with moorings := (List.range spaceKey).map fun i => { tMooring with idx := i } } }
theorem no_index_in_full : freeIndex tKeysFull = none := no_index_left
def tSpaceKey (x : MooringState) : Mooring := ⟨spaceKey + 1, 3, 1, 0, 64, 3, x, [], false, 0⟩
def tGranted (x : MooringState) (bs : List (Nat × Nat)) : State :=
  let s := tOn tSpace ([(0, 0x54), (4, 1), (24, 1)] ++ bs)
  { s with egr := { s.egr with moorings := [tSpaceKey x] } }
def tFreeKey : State :=
  let s := tOn (tNet id) [(0, 0x53), (4, 1), (24, 0x20001)]
  { s with egr := { s.egr with moorings := [{ tMooring with state := .free }] } }

/-- All of the image but its last byte is staged. -/
def tStagedHead : State := tSecState fun x => { x with staged := some ⟨1025, tImage.take 1024, false⟩ }

def tTestOf (w : Word) : State := { tTest with lt := { tTest.lt with cfg := w } }
def tWindow (w : Word) (fr : Bool) : State :=
  { tNoon with
    rw := { RwRegs.reset with pmcBwWin := w }
    pmc := { tNoon.pmc with frozen := fr, bwSince := 0 }
    tide := { Tide.reset with uptime := 10 ^ 9 } }

def tHotOne : Sensors := some 110 :: List.replicate 103 (some 30)
def tHotB : State := wake 4 true (recordSample (validReadings tNoon tHotOne) tNoon)
def tHotC : State := moveThermal true tHotB
def broughtUpBy (b : Bringup) (s : State) : State :=
  transmittersAfter (bringReasons b (startAtPoint (((((s.modFab (bringFabric b s.mono)).modMedia (bringMedia b)).modHost fun h =>
    { h with broughtUp := true }).modPmc fun p => { p with stale := bringStale b }).modEgr fun e => { e with linksFrom := s.mono + 100000000 })))

/-- A write of one whole word in the window. -/
def tWholeWord (o : Nat) (v : Word) : HostWrite := ⟨.window, o, (leBytes 4 v).map fun b => (b, true)⟩
/-- A self-test in its step 2 that an ABORT has caught. -/
def tTestCaught : State :=
  { tNoon with host := { tNoon.host with cmds := [tCmd .selfTest], selfTest := some ⟨tId, false, 2, false, 0, 0, none, true⟩ } }
/-- DATASET_CREATE with the job key loaded. -/
def tCreating : State := tOn (tKeyed fun p => p) [(0, 0x20), (24, 6), (32, 4), (40, 1), (44, 1)]
/-- The first shard of a copy has arrived; its read failed. -/
def tShardRead : Fetch := ⟨.shard tId, [1], 0, 5, 0, 0, 2, .complete, [1, 2], [], 0⟩
def tShardIn : State := tCopying.modFetches fun _ => [tShardRead]
def tShardLost : State := tCopying.modFetches fun _ => [{ tShardRead with state := .failed }]
def tBurning : Sensors := some 120 :: List.replicate 103 (some 30)
def dozing (s : State) : State :=
  (s.each s.servingList fun n t => t.modPower n SpdPower.doze).modPwr fun p =>
    { p with state := .dusk, entry := none, duskSince := s.mono, exiting := false, heldWake := false }
def sleeping (s : State) : State :=
  (nightEntry s).modPwr fun p => { p with state := .night, entry := none, exiting := false, heldWake := false }
/-- The image in the boot buffer. -/
def tBootCopied : State :=
  (tBooting.modPower 0 fun p => { p with hbm := p.hbm.set 0 .active }).modSec fun x =>
    { x with bootBuffer := tImage, bootFuses := fuseBytes x }

/-! ### Ill-formed commands: one for each check -/

def tIllCmd : CmdId := ⟨.mbx ⟨.a, 0⟩, 1⟩
def tIllReq : ReqKey := ⟨0, 0, 0⟩
def tIllPlan : Plan := ⟨7, 0⟩

theorem wf_accepts : (Instr.permPositionAdmit tIllReq 0 tIllPlan).wf = true := by decide
theorem ill_connection : IllFormed.connection ∈ (Instr.heartbeatSend 262144).illFormed := by decide
theorem ill_batchNumber : IllFormed.batchNumber ∈ (Instr.trailerHeaderSend 0 (2 ^ 64)).illFormed := by decide
theorem ill_stepNumber :
    IllFormed.stepNumber ∈ (Instr.permPositionAdmit tIllReq 0 { tIllPlan with dlStep := 2 ^ 48 }).illFormed := by decide
theorem ill_sampleIndex : IllFormed.sampleIndex ∈ (Instr.defectEntryDurable 0 (2 ^ 48) false).illFormed := by decide
theorem ill_flashDie : IllFormed.flashDie ∈ (Instr.eraseDone 1024 0 true).illFormed := by decide
theorem ill_unitAddress : IllFormed.unitAddress ∈ (Instr.programDone 0 0 0 (.unit (2 ^ 40)) true).illFormed := by decide
theorem ill_engineNumber : IllFormed.engineNumber ∈ (Instr.engineResetDone 0 .de 48 true).illFormed := by decide
theorem ill_readers : IllFormed.readers ∈ (Instr.semRead [.portA, .portA] 0).illFormed := by decide
theorem ill_sensorCount : IllFormed.sensorCount ∈ (Instr.thermalSample [none]).illFormed := by decide
theorem ill_bringupUnits :
    IllFormed.bringupUnits ∈ (Instr.bringupDone { tBring with spdOk := [true] }).illFormed := by decide
theorem ill_badEngine :
    IllFormed.engineNumber ∈ (Instr.bringupDone { tBring with badEngines := [(10, .cvu, 4)] }).illFormed := by decide
theorem ill_flashPopulation :
    IllFormed.flashPopulation ∈ (Instr.bringupDone { tBring with targets := List.replicate 63 1 }).illFormed := by decide
theorem ill_qsUnits : IllFormed.flashPopulation ∈
    (Instr.bringupDone { tBring with qs := [⟨1, 1, 1, 0, 1, 0, [], [⟨0, [1], []⟩]⟩] }).illFormed := by decide
theorem ill_codewordStep : IllFormed.codewordStep ∈ (Instr.flashReadDone tIllReq [⟨some 5, 0, 0⟩]).illFormed := by decide
theorem ill_registerOffset : IllFormed.registerOffset ∈ (Instr.evClear .portA 2 0).illFormed := by decide
theorem ill_virtualAddress :
    IllFormed.virtualAddress ∈ (Instr.rxRdmaWrite 0 tWire 0 (2 ^ 64) 1 true true [0]).illFormed := by decide
theorem ill_messageLength :
    IllFormed.messageLength ∈ (Instr.rxRdmaWrite 0 tWire 0 0 (2 ^ 32) true true [0]).illFormed := by decide
theorem ill_udpPort : IllFormed.udpPort ∈ (Instr.stepMarkDatagram ⟨0, 2 ^ 16, 0, [], 0⟩).illFormed := by decide
theorem ill_certificateSlot : IllFormed.certificateSlot ∈ (Instr.challenge .mctp 8 0).illFormed := by decide
theorem ill_dataElement :
    IllFormed.dataElement ∈ (Instr.datasetCreate tIllCmd ⟨false, [⟨0, 2 ^ 32, true⟩], []⟩).illFormed := by decide
theorem ill_selfTestItem : IllFormed.selfTestItem ∈ (Instr.selfTestItemDone true 256 false []).illFormed := by decide
theorem ill_edgeTwice : IllFormed.edgeTwice ∈ (Instr.edgeSilenceTimeout [3, 3]).illFormed := by decide
theorem ill_bandwidthCounts : IllFormed.bandwidthCounts ∈ (Instr.pmcBwWindowEnd []).illFormed := by decide

/-! ### Values of the specification -/

/-- The published known answer of R70. -/
theorem spec_philox : philox (0, 0) (0, 0, 0, 0) = (0x6627E8D5, 0xE169C58D, 0xBC57AC4C, 0x9B00DBD8) := by decide +kernel

/-- The restart example of R77: the partition sizes, the epoch length, the domain and the cursor of batch 33,203. -/
theorem spec_cursor : [0, 1, 2, 3].map (partSize 10000003 4) = [2500001, 2500001, 2500001, 2500000] ∧
    epochLen true 10000003 4 = 2500001 ∧ halfWidth 2500001 = 11 ∧
    (33203 * 256 / 2500001, 33203 * 256 % 2500001) = (3, 999965) := by decide +kernel

/-- The Feistel width of the worked example of R71: n = 10, h = 5. -/
theorem spec_halfWidth : halfWidth 1000 = 5 := by decide +kernel

/-- The crop draw of the example of R405: q = 1,670 of epoch 7 has the counter (0, 0x686, 0x0101_0000, 7). -/
theorem spec_draw : drawBlock 0xA500001F40 1670 7 1 1 0 = philox (0x1F40, 0xA5) (0, 0x686, 0x01010000, 7) := by decide +kernel

/-- The check values of R413. -/
theorem spec_crc64 : crc64 [0x31, 0x32, 0x33, 0x34, 0x35, 0x36, 0x37, 0x38, 0x39] = 0x995DC9BBDF1939FA := by decide +kernel
theorem spec_crc32c : crc32c [0x31, 0x32, 0x33, 0x34, 0x35, 0x36, 0x37, 0x38, 0x39] = 0xE3069283 := by decide +kernel

/-- What HW_ID reads (R396). -/
theorem spec_hwId : (windowRead .portA 0 tNoon).1 = 0x24800051 := by decide +kernel

/-- A semaphore contest of R338: the last winner goes last. -/
theorem spec_contest : rsGrant [.portA, .portB] none (some .portA) = (some .portB, some .portB, some .portB) := by decide

/-- A mark for step 7 from a coordinator starts that step (R35, R36). -/
theorem spec_mark : (answered (exec (.stepMarkDatagram ⟨0, 0x5000, 3, tMark, 500⟩)
    { tRun with applied := { StRegs.reset with tideJobId := 1 } })).tide.step = 7 := by decide +kernel

/-! ### Published values of the standards the specification names -/

/-- FIPS 197, the AES-256 example. -/
theorem spec_aes256 : aes256 (natBytes 32 0x1f1e1d1c1b1a191817161514131211100f0e0d0c0b0a09080706050403020100)
    (natBytes 16 0xffeeddccbbaa99887766554433221100) = bigBytes 16 0x8ea2b7ca516745bfeafc49904b496089 := by decide +kernel

/-- The GCM test case of a zero 256-bit key, a zero nonce and no data. -/
theorem spec_gcm : gcmSeal (List.replicate 32 0) (List.replicate 12 0) [] [] =
    bigBytes 16 0x530f8afbc74536b9a963b4f1c4cb738b := by decide +kernel

/-- XXH64 of no bytes with seed 0. -/
theorem spec_xxh64 : xxh64 [] = 0xEF46DB3751D8E999 := by decide +kernel

/-- RFC 1321, the digest of "abc". -/
theorem spec_md5 : md5 [0x61, 0x62, 0x63] = bigBytes 16 0x900150983cd24fb0d6963f7d28e17f72 := by decide +kernel

/-- RFC 1951: a block of fixed codes with one match, "abc" four times. -/
theorem spec_inflate : inflate [75, 76, 74, 78, 132, 33, 0] =
    ⟨7, [97, 98, 99, 97, 98, 99, 97, 98, 99, 97, 98, 99], true, true⟩ := by decide +kernel

/-! ### Witnesses: a state and operands that meet the hypotheses of each statement -/

theorem witness_SlipwayFlits_1 : ∃ (s : State) (e : Fin 42) (low : Bool) (k : FlitKind),
    testsEdge e s = false ∧ s.clamped (if low then (edgeEnds e).1 else (edgeEnds e).2) = false :=
  ⟨tNoon, 3, true, .park, by and_intros <;> first | decide +kernel | rfl⟩

theorem witness_SlipwayFlits_2 : ∃ (s : State) (e : Fin 42) (low : Bool) (k : FlitKind),
    testsEdge e s = false ∧ s.clamped (if low then (edgeEnds e).1 else (edgeEnds e).2) = false ∧
    (k = .idle ∨ k = .park ∨ k = .unpark) :=
  ⟨tNoon, 3, true, .unpark, by and_intros <;> first | decide +kernel | rfl⟩

theorem witness_SlipwayFlits_3 : ∃ (s : State) (e : Fin 42) (low : Bool) (c : TrafficClass) (src : Fin 12)
    (dst : Fin 12),
    testsEdge e s = false ∧ s.clamped (if low then (edgeEnds e).1 else (edgeEnds e).2) = false ∧ (if low then
    (edgeEnds e).2 else (edgeEnds e).1) = (dst : Nat) :=
  ⟨tNoon, 10, true, .data, 0, 8, by and_intros <;> first | decide +kernel | rfl⟩

theorem witness_SlipwayFlits_4 : ∃ (s : State) (e : Fin 42) (low : Bool) (c : TrafficClass) (src : Fin 12)
    (dst : Fin 12) (place : Nat) (here : Nat) (m : Nat) (x : Nat) (rest : List Nat),
    testsEdge e s = false ∧ s.clamped (if low then (edgeEnds e).1 else (edgeEnds e).2) = false ∧ (if low then
    (edgeEnds e).2 else (edgeEnds e).1) = here ∧ here ≠ dst ∧
    Fabric.route { s.fab with edges := s.fab.edges.modify e (Edge.hear low (.traffic c src dst place) s.tide.uptime) } here dst = some (here :: m :: rest) ∧ edgeBetween here m = some x :=
  ⟨tNoon, 0, true, .data, 0, 2, 0, 1, 2, 1, [], by and_intros <;> first | decide +kernel | rfl⟩

theorem witness_SlipwayFlits_5 : ∃ (s : State) (e : Fin 42) (low : Bool) (k : FlitKind),
    testsEdge e s = false ∧ s.clamped (if low then (edgeEnds e).1 else (edgeEnds e).2) = false :=
  ⟨tNoon, 3, false, .idle, by and_intros <;> first | decide +kernel | rfl⟩

theorem witness_SlipwayFlits_6 : ∃ (s : State) (e : Fin 42) (low : Bool) (k : FlitKind) (ok : Bool),
    (testsEdge e s = true ∨ s.clamped (if low then (edgeEnds e).1 else (edgeEnds e).2) = true) :=
  ⟨{ tNoon with fab := { tNoon.fab with edges := List.replicate 42 ⟨true, false, 0, 0, 0, true⟩ } }, 3, false, .idle,
    true, by decide +kernel⟩

theorem witness_SlipwayFlits_7 : ∃ (s : State) (e : Fin 42) (low : Bool) (x : Edge),
    s.fab.edges[(e : Nat)]? = some x ∧ x.parked = false ∧ s.clamped (if low then (edgeEnds e).1 else (edgeEnds e).2)
    = false ∧ s.dieUp (if low then (edgeEnds e).1 else (edgeEnds e).2) = true :=
  ⟨tNoon, 41, false, ⟨true, false, 0, 0, 0, false⟩, by and_intros <;> first | decide +kernel | rfl⟩

theorem witness_EdgesAndHomes_1 : ∃ (s : State) (es : List (Fin 42)),
    ((∀ d < 12, dieSilent d (edgesDown es s) = false)) :=
  ⟨{ tNoon with tide := { Tide.reset with uptime := 2000 } }, [0, 5], by decide +kernel⟩

theorem witness_EdgesAndHomes_3 : ∃ (s : State) (lost : Nat) (serving : List Nat) (rest : List (Nat × List Nat)),
    s.fab.rewrites = (lost, serving) :: rest ∧ ((∀ b ∈ s.run.batches, b.home ≠ lost ∧ s.serving b.home = true)) ∧
    ((∀ r ∈ s.run.requests, r.spd ≠ lost)) :=
  ⟨{ tStreams 1 with fab := { tNoon.fab with rewrites := [(2, [0, 1])] } }, 2, [0, 1], [],
    by and_intros <;> first | decide +kernel | rfl⟩

theorem witness_EdgesAndHomes_4 : ∃ (s : State) (lost : Nat) (serving : List Nat) (rest : List (Nat × List Nat))
    (b : Batch) (t : Stream) (p : Partition),
    s.fab.rewrites = (lost, serving) :: rest ∧ s.run.batches = [b] ∧ b.home = lost ∧ s.run.requests = [] ∧
    s.stream? b.stream = some t ∧ s.partFor t = some p :=
  ⟨{ tStreams 1 with fab := { tNoon.fab with rewrites := [(0, [3, 1])] } }, 0, [3, 1], [], tBatch, tStream 1, tPart 1,
    by and_intros <;> first | decide +kernel | rfl⟩

theorem witness_TimeSources_1 : ∃ (s : State) (port : Fin 8) (m : PtpSync) (alt : Bool),
    s.timeSrc = 1 ∧ s.takesSync m = true ∧ ((if alt then s.ptpPort ≠ port ∧ s.ptpAltEn = true ∧
    s.ptpAlt = port else s.ptpPort = port)) ∧ s.tide.timeState ≠ .holdover ∧ s.tide.onAlt = alt ∧ (¬
    (s.tide.timeState = .locked ∧ (1000 < m.offset ∨ m.offset < -1000))) :=
  ⟨{ tNoon with applied := { tNoon.applied with tideCfg := 0x621 } }, 2, ⟨0, false, true, 100⟩, false,
    by and_intros <;> first | decide +kernel | rfl⟩

theorem witness_TimeSources_2 : ∃ (s : State) (port : Fin 8) (m : PtpSync),
    s.timeSrc = 1 ∧ s.takesSync m = true ∧ s.ptpPort = port ∧ s.tide.timeState = .locked ∧ s.tide.onAlt = false ∧
    (1000 < m.offset ∨ m.offset < -1000) :=
  ⟨{ tNoon with applied := { tNoon.applied with tideCfg := 0x621 }, tide := { Tide.reset with timeState := .locked } }, 2, ⟨0, false, true, 1001⟩,
    by and_intros <;> first | decide +kernel | rfl⟩

theorem witness_TimeSources_3 : ∃ (s : State) (port : Fin 8) (m : PtpSync),
    s.timeSrc = 1 ∧ s.takesSync m = true ∧ s.ptpPort ≠ port ∧ s.ptpAltEn = true ∧ s.ptpAlt = port ∧
    s.tide.timeState ≠ .holdover ∧ s.tide.onAlt = false :=
  ⟨{ tNoon with applied := { tNoon.applied with tideCfg := 0x6A1 } }, 5, ⟨0, false, true, 1001⟩,
    by and_intros <;> first | decide +kernel | rfl⟩

theorem witness_TimeSources_4 : ∃ (s : State) (port : Fin 8) (m : PtpSync),
    s.timeSrc = 1 ∧ s.takesSync m = true ∧ s.ptpPort = port ∧ s.tide.timeState = .holdover ∧
    s.tide.lockPrimary = 15 ∧ ((∃ l, s.tide.lastSyncPrimary = some l ∧ s.tide.uptime < l + 3000000000)) ∧
    -100 ≤ m.offset ∧ m.offset ≤ 100 :=
  ⟨{ tNoon with applied := { tNoon.applied with tideCfg := 0x621 }, tide := { Tide.reset with timeState := .holdover, lockPrimary := 15, lastSyncPrimary := some 0 } }, 2, ⟨0, false, true, 100⟩,
    by refine ⟨by decide +kernel, by decide +kernel, by decide +kernel, by decide +kernel, by decide +kernel, ⟨0, by decide +kernel⟩, by decide +kernel, by decide +kernel⟩⟩

theorem witness_TimeSources_6 : ∃ (s : State) (alt : Bool),
    s.timeSrc = 1 ∧ (s.tide.timeState = .locked ∨ s.tide.timeState = .acquiring) ∧ s.tide.onAlt = alt ∧ syncFresh
    (if alt then s.tide.lastSyncAlt else s.tide.lastSyncPrimary) s.tide.uptime = false ∧
    s.tide.sourceSince + 3000000000 ≤ s.tide.uptime ∧
    (alt = true ∨ s.ptpAltEn = false ∨ syncFresh s.tide.lastSyncAlt s.tide.uptime = false) :=
  ⟨{ tNoon with applied := { tNoon.applied with tideCfg := 0x1 }, tide := { tNoon.tide with timeState := .locked, uptime := 3000000000 } }, false,
    by and_intros <;> first | decide +kernel | rfl⟩

theorem witness_TimeSources_7 : ∃ (s : State),
    s.timeSrc = 1 ∧ (s.tide.timeState = .locked ∨ s.tide.timeState = .acquiring) ∧ s.tide.onAlt = false ∧
    syncFresh s.tide.lastSyncPrimary s.tide.uptime = false ∧ s.tide.sourceSince + 3000000000 ≤ s.tide.uptime ∧
    s.ptpAltEn = true ∧ syncFresh s.tide.lastSyncAlt s.tide.uptime = true :=
  ⟨{ tNoon with applied := { tNoon.applied with tideCfg := 0x401 }, tide := { tNoon.tide with timeState := .locked, uptime := 3000000000, lastSyncAlt := some 2999999999 } },
    by and_intros <;> first | decide +kernel | rfl⟩

theorem witness_TimeSources_8 : ∃ (s : State),
    s.timeSrc = 2 ∧ (s.tide.timeState = .locked ∨ s.tide.timeState = .acquiring) ∧
    s.tide.ppsHeard + 1500000000 ≤ s.tide.uptime ∧ s.tide.sourceSince + 1500000000 ≤ s.tide.uptime :=
  ⟨{ tNoon with applied := { tNoon.applied with tideCfg := 0x2 }, tide := { tNoon.tide with timeState := .acquiring, uptime := 1500000000 } },
    by and_intros <;> first | decide +kernel | rfl⟩

theorem witness_TimeSources_9 : ∃ (s : State) (t0 : Nat),
    s.timeSrc = 1 ∧ s.ptpAltEn = true ∧ s.tide.onAlt = true ∧ s.tide.primarySince = some t0 ∧
    t0 + 60000000000 ≤ s.tide.uptime ∧ syncFresh s.tide.lastSyncPrimary s.tide.uptime = true :=
  ⟨{ tNoon with applied := { tNoon.applied with tideCfg := 0x401 }, tide := { tNoon.tide with onAlt := true, primarySince := some 5, lastSyncPrimary := some 60000000004, uptime := 60000000005 } }, 5,
    by and_intros <;> first | decide +kernel | rfl⟩

theorem witness_TimeSources_10 : ∃ (s : State) (c : Dword),
    s.timeSrc = 2 :=
  ⟨{ tNoon with applied := { tNoon.applied with tideCfg := 0x2 }, tide := { tNoon.tide with lastPps := some 7, ppsGood := 3 } }, 1000001007, by first | decide +kernel | rfl⟩

theorem witness_StepStarts_1 : ∃ (s : State) (d : MarkDatagram) (j : Job) (step : Nat) (seq : Nat)
    (start : Option Nat),
    d.destPort = fieldOf s.applied.tideMarkPort 0 16 ∧ s.run.job = some j ∧ s.run.ending = false ∧
    s.run.clearing = false ∧ j.coords.contains d.source = true ∧ parseMark s.applied.tideJobId d.payload = some
    (step, false, start, seq) ∧ s.stepSrc = 0 ∧ s.tide.stepState = .none ∧ s.arms = [] :=
  ⟨{ tRun with applied := { tRun.applied with tideCfg := 0x1, tideJobId := 1 } }, ⟨0, 0x5000, 3, tMark, 99⟩, tJob, 7,
    4, none,
    by and_intros <;> first | decide +kernel | rfl⟩

theorem witness_StepStarts_2 : ∃ (s : State) (d : MarkDatagram) (j : Job) (step : Nat) (seq : Nat)
    (start : Option Nat),
    d.destPort = fieldOf s.applied.tideMarkPort 0 16 ∧ s.run.job = some j ∧ s.run.ending = false ∧
    s.run.clearing = false ∧ j.coords.contains d.source = true ∧ parseMark s.applied.tideJobId d.payload = some
    (step, true, start, seq) ∧ s.stepSrc = 0 ∧ s.arms = [] :=
  ⟨{ tRun with applied := { tRun.applied with tideCfg := 0x1, tideJobId := 1 } }, ⟨0, 0x5000, 3, tRestart, 99⟩, tJob,
    7, 4, none,
    by and_intros <;> first | decide +kernel | rfl⟩

theorem witness_StepStarts_3 : ∃ (s : State) (d : MarkDatagram) (j : Job),
    d.destPort = fieldOf s.applied.tideMarkPort 0 16 ∧ s.run.job = some j ∧ s.run.ending = false ∧
    s.run.clearing = false ∧ (j.coords.contains d.source = false ∨ parseMark s.applied.tideJobId d.payload = none) :=
  ⟨tRun, ⟨0, 0x5000, 3, tMark, 99⟩, tJob, by and_intros <;> first | decide +kernel | rfl⟩

theorem witness_StepStarts_4 : ∃ (s : State) (d : MarkDatagram) (j : Job) (step : Nat) (seq : Nat)
    (start : Option Nat) (restart : Bool),
    d.destPort = fieldOf s.applied.tideMarkPort 0 16 ∧ s.run.job = some j ∧ s.run.ending = false ∧
    s.run.clearing = false ∧ j.coords.contains d.source = true ∧ parseMark s.applied.tideJobId d.payload = some
    (step, restart, start, seq) ∧ s.stepSrc = 2 ∧ s.tide.edges = [] :=
  ⟨{ tRun with applied := { tRun.applied with tideCfg := 0x9, tideJobId := 1 } }, ⟨0, 0x5000, 3, tMark, 99⟩, tJob, 7,
    4, none, false,
    by and_intros <;> first | decide +kernel | rfl⟩

theorem witness_StepStarts_5 : ∃ (s : State) (d : MarkDatagram) (j : Job) (step : Nat) (seq : Nat) (e : Nat)
    (t0 : Int) (start : Option Nat) (restart : Bool),
    d.destPort = fieldOf s.applied.tideMarkPort 0 16 ∧ s.run.job = some j ∧ s.run.ending = false ∧
    s.run.clearing = false ∧ j.coords.contains d.source = true ∧ parseMark s.applied.tideJobId d.payload = some
    (step, restart, start, seq) ∧ s.stepSrc = 2 ∧ s.tide.edges = [(t0, e)] ∧ (e : Int) - d.rx.toNat ≤
    (s.period / 4 : Nat) ∧ (d.rx.toNat : Int) - e ≤ (s.period / 4 : Nat) :=
  ⟨{ tRun with applied := { tRun.applied with tideCfg := 0x9, tideJobId := 1 }, tide := { Tide.reset with edges := [(90, 98)] } }, ⟨0, 0x5000, 3, tMark, 99⟩, tJob, 7, 4, 98, 90, none, false,
    by and_intros <;> first | decide +kernel | rfl⟩

theorem witness_StepStarts_6 : ∃ (s : State) (c : Dword),
    s.tide.barrier = .idle ∧ s.jobOpen = true ∧ s.stepSrc = 1 ∧ s.tide.stepState ≠ .none ∧ s.tide.stepState ≠ .lost ∧
    s.tide.afterRelease = false ∧ s.arms = [] ∧ s.tide.step + 1 < 2 ^ 48 ∧ s.applied.tideMinInterval.toNat * 1000 ≤
    (c.toNat : Int) - s.applied.tideSyncDelay.toNat - s.tide.startTime :=
  ⟨{ tRun with applied := { tRun.applied with tideCfg := 0x5 }, tide := { tRun.tide with stepState := .seeded, step := 2 ^ 48 - 2 } }, 100000,
    by and_intros <;> first | decide +kernel | rfl⟩

theorem witness_StepStarts_7 : ∃ (s : State) (c : Dword),
    s.tide.barrier = .idle ∧ s.jobOpen = true ∧ s.stepSrc = 2 ∧ s.tide.marks = [] :=
  ⟨{ tRun with applied := { tRun.applied with tideCfg := 0x9 } }, 100000,
    by and_intros <;> first | decide +kernel | rfl⟩

theorem witness_StepStarts_8 : ∃ (s : State) (c : Dword),
    s.tide.barrier ≠ .idle ∧ s.arms = [] :=
  ⟨{ tRun with tide := { Tide.reset with barrier := .armed } }, 100000,
    by and_intros <;> first | decide +kernel | rfl⟩

theorem witness_StepStarts_10 : ∃ (s : State) (a : PendMark),
    s.tide.edges = [] ∧ s.tide.marks = [a] ∧ a.restart = false ∧ a.arrived + s.period / 4 < s.tide.time ∧
    s.tide.stepState = .none ∧ s.arms = [] :=
  ⟨{ tRun with tide := { tRun.tide with marks := [⟨3, false, 50, 1, 50⟩], time := 25000051 } }, ⟨3, false, 50, 1, 50⟩,
    by and_intros <;> first | decide +kernel | rfl⟩

theorem witness_StepStarts_11 : ∃ (s : State) (t0 : Int) (e : Nat),
    s.tide.edges = [(t0, e)] ∧ s.tide.marks = [] ∧ e + s.period / 4 < s.tide.time ∧ s.tide.stepState = .none ∧
    s.arms = [] :=
  ⟨{ tRun with tide := { tRun.tide with edges := [(40, 50)], time := 25000051 } }, 40, 50,
    by and_intros <;> first | decide +kernel | rfl⟩

theorem witness_StepStarts_12 : ∃ (s : State),
    s.pilotsRun = true ∧ (s.tide.recomputeDue = true ∨ s.tide.recomputeOp = true) :=
  ⟨{ tIssue { tReq with arrived := [.pack, .flash] } with tide := { tRun.tide with recomputeDue := true } },
    by and_intros <;> first | decide +kernel | rfl⟩

theorem witness_TideControl_2 : ∃ (s : State) (o : Owner),
    s.heard o = true ∧ s.tide.barrier ≠ .idle :=
  ⟨{ tNoon with tide := { tNoon.tide with barrier := .ready } }, .portA,
    by and_intros <;> first | decide +kernel | rfl⟩

theorem witness_TideControl_3 : ∃ (s : State) (o : Owner),
    s.heard o = true ∧ s.tide.barrier = .idle :=
  ⟨tNoon, .portB, by and_intros <;> first | decide +kernel | rfl⟩

theorem witness_TideControl_4 : ∃ (s : State) (o : Owner),
    s.heard o = true :=
  ⟨tNoon, .portA, by decide +kernel⟩

theorem witness_TideControl_5 : ∃ (s : State),
    s.tide.barrier = .armed ∧ ((∀ b ∈ s.run.batches, b.dlStep = s.startStep → b.headerAcked = true)) :=
  ⟨{ tNoon with tide := { tNoon.tide with barrier := .armed } }, by and_intros <;> first | decide +kernel | rfl⟩

theorem witness_TideControl_6 : ∃ (s : State),
    (s.tide.stepState = .seeded ∨ s.tide.stepState = .tracking) ∧ (s.lostMult * s.period : Nat) ≤ (s.tide.time : Int)
    - s.tide.startTime :=
  ⟨{ tRun with tide := { tRun.tide with stepState := .seeded, time := 400000000 } },
    by and_intros <;> first | decide +kernel | rfl⟩

theorem witness_PositionsAndIssue_1 : ∃ (s : State) (k : ReqKey) (n : Fin 8) (pl : Plan) (r : Request) (t : Stream)
    (d : Partition) (c : Option Nat),
    Serves k r t d s ∧ mayForm k t s = false ∧ r.phase = .waitUnit c ∧ mayAdmit r n s = true :=
  ⟨tWith 1 { tReq with phase := .waitUnit none }, tKey, 0, tPlan, { tReq with phase := .waitUnit none }, tStream 1,
    tPart 1, none, ⟨by decide +kernel, rfl, by decide +kernel, by decide +kernel⟩, by decide +kernel,
    by first | decide +kernel | rfl, by decide +kernel⟩

theorem witness_PositionsAndIssue_2 : ∃ (s : State) (u : State) (k : ReqKey) (n : Fin 8) (pl : Plan) (r : Request)
    (t : Stream) (d : Partition),
    s.stream? k.stream = some t ∧ s.partFor t = some d ∧ mayForm k t s = true ∧ u = formBatch t d k.batch pl s ∧
    u.req? k = some r :=
  ⟨{ tStreams 1 with run := { (tStreams 1).run with batches := [] } }, formBatch (tStream 1) (tPart 1)
    0 tPlan { tStreams 1 with run := { (tStreams 1).run with batches := [] } }, tKey, 0, tPlan, (((formBatch
    (tStream 1) (tPart 1) 0 tPlan { tStreams 1 with run := { (tStreams 1).run with batches := [] } }).req? tKey).getD tReq), tStream 1, tPart 1,
    by and_intros <;> first | decide +kernel | rfl⟩

theorem witness_PositionsAndIssue_3 : ∃ (s : State) (k : ReqKey) (r : Request) (t : Stream) (d : Partition) (x : Nat)
    (n : Nat) (c : Option Nat),
    Serves k r t d s ∧ r.phase = .walking c x n false ∧ s.clocked r.spd = true :=
  ⟨tWith 1 { tReq with phase := .walking none 0 0 false }, tKey, { tReq with phase := .walking none 0 0 false },
    tStream 1, tPart 1, 0, 0, none, ⟨by decide +kernel, rfl, by decide +kernel, by decide +kernel⟩,
    by first | decide +kernel | rfl, by decide +kernel⟩

theorem witness_PositionsAndIssue_4 : ∃ (s : State) (k : ReqKey) (r : Request) (t : Stream) (d : Partition) (x : Nat)
    (n : Nat) (c : Option Nat),
    Serves k r t d s ∧ r.phase = .walking c x n true ∧ s.clocked r.spd = true :=
  ⟨tWith 1 { tReq with phase := .walking none 0 0 true }, tKey, { tReq with phase := .walking none 0 0 true },
    tStream 1, tPart 1, 0, 0, none, ⟨by decide +kernel, rfl, by decide +kernel, by decide +kernel⟩,
    by first | decide +kernel | rfl, by decide +kernel⟩

theorem witness_PositionsAndIssue_5 : ∃ (s : State) (k : ReqKey) (r : Request) (t : Stream) (d : Partition) (x : Nat)
    (y : Nat) (n : Nat) (again : Bool) (c : Option Nat),
    Serves k r t d s ∧ r.phase = .walking c x n again ∧ s.clocked r.spd = true ∧ (reqWalk s.seed t d
    (reqPlace t d k).1 (reqPlace t d k).2 c).pass (halfWidth (t.space d)) x = y ∧ t.space d ≤ y :=
  ⟨tOut, tKey, { tReq with phase := .walking none 0 31 false }, tStream 1, tOutPart, 0, (reqWalk tOut.seed
    (tStream 1) tOutPart 0 0 none).pass (halfWidth 5) 0, 31, false, none, ⟨by decide +kernel, rfl, by decide +kernel,
    by decide +kernel⟩, by first | decide +kernel | rfl, by decide +kernel, by first | decide +kernel | rfl,
    by decide +kernel⟩

theorem witness_PositionsAndIssue_6 : ∃ (s : State) (k : ReqKey) (r : Request) (t : Stream) (d : Partition) (x : Nat)
    (y : Nat) (n : Nat) (again : Bool) (c : Option Nat),
    Serves k r t d s ∧ r.phase = .walking c x n again ∧ s.clocked r.spd = true ∧ (reqWalk s.seed t d
    (reqPlace t d k).1 (reqPlace t d k).2 c).pass (halfWidth (t.space d)) x = y ∧ y < t.space d :=
  ⟨tWith 1 { tReq with phase := .walking none 0 0 false }, tKey, { tReq with phase := .walking none 0 0 false },
    tStream 1, tPart 1, 0, (reqWalk (tWith 1 { tReq with phase := .walking none 0 0 false }).seed (tStream 1)
    (tPart 1) 0 0 none).pass (halfWidth 4) 0, 0, false, none, ⟨by decide +kernel, rfl, by decide +kernel,
    by decide +kernel⟩, by first | decide +kernel | rfl, by decide +kernel, by first | decide +kernel | rfl,
    by decide +kernel⟩

theorem witness_PositionsAndIssue_7 : ∃ (s : State) (u : State) (k : ReqKey) (r : Request) (t : Stream)
    (p : Partition) (d : Spd) (f : Found),
    Serves k r t p s ∧ mayIssue r s = true ∧ r.form = none ∧ (r.given = true ∨ p.listed r.sample r.remote
    (reqPlace t p k).1 = false) ∧ (beginBatch k s).spd? r.spd = some d ∧ lookupSample t p r d = f ∧
    issueDraw t p r f s = .ok u :=
  ⟨tIssue tReq, (drawnOf (issueDraw (tStream 1) (tPart 1) tReq .missing (tIssue tReq))), tKey, tReq, tStream 1,
    tPart 1, tSpd, .missing, ⟨by decide +kernel, rfl, by decide +kernel, by decide +kernel⟩, by decide +kernel,
    by decide +kernel, by decide +kernel, by first | decide +kernel | rfl, by first | decide +kernel | rfl,
    by first | decide +kernel | rfl⟩

theorem witness_PositionsAndIssue_8 : ∃ (s : State) (u : State) (k : ReqKey) (r : Request) (t : Stream)
    (p : Partition) (d : Spd) (f : Form),
    Serves k r t p s ∧ mayIssue r s = true ∧ r.form = some f ∧ (beginBatch k s).spd? r.spd = some d ∧ issueDraw t p r
    (lookupSample t p r d) s = .ok u :=
  ⟨tIssue tHeld, (drawnOf (issueDraw (tStream 1) (tPart 1) tHeld .missing (tIssue tHeld))), tKey, tHeld, tStream 1,
    tPart 1, tSpd, ⟨[], []⟩, ⟨by decide +kernel, rfl, by decide +kernel, by decide +kernel⟩, by decide +kernel,
    by first | decide +kernel | rfl, by first | decide +kernel | rfl, by first | decide +kernel | rfl⟩

theorem witness_PositionsAndIssue_9 : ∃ (s : State) (k : ReqKey) (r : Request) (t : Stream) (p : Partition) (d : Spd)
    (part : Nat),
    Serves k r t p s ∧ mayIssue r s = true ∧ (r.form.isSome = true ∨ r.given = true ∨ p.listed r.sample r.remote
    (reqPlace t p k).1 = false) ∧ (beginBatch k s).spd? r.spd = some d ∧ issueDraw t p r (lookupSample t p r d)
    s = .error part :=
  ⟨tShort, tKey, tReq, tStream 1, tPart 1, tShortSpd, failOf (issueDraw (tStream 1) (tPart 1) tReq .missing tShort),
    ⟨by decide +kernel, rfl, by decide +kernel, by decide +kernel⟩, by decide +kernel, by decide +kernel,
    by first | decide +kernel | rfl, by first | decide +kernel | rfl⟩

theorem witness_PositionsAndIssue_10 : ∃ (s : State) (k : ReqKey) (r : Request) (t : Stream) (p : Partition),
    Serves k r t p s ∧ mayIssue r s = true ∧ r.form = none ∧ r.given = false ∧ p.listed r.sample r.remote
    (reqPlace t p k).1 = true ∧ r.tryIdx = none :=
  ⟨tListed (tListedReq none), ⟨3, 2, 0⟩, tListedReq none, tDeep, tListedPart, ⟨by decide +kernel, rfl,
    by decide +kernel, by decide +kernel⟩, by decide +kernel, by decide +kernel, by decide +kernel,
    by decide +kernel, by decide +kernel⟩

theorem witness_PositionsAndIssue_11 : ∃ (s : State) (k : ReqKey) (r : Request) (t : Stream) (p : Partition)
    (j : Nat),
    Serves k r t p s ∧ mayIssue r s = true ∧ r.form = none ∧ r.given = false ∧ p.listed r.sample r.remote
    (reqPlace t p k).1 = true ∧ r.tryIdx = some j :=
  ⟨tListed (tListedReq (some 2)), ⟨3, 2, 0⟩, tListedReq (some 2), tDeep, tListedPart, 2, ⟨by decide +kernel, rfl,
    by decide +kernel, by decide +kernel⟩, by decide +kernel, by decide +kernel, by decide +kernel,
    by decide +kernel, by first | decide +kernel | rfl⟩

theorem witness_PositionsAndIssue_12 : ∃ (s : State) (u : State) (k : ReqKey) (r : Request) (t : Stream)
    (p : Partition) (f : Form),
    Serves k r t p s ∧ r.phase = .cacheRead ∧ r.form = some f ∧ u = ((unpinReq r (countLookup r.spd true true s)).modReq k fun q => { q with pinned := false }) :=
  ⟨tWith 3 tHit, ((unpinReq tHit (countLookup 0 true true (tWith 3 tHit))).modReq tKey fun q => { q with pinned := false }), tKey, tHit, tStream 3, tPart 3, ⟨[], []⟩, ⟨by decide +kernel, rfl, by decide +kernel, by decide +kernel⟩, by first | decide +kernel | rfl, by first | decide +kernel | rfl, by first | decide +kernel | rfl⟩

theorem witness_PositionsAndIssue_13 : ∃ (s : State) (u : State) (k : ReqKey) (g : Stage) (r : Request) (t : Stream)
    (b : Batch) (p : Partition) (z : Int),
    Serves k r t p s ∧ s.batch? k.stream k.batch = some b ∧ r.latest[stageIndex g]? = some z ∧ z ≤ s.tide.time ∧ r.arrived.contains g = false ∧ u = (s.modReq k fun q => { q with arrived := g :: q.arrived }) ∧ (g ≠ .pack ∨ r.undecoded = false ∨ r.masked = true) :=
  ⟨tLater (tWith 1 tReq), ((tLater (tWith 1 tReq)).modReq tKey fun q => { q with arrived := .issue :: q.arrived }), tKey, .issue, tReq, tStream 1, tBatch, tPart 1, 0, ⟨by decide +kernel, rfl, by decide +kernel, by decide +kernel⟩, by first | decide +kernel | rfl, by first | decide +kernel | rfl, by decide +kernel, by decide +kernel, by first | decide +kernel | rfl, by decide +kernel⟩

theorem witness_PositionsAndIssue_14 : ∃ (s : State) (u : State) (v : State) (k : ReqKey) (r : Request) (t : Stream)
    (b : Batch) (p : Partition) (z : Int),
    Serves k r t p s ∧ s.batch? k.stream k.batch = some b ∧ r.latest[(5 : Nat)]? = some z ∧ z ≤ s.tide.time ∧ r.arrived.contains .pack = false ∧ b.strictNow s = false ∧ b.rerun = false ∧ r.masked = false ∧ r.undecoded = true ∧ u = (s.modReq k fun q => { q with arrived := .pack :: q.arrived }) ∧ v = (if z = s.tide.time then u else markRisk k u) :=
  ⟨tLater (tWith 1 tReq), ((tLater (tWith 1 tReq)).modReq tKey fun q => { q with arrived := .pack :: q.arrived }), markRisk tKey ((tLater (tWith 1 tReq)).modReq tKey fun q => { q with arrived := .pack :: q.arrived }), tKey, tReq, tStream 1, tBatch, tPart 1, 0, ⟨by decide +kernel, rfl, by decide +kernel, by decide +kernel⟩, by first | decide +kernel | rfl, by first | decide +kernel | rfl, by decide +kernel, by decide +kernel, by decide +kernel, by decide +kernel, by decide +kernel, by decide +kernel, by first | decide +kernel | rfl, by first | decide +kernel | rfl⟩

theorem witness_PositionsAndIssue_15 : ∃ (s : State) (u : State) (k : ReqKey) (r : Request) (t : Stream) (b : Batch)
    (p : Partition) (z : Int),
    Serves k r t p s ∧ s.batch? k.stream k.batch = some b ∧ r.latest[(5 : Nat)]? = some z ∧ z ≤ s.tide.time ∧ r.arrived.contains .pack = false ∧ (b.strictNow s = true ∨ b.rerun = true) ∧ u = (s.modReq k fun q => { q with arrived := .pack :: q.arrived }) :=
  ⟨tLater (tStrictRun tReq), ((tLater (tStrictRun tReq)).modReq tKey fun q => { q with arrived := .pack :: q.arrived }), tKey, tReq, tStream 1, { tBatch with begun := true, strict := true }, tPart 1, 0, ⟨by decide +kernel, rfl, by decide +kernel, by decide +kernel⟩, by first | decide +kernel | rfl, by first | decide +kernel | rfl, by decide +kernel, by decide +kernel, by decide +kernel, by first | decide +kernel | rfl⟩

theorem witness_PeersAndDefects_1 : ∃ (s : State) (k : ReqKey) (r : Request) (t : Stream) (d : Partition),
    Serves k r t d s ∧ r.phase = .peerWait ∧ (peersFor t d r).length ≤ r.peerIdx ∧
    r.peerSince + 100000 ≤ s.tide.uptime :=
  ⟨{ tWith 1 { tReq with phase := .peerWait } with tide := { Tide.reset with uptime := 100000 } }, tKey,
    { tReq with phase := .peerWait }, tStream 1, tPart 1, ⟨by decide +kernel, rfl, by decide +kernel,
    by decide +kernel⟩, by first | decide +kernel | rfl, by decide +kernel, by decide +kernel⟩

theorem witness_PeersAndDefects_2 : ∃ (s : State) (k : ReqKey) (r : Request) (b : Batch) (z : Int),
    s.req? k = some r ∧ s.batch? k.stream k.batch = some b ∧ r.latest[(2 : Nat)]? = some z ∧ r.phase = .peerWait ∧ b.strict = false ∧ b.rerun = false ∧ z + s.applied.tideGuard.toNat ≤ s.tide.time ∧ (s.anyWr fun w => w == .peerRead k) = false :=
  ⟨{ tWith 1 { tReq with phase := .peerWait } with tide := { Tide.reset with time := 5000 } }, tKey,
    { tReq with phase := .peerWait }, tBatch, 0,
    by and_intros <;> first | decide +kernel | rfl⟩

theorem witness_PeersAndDefects_3 : ∃ (s : State) (slot : Nat) (i : Nat) (g : Bool),
    s.media.qsLayout = false :=
  ⟨tListed (tListedReq none), 0, 0, false, by decide +kernel⟩

theorem witness_PeersAndDefects_4 : ∃ (s : State) (slot : Nat) (i : Nat) (g : Bool),
    s.media.qsLayout = true :=
  ⟨{ tFlash with media := { tMedia with qsLayout := true } }, 0, 2, true, by decide +kernel⟩

theorem witness_DecodeStageCompletes_1 : ∃ (s : State) (u : State) (k : ReqKey) (cs : List CodewordResult)
    (r : Request) (t : Stream) (p : Partition) (us : List (Nat × List CodewordResult)),
    Serves k r t p s ∧ r.phase = .flash ∧ r.spill = none ∧ (readUnits p r).zip (cutGroups 8 cs) = us ∧ ((readUnits p r).any fun l => s.media.reloadSegments.contains (segmentOfLua l)) = false ∧ readGood (readUnits p r) us s = true ∧ unitsCounted us s = u :=
  ⟨tMapped { tReq with phase := .flash }, unitsCounted [(0, List.replicate 8 ⟨some 1, 3, 0⟩)]
    (tMapped { tReq with phase := .flash }), tKey, List.replicate 8 ⟨some 1, 3, 0⟩, { tReq with phase := .flash },
    tStream 1, tPart 1, [(0, List.replicate 8 ⟨some 1, 3, 0⟩)], ⟨by decide +kernel, rfl, by decide +kernel,
    by decide +kernel⟩, by first | decide +kernel | rfl, by decide +kernel, by first | decide +kernel | rfl,
    by decide +kernel, by decide +kernel, by first | decide +kernel | rfl⟩

theorem witness_DecodeStageCompletes_2 : ∃ (s : State) (u : State) (k : ReqKey) (cs : List CodewordResult)
    (r : Request) (t : Stream) (p : Partition) (us : List (Nat × List CodewordResult)),
    Serves k r t p s ∧ r.phase = .flash ∧ r.spill = none ∧ (readUnits p r).zip (cutGroups 8 cs) = us ∧ ((readUnits p r).any fun l => s.media.reloadSegments.contains (segmentOfLua l)) = false ∧ readGood (readUnits p r) us s = false ∧ unitsCounted us s = u :=
  ⟨tMapped { tReq with phase := .flash }, unitsCounted [(0, [⟨none, 300, 7⟩])]
    (tMapped { tReq with phase := .flash }), tKey, [⟨none, 300, 7⟩], { tReq with phase := .flash }, tStream 1,
    tPart 1, [(0, [⟨none, 300, 7⟩])], ⟨by decide +kernel, rfl, by decide +kernel, by decide +kernel⟩,
    by first | decide +kernel | rfl, by decide +kernel, by first | decide +kernel | rfl, by decide +kernel,
    by decide +kernel, by first | decide +kernel | rfl⟩

theorem witness_DecodeStageCompletes_3 : ∃ (s : State) (u : State) (k : ReqKey) (cs : List CodewordResult)
    (r : Request) (t : Stream) (p : Partition) (us : List (Nat × List CodewordResult)) (e : CacheEntry),
    Serves k r t p s ∧ r.phase = .flash ∧ r.spill = some e ∧ e.luas.zip (cutGroups 8 cs) = us ∧ (e.luas.any fun l => s.media.reloadSegments.contains (segmentOfLua l)) = false ∧ readGood e.luas us s = true ∧ unitsCounted us s = u :=
  ⟨tWith 3 tSpilled, tWith 3 tSpilled, tKey, [], tSpilled, tStream 3, tPart 3, [], tSpillEntry [],
    ⟨by decide +kernel, rfl, by decide +kernel, by decide +kernel⟩, by first | decide +kernel | rfl,
    by first | decide +kernel | rfl, by first | decide +kernel | rfl, by decide +kernel, by decide +kernel,
    by first | decide +kernel | rfl⟩

theorem witness_DecodeStageCompletes_4 : ∃ (s : State) (u : State) (v : State) (k : ReqKey)
    (cs : List CodewordResult) (r : Request) (t : Stream) (p : Partition) (us : List (Nat × List CodewordResult))
    (e : CacheEntry),
    Serves k r t p s ∧ r.phase = .flash ∧ r.spill = some e ∧ e.luas.zip (cutGroups 8 cs) = us ∧ (e.luas.any fun l => s.media.reloadSegments.contains (segmentOfLua l)) = false ∧ readGood e.luas us s = false ∧ unitsCounted us s = u ∧ v = (keepSpill r.spd (fun es => es.filter fun x => !x.isFor e.dsSlot e.index e.remote) u).modReq k (fun q => { q with spill := none }) :=
  ⟨tWith 3 tSpilled1, tWith 3 tSpilled1, (keepSpill 0 (fun es => es.filter fun x => !x.isFor 0 0 false) (tWith 3 tSpilled1)).modReq tKey (fun q => { q with spill := none }), tKey, [⟨none, 300, 7⟩], tSpilled1, tStream 3, tPart 3, [(9, [⟨none, 300, 7⟩])], tSpillEntry [9], ⟨by decide +kernel, rfl, by decide +kernel, by decide +kernel⟩, by first | decide +kernel | rfl, by first | decide +kernel | rfl, by first | decide +kernel | rfl, by decide +kernel, by decide +kernel, by first | decide +kernel | rfl, by first | decide +kernel | rfl⟩

theorem witness_DecodeStageCompletes_5 : ∃ (s : State) (k : ReqKey) (i : DecodeInput) (r : Request) (t : Stream)
    (p : Partition),
    Serves k r t p s ∧ r.phase = .decode ∧ r.encoded = [] :=
  ⟨tWith 1 { tReq with phase := .decode }, tKey, tPng, { tReq with phase := .decode }, tStream 1, tPart 1,
    ⟨by decide +kernel, rfl, by decide +kernel, by decide +kernel⟩, by first | decide +kernel | rfl,
    by first | decide +kernel | rfl⟩

theorem witness_DecodeStageCompletes_6 : ∃ (s : State) (u : State) (k : ReqKey) (i : DecodeInput) (r : Request)
    (t : Stream) (p : Partition) (d : Nat),
    Serves k r t p s ∧ Unwraps r t p s (.fails d) u :=
  ⟨tGzState, tGzState, tKey, tPng, tGzReq, tGzStream, tPart 1, failDetail (runWraps tGzReq tGzStream (tPart 1)
    [3] false [1] tGzState), ⟨by decide +kernel, rfl, by decide +kernel, by decide +kernel⟩, ⟨rfl, by decide +kernel,
    by decide +kernel⟩⟩

theorem witness_DecodeStageCompletes_7 : ∃ (s : State) (u : State) (k : ReqKey) (i : DecodeInput) (r : Request)
    (t : Stream) (p : Partition),
    Serves k r t p s ∧ Unwraps r t p s .noRoom u :=
  ⟨tNoRoom, tNoRoomAfter, tKey, tPng, tGzOk, tGzStream, tPart 1, ⟨by decide +kernel, rfl, by decide +kernel,
    by decide +kernel⟩, ⟨rfl, by decide +kernel, by decide +kernel⟩⟩

theorem witness_DecodeStageCompletes_8 : ∃ (s : State) (u : State) (k : ReqKey) (i : DecodeInput) (r : Request)
    (t : Stream) (p : Partition) (bs : List Byte) (d : Nat),
    Serves k r t p s ∧ Unwraps r t p s (.payload bs) u ∧ headPayload t.dec bs i.moreFrames = .error d :=
  ⟨tDecoding [1], tDecoding [1], tKey, tPng, tDecReq [1], tStream 1, tPart 1, [1], detailE
    (headPayload tDec [1] false), ⟨by decide +kernel, rfl, by decide +kernel, by decide +kernel⟩, ⟨rfl,
    by decide +kernel, by decide +kernel⟩, by first | decide +kernel | rfl⟩

theorem witness_DecodeStageCompletes_9 : ∃ (s : State) (u : State) (v : State) (k : ReqKey) (i : DecodeInput)
    (r : Request) (t : Stream) (p : Partition) (bs : List Byte) (h : Parsed) (q : Parsed) (d : Nat),
    Serves k r t p s ∧ Unwraps r t p s (.payload bs) u ∧ headPayload t.dec bs i.moreFrames = .ok h ∧ indexedHdr
    (keptIndex r.spd p.dsSlot r.sample r.remote u) h = q ∧ keepIndex r.spd p.dsSlot r.sample r.remote q.hdr u = v ∧
    headLimits t.dec (roiOf u (videoWindow t (slotDraw u.seed t p k) q.hdr))
    ((slotDraw u.seed t p k 1 0xF0 0).word 0) i.working q.hdr = some d :=
  ⟨tDecoding tPngBytes, tDecoding tPngBytes, tDecoding tPngBytes, tKey, tPngBig, tDecReq tPngBytes, tStream 1,
    tPart 1, tPngBytes, tPngParsed, tPngParsed, 0x402, ⟨by decide +kernel, rfl, by decide +kernel,
    by decide +kernel⟩, ⟨rfl, by decide +kernel, by decide +kernel⟩, by first | decide +kernel | rfl,
    by first | decide +kernel | rfl, by first | decide +kernel | rfl, by first | decide +kernel | rfl⟩

theorem witness_DecodeStageCompletes_10 : ∃ (s : State) (u : State) (v : State) (w : State) (k : ReqKey)
    (i : DecodeInput) (r : Request) (t : Stream) (p : Partition) (bs : List Byte) (h : Parsed) (q : Parsed)
    (x : Option Region),
    Serves k r t p s ∧ Unwraps r t p s (.payload bs) u ∧ headPayload t.dec bs i.moreFrames = .ok h ∧ indexedHdr
    (keptIndex r.spd p.dsSlot r.sample r.remote u) h = q ∧ keepIndex r.spd p.dsSlot r.sample r.remote q.hdr u = v ∧
    videoWindow t (slotDraw u.seed t p k) q.hdr = x ∧ headLimits t.dec (roiOf u x)
    ((slotDraw u.seed t p k 1 0xF0 0).word 0) i.working q.hdr = none ∧ reqDrawBerths r t p (decodeDraws t.dec
    (roiOf v x) q.hdr i.working) v = (false, w) :=
  ⟨tDecNoRoom, tDecNoRoom, tDecNoRoom, tDecNoRoomAfter, tKey, tPng, tDecReq tPngBytes, tStream 1, tPart 1, tPngBytes,
    tPngParsed, tPngParsed, none, ⟨by decide +kernel, rfl, by decide +kernel, by decide +kernel⟩, ⟨rfl,
    by decide +kernel, by decide +kernel⟩, by first | decide +kernel | rfl, by first | decide +kernel | rfl,
    by first | decide +kernel | rfl, by first | decide +kernel | rfl, by decide +kernel,
    by first | decide +kernel | rfl⟩

theorem witness_DecodeStageCompletes_11 : ∃ (s : State) (u : State) (v : State) (w : State) (k : ReqKey)
    (i : DecodeInput) (r : Request) (t : Stream) (p : Partition) (bs : List Byte) (h : Parsed) (q : Parsed)
    (x : Option Region) (d : Nat),
    Serves k r t p s ∧ Unwraps r t p s (.payload bs) u ∧ headPayload t.dec bs i.moreFrames = .ok h ∧ indexedHdr
    (keptIndex r.spd p.dsSlot r.sample r.remote u) h = q ∧ keepIndex r.spd p.dsSlot r.sample r.remote q.hdr u = v ∧
    videoWindow t (slotDraw u.seed t p k) q.hdr = x ∧ headLimits t.dec (roiOf u x)
    ((slotDraw u.seed t p k 1 0xF0 0).word 0) i.working q.hdr = none ∧ reqDrawBerths r t p (decodeDraws t.dec
    (roiOf v x) q.hdr i.working) v = (true, w) ∧ payloadValues t.dec (roiOf v x)
    ((slotDraw v.seed t p k 1 0xF0 0).word 0) q bs i = .error d :=
  ⟨tDecoding tPngBad, tDecoding tPngBad, tDecoding tPngBad, tDecDrawnBad, tKey, tPng, tDecReq tPngBad, tStream 1,
    tPart 1, tPngBad, tBadParsed, tBadParsed, none, detailE (payloadValues tDec none ((slotDraw
    (tDecoding tPngBad).seed (tStream 1) (tPart 1) tKey 1 0xF0 0).word 0) tBadParsed tPngBad tPng),
    ⟨by decide +kernel, rfl, by decide +kernel, by decide +kernel⟩, ⟨rfl, by decide +kernel, by decide +kernel⟩,
    by first | decide +kernel | rfl, by first | decide +kernel | rfl, by first | decide +kernel | rfl,
    by first | decide +kernel | rfl, by decide +kernel, by first | decide +kernel | rfl,
    by first | decide +kernel | rfl⟩

theorem witness_DecodeStageCompletes_12 : ∃ (s : State) (u : State) (v : State) (w : State) (k : ReqKey)
    (i : DecodeInput) (r : Request) (t : Stream) (p : Partition) (bs : List Byte) (h : Parsed) (q : Parsed)
    (x : Option Region) (vs : List Int) (f : Form),
    Serves k r t p s ∧ Unwraps r t p s (.payload bs) u ∧ headPayload t.dec bs i.moreFrames = .ok h ∧ indexedHdr
    (keptIndex r.spd p.dsSlot r.sample r.remote u) h = q ∧ keepIndex r.spd p.dsSlot r.sample r.remote q.hdr u = v ∧
    videoWindow t (slotDraw u.seed t p k) q.hdr = x ∧ headLimits t.dec (roiOf u x)
    ((slotDraw u.seed t p k 1 0xF0 0).word 0) i.working q.hdr = none ∧ reqDrawBerths r t p (decodeDraws t.dec
    (roiOf v x) q.hdr i.working) v = (true, w) ∧ payloadValues t.dec (roiOf v x)
    ((slotDraw v.seed t p k 1 0xF0 0).word 0) q bs i = .ok vs ∧ decodeForm t.dec (roiOf v x)
    ((slotDraw v.seed t p k 1 0xF0 0).word 0) q.hdr i.content vs = f :=
  ⟨tDecoding tPngBytes, tDecoding tPngBytes, tDecoding tPngBytes, tDecDrawn, tKey, tPng, tDecReq tPngBytes,
    tStream 1, tPart 1, tPngBytes, tPngParsed, tPngParsed, none, tPngVals, decodeForm tDec none ((slotDraw
    (tDecoding tPngBytes).seed (tStream 1) (tPart 1) tKey 1 0xF0 0).word 0) tPngParsed.hdr tPng.content tPngVals,
    ⟨by decide +kernel, rfl, by decide +kernel, by decide +kernel⟩, ⟨rfl, by decide +kernel, by decide +kernel⟩,
    by first | decide +kernel | rfl, by first | decide +kernel | rfl, by first | decide +kernel | rfl,
    by first | decide +kernel | rfl, by decide +kernel, by first | decide +kernel | rfl,
    by first | decide +kernel | rfl, by first | decide +kernel | rfl⟩

theorem witness_DecodeStageCompletes_13 : ∃ (s : State) (n : Fin 8) (k : EngineKind) (i : Nat) (d : Spd) (e : Engine)
    (m : Nat),
    s.spd? n = some d ∧ (d.engines k)[i]? = some e ∧ (within24h s.tide.uptime e.faults).length = m :=
  ⟨tEngine .te ⟨.free, [], []⟩, 0, .te, 0, tEngineSpd .te ⟨.free, [], []⟩, ⟨.free, [], []⟩, 1,
    by and_intros <;> first | decide +kernel | rfl⟩

theorem witness_DecodeStageCompletes_14 : ∃ (s : State) (u : State) (n : Fin 8) (e : Fin 48),
    s.clocked n = true ∧ engineFault n .de e s = (none, u) :=
  ⟨tEngine .de ⟨.out, [], []⟩, tEngine .de ⟨.out, [], []⟩, 0, 0, by and_intros <;> first | decide +kernel | rfl⟩

theorem witness_DecodeStageCompletes_15 : ∃ (s : State) (u : State) (n : Fin 8) (e : Fin 48) (k : ReqKey)
    (r : Request),
    s.clocked n = true ∧ engineFault n .de e s = (some k, u) ∧ (setEv .dec 8 u).req? k = some r ∧ r.deFaults = 0 :=
  ⟨tBusy .de, (engineFault 0 .de 0 (tBusy .de)).2, 0, 0, tKey, { tReq with phase := .decode },
    by and_intros <;> first | decide +kernel | rfl⟩

theorem witness_DecodeStageCompletes_16 : ∃ (s : State) (u : State) (n : Fin 8) (e : Fin 48) (k : ReqKey)
    (r : Request),
    s.clocked n = true ∧ engineFault n .de e s = (some k, u) ∧ (setEv .dec 8 u).req? k = some r ∧ 1 ≤ r.deFaults :=
  ⟨tBusyAgain .de, (engineFault 0 .de 0 (tBusyAgain .de)).2, 0, 0, tKey, tAgain .de,
    by and_intros <;> first | decide +kernel | rfl⟩

theorem witness_DecodeStageCompletes_17 : ∃ (s : State) (u : State) (n : Fin 8) (e : Fin 8),
    s.clocked n = true ∧ engineFault n .ke e s = (none, u) :=
  ⟨tEngine .ke ⟨.out, [], []⟩, tEngine .ke ⟨.out, [], []⟩, 0, 0, by and_intros <;> first | decide +kernel | rfl⟩

theorem witness_DecodeStageCompletes_18 : ∃ (s : State) (u : State) (n : Fin 8) (e : Fin 8) (k : ReqKey)
    (r : Request),
    s.clocked n = true ∧ engineFault n .ke e s = (some k, u) ∧ (setEv .txt 8 u).req? k = some r ∧ r.deFaults = 0 :=
  ⟨tBusy .ke, (engineFault 0 .ke 0 (tBusy .ke)).2, 0, 0, tKey, { tReq with phase := .tokenise },
    by and_intros <;> first | decide +kernel | rfl⟩

theorem witness_DecodeStageCompletes_19 : ∃ (s : State) (u : State) (n : Fin 8) (e : Fin 8) (k : ReqKey)
    (r : Request),
    s.clocked n = true ∧ engineFault n .ke e s = (some k, u) ∧ (setEv .txt 8 u).req? k = some r ∧ 1 ≤ r.deFaults :=
  ⟨tBusyAgain .ke, (engineFault 0 .ke 0 (tBusyAgain .ke)).2, 0, 0, tKey, tAgain .ke,
    by and_intros <;> first | decide +kernel | rfl⟩

theorem witness_DecodeStageCompletes_20 : ∃ (s : State) (n : Fin 8) (k : EngineKind) (i : Nat) (d : Spd) (e : Engine),
    s.spd? n = some d ∧ (d.engines k)[i]? = some e ∧ e.state = .resetting ∧ s.clocked n = true :=
  ⟨tEngine .te ⟨.resetting, [], []⟩, 0, .te, 0, tEngineSpd .te ⟨.resetting, [], []⟩, ⟨.resetting, [], []⟩,
    by and_intros <;> first | decide +kernel | rfl⟩

theorem witness_DecodeStageCompletes_21 : ∃ (s : State) (n : Fin 8) (k : EngineKind) (i : Nat) (d : Spd) (e : Engine),
    s.spd? n = some d ∧ (d.engines k)[i]? = some e ∧ e.state = .resetting ∧ s.clocked n = true :=
  ⟨tEngine .te ⟨.resetting, [], []⟩, 0, .te, 0, tEngineSpd .te ⟨.resetting, [], []⟩, ⟨.resetting, [], []⟩,
    by and_intros <;> first | decide +kernel | rfl⟩

theorem witness_TransformStageCompletes_1 : ∃ (s : State) (k : ReqKey) (r : Request) (t : Stream) (p : Partition)
    (f : Form) (o : Form),
    Serves k r t p s ∧ r.form = some f ∧ r.phase = .transform ∧ transformForm t.xf (slotDraw s.seed t p k)
    r.window f = o :=
  ⟨tWith 1 tXfReq, tKey, tXfReq, tStream 1, tPart 1, ⟨[], []⟩, transformForm (tStream 1).xf (slotDraw
    (tWith 1 tXfReq).seed (tStream 1) (tPart 1) tKey) tXfReq.window ⟨[], []⟩, ⟨by decide +kernel, rfl,
    by decide +kernel, by decide +kernel⟩, by first | decide +kernel | rfl, by first | decide +kernel | rfl,
    by first | decide +kernel | rfl⟩

theorem witness_TransformStageCompletes_2 : ∃ (s : State) (n : Fin 8) (i : Fin 32) (d : Spd) (e : Engine),
    s.spd? n = some d ∧ d.te[(i : Nat)]? = some e ∧ s.clocked n = true ∧ ((∀ k : ReqKey, e.state ≠ .held k)) :=
  ⟨tEngine .te ⟨.free, [], []⟩, 0, 0, tEngineSpd .te ⟨.free, [], []⟩, ⟨.free, [], []⟩,
    by refine ⟨rfl, rfl, rfl, ?_⟩; intro k h; cases h⟩

theorem witness_TransformStageCompletes_4 : ∃ (s : State) (u : State) (n : Fin 8) (i : Fin 32) (k : ReqKey) (d : Spd)
    (e : Engine) (r : Request),
    s.spd? n = some d ∧ d.te[(i : Nat)]? = some e ∧ s.clocked n = true ∧ e.state = .held k ∧ mismatched n i e s = u ∧
    u.req? k = some r ∧ r.phase = .transform ∧ r.resMism = 0 :=
  ⟨tBusy .te, mismatched 0 0 ⟨.held tKey, [], []⟩ (tBusy .te), 0, 0, tKey, tEngineSpd .te ⟨.held tKey, [], []⟩,
    ⟨.held tKey, [], []⟩, { tReq with phase := .transform },
    by and_intros <;> first | decide +kernel | rfl⟩

theorem witness_TransformStageCompletes_5 : ∃ (s : State) (u : State) (n : Fin 8) (i : Fin 32) (k : ReqKey) (d : Spd)
    (e : Engine) (r : Request),
    s.spd? n = some d ∧ d.te[(i : Nat)]? = some e ∧ s.clocked n = true ∧ e.state = .held k ∧ mismatched n i e s = u ∧
    u.req? k = some r ∧ r.phase = .transform ∧ 1 ≤ r.resMism :=
  ⟨tMismatch, mismatched 0 0 ⟨.held tKey, [], []⟩ tMismatch, 0, 0, tKey, tEngineSpd .te ⟨.held tKey, [], []⟩,
    ⟨.held tKey, [], []⟩, { tReq with phase := .transform, resMism := 1 },
    by and_intros <;> first | decide +kernel | rfl⟩

theorem witness_TransformStageCompletes_6 : ∃ (s : State) (u : State) (n : Fin 8) (i : Fin 32) (k : ReqKey) (d : Spd)
    (e : Engine),
    s.spd? n = some d ∧ d.te[(i : Nat)]? = some e ∧ s.clocked n = true ∧ e.state = .held k ∧ mismatched n i e s = u ∧
    ((∀ r : Request, u.req? k = some r → r.phase ≠ .transform)) :=
  ⟨tEngine .te ⟨.held tKey, [], []⟩, mismatched 0 0 ⟨.held tKey, [], []⟩ (tEngine .te ⟨.held tKey, [], []⟩), 0, 0,
    tKey, tEngineSpd .te ⟨.held tKey, [], []⟩, ⟨.held tKey, [], []⟩,
    by refine ⟨rfl, rfl, rfl, rfl, rfl, ?_⟩; intro r h; cases h⟩

theorem witness_TransformStageCompletes_7 : ∃ (s : State) (k : ReqKey) (i : Fin 32) (r : Request) (d : Spd),
    s.req? k = some r ∧ r.phase = .waitXf ∧ s.spd? r.spd = some d ∧ (d.freeEngines .te).contains (i : Nat) = true ∧
    r.avoidTe ≠ some (i : Nat) :=
  ⟨tWith 1 { tReq with phase := .waitXf }, tKey, 5, { tReq with phase := .waitXf }, tSpd,
    by and_intros <;> first | decide +kernel | rfl⟩

theorem witness_TransformStageCompletes_8 : ∃ (s : State) (u : State) (n : Fin 8) (e : Fin 32),
    s.clocked n = true ∧ engineFault n .te e s = (none, u) :=
  ⟨tEngine .te ⟨.out, [], []⟩, tEngine .te ⟨.out, [], []⟩, 0, 0, by and_intros <;> first | decide +kernel | rfl⟩

theorem witness_TransformStageCompletes_9 : ∃ (s : State) (u : State) (n : Fin 8) (e : Fin 32) (k : ReqKey)
    (r : Request),
    s.clocked n = true ∧ engineFault n .te e s = (some k, u) ∧ (setEv .xf 4 u).req? k = some r ∧ r.xfFaults = 0 ∧
    r.phase = .transform :=
  ⟨tBusy .te, (engineFault 0 .te 0 (tBusy .te)).2, 0, 0, tKey, { tReq with phase := .transform },
    by and_intros <;> first | decide +kernel | rfl⟩

theorem witness_TransformStageCompletes_10 : ∃ (s : State) (u : State) (n : Fin 8) (e : Fin 32) (k : ReqKey)
    (r : Request),
    s.clocked n = true ∧ engineFault n .te e s = (some k, u) ∧ (setEv .xf 4 u).req? k = some r ∧ r.xfFaults = 0 ∧
    r.phase ≠ .transform :=
  ⟨tEarly, (engineFault 0 .te 0 tEarly).2, 0, 0, tKey, { tReq with phase := .decode },
    by and_intros <;> first | decide +kernel | rfl⟩

theorem witness_TransformStageCompletes_11 : ∃ (s : State) (u : State) (n : Fin 8) (e : Fin 32) (k : ReqKey)
    (r : Request),
    s.clocked n = true ∧ engineFault n .te e s = (some k, u) ∧ (setEv .xf 4 u).req? k = some r ∧ 1 ≤ r.xfFaults :=
  ⟨tBusyAgain .te, (engineFault 0 .te 0 (tBusyAgain .te)).2, 0, 0, tKey, tAgain .te,
    by and_intros <;> first | decide +kernel | rfl⟩

theorem witness_TextStageCompletes_1 : ∃ (s : State) (k : ReqKey) (r : Request) (t : Stream),
    s.req? k = some r ∧ s.stream? k.stream = some t ∧ r.phase = .tokenise ∧ r.chunks < (r.encoded.length + 32767)
    / 32768 ∧ textWaits r.spd s = false :=
  ⟨tWith 4 { tReq with phase := .tokenise, encoded := [97] }, tKey,
    { tReq with phase := .tokenise, encoded := [97] }, tStream 4,
    by and_intros <;> first | decide +kernel | rfl⟩

theorem witness_TextStageCompletes_2 : ∃ (s : State) (n : Fin 8) (e : Fin 8) (l : Nat) (d : Spd),
    s.spd? n = some d ∧ s.clocked n = true ∧ d.vocab.contains ((e : Nat), l) = false :=
  ⟨tNoon, 0, 3, 9, tSpd, by and_intros <;> first | decide +kernel | rfl⟩

theorem witness_TextStageCompletes_3 : ∃ (s : State) (a : State) (u : State) (k : ReqKey) (r : Request) (t : Stream)
    (p : Partition) (x : TokenRun) (f : Form),
    Serves k r t p s ∧ t.cls = 4 ∧ r.phase = .tokenise ∧ chunkCount r ≤ r.chunks ∧ textWaits r.spd s = false ∧ a =
    (if 0 < (r.tok.finish t.txt).2 then setEv .txt 1 (rawReadDone r s) else rawReadDone r s) ∧
    tokenise s t.txt r.encoded (r.tok.finish t.txt).1 (r.tok.finish t.txt).2 = .ok x ∧
    reqDrawBerths r t p [4 * x.normBytes + 32] a = (true, u) ∧ tokenForm t.txt r.encoded.length x = f :=
  ⟨tWith 4 tTok, tWith 4 tTok, (reqDrawBerths tTok (tStream 4) (tPart 4) [4 * tTokRun.normBytes + 32]
    (tWith 4 tTok)).2, tKey, tTok, tStream 4, tPart 4, tTokRun, tokenForm tTxt 1 tTokRun, ⟨by decide +kernel, rfl,
    by decide +kernel, by decide +kernel⟩, by first | decide +kernel | rfl, by first | decide +kernel | rfl,
    by decide +kernel, by decide +kernel, by decide +kernel, by first | decide +kernel | rfl,
    by first | decide +kernel | rfl, by first | decide +kernel | rfl⟩

theorem witness_TextStageCompletes_4 : ∃ (s : State) (a : State) (u : State) (k : ReqKey) (r : Request) (t : Stream)
    (p : Partition) (x : TokenRun),
    Serves k r t p s ∧ r.phase = .tokenise ∧ chunkCount r ≤ r.chunks ∧ textWaits r.spd s = false ∧ a = (if 0 <
    (r.tok.finish t.txt).2 then setEv .txt 1 (rawReadDone r s) else rawReadDone r s) ∧ tokenise s t.txt r.encoded
    (r.tok.finish t.txt).1 (r.tok.finish t.txt).2 = .ok x ∧ reqDrawBerths r t p [4 * x.normBytes + 32] a = (false, u)
    :=
  ⟨tTokPoor, tTokPoor, (reqDrawBerths tTok (tStream 4) (tPart 4) [4 * tTokRun.normBytes + 32] tTokPoor).2, tKey,
    tTok, tStream 4, tPart 4, tTokRun, ⟨by decide +kernel, rfl, by decide +kernel, by decide +kernel⟩,
    by first | decide +kernel | rfl, by decide +kernel, by decide +kernel, by decide +kernel,
    by first | decide +kernel | rfl, by first | decide +kernel | rfl⟩

theorem witness_TextStageCompletes_5 : ∃ (s : State) (a : State) (k : ReqKey) (r : Request) (t : Stream)
    (p : Partition) (d : Nat),
    Serves k r t p s ∧ r.phase = .tokenise ∧ chunkCount r ≤ r.chunks ∧ textWaits r.spd s = false ∧ a = (if 0 <
    (r.tok.finish t.txt).2 then setEv .txt 1 (rawReadDone r s) else rawReadDone r s) ∧ tokenise s t.txt r.encoded
    (r.tok.finish t.txt).1 (r.tok.finish t.txt).2 = .error d :=
  ⟨tIllState, tIllState, tKey, tIll, tIllStream, tPart 4, detailE (tokenise tIllState tIllStream.txt [0xFF]
    (tIll.tok.finish tIllStream.txt).1 (tIll.tok.finish tIllStream.txt).2), ⟨by decide +kernel, rfl,
    by decide +kernel, by decide +kernel⟩, by first | decide +kernel | rfl, by decide +kernel, by decide +kernel,
    by decide +kernel, by first | decide +kernel | rfl⟩

theorem witness_TextStageCompletes_6 : ∃ (s : State) (k : ReqKey) (r : Request) (t : Stream) (b : Batch)
    (g : List Nat × Bool) (x : (Nat × Nat) × (Nat × Nat)),
    s.req? k = some r ∧ s.stream? k.stream = some t ∧ s.batch? k.stream k.batch = some b ∧ r.phase = .waitPlace ∧
    b.placed.length = k.slot ∧ reqSegment t r = g ∧ placeSegment t.txt k.slot g.1.length b.point = x :=
  ⟨tWith 4 { tReq with phase := .waitPlace }, tKey, { tReq with phase := .waitPlace }, tStream 4, tBatch, ([],
    false), placeSegment tTxt 0 0 (0, 0),
    by and_intros <;> first | decide +kernel | rfl⟩

theorem witness_PackStageCompletes_1 : ∃ (s : State) (k : ReqKey) (r : Request) (t : Stream) (b : Batch)
    (p : Partition) (o : SlotOut),
    Serves k r t p s ∧ s.batch? k.stream k.batch = some b ∧ r.phase = .pack ∧ packReady r t p b s = true ∧
    packSlot s.seed t p b r = o ∧ o.detail = none :=
  ⟨tWith 3 tPk, tKey, tPk, tStream 3, tBatch, tPart 3, packSlot (tWith 3 tPk).seed (tStream 3) (tPart 3) tBatch tPk,
    ⟨by decide +kernel, rfl, by decide +kernel, by decide +kernel⟩, by first | decide +kernel | rfl,
    by first | decide +kernel | rfl, by decide +kernel, by first | decide +kernel | rfl, by decide +kernel⟩

theorem witness_PackStageCompletes_2 : ∃ (s : State) (k : ReqKey) (r : Request) (t : Stream) (b : Batch)
    (p : Partition) (o : SlotOut) (d : Nat),
    Serves k r t p s ∧ s.batch? k.stream k.batch = some b ∧ r.phase = .pack ∧ packReady r t p b s = true ∧
    packSlot s.seed t p b r = o ∧ o.detail = some d :=
  ⟨tWith 3 tPkBad, tKey, tPkBad, tStream 3, tBatch, tPart 3, packSlot (tWith 3 tPkBad).seed (tStream 3) (tPart 3)
    tBatch tPkBad, ((packSlot (tWith 3 tPkBad).seed (tStream 3) (tPart 3) tBatch tPkBad).detail).getD 0,
    ⟨by decide +kernel, rfl, by decide +kernel, by decide +kernel⟩, by first | decide +kernel | rfl,
    by first | decide +kernel | rfl, by decide +kernel, by first | decide +kernel | rfl,
    by first | decide +kernel | rfl⟩

theorem witness_PackStageCompletes_3 : ∃ (s : State) (u : State) (n : Fin 8) (e : Fin 16),
    s.clocked n = true ∧ engineFault n .pe e s = (none, u) :=
  ⟨tEngine .pe ⟨.out, [], []⟩, tEngine .pe ⟨.out, [], []⟩, 0, 0, by and_intros <;> first | decide +kernel | rfl⟩

theorem witness_PackStageCompletes_4 : ∃ (s : State) (u : State) (n : Fin 8) (e : Fin 16) (k : ReqKey) (r : Request)
    (i : Nat),
    s.clocked n = true ∧ engineFault n .pe e s = (some k, u) ∧ (setEv .pack 0x10 u).req? k = some r ∧
    r.packFaults = 0 ∧ r.pe = some (e : Nat) ∧ r.pe2 = some i ∧ i ≠ e :=
  ⟨tTwoPe, (engineFault 0 .pe 0 tTwoPe).2, 0, 0, tKey, { tReq with phase := .pack, pe := some 0, pe2 := some 3 }, 3,
    by and_intros <;> first | decide +kernel | rfl⟩

theorem witness_PackStageCompletes_5 : ∃ (s : State) (u : State) (n : Fin 8) (e : Fin 16) (k : ReqKey) (r : Request)
    (i : Nat),
    s.clocked n = true ∧ engineFault n .pe e s = (some k, u) ∧ (setEv .pack 0x10 u).req? k = some r ∧
    r.packFaults = 0 ∧ ((r.pe = none ∨ r.pe = some (e : Nat))) ∧ r.pe2 = none ∧ freeOther r .pe (some e)
    (setEv .pack 0x10 u) = some i :=
  ⟨tBusy .pe, (engineFault 0 .pe 0 (tBusy .pe)).2, 0, 0, tKey, { tReq with phase := .pack }, 1,
    by and_intros <;> first | decide +kernel | rfl⟩

theorem witness_PackStageCompletes_6 : ∃ (s : State) (u : State) (n : Fin 8) (e : Fin 16) (k : ReqKey) (r : Request),
    s.clocked n = true ∧ engineFault n .pe e s = (some k, u) ∧ (setEv .pack 0x10 u).req? k = some r ∧
    r.packFaults = 0 ∧ ((r.pe = none ∨ r.pe = some (e : Nat))) ∧ r.pe2 = none ∧ freeOther r .pe (some e)
    (setEv .pack 0x10 u) = none :=
  ⟨tLastPe, (engineFault 0 .pe 0 tLastPe).2, 0, 0, tKey, { tReq with phase := .pack },
    by and_intros <;> first | decide +kernel | rfl⟩

theorem witness_PackStageCompletes_7 : ∃ (s : State) (u : State) (n : Fin 8) (e : Fin 16) (k : ReqKey) (r : Request),
    s.clocked n = true ∧ engineFault n .pe e s = (some k, u) ∧ (setEv .pack 0x10 u).req? k = some r ∧
    1 ≤ r.packFaults :=
  ⟨tBusyAgain .pe, (engineFault 0 .pe 0 (tBusyAgain .pe)).2, 0, 0, tKey, tAgain .pe,
    by and_intros <;> first | decide +kernel | rfl⟩

theorem witness_PackStageCompletes_8 : ∃ (s : State) (k : ReqKey) (r : Request) (t : Stream) (b : Batch)
    (p : Partition),
    Serves k r t p s ∧ s.batch? k.stream k.batch = some b ∧ r.phase = .pack ∧ r.masked = false ∧ r.pe = none :=
  ⟨tWith 3 { tReq with phase := .pack }, tKey, { tReq with phase := .pack }, tStream 3, tBatch, tPart 3,
    ⟨by decide +kernel, rfl, by decide +kernel, by decide +kernel⟩, by first | decide +kernel | rfl,
    by first | decide +kernel | rfl, by decide +kernel, by decide +kernel⟩

theorem witness_PackStageCompletes_9 : ∃ (s : State) (k : ReqKey) (r : Request) (i : Nat),
    s.req? k = some r ∧ r.phase = .pack ∧ r.masked = false ∧ r.pe = none ∧ freeOther r .pe r.avoidPe s = some i :=
  ⟨tWith 3 { tReq with phase := .pack }, tKey, { tReq with phase := .pack }, 0,
    by and_intros <;> first | decide +kernel | rfl⟩

theorem witness_RequesterCompletes_1 : ∃ (s : State) (c : Conn) (p : RxPacket),
    s.conn? c.idx = some c ∧ (c.error ≠ none ∨ s.egr.txOff = true ∨ bitOf s.egr.linksUp c.onLink = false ∨ 9216 < p.size c) :=
  ⟨tNet fun c => { c with error := some 1 }, { tConn 0 false with error := some 1 }, .ack tWire,
    by and_intros <;> first | decide +kernel | rfl⟩

theorem witness_RequesterCompletes_3 : ∃ (s : State) (a : State) (c : Conn) (p : RxPacket),
    s.conn? c.idx = some c ∧ c.error = none ∧ s.egr.txOff = false ∧ bitOf s.egr.linksUp c.onLink = true ∧
    p.size c ≤ 9216 ∧ (packetIn c s).onlyIf (p.needsSpd || !c.resident) (wake 3 true) = a ∧
    (c.resident = false ∨ p.needsSpd = true ∧ a.asleep = true) :=
  ⟨tNet (fun c => { c with resident := false }), packetIn { tConn 0 false with resident := false } (tNet (fun c => { c with resident := false })), { tConn 0 false with resident := false }, .ack tWire,
    by and_intros <;> first | decide +kernel | rfl⟩

theorem witness_RequesterCompletes_4 : ∃ (s : State) (a : State) (c : Conn) (p : RxPacket),
    Hears c s ∧ s.asleep = false ∧ p.size c ≤ 9216 ∧ p.tagFails c = true ∧ packetIn c s = a ∧
    a.conn? c.idx = some c :=
  ⟨tNet (fun c => { c with encKey := 3 }), packetIn { tConn 0 false with encKey := 3 } (tNet (fun c => { c with encKey := 3 })), { tConn 0 false with encKey := 3 }, .message ⟨0, false, false, false⟩ [1], ⟨rfl, rfl, rfl, rfl, rfl⟩, by decide +kernel, by decide +kernel, by decide +kernel, by first | decide +kernel | rfl, by first | decide +kernel | rfl⟩

theorem witness_RequesterCompletes_5 : ∃ (s : State) (a : State) (c : Conn) (d : Conn) (p : RxPacket),
    Takes c p s a d :=
  ⟨tNet id, tGot 0 (.ack tWire) (tNet id), tConn 0 false, tConn 0 false, .ack tWire, ⟨⟨rfl, rfl, rfl, rfl, rfl⟩,
    by decide +kernel, by decide +kernel, by decide +kernel, rfl, by first | rfl | decide +kernel⟩⟩

theorem witness_RequesterCompletes_7 : ∃ (s : State) (a : State) (c : Conn) (d : Conn) (w : Wire),
    Takes c (.ack w) s a d ∧ extPsn d.sqUna w.psn < d.sentEnd ∧ d.idx = c.idx :=
  ⟨tAsked, tGot 0 (.ack tWire) tAsked, tAt 0 tAsked, tAt 0 tAsked, tWire, ⟨⟨rfl, rfl, rfl, rfl, rfl⟩,
    by decide +kernel, by decide +kernel, by decide +kernel, rfl, by first | rfl | decide +kernel⟩,
    by decide +kernel, by first | decide +kernel | rfl⟩

theorem witness_RequesterCompletes_8 : ∃ (s : State) (a : State) (c : Conn) (d : Conn) (w : Wire),
    Takes c (.ack w) s a d ∧ d.sentEnd ≤ extPsn d.sqUna w.psn :=
  ⟨tNet id, tGot 0 (.ack tWire) (tNet id), tConn 0 false, tConn 0 false, tWire, ⟨⟨rfl, rfl, rfl, rfl, rfl⟩,
    by decide +kernel, by decide +kernel, by decide +kernel, rfl, by first | rfl | decide +kernel⟩, by decide +kernel⟩

theorem witness_RequesterCompletes_9 : ∃ (s : State) (a : State) (c : Conn) (d : Conn) (w : Wire),
    Takes c (.nak w 0) s a d ∧ extPsn d.sqUna w.psn < d.sentEnd ∧ d.idx = c.idx :=
  ⟨tAsked, tGot 0 (.nak tWire 0) tAsked, tAt 0 tAsked, tAt 0 tAsked, tWire, ⟨⟨rfl, rfl, rfl, rfl, rfl⟩,
    by decide +kernel, by decide +kernel, by decide +kernel, rfl, by first | rfl | decide +kernel⟩,
    by decide +kernel, by first | decide +kernel | rfl⟩

theorem witness_RequesterCompletes_10 : ∃ (s : State) (a : State) (c : Conn) (d : Conn) (w : Wire) (code : Nat),
    Takes c (.nak w code) s a d ∧ extPsn d.sqUna w.psn < d.sentEnd ∧ d.idx = c.idx ∧ code ≠ 0 :=
  ⟨tAsked, tGot 0 (.nak tWire 2) tAsked, tAt 0 tAsked, tAt 0 tAsked, tWire, 2, ⟨⟨rfl, rfl, rfl, rfl, rfl⟩,
    by decide +kernel, by decide +kernel, by decide +kernel, rfl, by first | rfl | decide +kernel⟩,
    by decide +kernel, by first | decide +kernel | rfl, by decide +kernel⟩

theorem witness_RequesterCompletes_11 : ∃ (s : State) (a : State) (u : State) (c : Conn) (d : Conn) (e : Conn)
    (w : Wire),
    Takes c (.rnr w) s a d ∧ extPsn d.sqUna w.psn < d.sentEnd ∧ d.idx = c.idx ∧ ackUpTo c.idx (extPsn d.sqUna w.psn)
    a = u ∧ u.conn? c.idx = some e ∧ (fieldOf a.applied.egr 7 3 = 7 ∨ e.rnrRetries < fieldOf a.applied.egr 7 3) :=
  ⟨tRnr 0x380, tGot 0 (.rnr tWire) (tRnr 0x380), ackUpTo 0 0 (tGot 0 (.rnr tWire) (tRnr 0x380)), tAt 0 tAsked,
    tAt 0 tAsked, tAt 0 (ackUpTo 0 0 (tGot 0 (.rnr tWire) (tRnr 0x380))), tWire, ⟨⟨rfl, rfl, rfl, rfl, rfl⟩,
    by decide +kernel, by decide +kernel, by decide +kernel, rfl, by first | rfl | decide +kernel⟩,
    by decide +kernel, by first | decide +kernel | rfl, by first | decide +kernel | rfl,
    by first | decide +kernel | rfl, by decide +kernel⟩

theorem witness_RequesterCompletes_12 : ∃ (s : State) (a : State) (u : State) (c : Conn) (d : Conn) (e : Conn)
    (w : Wire),
    Takes c (.rnr w) s a d ∧ extPsn d.sqUna w.psn < d.sentEnd ∧ d.idx = c.idx ∧ ackUpTo c.idx (extPsn d.sqUna w.psn)
    a = u ∧ u.conn? c.idx = some e ∧ fieldOf a.applied.egr 7 3 ≠ 7 ∧ fieldOf a.applied.egr 7 3 ≤ e.rnrRetries :=
  ⟨tRnr 0, tGot 0 (.rnr tWire) (tRnr 0), ackUpTo 0 0 (tGot 0 (.rnr tWire) (tRnr 0)), tAt 0 tAsked, tAt 0 tAsked,
    tAt 0 (ackUpTo 0 0 (tGot 0 (.rnr tWire) (tRnr 0))), tWire, ⟨⟨rfl, rfl, rfl, rfl, rfl⟩, by decide +kernel,
    by decide +kernel, by decide +kernel, rfl, by first | rfl | decide +kernel⟩, by decide +kernel,
    by first | decide +kernel | rfl, by first | decide +kernel | rfl, by first | decide +kernel | rfl,
    by decide +kernel, by decide +kernel⟩

theorem witness_RequesterCompletes_13 : ∃ (s : State) (a : State) (u : State) (c : Conn) (d : Conn) (e : Conn)
    (w : Wire) (l : Bool) (bs : List Byte) (q : Wr) (p : Nat) (x : Nat) (k : ReqKey),
    Takes c (.readRsp w l bs) s a d ∧ d.idx = c.idx ∧ extPsn d.sqUna w.psn = x ∧ (d.queue.find? (fun q => q.kind == .read && q.left == 0 && (q.psn.map fun p => decide (p ≤ x ∧ x < p + q.total)).getD false) = some q) ∧ q.psn = some p ∧ q.owner = .peerRead k ∧ ackUpTo c.idx p a = u ∧ u.conn? c.idx = some e ∧ e.sqUna = x ∧ (d.encKey = 0 ∨ x < 2 ^ 48 - 1) :=
  ⟨tReading, tGot 1 (.readRsp tWire true [5]) tReading, ackUpTo 1 0 (tGot 1 (.readRsp tWire true [5]) tReading),
    tAt 1 tReading, tAt 1 tReading, tAt 1 (ackUpTo 1 0 (tGot 1 (.readRsp tWire true [5]) tReading)), tWire, true,
    [5], tReadWr, 0, 0, tKey, ⟨⟨rfl, rfl, rfl, rfl, rfl⟩, by decide +kernel, by decide +kernel, by decide +kernel,
    rfl, by first | rfl | decide +kernel⟩, by first | decide +kernel | rfl, by first | decide +kernel | rfl,
    by decide +kernel, by first | decide +kernel | rfl, by first | decide +kernel | rfl,
    by first | decide +kernel | rfl, by first | decide +kernel | rfl, by first | decide +kernel | rfl,
    by decide +kernel⟩

theorem witness_RequesterCompletes_14 : ∃ (s : State) (a : State) (u : State) (c : Conn) (d : Conn) (e : Conn)
    (w : Wire) (l : Bool) (bs : List Byte) (q : Wr) (p : Nat) (x : Nat),
    Takes c (.readRsp w l bs) s a d ∧ d.idx = c.idx ∧ extPsn d.sqUna w.psn = x ∧ (d.queue.find? (fun q => q.kind == .read && q.left == 0 && (q.psn.map fun p => decide (p ≤ x ∧ x < p + q.total)).getD false) = some q) ∧ q.psn = some p ∧ ackUpTo c.idx p a = u ∧ u.conn? c.idx = some e ∧ e.sqUna ≠ x :=
  ⟨tSkipped, tGot 1 (.readRsp ⟨1, true, false, false⟩ true [5]) tSkipped, ackUpTo 1 0 (tGot 1 (.readRsp ⟨1, true,
    false, false⟩ true [5]) tSkipped), tAt 1 tSkipped, tAt 1 tSkipped, tAt 1 (ackUpTo 1 0 (tGot 1 (.readRsp ⟨1, true,
    false, false⟩ true [5]) tSkipped)), ⟨1, true, false, false⟩, true, [5], { tReadWr with total := 2 }, 0, 1, ⟨⟨rfl,
    rfl, rfl, rfl, rfl⟩, by decide +kernel, by decide +kernel, by decide +kernel, rfl,
    by first | rfl | decide +kernel⟩, by first | decide +kernel | rfl, by first | decide +kernel | rfl,
    by decide +kernel, by first | decide +kernel | rfl, by first | decide +kernel | rfl,
    by first | decide +kernel | rfl, by decide +kernel⟩

theorem witness_RequesterCompletes_15 : ∃ (s : State) (i : Nat) (c : Conn),
    s.conn? i = some c :=
  ⟨tNet id, 0, tConn 0 false, by first | decide +kernel | rfl⟩

theorem witness_RequesterCompletes_16 : ∃ (s : State) (i : Nat) (c : Conn),
    s.conn? i = some c ∧ c.error = none ∧ c.sqUna < c.sentEnd ∧ c.rnrWait = false ∧
    c.ackAt + 4096 * 2 ^ fieldOf s.applied.egr 0 4 ≤ s.tide.uptime :=
  ⟨{ tAsked with tide := { Tide.reset with uptime := 2 ^ 40 } }, 0, { tConn 0 false with queue := [tWr] },
    by and_intros <;> first | decide +kernel | rfl⟩

theorem witness_RequesterCompletes_17 : ∃ (s : State) (i : Nat) (c : Conn),
    s.conn? i = some c ∧ c.rnrWait = true :=
  ⟨tNet fun c => { c with rnrWait := true }, 0, { tConn 0 false with rnrWait := true },
    by and_intros <;> first | decide +kernel | rfl⟩

theorem witness_RequesterCompletes_18 : ∃ (s : State) (i : Nat) (c : Conn) (met : List Wr),
    s.conn? i = some c ∧ met = (c.queue.map fun w => { w with wait := if w.wait.any (waitMet s) then none else w.wait }) :=
  ⟨tWaiting, 0, tAt 0 tWaiting, [{ tWr with psn := none, left := 1 }], by and_intros <;> first | decide +kernel | rfl⟩

theorem witness_ResponderCompletes_1 : ∃ (s : State) (a : State) (c : Conn) (d : Conn) (w : Wire) (key : Word)
    (va : Nat) (len : Nat) (l : Bool) (bs : List Byte),
    Takes c (.write w key va len true l bs) s a d ∧ d.idx = c.idx ∧ psnPlace d w.psn = .expected ∧ d.rxMsg = none ∧
    mayAccess d key va len 2 a = true ∧ bs.length ≤ len ∧ ((l = true → bs.length = len)) :=
  ⟨tNet id, tGot 0 (.write tWire 0x20001 0x1008 3 true true [1, 2, 3]) (tNet id), tConn 0 false, tConn 0 false,
    tWire, 0x20001, 0x1008, 3, true, [1, 2, 3],
    by refine ⟨⟨⟨rfl, rfl, rfl, rfl, rfl⟩, ?_, ?_, ?_, rfl, rfl⟩, ?_, ?_, ?_, ?_, ?_, ?_⟩ <;> decide +kernel⟩

theorem witness_ResponderCompletes_2 : ∃ (s : State) (a : State) (c : Conn) (d : Conn) (w : Wire) (key : Word)
    (k : Word) (va : Nat) (len : Nat) (at_ : Nat) (left : Nat) (l : Bool) (bs : List Byte),
    Takes c (.write w key va len false l bs) s a d ∧ d.idx = c.idx ∧ psnPlace d w.psn = .expected ∧ d.rxMsg = some
    (k, at_, left) ∧ bs.length ≤ left ∧ ((l = true → bs.length = left)) :=
  ⟨tMidWrite, tGot 0 (.write tWire 0 0 0 false true [1]) tMidWrite, tAt 0 tMidWrite, tAt 0 tMidWrite, tWire, 0,
    0x20001, 0, 0, 0x1008, 1, true, [1],
    by refine ⟨⟨⟨rfl, rfl, rfl, rfl, rfl⟩, ?_, ?_, ?_, rfl, rfl⟩, ?_, ?_, ?_, ?_, ?_⟩ <;> decide +kernel⟩

theorem witness_ResponderCompletes_3 : ∃ (s : State) (a : State) (c : Conn) (d : Conn) (w : Wire) (key : Word)
    (va : Nat) (len : Nat) (l : Bool) (bs : List Byte),
    Takes c (.write w key va len true l bs) s a d ∧ d.idx = c.idx ∧ psnPlace d w.psn = .expected ∧ d.rxMsg = none ∧
    mayAccess d key va len 2 a = false :=
  ⟨tNet id, tGot 0 (.write tWire 0x20002 0x1008 3 true true [1, 2, 3]) (tNet id), tConn 0 false, tConn 0 false,
    tWire, 0x20002, 0x1008, 3, true, [1, 2, 3], ⟨⟨rfl, rfl, rfl, rfl, rfl⟩, by decide +kernel, by decide +kernel,
    by decide +kernel, rfl, by first | rfl | decide +kernel⟩, by first | decide +kernel | rfl,
    by first | decide +kernel | rfl, by decide +kernel, by decide +kernel⟩

theorem witness_ResponderCompletes_4 : ∃ (s : State) (a : State) (c : Conn) (d : Conn) (w : Wire) (key : Word)
    (va : Nat) (len : Nat),
    Takes c (.read w key va len) s a d ∧ d.idx = c.idx ∧ psnPlace d w.psn = .expected ∧ d.rxMsg = none ∧
    mayAccess d key va len 1 a = false :=
  ⟨tNet id, tGot 0 (.read tWire 0x20002 0x1008 3) (tNet id), tConn 0 false, tConn 0 false, tWire, 0x20002, 0x1008, 3,
    ⟨⟨rfl, rfl, rfl, rfl, rfl⟩, by decide +kernel, by decide +kernel, by decide +kernel, rfl,
    by first | rfl | decide +kernel⟩, by first | decide +kernel | rfl, by first | decide +kernel | rfl,
    by decide +kernel, by decide +kernel⟩

theorem witness_ResponderCompletes_5 : ∃ (s : State) (a : State) (c : Conn) (d : Conn) (w : Wire) (key : Word)
    (va : Nat) (len : Nat) (x : Nat) (f : Bool) (l : Bool) (bs : List Byte),
    d.idx = c.idx ∧ psnPlace d w.psn = .past x :=
  ⟨tPsn 5, tGot 0 (.read tWire 0x20001 0x1008 3) (tPsn 5), tAt 0 (tPsn 5), tAt 0 (tPsn 5), tWire, 0x20001, 0x1008, 3,
    0, true, true, [1, 2, 3],
    by and_intros <;> first | decide +kernel | rfl⟩

theorem witness_ResponderCompletes_6 : ∃ (s : State) (a : State) (c : Conn) (d : Conn) (w : Wire) (key : Word)
    (va : Nat) (len : Nat) (f : Bool) (l : Bool) (bs : List Byte),
    d.idx = c.idx ∧ psnPlace d w.psn = .future :=
  ⟨tNet id, tGot 0 (.read ⟨9, true, false, false⟩ 0x20001 0x1008 3) (tNet id), tConn 0 false, tConn 0 false, ⟨9,
    true, false, false⟩, 0x20001, 0x1008, 3, true, true, [1, 2, 3],
    by and_intros <;> first | decide +kernel | rfl⟩

theorem witness_ResponderCompletes_7 : ∃ (s : State) (a : State) (c : Conn) (d : Conn) (w : Wire) (key : Word)
    (va : Nat) (len : Nat) (m : Mooring),
    Takes c (.read w key va len) s a d ∧ d.idx = c.idx ∧ psnPlace d w.psn = .expected ∧ d.rxMsg = none ∧
    mayAccess d key va len 1 a = true ∧ a.keyed key = some m :=
  ⟨tNet id, tGot 0 (.read tWire 0x20001 0x1008 3) (tNet id), tConn 0 false, tConn 0 false, tWire, 0x20001, 0x1008, 3,
    tMooring, ⟨⟨rfl, rfl, rfl, rfl, rfl⟩, by decide +kernel, by decide +kernel, by decide +kernel, rfl,
    by first | rfl | decide +kernel⟩, by first | decide +kernel | rfl, by first | decide +kernel | rfl,
    by decide +kernel, by decide +kernel, by first | decide +kernel | rfl⟩

theorem witness_ResponderCompletes_8 : ∃ (s : State) (a : State) (c : Conn) (d : Conn) (w : Wire) (key : Word)
    (va : Nat) (len : Nat) (f : Bool) (l : Bool) (bs : List Byte),
    Takes c (.write w key va len f l bs) s a d ∧ d.idx = c.idx ∧ psnPlace d w.psn = .expected ∧ f = d.rxMsg.isSome :=
  ⟨tNet id, tGot 0 (.write tWire 0 0 0 false true []) (tNet id), tConn 0 false, tConn 0 false, tWire, 0, 0, 0, false,
    true, [], ⟨⟨rfl, rfl, rfl, rfl, rfl⟩, by decide +kernel, by decide +kernel, by decide +kernel, rfl,
    by first | rfl | decide +kernel⟩, by first | decide +kernel | rfl, by first | decide +kernel | rfl,
    by first | decide +kernel | rfl⟩

theorem witness_ResponderCompletes_9 : ∃ (s : State) (a : State) (c : Conn) (d : Conn) (ce : Bool),
    Takes c (.cnp ce) s a d ∧ d.idx = c.idx :=
  ⟨tNet id, tGot 0 (.cnp true) (tNet id), tConn 0 false, tAt 0 (tGot 0 (.cnp true) (tNet id)), true, ⟨⟨rfl, rfl, rfl,
    rfl, rfl⟩, by decide +kernel, by decide +kernel, by decide +kernel, rfl, by first | rfl | decide +kernel⟩,
    by first | decide +kernel | rfl⟩

theorem witness_ResponderCompletes_10 : ∃ (s : State) (a : State) (c : Conn) (d : Conn) (k : RefusedKind) (ce : Bool),
    Takes c (.bad k ce) s a d ∧ (k = .otherTransport ∨ k = .qp1Mad) :=
  ⟨tNet id, tGot 0 (.bad .qp1Mad false) (tNet id), tConn 0 false, tConn 0 false, .qp1Mad, false, ⟨⟨rfl, rfl, rfl,
    rfl, rfl⟩, by decide +kernel, by decide +kernel, by decide +kernel, rfl, by first | rfl | decide +kernel⟩,
    by first | decide +kernel | rfl⟩

theorem witness_ResponderCompletes_11 : ∃ (s : State) (a : State) (c : Conn) (d : Conn) (k : RefusedKind) (ce : Bool),
    Takes c (.bad k ce) s a d ∧ d.idx = c.idx ∧ k ≠ .otherTransport ∧ k ≠ .qp1Mad :=
  ⟨tNet id, tGot 0 (.bad .atomic false) (tNet id), tConn 0 false, tConn 0 false, .atomic, false, ⟨⟨rfl, rfl, rfl,
    rfl, rfl⟩, by decide +kernel, by decide +kernel, by decide +kernel, rfl, by first | rfl | decide +kernel⟩,
    by first | decide +kernel | rfl, by decide +kernel, by decide +kernel⟩

theorem witness_MessagesComplete_1 : ∃ (s : State) (a : State) (c : Conn) (d : Conn) (w : Wire) (bs : List Byte),
    Takes c (.message w bs) s a d ∧ d.idx = c.idx ∧ d.peer = false ∧ psnPlace d w.psn = .expected ∧ bs.length ≤ 64 ∧
    d.rxMsg = none ∧ d.credits ≠ 0 :=
  ⟨tNet id, tGot 0 (.message tWire [1]) (tNet id), tConn 0 false, tConn 0 false, tWire, [1], ⟨⟨rfl, rfl, rfl, rfl,
    rfl⟩, by decide +kernel, by decide +kernel, by decide +kernel, rfl, by first | rfl | decide +kernel⟩,
    by first | decide +kernel | rfl, by decide +kernel, by first | decide +kernel | rfl, by decide +kernel,
    by decide +kernel, by decide +kernel⟩

theorem witness_MessagesComplete_2 : ∃ (s : State) (a : State) (c : Conn) (d : Conn) (w : Wire) (bs : List Byte),
    Takes c (.message w bs) s a d ∧ d.idx = c.idx ∧ d.peer = true ∧ psnPlace d w.psn = .expected ∧ bs.length = 64 ∧
    d.rxMsg = none ∧ d.credits ≠ 0 ∧ byteField bs 0 4 = 0x51525051 ∧ byteField bs 60 4 = (crc32c
    (bs.take 60)).toNat :=
  ⟨tNet id, tGot 1 (.message tWire tPeerReqMsg) (tNet id), tConn 1 true, tConn 1 true, tWire, tPeerReqMsg, ⟨⟨rfl,
    rfl, rfl, rfl, rfl⟩, by decide +kernel, by decide +kernel, by decide +kernel, rfl,
    by first | rfl | decide +kernel⟩, by first | decide +kernel | rfl, by decide +kernel,
    by first | decide +kernel | rfl, by first | decide +kernel | rfl, by decide +kernel, by decide +kernel,
    by first | decide +kernel | rfl, by first | decide +kernel | rfl⟩

theorem witness_MessagesComplete_3 : ∃ (s : State) (a : State) (c : Conn) (d : Conn) (w : Wire) (bs : List Byte),
    Takes c (.message w bs) s a d ∧ d.idx = c.idx ∧ d.peer = true ∧ psnPlace d w.psn = .expected ∧ bs.length = 64 ∧
    d.rxMsg = none ∧ d.credits ≠ 0 ∧ byteField bs 0 4 = 0x53525051 ∧ byteField bs 60 4 = (crc32c
    (bs.take 60)).toNat :=
  ⟨tNet id, tGot 1 (.message tWire tPeerRspMsg) (tNet id), tConn 1 true, tConn 1 true, tWire, tPeerRspMsg, ⟨⟨rfl,
    rfl, rfl, rfl, rfl⟩, by decide +kernel, by decide +kernel, by decide +kernel, rfl,
    by first | rfl | decide +kernel⟩, by first | decide +kernel | rfl, by decide +kernel,
    by first | decide +kernel | rfl, by first | decide +kernel | rfl, by decide +kernel, by decide +kernel,
    by first | decide +kernel | rfl, by first | decide +kernel | rfl⟩

theorem witness_MessagesComplete_4 : ∃ (s : State) (a : State) (c : Conn) (d : Conn) (w : Wire) (bs : List Byte),
    Takes c (.message w bs) s a d ∧ d.idx = c.idx ∧ d.peer = true ∧ psnPlace d w.psn = .expected ∧ bs.length = 32 ∧
    d.rxMsg = none ∧ d.credits ≠ 0 ∧ byteField bs 0 4 = 0x4E445051 ∧ byteField bs 28 4 = (crc32c
    (bs.take 28)).toNat :=
  ⟨tNet id, tGot 1 (.message tWire tPeerDoneMsg) (tNet id), tConn 1 true, tConn 1 true, tWire, tPeerDoneMsg, ⟨⟨rfl,
    rfl, rfl, rfl, rfl⟩, by decide +kernel, by decide +kernel, by decide +kernel, rfl,
    by first | rfl | decide +kernel⟩, by first | decide +kernel | rfl, by decide +kernel,
    by first | decide +kernel | rfl, by first | decide +kernel | rfl, by decide +kernel, by decide +kernel,
    by first | decide +kernel | rfl, by first | decide +kernel | rfl⟩

theorem witness_MessagesComplete_5 : ∃ (s : State) (a : State) (c : Conn) (d : Conn) (w : Wire) (bs : List Byte)
    (q : Instr),
    Takes c (.message w bs) s a d ∧ d.idx = c.idx ∧
    (q = .returnRx c.idx w bs ∨ q = .peerReqRx c.idx w bs ∨ q = .peerRspRx c.idx w bs ∨ q = .peerDoneRx c.idx w bs) :=
  ⟨tNet id, tGot 0 (.message tWire [1]) (tNet id), tConn 0 false, tConn 0 false, tWire, [1], .peerReqRx 0 tWire [1],
    by refine ⟨⟨⟨rfl, rfl, rfl, rfl, rfl⟩, ?_, ?_, ?_, rfl, rfl⟩, ?_, ?_⟩ <;> decide +kernel⟩

theorem witness_MessagesComplete_6 : ∃ (s : State) (a : State) (c : Conn) (d : Conn) (w : Wire) (bs : List Byte)
    (q : Instr),
    Takes c (.message w bs) s a d ∧ d.idx = c.idx ∧
    (q = .returnRx c.idx w bs ∨ q = .peerReqRx c.idx w bs ∨ q = .peerRspRx c.idx w bs ∨ q = .peerDoneRx c.idx w bs) ∧
    psnPlace d w.psn = .expected ∧ (64 < bs.length ∨ d.rxMsg ≠ none) :=
  ⟨tMidWrite, tGot 0 (.message tWire [1]) tMidWrite, tAt 0 tMidWrite, tAt 0 tMidWrite, tWire, [1],
    .peerReqRx 0 tWire [1],
    by refine ⟨⟨⟨rfl, rfl, rfl, rfl, rfl⟩, ?_, ?_, ?_, rfl, rfl⟩, ?_, ?_, ?_, ?_⟩ <;> decide +kernel⟩

theorem witness_MessagesComplete_7 : ∃ (s : State) (i : Nat) (c : Conn) (v : Serve) (tag : Half) (n : Nat),
    s.conn? i = some c ∧ (c.serves.find? fun v => !v.ready) = some v ∧ v.tag = tag.toNat ∧ freeIndex s = some n :=
  ⟨tNet fun c => { c with serves := [tServe false] }, 1, { tConn 1 true with serves := [tServe false] }, tServe false, 7, 0,
    by and_intros <;> first | decide +kernel | rfl⟩

theorem witness_MessagesComplete_8 : ∃ (s : State) (i : Nat) (c : Conn) (v : Serve) (tag : Half),
    s.conn? i = some c ∧ (c.serves.find? fun v => !v.ready) = some v ∧ v.tag = tag.toNat :=
  ⟨tNet fun c => { c with serves := [tServe false] }, 1, { tConn 1 true with serves := [tServe false] }, tServe false, 7,
    by and_intros <;> first | decide +kernel | rfl⟩

theorem witness_MessagesComplete_9 : ∃ (s : State) (i : Nat) (c : Conn) (v : Serve) (tag : Half),
    s.conn? i = some c ∧ (c.serves.find? fun v => !v.ready) = some v ∧ v.tag = tag.toNat ∧ freeIndex s = none :=
  ⟨tKeys (List.range spaceKey), 1, { tConn 1 true with serves := [tServe false] }, tServe false, 7,
    by refine ⟨rfl, rfl, rfl, no_index_left⟩⟩

theorem witness_MessagesComplete_10 : ∃ (s : State) (i : Nat) (c : Conn) (v : Serve) (tag : Half),
    s.conn? i = some c ∧ (c.serves.find? fun v => v.ready && v.tag == tag.toNat) = some v ∧ v.sentAt + max 200 s.applied.egrPeerHold.toNat * 1000 ≤ s.tide.uptime :=
  ⟨{ tNet fun c => { c with serves := [tServe true] } with tide := { Tide.reset with uptime := 2 ^ 40 } }, 1, { tConn 1 true with serves := [tServe true] }, tServe true, 7,
    by and_intros <;> first | decide +kernel | rfl⟩

theorem witness_MessagesComplete_11 : ∃ (s : State) (i : Nat) (tag : Half) (r : Request) (t : Stream),
    peerRequest i tag.toNat s = some r ∧ s.stream? r.key.stream = some t ∧ (s.anyWr fun w => w == .peerRead r.key) = false ∧ (s.anyWr fun w => w == .peerReq r.key) = false ∧ crc32c r.encoded = r.peerCrc :=
  ⟨tPeerRead, 1, 0, tPeerReq, tPeerStream, by and_intros <;> first | decide +kernel | rfl⟩

theorem witness_MessagesComplete_12 : ∃ (s : State) (i : Nat) (tag : Half) (r : Request) (t : Stream),
    peerRequest i tag.toNat s = some r ∧ s.stream? r.key.stream = some t ∧ (s.anyWr fun w => w == .peerRead r.key) = false ∧ (s.anyWr fun w => w == .peerReq r.key) = false ∧ crc32c r.encoded ≠ r.peerCrc :=
  ⟨tPeerReadOf { tPeerReq with peerCrc := 0 }, 1, 0, { tPeerReq with peerCrc := 0 }, tPeerStream,
    by and_intros <;> first | decide +kernel | rfl⟩

theorem witness_MessagesComplete_13 : ∃ (s : State) (i : Nat) (tag : Half) (r : Request) (t : Stream),
    peerRequest i tag.toNat s = some r ∧ s.stream? r.key.stream = some t :=
  ⟨tPeerRead, 1, 0, tPeerReq, tPeerStream, by and_intros <;> first | decide +kernel | rfl⟩

theorem witness_LinksComplete_1 : ∃ (s : State) (m : Fin 16) (own : Bool),
    bitOf s.egr.linksUp m = true :=
  ⟨tNet id, 0, true, by decide +kernel⟩

theorem witness_LinksComplete_2 : ∃ (s : State) (m : Fin 16) (own : Bool),
    bitOf s.egr.linksUp m = false :=
  ⟨tNoon, 0, true, by decide +kernel⟩

theorem witness_LinksComplete_3 : ∃ (s : State) (m : Fin 16),
    s.pwr.off = false ∧ s.sec.recovery = false ∧ s.host.hm ≠ .boot ∧ bitOf s.egr.linksUp m = false ∧
    s.egr.txOff = false ∧ linkExists s.applied.egrPort m = true ∧ ((8 ≤ (m : Nat) → s.fab.iod1 = true)) ∧
    s.egr.linksFrom ≤ s.tide.uptime :=
  ⟨tNoon, 10, by and_intros <;> first | decide +kernel | rfl⟩

theorem witness_LinksComplete_4 : ∃ (s : State) (i : Nat) (c : Conn),
    s.conn? i = some c ∧ c.error = none ∧ c.onAlt = true ∧ bitOf s.egr.linksUp c.link = true ∧
    s.egr.upSince.getD c.link 0 + 1000000000 ≤ s.tide.uptime ∧ c.atBoundary = true :=
  ⟨{ tNet fun c => { c with onAlt := true, alt := some 1 } with tide := { Tide.reset with uptime := 2 ^ 40 } }, 0, { tConn 0 false with onAlt := true, alt := some 1 },
    by and_intros <;> first | decide +kernel | rfl⟩

theorem witness_LinksComplete_5 : ∃ (s : State) (i : Nat) (c : Conn),
    s.conn? i = some c ∧ c.quiet = true ∧ c.quietAt + s.applied.egrQuiet.toNat * 1000 ≤ s.tide.uptime :=
  ⟨{ tNet fun c => { c with quiet := true } with tide := { Tide.reset with uptime := 2 ^ 50 } }, 0, { tConn 0 false with quiet := true },
    by and_intros <;> first | decide +kernel | rfl⟩

theorem witness_LinksComplete_6 : ∃ (s : State) (i : Nat) (c : Conn),
    s.conn? i = some c ∧ c.error = none ∧ c.hbAt ≤ s.tide.uptime ∧ s.hlth.grade ≠ 3 ∧ s.jobStopped = false :=
  ⟨tLater2 (tNet id), 0, tConn 0 false, by and_intros <;> first | decide +kernel | rfl⟩

theorem witness_DeliveryCompletes_1 : ∃ (s : State) (n : Fin 64) (m : Nat) (t : Stream) (b : Batch) (p : Partition),
    s.stream? n = some t ∧ s.batch? n m = some b ∧ s.partFor t = some p ∧ b.headerSent = false ∧
    t.b ≤ b.entries.length ∧ s.serving b.home = true ∧ ((b.timelock = true → ∀ h : Int,
    holdTime t b s = some h → h ≤ s.tide.time)) :=
  ⟨tDelivery, 3, 0, tStream 1, tFull, tPart 1,
    by refine ⟨rfl, rfl, rfl, rfl, by decide, by decide, ?_⟩; intro h; cases h⟩

theorem witness_DeliveryCompletes_2 : ∃ (s : State) (n : Fin 64) (m : Nat) (t : Stream) (b : Batch) (p : Partition)
    (h : Int),
    s.stream? n = some t ∧ s.batch? n m = some b ∧ s.partFor t = some p ∧ b.headerSent = false ∧
    t.b ≤ b.entries.length ∧ s.serving b.home = true ∧ b.timelock = true ∧ holdTime t b s = some h ∧
    (s.tide.time : Int) < h :=
  ⟨tLocked { tFull with timelock := true }, 3, 0, tStream 1, { tFull with timelock := true }, tPart 1, 8999997000,
    by and_intros <;> first | decide +kernel | rfl⟩

theorem witness_DeliveryCompletes_3 : ∃ (s : State) (n : Fin 64) (m : Nat) (t : Stream) (b : Batch) (p : Partition)
    (h : Int),
    s.stream? n = some t ∧ s.batch? n m = some b ∧ s.partFor t = some p ∧ holdTime t b s = some h ∧
    b.headerHeld = true ∧ s.serving b.home = true ∧ h ≤ s.tide.time :=
  ⟨tLater (tLocked { tFull with timelock := true, headerHeld := true }), 3, 0, tStream 1,
    { tFull with timelock := true, headerHeld := true }, tPart 1, 8999997000,
    by and_intros <;> first | decide +kernel | rfl⟩

theorem witness_DeliveryCompletes_4 : ∃ (s : State) (n : Fin 64) (num : Nat) (i : Nat) (t : Stream) (b : Batch)
    (p : Partition) (g : Group) (m : Member) (c : Nat) (j : Nat × Member),
    s.stream? n = some t ∧ s.batch? n num = some b ∧ s.partFor t = some p ∧ t.groupFor s.seed p num = some g ∧
    (openReceivers t p b s).find? (·.1 == i) = some j ∧ j.2 = m ∧ (s.lanesUp m).head? = some c ∧
    b.headerSent = true ∧ s.serving b.home = true ∧ tokenReady t b i m s = true :=
  ⟨tToken, 3, 0, 0, tStream 1, tTokBatch, tPart 1, ⟨0, false, [tMember]⟩, tMember, 0, (0, tMember),
    by and_intros <;> first | decide +kernel | rfl⟩

theorem witness_BreakwaterCompletes_1 : ∃ (s : State) (u : State) (m : Fin 16) (k : Nat) (ds : List Int) (c : Conn)
    (w : Wr) (j : Nat) (len : Nat),
    s.egr.txOff = false ∧ bitOf s.egr.linksUp m = true ∧ pickTurn m s = some (k, ds) ∧ pickClass m k s = some (c, w,
    j, len) ∧ u = (if bitOf (s.classRegs m k).class0 1 then s else { s with bw := { s.bw with drr := s.bw.drr.set m k } }) :=
  ⟨tFrame 2, tFrame 2, 0, 0, [0, 0, 0, 0, 0, 0, 0, 0], tFrameConn, tFrameWr, 0, tFrameLen,
    by refine ⟨?_, ?_, ?_, ?_, ?_⟩ <;> decide +kernel⟩

theorem witness_BreakwaterCompletes_2 : ∃ (s : State) (m : Fin 16),
    s.egr.txOff = false ∧ bitOf s.egr.linksUp m = true ∧ pickTurn m s = none :=
  ⟨tNet id, 0, by and_intros <;> first | decide +kernel | rfl⟩

theorem witness_BreakwaterCompletes_4 : ∃ (s : State) (i : Nat) (c : Conn),
    s.conn? i = some c ∧ c.error = none ∧ c.ccRate < 65536 ∧ c.ccTimer + 1000 * max 1 (fieldOf s.applied.bwCc 16 8)
    ≤ s.tide.uptime :=
  ⟨{ tNet fun c => { c with ccRate := 30000 } with tide := { Tide.reset with uptime := 2 ^ 40 } }, 0, { tConn 0 false with ccRate := 30000 },
    by and_intros <;> first | decide +kernel | rfl⟩

theorem witness_BreakwaterCompletes_6 : ∃ (s : State) (i : Nat) (c : Conn),
    s.asleep = false ∧ s.conn? i = some c ∧ c.active = true ∧ c.resident = false ∧ c.loading = false ∧
    c.copies ≠ [] ∧ s.residents.length < 4096 :=
  ⟨tNet fun c => { c with resident := false, queue := [tWr] }, 0, { tConn 0 false with resident := false, queue := [tWr] },
    by refine ⟨?_, ?_, ?_, ?_, ?_, ?_, ?_⟩ <;> decide +kernel⟩

theorem witness_BreakwaterCompletes_7 : ∃ (s : State) (i : Nat) (c : Conn) (x : Conn),
    s.asleep = false ∧ s.conn? i = some c ∧ c.active = true ∧ c.resident = false ∧ c.loading = false ∧ c.copies ≠ [] ∧ 4096 ≤ s.residents.length ∧ (s.residents.find? fun x => !x.active) = some x :=
  ⟨tCrowd, 0, { tConn 0 false with resident := false, queue := [tWr] }, tConn 7 false,
    by refine ⟨?_, ?_, ?_, ?_, ?_, ?_, ?_, ?_⟩ <;> decide +kernel⟩

theorem witness_BreakwaterCompletes_8 : ∃ (s : State) (a : State) (u : State),
    s.bw.slice < s.tide.uptime / 2000 ∧ a = { s with bw := { s.bw with slice := s.tide.uptime / 2000 } } ∧ u = a.each (s.egr.conns.filter (·.loading)) (fun c u => becomeResident c.idx (u.modConn c.idx fun c => { c with loading := false })) ∧ u.activeConns ≤ 4096 :=
  ⟨tSliced (tNet id), tSlicing (tNet id), tSlicing (tNet id), by and_intros <;> first | decide +kernel | rfl⟩

theorem witness_BreakwaterCompletes_9 : ∃ (s : State) (a : State) (u : State) (v : State) (w : State),
    s.bw.slice < s.tide.uptime / 2000 ∧ a = { s with bw := { s.bw with slice := s.tide.uptime / 2000 } } ∧ u = a.each (s.egr.conns.filter (·.loading)) (fun c u => becomeResident c.idx (u.modConn c.idx fun c => { c with loading := false })) ∧ 4096 < u.activeConns ∧ v = { u with bw := { u.bw with overcommit := u.bw.overcommit && !u.bw.overSlices, overSlices := false } } ∧ w = (if 256 < (swapPairs v).length then setEv .bw 8 (v.each ((swapPairs v).take 256) swapOne) else v.each ((swapPairs v).take 256) swapOne) :=
  ⟨tSliced tBusyNet, tSlicing tBusyNet, tSlicing tBusyNet, tBusyIn, tBusyAfter,
    by refine ⟨?_, rfl, ?_, ?_, rfl, rfl⟩ <;> decide +kernel⟩

theorem witness_BreakwaterCompletes_10 : ∃ (s : State) (n : Fin 8),
    s.fab.contextRecopy.contains (n : Nat) = true :=
  ⟨{ tNet (fun c => { c with copies := [4] }) with fab := { tNoon.fab with contextRecopy := [0] } }, 0, by decide +kernel⟩

theorem witness_BreakwaterCompletes_11 : ∃ (l : List Nat),
    l ≠ [] ∧ ((∀ n ∈ l, n < 8)) :=
  ⟨[3, 6], by refine ⟨?_, ?_⟩ <;> decide⟩

theorem witness_ProgramsAndErases_1 : ∃ (s : State) (a : State) (die : Nat) (blk : Nat) (page : Nat) (n : Nat)
    (src : ProgramSource) (ok : Bool) (u : UnitSource) (m : Media) (x : Stripe),
    s.media.sourceOf src = some u ∧ s.media.streamFor u (((s.media.block? die blk).map (·.stream)).getD 3) = n ∧
    s.media.target die blk n s.tide.uptime u = some (m, x) ∧ s.media.writable = true ∧ s.dieTested die = false ∧
    page = (m.slotsIn die blk).length ∧ page < m.slotsPer (n != 3) ∧
    (s.media.limited die u = false ∨ s.media.creditOf die ≠ 0) ∧ copyBuffer u s = (true, a) :=
  ⟨tFlash, tFlash, 0, 0, 0, 0, .unit 0, true, .buffered ⟨0, 0, 1, 0⟩, tMedia, tStripe,
    by and_intros <;> first | decide +kernel | rfl⟩

theorem witness_ProgramsAndErases_2 : ∃ (s : State) (a : State) (die : Nat) (blk : Nat) (page : Nat) (n : Nat)
    (src : ProgramSource) (ok : Bool) (u : UnitSource) (m : Media) (x : Stripe),
    s.media.sourceOf src = some u ∧ s.media.streamFor u (((s.media.block? die blk).map (·.stream)).getD 3) = n ∧
    s.media.target die blk n s.tide.uptime u = some (m, x) ∧ s.media.writable = true ∧ s.dieTested die = false ∧
    page = (m.slotsIn die blk).length ∧ page < m.slotsPer (n != 3) ∧
    (s.media.limited die u = false ∨ s.media.creditOf die ≠ 0) ∧ copyBuffer u s = (false, a) :=
  ⟨tCopyPoor, (copyBuffer tCopied tCopyPoor).2, 0, 0, 1, tCopyStream, .copy 0, true, tCopied, tCopyTarget.1,
    tCopyTarget.2,
    by and_intros <;> first | decide +kernel | rfl⟩

theorem witness_ProgramsAndErases_3 : ∃ (s : State) (die : Nat) (blk : Nat),
    s.media.writable = true ∧ s.media.erasable die blk = true ∧ s.dieTested die = false :=
  ⟨tClosed, 0, 0, by and_intros <;> first | decide +kernel | rfl⟩

theorem witness_ProgramsAndErases_4 : ∃ (s : State) (die : Nat) (blk : Nat),
    s.media.writable = true ∧ s.media.erasable die blk = true ∧ s.dieTested die = false :=
  ⟨tClosed, 0, 0, by and_intros <;> first | decide +kernel | rfl⟩

theorem witness_ProgramsAndErases_5 : ∃ (s : State) (g : Nat) (n : Nat) (bad : List Nat) (x : Stripe),
    (s.media.stripes.find? fun x => x.group == g && x.number == n && x.state == .closing) = some x ∧ (x.members.any fun y => s.dieTested y.1) = false ∧ (x.members.filter fun y => bad.contains y.1 && y.1 != x.parity) = [] ∧ s.media.copiesVerified x = true :=
  ⟨tClosing, 0, 0, [], { tStripe with state := .closing }, by and_intros <;> first | decide +kernel | rfl⟩

theorem witness_ProgramsAndErases_6 : ∃ (s : State) (g : Nat) (n : Nat) (bad : List Nat) (x : Stripe),
    (s.media.stripes.find? fun x => x.group == g && x.number == n && x.state == .closing) = some x ∧ (x.members.any fun y => s.dieTested y.1) = false ∧ (x.members.filter fun y => bad.contains y.1 && y.1 != x.parity) = [] ∧ s.media.copiesVerified x = false :=
  ⟨tClosingWait, 0, 0, [], { tStripe with state := .closing, waiting := [(0, 0)] },
    by and_intros <;> first | decide +kernel | rfl⟩

theorem witness_ProgramsAndErases_7 : ∃ (s : State) (g : Nat) (n : Nat) (bad : List Nat) (x : Stripe) (bs : List
    (Nat × Nat)),
    (s.media.stripes.find? fun x => x.group == g && x.number == n && x.state == .closing) = some x ∧ (x.members.any fun y => s.dieTested y.1) = false ∧ (x.members.filter fun y => bad.contains y.1 && y.1 != x.parity) = bs ∧ bs ≠ [] :=
  ⟨tClosing, 0, 0, [0], { tStripe with state := .closing }, [(0, 0)], by and_intros <;> first | decide +kernel | rfl⟩

theorem witness_MediaUpkeep_1 : ∃ (s : State),
    2 ^ 30 ≤ s.media.sinceStaging :=
  ⟨{ tFlash with media := { tFlash.media with sinceStaging := 2 ^ 30 } }, by decide +kernel⟩

theorem witness_MediaUpkeep_2 : ∃ (s : State),
    s.asleep = false ∧ s.media.writable = true ∧ s.media.foldBacklog ≠ 0 :=
  ⟨tFolding, by and_intros <;> first | decide +kernel | rfl⟩

theorem witness_MediaUpkeep_3 : ∃ (s : State) (die : Nat) (b : Block),
    s.asleep = false ∧ s.media.writable = true ∧ s.dieTested die = false ∧ 100 * s.media.freeBlocks die < 3 * s.media.geom.blocks ∧ s.media.rewriteWaits die = false ∧ leastBy (fun b => (s.media.validIn die b.block).length) ((s.media.victims die).filter (Block.collectable s.tide.uptime)) = some b :=
  ⟨tFullDie, 0, tFullBlock, by and_intros <;> first | decide +kernel | rfl⟩

theorem witness_MediaUpkeep_4 : ∃ (s : State) (die : Nat) (b : Block) (es : List Nat) (low : Nat),
    s.asleep = false ∧ s.media.writable = true ∧ s.dieTested die = false ∧ (s.media.blocks.filter (·.die == die)
    |>.map (·.erases)) = es ∧ low = (if es.length < s.media.geom.blocks then 0 else es.foldl min (es.headD 0)) ∧
    s.media.geom.rated < 10 * (es.foldl max 0 - low) ∧ s.media.keepsBack = true ∧ ((∀ t, (s.media.relocAt.find?
    (·.1 == die)).map (·.2) = some t → t + 10000000000 ≤ s.tide.uptime)) ∧ leastBy (·.erases) (s.media.victims die)
    = some b :=
  ⟨tWorn, 0, tWornBlock, [200], 0,
    by refine ⟨?_, ?_, ?_, ?_, ?_, ?_, ?_, fun t h => (by cases h), ?_⟩ <;> decide +kernel⟩

theorem witness_MediaUpkeep_5 : ∃ (s : State) (die : Nat) (blk : Nat) (b : Block),
    s.media.block? die blk = some b ∧ s.media.writable = true ∧ b.rewrite = true ∧ b.state = .closed ∧
    s.dieTested die = false :=
  ⟨{ tWorn with media := { tWorn.media with blocks := [{ tWornBlock with rewrite := true }] } }, 0, 1,
    { tWornBlock with rewrite := true },
    by and_intros <;> first | decide +kernel | rfl⟩

theorem witness_MediaUpkeep_6 : ∃ (s : State) (c : Fin 64) (l : List (Fin 16)),
    s.media.mounted = true :=
  ⟨tFlash, 0, [0], by decide +kernel⟩

theorem witness_MediaUpkeep_7 : ∃ (s : State) (die : Nat) (r : Bool),
    s.media.mounted = true ∧ s.media.hasDie die = true ∧ s.media.failedDies.contains die = false ∧
    (r = true ∨ 64 < s.media.failsOf die s.tide.uptime) :=
  ⟨tFlash, 0, true, by and_intros <;> first | decide +kernel | rfl⟩

theorem witness_MetadataAndBuffer_1 : ∃ (s : State) (u : State) (id : CmdId) (c : Cmd) (n : Nat) (sh : Nat) (f : Nat)
    (w : Nat) (xs : List (List Byte)) (p : Partition),
    (s.cmd? id fun c => match c.run with | .writeHeld .. => true | _ => false) = some c ∧ c.run = .writeHeld n sh f xs ∧ s.partSlot n = some p ∧ writeStatus p f xs s = none ∧ shardIn n sh f xs s = (some w, u) :=
  ⟨tCmdRun (.writeHeld 0 0 0 [[1]]), (shardIn 0 0 0 [[1]] (tCmdRun (.writeHeld 0 0 0 [[1]]))).2, tId, tCmd
    (.writeHeld 0 0 0 [[1]]), 0, 0, 0, 5, [[1]], tOpenPart, by decide +kernel, by first | decide +kernel | rfl,
    by first | decide +kernel | rfl, by decide +kernel, Prod.ext (by decide +kernel)
    (by first | rfl | decide +kernel)⟩

theorem witness_MetadataAndBuffer_2 : ∃ (s : State) (u : State) (id : CmdId) (c : Cmd) (n : Nat) (sh : Nat) (f : Nat)
    (xs : List (List Byte)) (p : Partition),
    (s.cmd? id fun c => match c.run with | .writeHeld .. => true | _ => false) = some c ∧ c.run = .writeHeld n sh f xs ∧ s.partSlot n = some p ∧ writeStatus p f xs s = none ∧ shardIn n sh f xs s = (none, u) :=
  ⟨tHeldPoor, (shardIn 0 0 0 [[1]] tHeldPoor).2, tId, tCmd (.writeHeld 0 0 0 [[1]]), 0, 0, 0, [[1]], tOpenPart,
    by decide +kernel, by first | decide +kernel | rfl, by first | decide +kernel | rfl, by decide +kernel, Prod.ext
    (by decide +kernel) (by first | rfl | decide +kernel)⟩

theorem witness_MetadataAndBuffer_3 : ∃ (s : State) (id : CmdId) (c : Cmd) (n : Nat) (sh : Nat) (f : Nat) (st : Nat)
    (xs : List (List Byte)) (p : Partition),
    (s.cmd? id fun c => match c.run with | .writeHeld .. => true | _ => false) = some c ∧ c.run = .writeHeld n sh f xs ∧ s.partSlot n = some p ∧ writeStatus p f xs s = some st :=
  ⟨tHeldSealed, tId, tCmd (.writeHeld 0 0 0 [[1]]), 0, 0, 0, 0x0208, [[1]], tPart 1,
    by and_intros <;> first | decide +kernel | rfl⟩

theorem witness_MetadataAndBuffer_4 : ∃ (s : State) (id : CmdId) (c : Cmd) (n : Nat) (sh : Nat) (f : Nat) (xs : List
    (List Byte)),
    (s.cmd? id fun c => match c.run with | .writeHeld .. => true | _ => false) = some c ∧ c.run = .writeHeld n sh f xs ∧ s.partSlot n = none :=
  ⟨tCmdRun (.writeHeld 7 0 0 [[1]]), tId, tCmd (.writeHeld 7 0 0 [[1]]), 7, 0, 0, [[1]],
    by and_intros <;> first | decide +kernel | rfl⟩

theorem witness_MetadataAndBuffer_5 : ∃ (s : State) (a : State) (id : CmdId) (c : Cmd) (n : Nat) (w : Nat) (st : Nat)
    (d : Nat),
    (s.cmd? id fun c => match c.run with | .flush .. => true | _ => false) = some c ∧ c.run = .flush n w false none ∧ s.media.flushed n w = true ∧ s.ltOn 3 = false ∧ flushPart n w s = (st, d, a) :=
  ⟨tCmdRun (.flush 0 3 false none), (flushPart 0 3 (tCmdRun (.flush 0 3 false none))).2.2, tId, tCmd
    (.flush 0 3 false none), 0, 3, 0, 4,
    by and_intros <;> first | decide +kernel | rfl⟩

theorem witness_MetadataAndBuffer_6 : ∃ (s : State) (id : CmdId) (c : Cmd) (n : Nat) (w : Nat) (d : Nat) (sl : Bool),
    (s.cmd? id fun c => match c.run with | .flush .. => true | _ => false) = some c ∧ c.run = .flush n w sl (some d) :=
  ⟨tCmdRun (.flush 0 3 false (some 2)), tId, tCmd (.flush 0 3 false (some 2)), 0, 3, 2, false,
    by and_intros <;> first | decide +kernel | rfl⟩

theorem witness_MetadataAndBuffer_7 : ∃ (s : State) (a : State) (b : State) (id : CmdId) (c : Cmd) (n : Nat)
    (w0 : Nat) (w : Nat) (st : Nat) (st2 : Nat) (d : Nat),
    (s.cmd? id fun c => match c.run with | .flush .. => true | _ => false) = some c ∧ c.run = .flush n w0 true none ∧ w = max w0 (((s.partSlot n).map (·.completed)).getD 0) ∧ s.media.flushed n w = true ∧ s.ltOn 3 = false ∧ flushPart n w s = (st, d, a) ∧ sealPart n d a = (st2, b) :=
  ⟨tCmdRun (.flush 0 3 true none), (flushPart 0 4 (tCmdRun (.flush 0 3 true none))).2.2, (sealPart 0 4 (flushPart 0 4
    (tCmdRun (.flush 0 3 true none))).2.2).2, tId, tCmd (.flush 0 3 true none), 0, 3, 4, 0, 0, 4,
    by and_intros <;> first | decide +kernel | rfl⟩

theorem witness_MetadataAndBuffer_8 : ∃ (s : State),
    s.media.writable = true ∧ s.ltOn 3 = false :=
  ⟨{ tFlash with media := { tFlash.media with journal := [.flush 0 1 2] } },
    by and_intros <;> first | decide +kernel | rfl⟩

theorem witness_MetadataAndBuffer_9 : ∃ (s : State),
    s.asleep = false ∧ s.media.writable = true ∧ s.ltOn 3 = false ∧ 2 ^ 32 ≤ s.media.sinceCheckpoint ∧
    s.media.pendingCheckpoint = none :=
  ⟨{ tFlash with media := { tFlash.media with sinceCheckpoint := 2 ^ 32 } },
    by and_intros <;> first | decide +kernel | rfl⟩

theorem witness_MetadataAndBuffer_10 : ∃ (s : State) (a : Bool) (b : Bool),
    s.ltOn 3 = false :=
  ⟨{ tFlash with media := { tFlash.media with pendingCheckpoint := some ⟨0, [], [], [], 0⟩ } }, true, true,
    by decide +kernel⟩

theorem witness_MetadataAndBuffer_11 : ∃ (s : State) (n : Nat),
    s.ltOn 3 = false :=
  ⟨tNoon, 0, by decide +kernel⟩

theorem witness_MetadataAndBuffer_12 : ∃ (s : State) (n : Fin 8),
    s.spdTested n = false :=
  ⟨tNoon, 0, by decide +kernel⟩

theorem witness_MetadataAndBuffer_13 : ∃ (s : State) (a : State) (roots : List Nat) (torn : List Nat) (wiped : List
    (Nat × Nat)),
    s.media.mounted = false ∧ s.media.unsupported = none ∧ s.host.fwReady = true ∧ s.sec.recovery = false ∧ s.host.broughtUp = true ∧ s.ltOn 3 = false ∧ a = mountReasons (setMedia (fun m => m.recover roots torn wiped s.tide.uptime) s) :=
  ⟨tNoon, mountReasons (setMedia (fun m => m.recover [] [] [] tNoon.tide.uptime) tNoon), [], [], [],
    by and_intros <;> first | decide +kernel | rfl⟩

theorem witness_MetadataAndBuffer_14 : ∃ (s : State) (roots : List Nat) (torn : List Nat) (wiped : List (Nat × Nat)),
    (s.media.mounted = true ∨ s.media.unsupported.isSome = true) :=
  ⟨tFlash, [], [], [], by decide +kernel⟩

theorem witness_MemoryAndCaches_1 : ∃ (s : State) (n : Fin 8) (row : Option HbmRow),
    s.clocked n = true ∧ ((∀ r, row = some r → ((s.fab.rowCe.filter fun x => decide (s.tide.uptime < x.2 + dayNs)).filter (·.1 == r)).length < 2)) :=
  ⟨tNoon, 0, some tRow, by refine ⟨by decide +kernel, ?_⟩; intro r h; decide +revert +kernel⟩

theorem witness_MemoryAndCaches_2 : ∃ (s : State) (n : Fin 8) (r : HbmRow),
    s.clocked n = true ∧ 2 ≤ ((s.fab.rowCe.filter fun x => decide (s.tide.uptime < x.2 + dayNs)).filter (·.1 == r)).length :=
  ⟨{ tNoon with fab := { tNoon.fab with rowCe := [(tRow, 0), (tRow, 0)] } }, 0, tRow,
    by and_intros <;> first | decide +kernel | rfl⟩

theorem witness_MemoryAndCaches_3 : ∃ (s : State) (a : State) (u : State) (p : MemPlace) (row : Option HbmRow),
    s.clocked (ueSpd p row) = true ∧ a = setEv .mem (if row.isSome then 2 else 1) s ∧ u = (match p with | .berth m (some k) => berthError m k a | .berth m none => countCorrected m a | .serveBerth m k va => countCorrected m (if row.isSome then readError (some k) va false a else a) | .cacheExtent m dec slot index remote => cacheError m dec slot index remote a | .mapSegment m seg both => countCorrected m (if both then { a with media := { a.media with reloadSegments := (seg :: a.media.reloadSegments).eraseDups } } else a) | .firmware m => countCorrected m a | .writeBuffer m both => if both then loseBuffer m a else countCorrected m a | .textTables m => countCorrected m (a.modSpd m fun d => { d with textReload := true }) | .jobSpace va => countContained (readError none va true (setEv .mem 2 a))) :=
  ⟨tNoon, setEv .mem 2 tNoon, countCorrected 1 ((setEv .mem 2 tNoon).modSpd 1 fun d => { d with textReload := true }), .textTables 1, some tRow,
    by and_intros <;> first | decide +kernel | rfl⟩

theorem witness_MemoryAndCaches_4 : ∃ (s : State) (hbm : Bool) (n : Nat) (k : Nat),
    s.pilotsRun = true ∧ k = (if bitOf s.applied.cfgDet 0 then 0 else n) :=
  ⟨tNoon, true, 5, 5, by and_intros <;> first | decide +kernel | rfl⟩

theorem witness_MemoryAndCaches_5 : ∃ (s : State) (n : Fin 8),
    s.clocked n = true :=
  ⟨tNoon, 0, by decide +kernel⟩

theorem witness_MemoryAndCaches_6 : ∃ (s : State) (k : Fin 24),
    s.clocked (k / 3) = true :=
  ⟨tNoon, 0, by decide +kernel⟩

theorem witness_MemoryAndCaches_7 : ∃ (s : State) (k : Fin 24),
    s.clocked (k / 3) = true :=
  ⟨tNoon, 0, by decide +kernel⟩

theorem witness_MemoryAndCaches_8 : ∃ (s : State) (n : Fin 8) (d : Spd) (upd : CacheEntry → CacheEntry),
    s.clocked n = true ∧ s.spd? n = some d ∧ d.sweep = true ∧ upd = (fun e => if e.due || e.key == .stale then { e with key := cacheKey s e.dsSlot e.index e.remote 64 (-1), due := false } else e) :=
  ⟨tSpdWith { tSpd with sweep := true }, 0, { tSpd with sweep := true }, keyAgain
    (tSpdWith { tSpd with sweep := true }),
    by and_intros <;> first | decide +kernel | rfl⟩

theorem witness_MemoryAndCaches_9 : ∃ (s : State) (t : State) (n : Fin 8) (d : Spd) (dec : List CacheEntry)
    (raw : List CacheEntry),
    s.clocked n = true ∧ s.spd? n = some d ∧ d.splitting = true ∧ dec = shrinkTo (decRoom s d) d.decCache ∧ raw = shrinkTo (rawRoom s d) d.rawCache ∧ (t = (s.modSpd n fun d => { d with splitting := !decide (unitsUsed dec ≤ decRoom s d ∧ unitsUsed raw ≤ rawRoom s d), decCache := dec, rawCache := raw })) :=
  ⟨tSpdWith { tSpd with splitting := true }, afterSplit (tSpdWith { tSpd with splitting := true }) 0, 0,
    { tSpd with splitting := true }, [], [],
    by and_intros <;> first | decide +kernel | rfl⟩

theorem witness_MemoryAndCaches_10 : ∃ (s : State) (u : State) (a : State),
    s.run.clearing = true ∧ u = s.each (List.range 8) (fun n u => keepSpill n (fun _ => []) u) ∧ a = postEvent 7 false (leBytes 4 s.jobId) { u with run := { JobRun.reset with endedId := s.jobId }, fab := { u.fab with spds := u.fab.spds.map Spd.cleared }, egr := { u.egr with jobMem := [] } } :=
  ⟨tEnding, tEnding.each (List.range 8) (fun n u => keepSpill n (fun _ => []) u), postEvent 7 false (leBytes 4 tEnding.jobId) (jobCleared (tEnding.each (List.range 8) (fun n u => keepSpill n (fun _ => []) u))),
    by and_intros <;> first | decide +kernel | rfl⟩

theorem witness_StagedRegistersApply_1 : ∃ (s : State) (w : Owner) (m : BitVec 11),
    s.heard w = true :=
  ⟨{ tNoon with rw := { RwRegs.reset with grpBnd := 0x2000 } }, .portA, 0x40, by decide +kernel⟩

theorem witness_StagedRegistersApply_2 : ∃ (s : State) (g : Nat),
    (isArmed g s = true ∨ fieldOf s.rw.grpBnd (2 * g) 2 = 3 ∨ (fieldOf s.rw.grpBnd (2 * g) 2 = 0 ∧ quiescent g s = false) ∨ (fieldOf s.rw.grpBnd (2 * g) 2 = 1 ∧ (s.run.streams.any fun t => t.num == fieldOf s.rw.applyStream 0 6) = false)) :=
  ⟨{ tNoon with rw := { RwRegs.reset with grpBnd := 0x3 } }, 0, by first | decide +kernel | rfl⟩

theorem witness_StagedRegistersApply_3 : ∃ (s : State) (g : Nat),
    isArmed g s = false ∧ fieldOf s.rw.grpBnd (2 * g) 2 ≠ 3 ∧ ((fieldOf s.rw.grpBnd (2 * g) 2 = 0 → quiescent g s = true)) ∧ ((fieldOf s.rw.grpBnd (2 * g) 2 = 1 → (s.run.streams.any fun t => t.num == fieldOf s.rw.applyStream 0 6) = true)) :=
  ⟨{ tNoon with rw := { RwRegs.reset with grpBnd := 0x2000 } }, 6, by refine ⟨?_, ?_, ?_, ?_⟩ <;> decide +kernel⟩

theorem witness_StagedRegistersApply_4 : ∃ (s : State) (w : Owner) (g : BitVec 11),
    s.heard w = true :=
  ⟨tNoon, .portA, 0x40, by decide +kernel⟩

theorem witness_StagedRegistersApply_5 : ∃ (s : State) (m : BitVec 11) (fall : List Arm),
    (s.arms.filter fun a => bitOf m a.group && boundaryFalls s a) = fall :=
  ⟨{ tNoon with arms := [⟨6, 0, 0, 0, 0, 0, [], 0⟩] }, 0x40, [⟨6, 0, 0, 0, 0, 0, [], 0⟩],
    by first | decide +kernel | rfl⟩

theorem witness_StagedRegistersApply_6 : ∃ (s : State) (fall : List Arm),
    (s.arms.filter fun a => a.boundary == 2 && stepDue s a) = fall :=
  ⟨{ tNoon with arms := [⟨6, 2, 0, 0, 3, 0, [], 0⟩], tide := { Tide.reset with stepState := .tracking, step := 3 } },
    [⟨6, 2, 0, 0, 3, 0, [], 0⟩], by first | decide +kernel | rfl⟩

theorem witness_StagedRegistersApply_9 : ∃ (s : State) (v : Word) (m : Bool),
    s.guard.computing = true ∧ crc32c (s.applied.words.flatMap (leBytes 4)) = v ∧ m =
    (s.guard.refValid && !s.guard.pending && v != s.guard.committed) :=
  ⟨tGuarded 5, crc32c (tFew.words.flatMap (leBytes 4)), true, by refine ⟨?_, ?_, ?_⟩ <;> decide +kernel⟩

theorem witness_StagedRegistersApply_10 : ∃ (s : State) (w : Owner) (m : Bool),
    s.heard w = true ∧ s.arms = [] ∧ m = (s.guard.done && s.guard.crc != s.rw.grdRef) :=
  ⟨{ tNoon with guard := ⟨0, 7, false, false, false, false, false, true⟩ }, .portA, false,
    by and_intros <;> first | decide +kernel | rfl⟩

theorem witness_StagedRegistersApply_11 : ∃ (s : State) (w : Owner),
    s.heard w = true ∧ s.arms ≠ [] :=
  ⟨{ tNoon with arms := [⟨6, 0, 0, 0, 0, 0, [], 0⟩] }, .portA, by and_intros <;> first | decide +kernel | rfl⟩

theorem witness_MailboxesComplete_1 : ∃ (s : State) (rs : List Owner) (m : MbxId) (w : Option Owner)
    (h : Option Owner) (l : Option Owner),
    rsGrant (rs.filter (reaches · m.set s)) (s.mbx m).lock (s.mbx m).lastContest = (w, h, l) :=
  ⟨tMbx ⟨0, .idle, 0, false, none, none, 0, 0⟩, [.portA, .harbourmaster], ⟨.a, 0⟩, some .portA, some .portA,
    some .portA, by first | decide +kernel | rfl⟩

theorem witness_MailboxesComplete_3 : ∃ (s : State) (m : MbxId) (o : Owner),
    reaches o m.set s = true ∧ (s.mbx m).lock = some o ∧ (s.mbx m).state = .idle :=
  ⟨tMbx ⟨0, .idle, 0, false, some .portA, none, 0, 0⟩, ⟨.a, 0⟩, .portA,
    by and_intros <;> first | decide +kernel | rfl⟩

theorem witness_MailboxesComplete_4 : ∃ (s : State) (m : MbxId) (o : Owner),
    reaches o m.set s = true ∧ (s.mbx m).lock = some o ∧ ((s.mbx m).state = .reply ∨ (s.mbx m).state = .aborted) :=
  ⟨tMbx ⟨0, .aborted, 0, false, some .portA, none, 0, 0⟩, ⟨.a, 0⟩, .portA,
    by and_intros <;> first | decide +kernel | rfl⟩

theorem witness_MailboxesComplete_5 : ∃ (s : State) (m : MbxId) (o : Owner),
    reaches o m.set s = true ∧ (s.mbx m).lock = some o ∧ ((s.mbx m).state = .posted ∨ (s.mbx m).state = .taken) :=
  ⟨tMbx ⟨0, .taken, 0, false, some .portA, none, 0, 0⟩, ⟨.a, 0⟩, .portA,
    by and_intros <;> first | decide +kernel | rfl⟩

theorem witness_MailboxesComplete_6 : ∃ (s : State) (m : MbxId) (o : Owner) (v : Word),
    (reaches o m.set s = false ∨ (s.mbx m).lock ≠ some o ∨ v ≠ 0) :=
  ⟨tMbx ⟨0, .idle, 0, false, none, none, 0, 0⟩, ⟨.a, 0⟩, .portA, 0, by decide +kernel⟩

theorem witness_MailboxesComplete_7 : ∃ (s : State) (m : MbxId) (o : Owner) (i : Fin 16) (v : Word),
    reaches o m.set s = true ∧ (s.mbx m).lock = some o ∧ (s.mbx m).state = .idle :=
  ⟨tMbx ⟨0, .idle, 0, false, some .portA, none, 0, 0⟩, ⟨.a, 0⟩, .portA, 3, 0xFFFFFFFF,
    by and_intros <;> first | decide +kernel | rfl⟩

theorem witness_MailboxesComplete_8 : ∃ (s : State) (m : MbxId) (o : Owner),
    reaches o m.set s = true ∧ (s.mbx m).lock = some o ∧ (s.mbx m).state = .idle :=
  ⟨tMbx ⟨0, .idle, 0, false, some .portA, none, 0, 0⟩, ⟨.a, 0⟩, .portA,
    by and_intros <;> first | decide +kernel | rfl⟩

theorem witness_MailboxesComplete_9 : ∃ (s : State) (m : MbxId) (o : Owner),
    reaches o m.set s = true ∧ (s.mbx m).lock = some o ∧ ((s.mbx m).state = .reply ∨ (s.mbx m).state = .aborted) :=
  ⟨tMbx ⟨0, .reply, 0, false, some .portA, none, 0, 0⟩, ⟨.a, 0⟩, .portA,
    by and_intros <;> first | decide +kernel | rfl⟩

theorem witness_MailboxesComplete_11 : ∃ (s : State) (m : MbxId) (n : Nat) (k : Nat),
    (s.host.bells.find? fun x => Via.isMbx x.1) = some (.mbx m, n, k) ∧ (s.mbx m).state = .posted ∧ s.firmwareServes = true :=
  ⟨{ tMbx ⟨0, .posted, 0, false, some .portA, none, 0, 0⟩ with host := { (tMbx ⟨0, .posted, 0, false, some .portA, none, 0, 0⟩).host with bells := [(.mbx ⟨.a, 0⟩, 4, 0)] } }, ⟨.a, 0⟩, 4, 0,
    by and_intros <;> first | decide +kernel | rfl⟩

theorem witness_MailboxesComplete_12 : ∃ (s : State) (u : State) (m : MbxId) (x : Completion),
    (s.host.replies.find? (·.id.via == .mbx m)) = some x ∧ x.orphan = false ∧ u = (s.modHost fun h => { h with replies := h.replies.filter (· != x) }) ∧ (u.mbx m).state = .taken :=
  ⟨tReplying, tReplied, ⟨.a, 0⟩, ⟨⟨.mbx ⟨.a, 0⟩, 0⟩, 0, 0, [], false⟩, by and_intros <;> first | decide +kernel | rfl⟩

theorem witness_MailboxesComplete_13 : ∃ (s : State) (m : MbxId) (x : Completion),
    (s.host.replies.find? (·.id.via == .mbx m)) = some x ∧ x.orphan = true :=
  ⟨tOrphan, ⟨.a, 0⟩, ⟨⟨.mbx ⟨.a, 0⟩, 0⟩, 0, 0, [], true⟩, by and_intros <;> first | decide +kernel | rfl⟩

theorem witness_MailboxesComplete_14 : ∃ (s : State) (u : State) (m : MbxId) (x : Completion),
    (s.host.replies.find? (·.id.via == .mbx m)) = some x ∧ x.orphan = false ∧ u = (s.modHost fun h => { h with replies := h.replies.filter (· != x) }) ∧ (u.mbx m).state ≠ .taken :=
  ⟨tLateReply, (tLateReply.modHost fun h => { h with replies := [] }), ⟨.a, 0⟩, ⟨⟨.mbx ⟨.a, 0⟩, 0⟩, 0, 0, [], false⟩,
    by and_intros <;> first | decide +kernel | rfl⟩

theorem witness_SemaphoresAndPorts_1 : ∃ (s : State) (rs : List Owner) (k : Fin 64) (w : Option Owner)
    (h : Option Owner) (l : Option Owner),
    rsGrant (rs.filter s.heard) (s.sem k).owner (s.sem k).lastContest = (w, h, l) :=
  ⟨tNoon, [.portB], 5, some .portB, some .portB, none, by first | decide +kernel | rfl⟩

theorem witness_SemaphoresAndPorts_2 : ∃ (s : State) (k : Fin 64) (o : Owner),
    (s.sem k).owner = some o ∧ s.heard o = true :=
  ⟨tNoon.modSem 5 fun x => { x with owner := some .portA }, 5, .portA, by and_intros <;> first | decide +kernel | rfl⟩

theorem witness_SemaphoresAndPorts_3 : ∃ (s : State) (k : Fin 64) (o : Owner) (v : Word),
    ((s.sem k).owner ≠ some o ∨ v ≠ 0 ∨ s.heard o = false) :=
  ⟨tNoon, 5, .portA, 0, by decide +kernel⟩

theorem witness_SemaphoresAndPorts_4 : ∃ (s : State) (a : State) (b : State) (p : Port) (c : PortResetCause),
    a = ((s.modPort p fun h => { h with linkUp := false, d3 := false, perst := c == PortResetCause.perst || h.perst, vecMask := BitVec.allOnes 256, vecPend := 0, vectors := List.replicate 256 (0, 0), cfg := PciConfig.reset, events := [], lostNext := false }).each (setOf p) mbxPortReset) ∧ b = { a with sec := { a.sec with sessions := a.sec.sessions.filter (·.transport != .doe p) } } :=
  ⟨tNoon, (tNoon.modPort .a fun h => { h with linkUp := false, d3 := false, perst := true, vecMask := BitVec.allOnes 256, vecPend := 0, vectors := List.replicate 256 (0, 0), cfg := PciConfig.reset, events := [], lostNext := false }).each (setOf .a) mbxPortReset, (tNoon.modPort .a fun h => { h with linkUp := false, d3 := false, perst := true, vecMask := BitVec.allOnes 256, vecPend := 0, vectors := List.replicate 256 (0, 0), cfg := PciConfig.reset, events := [], lostNext := false }).each (setOf .a) mbxPortReset, .a, .perst,
    by and_intros <;> first | decide +kernel | rfl⟩

theorem witness_SemaphoresAndPorts_6 : ∃ (s : State) (p : Port),
    (s.host.port p).perst = false ∧ s.pwr.off = false ∧ s.pwr.testEn = false ∧ (s.host.port p).linkUp = false ∧ (match p with | .a => s.fab.iod0 | .b => s.fab.iod1 || !s.host.broughtUp) = true ∧ testsPort p s = false :=
  ⟨tPorts, .b, by and_intros <;> first | decide +kernel | rfl⟩

theorem witness_SemaphoresAndPorts_7 : ∃ (s : State) (p : Port) (d : Bool),
    (s.host.port p).linkUp = true :=
  ⟨tPorts.modPort .a fun h => { h with linkUp := true }, .a, true, by decide +kernel⟩

theorem witness_SemaphoresAndPorts_8 : ∃ (s : State),
    s.host.hm = .restarting :=
  ⟨{ tNoon with host := { tNoon.host with hm := .restarting } }, by first | decide +kernel | rfl⟩

theorem witness_SemaphoresAndPorts_9 : ∃ (s : State),
    s.host.hm ≠ .restarting :=
  ⟨tNoon, by decide +kernel⟩

theorem witness_QuaysComplete_1 : ∃ (s : State) (q : QuayId) (v : Word) (y : Quay),
    s.heard q.port.owner = true ∧ s.quay? q = some y ∧ fieldOf v 0 16 < y.sqN ∧ y.error = none ∧
    deleting q s = false ∧ fieldOf v 0 16 ≠ y.sqTail :=
  ⟨tQuays id, ⟨.a, 1⟩, 2, tQuay, by and_intros <;> first | decide +kernel | rfl⟩

theorem witness_QuaysComplete_2 : ∃ (s : State) (q : QuayId) (v : Word) (y : Quay),
    s.heard q.port.owner = true ∧ s.quay? q = some y ∧ y.sqN ≤ fieldOf v 0 16 :=
  ⟨tQuays id, ⟨.a, 1⟩, 4, tQuay, by and_intros <;> first | decide +kernel | rfl⟩

theorem witness_QuaysComplete_3 : ∃ (s : State) (q : QuayId) (v : Word) (y : Quay),
    s.heard q.port.owner = true ∧ s.quay? q = some y ∧ fieldOf v 0 16 < y.sqN ∧
    ((y.error.isSome = true ∨ deleting q s = true ∨ fieldOf v 0 16 = y.sqTail)) :=
  ⟨tQuays id, ⟨.a, 1⟩, 0, tQuay, by and_intros <;> first | decide +kernel | rfl⟩

theorem witness_QuaysComplete_4 : ∃ (s : State) (q : QuayId) (v : Word) (y : Quay),
    s.heard q.port.owner = true ∧ s.quay? q = some y ∧ fieldOf v 0 16 < y.cqN ∧ (fieldOf v 0 16 + y.cqN - y.cqHead)
    % y.cqN ≤ y.unconsumed :=
  ⟨tQuays fun y => { y with cqTail := 2 }, ⟨.a, 1⟩, 1, { tQuay with cqTail := 2 },
    by and_intros <;> first | decide +kernel | rfl⟩

theorem witness_QuaysComplete_5 : ∃ (s : State) (q : QuayId) (v : Word) (y : Quay),
    s.heard q.port.owner = true ∧ s.quay? q = some y ∧ y.cqN ≤ fieldOf v 0 16 :=
  ⟨tQuays id, ⟨.a, 1⟩, 4, tQuay, by and_intros <;> first | decide +kernel | rfl⟩

theorem witness_QuaysComplete_6 : ∃ (s : State) (q : QuayId) (v : Word) (y : Quay),
    s.heard q.port.owner = true ∧ s.quay? q = some y ∧ fieldOf v 0 16 < y.cqN ∧ y.unconsumed <
    (fieldOf v 0 16 + y.cqN - y.cqHead) % y.cqN :=
  ⟨tQuays id, ⟨.a, 1⟩, 1, tQuay, by and_intros <;> first | decide +kernel | rfl⟩

theorem witness_QuaysComplete_7 : ∃ (s : State) (q : QuayId) (y : Quay) (v : Via) (n : Nat) (k : Nat),
    s.quay? q = some y ∧ s.host.bells.find? (·.1 == .quay q) = some (v, n, k) ∧ s.firmwareServes = true ∧
    bellAsleep v s = false ∧ s.portReached q.port = true :=
  ⟨tBell 2, ⟨.a, 1⟩, tQuay, .quay ⟨.a, 1⟩, 3, 2, by and_intros <;> first | decide +kernel | rfl⟩

theorem witness_QuaysComplete_8 : ∃ (s : State) (q : QuayId) (e : BitVec 512) (y : Quay) (v : Via) (n : Nat)
    (k : Nat),
    s.quay? q = some y ∧ s.host.bells.find? (·.1 == .quay q) = some (v, n, k) ∧ s.firmwareServes = true ∧
    bellAsleep v s = false ∧ s.portReached q.port = true ∧ (y.sqHead + 1) % y.sqN ≠ k :=
  ⟨tBell 2, ⟨.a, 1⟩, 6, tQuay, .quay ⟨.a, 1⟩, 3, 2, by and_intros <;> first | decide +kernel | rfl⟩

theorem witness_QuaysComplete_9 : ∃ (s : State) (q : QuayId) (e : BitVec 512) (y : Quay) (v : Via) (n : Nat)
    (k : Nat),
    s.quay? q = some y ∧ s.host.bells.find? (·.1 == .quay q) = some (v, n, k) ∧ s.firmwareServes = true ∧
    bellAsleep v s = false ∧ s.portReached q.port = true ∧ (y.sqHead + 1) % y.sqN = k :=
  ⟨tBell 1, ⟨.a, 1⟩, 6, tQuay, .quay ⟨.a, 1⟩, 3, 1, by and_intros <;> first | decide +kernel | rfl⟩

theorem witness_QuaysComplete_10 : ∃ (s : State) (q : QuayId) (y : Quay) (x : Completion) (xs : List Completion),
    s.quay? q = some y ∧ y.waiting = x :: xs ∧ y.full = false ∧ (s.host.port q.port).dmaOff = false ∧
    s.portReached q.port = true :=
  ⟨tQuays fun y => { y with waiting := [tTag] }, ⟨.a, 1⟩, { tQuay with waiting := [tTag] }, tTag, [],
    by and_intros <;> first | decide +kernel | rfl⟩

theorem witness_QuaysComplete_11 : ∃ (s : State) (q : QuayId) (y : Quay) (x : Completion) (xs : List Completion),
    s.quay? q = some y ∧ y.waiting = x :: xs ∧ y.full = false ∧ (s.host.port q.port).dmaOff = false ∧
    s.portReached q.port = true :=
  ⟨tQuays fun y => { y with waiting := [tTag] }, ⟨.a, 1⟩, { tQuay with waiting := [tTag] }, tTag, [],
    by and_intros <;> first | decide +kernel | rfl⟩

theorem witness_QuaysComplete_12 : ∃ (s : State) (q : QuayId) (y : Quay),
    s.quay? q = some y ∧ 1 ≤ y.sinceMsg ∧ y.msgSince + y.coalTime * 1000 ≤ s.mono :=
  ⟨tQuays fun y => { y with sinceMsg := 1 }, ⟨.a, 1⟩, { tQuay with sinceMsg := 1 },
    by and_intros <;> first | decide +kernel | rfl⟩

theorem witness_QuaysComplete_13 : ∃ (s : State) (id : CmdId) (c : Cmd),
    Starts id 0x02 c false none s ∧ s.quay? c.quayArg = none :=
  ⟨tOn tNoon [(0, 2), (28, 2), (30, 2)], tId, tSalsia [(0, 2), (28, 2), (30, 2)], ⟨by decide +kernel,
    by decide +kernel, by decide +kernel⟩, by decide +kernel⟩

theorem witness_QuaysComplete_14 : ∃ (s : State) (id : CmdId) (c : Cmd),
    Starts id 0x03 c false none s ∧ (s.quay? c.quayArg).isSome = true ∧ c.id.via ≠ .quay c.quayArg ∧
    deleting c.quayArg s = false :=
  ⟨tOn (tQuays id) [(0, 3), (24, 1)], tId, tSalsia [(0, 3), (24, 1)], ⟨by decide +kernel, by decide +kernel,
    by decide +kernel⟩, by decide +kernel, by decide +kernel, by decide +kernel⟩

theorem witness_CommandsOfTheQueues_1 : ∃ (s : State) (id : CmdId) (c : Cmd),
    (s.cmd? id fun c => c.run == .queued) = some c ∧ starts c s = true ∧ opcodeKnown c.opcode = false :=
  ⟨tOn tNoon [(0, 0xFF)], tId, tSalsia [(0, 0xFF)], by and_intros <;> first | decide +kernel | rfl⟩

theorem witness_CommandsOfTheQueues_2 : ∃ (s : State) (id : CmdId) (c : Cmd) (x : Cmd),
    Starts id 0x04 c false none s ∧ (s.cmd? ⟨c.targetVia, BitVec.ofNat 16 (c.arg 26 2)⟩ fun x => !x.orphan && !x.dup && x.order != c.order) = some x ∧ abortReason x s = 0 :=
  ⟨tAborting, tId, tSalsia [(0, 4), (24, 0x82), (26, 7)], tTarget, ⟨by decide +kernel, by decide +kernel,
    by decide +kernel⟩, by decide +kernel, by first | decide +kernel | rfl⟩

theorem witness_CommandsOfTheQueues_3 : ∃ (s : State) (id : CmdId) (c : Cmd) (x : Cmd),
    Starts id 0x04 c false none s ∧ (s.cmd? ⟨c.targetVia, BitVec.ofNat 16 (c.arg 26 2)⟩ fun x => !x.orphan && !x.dup && x.order != c.order) = some x ∧ abortReason x s ≠ 0 :=
  ⟨tAbortLate, tId, tSalsia [(0, 4), (24, 0x82), (26, 7)], { tTarget with run := .jobEnd }, ⟨by decide +kernel,
    by decide +kernel, by decide +kernel⟩, by decide +kernel, by decide +kernel⟩

theorem witness_CommandsOfTheQueues_4 : ∃ (s : State) (id : CmdId) (c : Cmd),
    Starts id 0x04 c false none s ∧ (s.cmd? ⟨c.targetVia, BitVec.ofNat 16 (c.arg 26 2)⟩ fun x => !x.orphan && !x.dup && x.order != c.order) = none :=
  ⟨tOn tNoon [(0, 4), (24, 0x82), (26, 7)], tId, tSalsia [(0, 4), (24, 0x82), (26, 7)], ⟨by decide +kernel,
    by decide +kernel, by decide +kernel⟩, by decide +kernel⟩

theorem witness_CommandsOfTheQueues_5 : ∃ (s : State) (id : CmdId) (c : Cmd),
    Starts id 0x05 c false none s ∧ (waitingEvents (viaPort c.id.via) s).length < 16 :=
  ⟨tOn tNoon [(0, 5)], tId, tSalsia [(0, 5)], ⟨by decide +kernel, by decide +kernel, by decide +kernel⟩,
    by decide +kernel⟩

theorem witness_CommandsOfTheQueues_6 : ∃ (s : State) (p : Port) (c : Cmd) (cs : List Cmd) (e : AsyncEvent)
    (es : List AsyncEvent),
    waitingEvents p s = c :: cs ∧ (s.host.port p).events = e :: es :=
  ⟨tEventful, .a, tCmd .getEvent, [], ⟨3, true, false, []⟩, [], by and_intros <;> first | decide +kernel | rfl⟩

theorem witness_CommandsOfTheQueues_7 : ∃ (s : State) (id : CmdId) (c : Cmd),
    Starts id 0x06 c false none s ∧ s.host.selfTest = none :=
  ⟨tOn tNoon [(0, 6), (24, 1)], tId, tSalsia [(0, 6), (24, 1)], ⟨by decide +kernel, by decide +kernel,
    by decide +kernel⟩, by decide +kernel⟩

theorem witness_CommandsOfTheQueues_8 : ∃ (s : State) (id : CmdId) (c : Cmd),
    Starts id 0x06 c false none s ∧ s.host.selfTest.isSome = true :=
  ⟨tTestBusy, tId, tSalsia [(0, 6), (24, 1)], ⟨by decide +kernel, by decide +kernel, by decide +kernel⟩,
    by decide +kernel⟩

theorem witness_CommandsOfTheQueues_9 : ∃ (s : State) (a : State) (t : SelfTest) (c : Cmd) (i : Nat) (l : List
    (Nat × List CodewordResult)),
    s.host.selfTest = some t ∧ s.host.cmds.find? (·.run == .selfTest) = some c ∧ t.paused = false ∧ itemWaits t.step i s = false ∧ s.each (if t.step = 7 then l else []) (fun (pua, cs) u => countUnit pua cs (countUnitPerf pua cs u)) = a :=
  ⟨tTesting 1, tTesting 1, ⟨tId, false, 1, false, 0, 0, none, false⟩, tCmd .selfTest, 0, [],
    by and_intros <;> first | decide +kernel | rfl⟩

theorem witness_CommandsOfTheQueues_10 : ∃ (s : State) (t : SelfTest) (c : Cmd) (b : Bool) (i : Nat) (l : List
    (Nat × List CodewordResult)),
    s.host.selfTest = some t ∧ s.host.cmds.find? (·.run == .selfTest) = some c ∧ t.paused = false ∧
    itemWaits t.step i s = false ∧ t.step ≠ 7 ∧ t.aborted = false ∧ t.step ≠ (if t.extended then 8 else 6) :=
  ⟨tTesting 1, ⟨tId, false, 1, false, 0, 0, none, false⟩, tCmd .selfTest, false, 5, [],
    by and_intros <;> first | decide +kernel | rfl⟩

theorem witness_CommandsOfTheQueues_11 : ∃ (s : State) (t : SelfTest) (c : Cmd) (b : Bool) (i : Nat) (l : List
    (Nat × List CodewordResult)),
    s.host.selfTest = some t ∧ s.host.cmds.find? (·.run == .selfTest) = some c ∧ t.paused = false ∧
    itemWaits t.step i s = false ∧ t.aborted = false ∧ t.step = (if t.extended then 8 else 6) :=
  ⟨tTesting 6, ⟨tId, false, 6, false, 0, 0, none, false⟩, tCmd .selfTest, false, 9, [],
    by and_intros <;> first | decide +kernel | rfl⟩

theorem witness_CommandsOfTheQueues_12 : ∃ (s : State) (t : SelfTest) (c : Cmd) (b : Bool) (i : Nat) (l : List
    (Nat × List CodewordResult)),
    s.host.selfTest = some t ∧ s.host.cmds.find? (·.run == .selfTest) = some c ∧ t.paused = false ∧
    itemWaits t.step i s = false ∧ t.step ≠ 7 ∧ t.aborted = true :=
  ⟨tTestCaught, ⟨tId, false, 2, false, 0, 0, none, true⟩, tCmd .selfTest, true, 5, [],
    by and_intros <;> first | decide +kernel | rfl⟩

theorem witness_CommandsOfTheQueues_13 : ∃ (s : State) (t : SelfTest) (q : Nat),
    s.host.selfTest = some t ∧ hostPending s = false ∧ t.quietSince = some q ∧ q + 1000000 ≤ s.mono :=
  ⟨tQuiet, ⟨tId, false, 1, true, 0, 0, some 0, false⟩, 0, by and_intros <;> first | decide +kernel | rfl⟩

theorem witness_WindowWritesComplete_1 : ∃ (s : State) (w : Owner) (o : Nat) (v : Word) (k : Source),
    s.heard w = true ∧ o / 0x4000 % 16 ≠ 15 ∧ sourceAt (regOffset o) = some k :=
  ⟨tNoon, .portA, 0x504, 1, .mem, by and_intros <;> first | decide +kernel | rfl⟩

theorem witness_WindowWritesComplete_2 : ∃ (s : State) (t : State) (w : Owner) (o : Nat) (v : Word),
    s.heard w = true ∧ o / 0x4000 % 16 ≠ 15 ∧ evWrite w o v s = some t :=
  ⟨tNoon, tNoon.modHost (fun h => { h with semAbn := h.semAbn &&& ~~~((1 : Word).setWidth 64) }), .portA, 0xC200, 1,
    by and_intros <;> first | decide +kernel | rfl⟩

theorem witness_WindowWritesComplete_3 : ∃ (s : State) (w : Owner) (o : Nat) (v : Word),
    s.heard w = true ∧ o / 0x4000 % 16 ≠ 15 ∧ evWrite w o v s = none :=
  ⟨tNoon, .portA, 0x38004, 1, by and_intros <;> first | decide +kernel | rfl⟩

theorem witness_WindowWritesComplete_4 : ∃ (s : State) (w : Owner) (o : Nat) (v : Word),
    s.heard w = true ∧ o / 0x4000 % 16 = 15 :=
  ⟨tNoon, .portA, 0x3C504, 1, by and_intros <;> first | decide +kernel | rfl⟩

theorem witness_WindowWritesComplete_5 : ∃ (s : State) (w : Owner) (p : Port) (v : Word),
    s.heard w = true :=
  ⟨tNoon, .portA, .b, 0xFFFFFFFF, by decide +kernel⟩

theorem witness_WindowWritesComplete_6 : ∃ (s : State) (w : Owner) (x : HostWrite) (o : Nat) (v : Word) (m : Word)
    (f : Word → RwRegs → RwRegs),
    s.heard w = true ∧ x.space = .window ∧ x.addr = o ∧ wholeWords x 4 = true ∧ wordOf x 0 = v ∧
    o / 0x4000 % 16 ≠ 15 ∧ evWrite w o v s = none ∧ rwReg (regOffset o) = some (m, f) :=
  ⟨tNoon, .portA, tWholeWord 0x10004 0xFFFFFFFF, 0x10004, 0xFFFFFFFF, 0x3FFFFF, (fun v t => { t with grpBnd := v }),
    by and_intros <;> first | decide +kernel | rfl⟩

theorem witness_WindowWritesComplete_7 : ∃ (s : State) (w : Owner) (x : HostWrite) (o : Nat) (v : Word),
    s.heard w = true ∧ x.space = .window ∧ x.addr = o ∧ wholeWords x 4 = true ∧ wordOf x 0 = v ∧
    o / 0x4000 % 16 ≠ 15 ∧ evWrite w o v s = none ∧ rwReg (regOffset o) = none :=
  ⟨tNoon, .portA, tWholeWord 0x10100 0xFFFFFFFF, 0x10100, 0xFFFFFFFF, by and_intros <;> first | decide +kernel | rfl⟩

theorem witness_WindowWritesComplete_8 : ∃ (s : State) (w : Owner) (a : Nat) (g : Nat) (v : Word) (m : Word)
    (get : StRegs → Word) (set : Word → StRegs → StRegs),
    a < 0x1000 ∧ stReg s.rw a = some (g, m, get, set) :=
  ⟨tNoon, .portA, 0x500, 1, 1, 0xFFF, (·.cfgCache), (fun v t => { t with cfgCache := v }),
    by and_intros <;> first | decide +kernel | rfl⟩

theorem witness_WindowWritesComplete_9 : ∃ (s : State) (w : Owner) (x : HostWrite),
    s.heard w = true ∧ x.space = .window ∧ wholeWords x 4 = false ∧ wholeWords x 8 = true :=
  ⟨tNoon, .portA, ⟨.window, 0x10000, List.replicate 8 (0x41, true)⟩, by and_intros <;> first | decide +kernel | rfl⟩

theorem witness_WindowWritesComplete_10 : ∃ (s : State) (w : Owner) (p : Port) (x : HostWrite),
    ownerPort w = some p ∧ (s.host.port p).mapped = true ∧ x.space = .vectors ∧ wholeWords x 4 = true :=
  ⟨tNoon, .portA, .a, ⟨.vectors, 0x18, List.replicate 4 (0x41, true)⟩, by and_intros <;> first | decide +kernel | rfl⟩

theorem witness_WindowWritesComplete_11 : ∃ (s : State) (w : Owner) (p : Port) (x : HostWrite) (k : CfgReg)
    (old : Word),
    ownerPort w = some p ∧ (s.host.port p).linkUp = true ∧ x.space = .config k ∧ (old =
    (if k = .aerUncorrectable ∨ k = .aerCorrectable then 0 else configWord (s.host.port p) k)) :=
  ⟨tNoon, .portA, .a, ⟨.config .command, 0, [(6, true)]⟩, .command, 6, by and_intros <;> first | decide +kernel | rfl⟩

theorem witness_WindowWritesComplete_12 : ∃ (s : State) (w : Owner) (o : Nat) (v : Word),
    s.heard w = true :=
  ⟨tNoon, .portA, 0x3C000, 1, by decide +kernel⟩

theorem witness_WindowWritesComplete_13 : ∃ (s : State) (p : Port) (x : HostWrite),
    s.heard p.owner = true ∧ x.space = .window ∧ wholeWords x 4 = false ∧ wholeWords x 8 = false ∧
    oversized x.addr x.bytes.length = false :=
  ⟨tNoon, .b, ⟨.window, 0x10002, [(1, true), (2, true)]⟩, by and_intros <;> first | decide +kernel | rfl⟩

theorem witness_WindowWritesComplete_14 : ∃ (s : State) (p : Port) (x : HostWrite) (r : HostRead),
    s.heard p.owner = true ∧ x.space = .window ∧ wholeWords x 4 = false ∧ wholeWords x 8 = false ∧
    oversized x.addr x.bytes.length = true ∧ r.space = .window ∧ oversized r.addr r.len = true :=
  ⟨tNoon, .b, ⟨.window, 4, List.replicate 8 (1, true)⟩, ⟨.window, 0, 16⟩,
    by and_intros <;> first | decide +kernel | rfl⟩

theorem witness_WindowWritesComplete_16 : ∃ (s : State) (t : State) (p : Port) (r : HostRead) (bs : List Byte),
    s.heard p.owner = true ∧ r.space = .window ∧ oversized r.addr r.len = false ∧ readWords p.owner
    ((r.addr + r.len + 3) / 4 - r.addr / 4) (4 * (r.addr / 4)) s = (bs, t) :=
  ⟨tNoon, (readWords .portA 2 0x10000 tNoon).2, .a, ⟨.window, 0x10002, 4⟩, (readWords .portA 2 0x10000 tNoon).1,
    by and_intros <;> first | decide +kernel | rfl⟩

theorem witness_WindowWritesComplete_17 : ∃ (s : State) (w : Owner) (o : Nat) (v : Word),
    s.heard w = true ∧ regBlock (regOffset o) = 14 ∧ regPlace (regOffset o) < 0x20 :=
  ⟨tNoon, .portA, 0x38010, 5, by and_intros <;> first | decide +kernel | rfl⟩

theorem witness_WindowWritesComplete_18 : ∃ (s : State),
    s.fab.iod0 = true :=
  ⟨tNoon, by decide +kernel⟩

theorem witness_WindowWritesComplete_20 : ∃ (s : State) (w : Owner) (o : Nat) (v : Word) (p : Port) (q : Port)
    (x : HostWrite) (r : HostRead) (y : QuayId),
    x.space = .window ∧ r.space = .window ∧ s.heard w = false ∧ s.heard q.owner = false ∧
    s.heard y.port.owner = false :=
  ⟨tDeaf, .portB, 0x504, 1, .a, .b, tWholeWord 0x504 1, ⟨.window, 0, 4⟩, ⟨.b, 0⟩,
    by and_intros <;> first | decide +kernel | rfl⟩

theorem witness_CheckValueUnitsComplete_3 : ∃ (s : State) (n : Fin 8) (v : Word) (c : Cvu),
    s.cvu[(n : Nat)]? = some c ∧ c.active = true :=
  ⟨{ tNoon with cvu := List.replicate 8 tCvu }, 2, 0x34333231, tCvu, by and_intros <;> first | decide +kernel | rfl⟩

theorem witness_CheckValueUnitsComplete_4 : ∃ (s : State) (n : Fin 8) (v : Word) (c : Cvu),
    s.cvu[(n : Nat)]? = some c ∧ c.active = false :=
  ⟨{ tNoon with cvu := List.replicate 8 { tCvu with active := false } }, 2, 0x34333231, { tCvu with active := false },
    by and_intros <;> first | decide +kernel | rfl⟩

theorem witness_CheckValueUnitsComplete_5 : ∃ (s : State) (n : Fin 8) (c : Cvu) (bad : Bool),
    s.cvu[(n : Nat)]? = some c ∧ c.active = true ∧ bad = (bitOf c.cfg 10 && c.result != c.maskTo c.expect) :=
  ⟨{ tNoon with cvu := List.replicate 8 tCvu }, 2, tCvu, false, by and_intros <;> first | decide +kernel | rfl⟩

theorem witness_CheckValueUnitsComplete_6 : ∃ (s : State) (n : Fin 8) (c : Cvu),
    s.cvu[(n : Nat)]? = some c ∧ c.active = false :=
  ⟨{ tNoon with cvu := List.replicate 8 { tCvu with active := false } }, 2, { tCvu with active := false },
    by and_intros <;> first | decide +kernel | rfl⟩

theorem witness_CheckValueUnitsComplete_8 : ∃ (s : State) (d : Fin 8) (u : Fin 8) (e : Fin 2) (f : Fin 4),
    s.clocked d = true :=
  ⟨tNoon, 0, 0, 0, 0, by decide +kernel⟩

theorem witness_CheckValueUnitsComplete_9 : ∃ (s : State) (d : Fin 8) (u : Fin 8) (e : Fin 2) (f : Fin 4)
    (k : ReqKey),
    s.clocked d = true :=
  ⟨tNoon, 0, 0, 0, 0, tKey, by decide +kernel⟩

theorem witness_CheckValueUnitsComplete_10 : ∃ (s : State) (k : Fin 4) (r : SluRun),
    s.bw.lists[(k : Nat)]? = some r ∧ r.len ≠ 0 ∧ r.stepAligned = false ∧ r.cycleStart s.now = r.origin :=
  ⟨tGatesAt { tGate with since := 10 ^ 10 }, 0, { tGate with since := 10 ^ 10 },
    by and_intros <;> first | decide +kernel | rfl⟩

theorem witness_CheckValueUnitsComplete_11 : ∃ (s : State) (k : Fin 4) (r : SluRun),
    s.bw.lists[(k : Nat)]? = some r ∧ r.len ≠ 0 ∧ r.stepAligned = false ∧ r.cycleStart s.now ≠ r.origin :=
  ⟨tGatesAt { tGate with idx := 1 }, 0, { tGate with idx := 1 }, by and_intros <;> first | decide +kernel | rfl⟩

theorem witness_CheckValueUnitsComplete_12 : ∃ (s : State) (k : Fin 4) (r : SluRun) (j : Nat),
    s.bw.lists[(k : Nat)]? = some r ∧ r.len ≠ 0 ∧ r.hold = false ∧ r.stepAligned = true ∧
    ((s.tide.stepState == .none || s.tide.stepState == .lost) && decide (r.origin + s.period ≤ (s.now : Int)))
    = false ∧ r.since + r.dur r.idx ≤ s.now ∧ r.entryFrom (r.idx + 1) = some j :=
  ⟨tGatesStep { tGate with list := 0x202 }, 0, { tGate with list := 0x202 }, 1,
    by and_intros <;> first | decide +kernel | rfl⟩

theorem witness_CheckValueUnitsComplete_13 : ∃ (s : State) (k : Fin 4) (r : SluRun),
    s.bw.lists[(k : Nat)]? = some r ∧ r.len ≠ 0 ∧ r.hold = false ∧ r.stepAligned = true ∧
    ((s.tide.stepState == .none || s.tide.stepState == .lost) && decide (r.origin + s.period ≤ (s.now : Int)))
    = false ∧ r.since + r.dur r.idx ≤ s.now ∧ r.entryFrom (r.idx + 1) = none :=
  ⟨tGatesStep { tGate with idx := 1, list := 0x202 }, 0, { tGate with idx := 1, list := 0x202 },
    by and_intros <;> first | decide +kernel | rfl⟩

theorem witness_CheckValueUnitsComplete_14 : ∃ (s : State) (k : Fin 4) (r : SluRun),
    s.bw.lists[(k : Nat)]? = some r ∧ r.len ≠ 0 ∧ r.stepAligned = true ∧
    (s.tide.stepState == .none || s.tide.stepState == .lost) = true ∧ r.origin + s.period ≤ (s.now : Int) :=
  ⟨tGatesAt { tGate with list := 0x202 }, 0, { tGate with list := 0x202 },
    by and_intros <;> first | decide +kernel | rfl⟩

theorem witness_CheckValueUnitsComplete_15 : ∃ (s : State) (k : Fin 4) (r : SluRun),
    s.bw.lists[(k : Nat)]? = some r ∧ (r.len = 0 ∨ (r.stepAligned = true ∧
    ((s.tide.stepState == .none || s.tide.stepState == .lost) && decide (r.origin + s.period ≤ (s.now : Int)))
    = false ∧ (r.hold = true ∨ (s.now : Int) < r.since + r.dur r.idx))) :=
  ⟨tGatesStep { tGate with since := 10 ^ 11, list := 0x202 }, 0, { tGate with since := 10 ^ 11, list := 0x202 },
    by and_intros <;> first | decide +kernel | rfl⟩

theorem witness_CheckValueUnitsComplete_16 : ∃ (s : State) (k : Fin 4) (r : SluRun) (new : SluRun) (n : SluList)
    (at' : Int) (start : Int),
    s.bw.lists[(k : Nat)]? = some r ∧ s.applied.slu[(k : Nat)]? = some n ∧ r.pending = some at' ∧
    bitOf n.list 9 = false ∧ new = { r with list := n.list, base := n.baseLo.toNat + n.baseHi.toNat * 2 ^ 32, entries := n.entries } ∧ start = new.base + ((s.now : Int) - new.base) / new.sumTo new.len * new.sumTo new.len ∧ at' ≤ start :=
  ⟨tTakeover 0, 0, { tGate with pending := some 0 }, taken { tGate with pending := some 0 }
    ((tTakeover 0).applied.slu.headD SluList.reset), (tTakeover 0).applied.slu.headD SluList.reset, 0, 0,
    by and_intros <;> first | decide +kernel | rfl⟩

theorem witness_CheckValueUnitsComplete_17 : ∃ (s : State) (k : Fin 4) (r : SluRun) (new : SluRun) (n : SluList)
    (start : Int),
    s.bw.lists[(k : Nat)]? = some r ∧ s.applied.slu[(k : Nat)]? = some n ∧
    new = { r with list := n.list, base := n.baseLo.toNat + n.baseHi.toNat * 2 ^ 32, entries := n.entries } ∧
    start = new.base + ((s.now : Int) - new.base) / new.sumTo new.len * new.sumTo new.len ∧
    (r.pending = none ∨ bitOf n.list 9 = true ∨ (∃ at', r.pending = some at' ∧ start < at')) :=
  ⟨tTakeover 2, 0, { tGate with pending := some 2 }, taken { tGate with pending := some 2 }
    ((tTakeover 2).applied.slu.headD SluList.reset), (tTakeover 2).applied.slu.headD SluList.reset, 0,
    by decide +kernel, by decide +kernel, by decide +kernel, by decide +kernel, .inr (.inr ⟨2, by decide +kernel,
    by decide +kernel⟩)⟩

theorem witness_CheckValueUnitsComplete_18 : ∃ (s : State) (n : Fin 8) (d : Spd) (e : Spd) (f : Bool),
    s.spd? n = some d ∧ d.serving = true ∧ (d.power.aclk = .pll ∨ d.power.aclk = .gated) ∧ s.pwr.off = false ∧
    ((d.freqPt ≠ s.pwr.opTarget ∨ d.voltPt ≠ s.pwr.opTarget)) ∧ d.opStep s.pwr.opTarget f = e :=
  ⟨{ tNoon with pwr := { tNoon.pwr with opTarget := 3 } }, 0, tSpd, Spd.opStep 3 true tSpd, true,
    by and_intros <;> first | decide +kernel | rfl⟩

theorem witness_DatasetsAreCreatedAndWritten_1 : ∃ (s : State) (a : State) (id : CmdId) (c : Cmd) (d : HostData)
    (bs : List Byte) (key : List Byte) (k : BitVec 256) (p : Partition),
    Starts id 0x20 c false none s ∧ s.sec.jobKey = some k ∧ c.listBad d = false ∧ c.dlen % 4 = 0 ∧
    c.fetched d = some bs ∧ s.media.unsupported = none ∧ createStatus c s = none ∧ drawBytes 64 s = (key, a) ∧
    newPartition c s.media.freeSlot (wordsOf bs (c.dlen / 4)) (keyCheck k) key (aesWrap (leBytes 32 k) key) = p :=
  ⟨tCreating, (drawBytes 64 tCreating).2, tId, tSalsia [(0, 0x20), (24, 6), (32, 4), (40, 1), (44, 1)], tData [], [],
    (drawBytes 64 tCreating).1, 5, newPartition (tSalsia [(0, 0x20), (24, 6), (32, 4), (40, 1), (44, 1)])
    tCreating.media.freeSlot [] (keyCheck 5) (drawBytes 64 tCreating).1 (aesWrap (leBytes 32 (5 : BitVec 256))
    (drawBytes 64 tCreating).1), ⟨by constructor <;> decide +kernel, by decide +kernel, by decide +kernel,
    by decide +kernel, by decide +kernel, by decide +kernel, by decide +kernel, rfl, rfl⟩⟩

theorem witness_DatasetsAreCreatedAndWritten_2 : ∃ (s : State) (id : CmdId) (c : Cmd) (d : HostData) (bs : List Byte)
    (n : Nat),
    Starts id 0x20 c false none s ∧ s.sec.jobKey.isSome = true ∧ c.listBad d = false ∧ c.dlen % 4 = 0 ∧
    c.fetched d = some bs ∧ s.media.unsupported = none ∧ createStatus c s = some n :=
  ⟨tOn (tKeyed fun p => p) [(0, 0x20), (24, 6), (32, 4), (40, 1), (42, 1), (44, 1)], tId, tSalsia [(0, 0x20), (24, 6), (32, 4), (40, 1), (42, 1), (44, 1)], tData [], [], 0x203, ⟨by decide +kernel, by decide +kernel, by decide +kernel⟩, by decide +kernel, by decide +kernel, by first | decide +kernel | rfl, by first | decide +kernel | rfl, by decide +kernel, by first | decide +kernel | rfl⟩

set_option exponentiation.threshold 600 in
theorem witness_DatasetsAreCreatedAndWritten_3 : ∃ (s : State) (a : State) (id : CmdId) (c : Cmd) (d : HostData)
    (bs : List Byte) (p : Partition) (xs : List (List Byte)) (w : Nat),
    Starts id 0x21 c false none s ∧ keyReason (c.part s) s = none ∧ c.listBad d = false ∧ c.fetched d = some bs ∧
    writeBad c (some bs) s = false ∧ s.media.unsupported = none ∧ c.part s = some p ∧ c.arg 48 4 ≤ 2 ^ 24 ∧
    (wordsOf bs (c.arg 48 4)).all (decide <| · ≤ maxSample) = true ∧ cutSamples (wordsOf bs (c.arg 48 4)) (bs.drop
    (4 * c.arg 48 4)) = xs ∧ writeStatus p (c.arg 40 8) xs s = none ∧ shardIn p.dsSlot (c.arg 36 4) (c.arg 40 8)
    xs s = (some w, a) :=
  ⟨tOn (tKeyed fun p => p) tWriteBytes, (shardIn 0 0 1 [[9]] (tOn (tKeyed fun p => p) tWriteBytes)).2, tId, tSalsia tWriteBytes, tData [1, 0, 0, 0, 9], [1, 0, 0, 0, 9], tKeyPart, [[9]], 5, ⟨by decide +kernel, by decide +kernel, by decide +kernel⟩, (by decide +kernel), by decide +kernel, by first | decide +kernel | rfl, by decide +kernel, by decide +kernel, by first | decide +kernel | rfl, by decide +kernel, by decide +kernel, by first | decide +kernel | rfl, by decide +kernel, Prod.ext (by decide +kernel) (by first | rfl | decide +kernel)⟩

set_option exponentiation.threshold 600 in
theorem witness_DatasetsAreCreatedAndWritten_4 : ∃ (s : State) (a : State) (id : CmdId) (c : Cmd) (d : HostData)
    (bs : List Byte) (p : Partition) (xs : List (List Byte)),
    Starts id 0x21 c false none s ∧ keyReason (c.part s) s = none ∧ c.listBad d = false ∧ c.fetched d = some bs ∧
    writeBad c (some bs) s = false ∧ s.media.unsupported = none ∧ c.part s = some p ∧ c.arg 48 4 ≤ 2 ^ 24 ∧
    (wordsOf bs (c.arg 48 4)).all (decide <| · ≤ maxSample) = true ∧ cutSamples (wordsOf bs (c.arg 48 4)) (bs.drop
    (4 * c.arg 48 4)) = xs ∧ writeStatus p (c.arg 40 8) xs s = none ∧ shardIn p.dsSlot (c.arg 36 4) (c.arg 40 8)
    xs s = (none, a) :=
  ⟨tWritePoor, (shardIn 0 0 1 [[9]] tWritePoor).2, tId, tSalsia tWriteBytes, tData [1, 0, 0, 0, 9], [1, 0, 0, 0, 9],
    tKeyPart, [[9]], ⟨by decide +kernel, by decide +kernel, by decide +kernel⟩, (by decide +kernel),
    by decide +kernel, by first | decide +kernel | rfl, by decide +kernel, by decide +kernel,
    by first | decide +kernel | rfl, by decide +kernel, by decide +kernel, by first | decide +kernel | rfl,
    by decide +kernel, Prod.ext (by decide +kernel) (by first | rfl | decide +kernel)⟩

set_option exponentiation.threshold 600 in
theorem witness_DatasetsAreCreatedAndWritten_5 : ∃ (s : State) (id : CmdId) (c : Cmd) (d : HostData) (bs : List Byte)
    (p : Partition) (xs : List (List Byte)) (n : Nat),
    Starts id 0x21 c false none s ∧ keyReason (c.part s) s = none ∧ c.listBad d = false ∧ c.fetched d = some bs ∧
    writeBad c (some bs) s = false ∧ s.media.unsupported = none ∧ c.part s = some p ∧ c.arg 48 4 ≤ 2 ^ 24 ∧
    (wordsOf bs (c.arg 48 4)).all (decide <| · ≤ maxSample) = true ∧ cutSamples (wordsOf bs (c.arg 48 4)) (bs.drop
    (4 * c.arg 48 4)) = xs ∧ writeStatus p (c.arg 40 8) xs s = some n :=
  ⟨tOn (tKeyed fun p => { p with sealed := true }) tWriteBytes, tId, tSalsia tWriteBytes, tData [1, 0, 0, 0, 9], [1, 0, 0, 0, 9], { tKeyPart with sealed := true }, [[9]], 0x208, ⟨by decide +kernel, by decide +kernel, by decide +kernel⟩, (by decide +kernel), by decide +kernel, by first | decide +kernel | rfl, by decide +kernel, by decide +kernel, by first | decide +kernel | rfl, by decide +kernel, by decide +kernel, by first | decide +kernel | rfl, by first | decide +kernel | rfl⟩

set_option exponentiation.threshold 600 in
theorem witness_DatasetsAreCreatedAndWritten_6 : ∃ (s : State) (id : CmdId) (c : Cmd) (d : HostData) (bs : List Byte)
    (p : Partition),
    Starts id 0x21 c false none s ∧ keyReason (c.part s) s = none ∧ c.listBad d = false ∧ c.fetched d = some bs ∧
    writeBad c (some bs) s = false ∧ s.media.unsupported = none ∧ c.part s = some p ∧ 2 ^ 24 < c.arg 48 4 :=
  ⟨tOn (tKeyed fun p => p) [(0, 0x21), (16, 5), (24, 5), (40, 1), (48, 1), (51, 1)], tId, tSalsia [(0, 0x21), (16, 5), (24, 5), (40, 1), (48, 1), (51, 1)], tData [1, 0, 0, 0, 9], [1, 0, 0, 0, 9], tKeyPart, ⟨by decide +kernel, by decide +kernel, by decide +kernel⟩, (by decide +kernel), by decide +kernel, by first | decide +kernel | rfl, by decide +kernel, by decide +kernel, by first | decide +kernel | rfl, by decide +kernel⟩

set_option exponentiation.threshold 600 in
theorem witness_DatasetsAreCreatedAndWritten_7 : ∃ (s : State) (id : CmdId) (c : Cmd) (d : HostData) (bs : List Byte)
    (p : Partition),
    Starts id 0x21 c false none s ∧ keyReason (c.part s) s = none ∧ c.listBad d = false ∧ c.fetched d = some bs ∧
    writeBad c (some bs) s = false ∧ s.media.unsupported = none ∧ c.part s = some p ∧ c.arg 48 4 ≤ 2 ^ 24 ∧
    (wordsOf bs (c.arg 48 4)).all (decide <| · ≤ maxSample) = false :=
  ⟨tOn (tKeyed fun p => p) tWriteBytes, tId, tSalsia tWriteBytes, tData [1, 0, 0, 0xFF, 9], [1, 0, 0, 0xFF, 9], tKeyPart, ⟨by decide +kernel, by decide +kernel, by decide +kernel⟩, (by decide +kernel), by decide +kernel, by first | decide +kernel | rfl, by decide +kernel, by decide +kernel, by first | decide +kernel | rfl, by decide +kernel, by decide +kernel⟩

theorem witness_DatasetsAreCreatedAndWritten_8 : ∃ (s : State) (id : CmdId) (c : Cmd) (p : Partition),
    Starts id 0x22 c false none s ∧ s.media.unsupported = none ∧ c.part s = some p ∧ s.media.qsLayout = false :=
  ⟨tOn (tNoJob id) [(0, 0x22), (24, 5)], tId, tSalsia [(0, 0x22), (24, 5)], tOpenPart, ⟨by decide +kernel,
    by decide +kernel, by decide +kernel⟩, by decide +kernel, by first | decide +kernel | rfl, by decide +kernel⟩

set_option exponentiation.threshold 600 in
theorem witness_DatasetsAreCreatedAndWritten_9 : ∃ (s : State) (id : CmdId) (c : Cmd) (p : Partition),
    Starts id 0x23 c false none s ∧ keyReason (c.part s) s = none ∧ s.media.unsupported = none ∧ c.part s = some p ∧
    p.sealed = false ∧ s.media.qsLayout = false :=
  ⟨tOn (tKeyed fun p => p) [(0, 0x23), (24, 5)], tId, tSalsia [(0, 0x23), (24, 5)], tKeyPart, ⟨by decide +kernel, by decide +kernel, by decide +kernel⟩, (by decide +kernel), by decide +kernel, by first | decide +kernel | rfl, by decide +kernel, by decide +kernel⟩

set_option exponentiation.threshold 600 in
theorem witness_DatasetsAreCreatedAndWritten_10 : ∃ (s : State) (id : CmdId) (c : Cmd) (p : Partition),
    Starts id 0x23 c false none s ∧ keyReason (c.part s) s = none ∧ s.media.unsupported = none ∧ c.part s = some p ∧
    p.sealed = true :=
  ⟨tOn (tKeyed fun p => { p with sealed := true }) [(0, 0x23), (24, 5)], tId, tSalsia [(0, 0x23), (24, 5)], { tKeyPart with sealed := true }, ⟨by decide +kernel, by decide +kernel, by decide +kernel⟩, (by decide +kernel), by decide +kernel, by first | decide +kernel | rfl, by decide +kernel⟩

theorem witness_DatasetsAreCreatedAndWritten_11 : ∃ (s : State) (id : CmdId) (c : Cmd) (p : Partition),
    s.media.unsupported = none ∧ c.part s = some p ∧ s.media.qsLayout = true :=
  ⟨tQsOn [(0, 0x22), (24, 5)], tId, tSalsia [(0, 0x22), (24, 5)], tOpenPart,
    by and_intros <;> first | decide +kernel | rfl⟩

theorem witness_DatasetsAreCreatedAndWritten_12 : ∃ (s : State) (id : CmdId) (c : Cmd) (p : Partition),
    Starts id 0x24 c false none s ∧ s.media.unsupported = none ∧ c.part s = some p ∧ (s.run.streams.any fun t => t.dsSlot == p.dsSlot) = false ∧ s.media.qsLayout = false :=
  ⟨tOn (tNoJob id) [(0, 0x24), (24, 5)], tId, tSalsia [(0, 0x24), (24, 5)], tOpenPart, ⟨by decide +kernel,
    by decide +kernel, by decide +kernel⟩, by decide +kernel, by first | decide +kernel | rfl, by decide +kernel,
    by decide +kernel⟩

theorem witness_DatasetsAreCreatedAndWritten_13 : ∃ (s : State) (id : CmdId) (c : Cmd) (p : Partition),
    Starts id 0x24 c false none s ∧ s.media.unsupported = none ∧ c.part s = some p ∧ (s.run.streams.any fun t => t.dsSlot == p.dsSlot) = true :=
  ⟨tOn (tStreams 1) [(0, 0x24), (24, 5)], tId, tSalsia [(0, 0x24), (24, 5)], tPart 1, ⟨by decide +kernel,
    by decide +kernel, by decide +kernel⟩, by decide +kernel, by first | decide +kernel | rfl, by decide +kernel⟩

theorem witness_DatasetsAreCreatedAndWritten_14 : ∃ (s : State) (id : CmdId) (c : Cmd) (p : Partition),
    Starts id 0x24 c false none s ∧ s.media.unsupported = none ∧ c.part s = some p ∧ (s.run.streams.any fun t => t.dsSlot == p.dsSlot) = false ∧ s.media.qsLayout = true :=
  ⟨tQsOn [(0, 0x24), (24, 5)], tId, tSalsia [(0, 0x24), (24, 5)], tOpenPart, ⟨by decide +kernel, by decide +kernel,
    by decide +kernel⟩, by decide +kernel, by first | decide +kernel | rfl, by decide +kernel, by decide +kernel⟩

theorem witness_DatasetsAreCreatedAndWritten_15 : ∃ (s : State) (id : CmdId) (c : Cmd),
    s.media.unsupported = none ∧ c.part s = none :=
  ⟨tOn (tNoJob id) [(0, 0x22), (24, 6)], tId, tSalsia [(0, 0x22), (24, 6)],
    by and_intros <;> first | decide +kernel | rfl⟩

theorem witness_DatasetsAreCreatedAndWritten_16 : ∃ (s : State) (id : CmdId) (c : Cmd),
    s.media.unsupported.isSome = true :=
  ⟨tRefusedOn [(0, 0x22), (24, 6)], tId, tSalsia [(0, 0x22), (24, 6)], by decide +kernel⟩

theorem witness_MediaCommandsComplete_1 : ∃ (s : State) (id : CmdId) (c : Cmd),
    Starts id 0x0A c false none s ∧ s.media.unsupported = none ∧ s.jobActive = false :=
  ⟨tOn (tNoJob id) [(0, 0x0A)], tId, tSalsia [(0, 0x0A)], ⟨by decide +kernel, by decide +kernel, by decide +kernel⟩,
    by decide +kernel, by decide +kernel⟩

theorem witness_MediaCommandsComplete_2 : ∃ (s : State) (id : CmdId) (c : Cmd),
    Starts id 0x0A c false none s ∧ s.media.unsupported = none ∧ s.jobActive = true :=
  ⟨tOn (tStreams 1) [(0, 0x0A)], tId, tSalsia [(0, 0x0A)], ⟨by decide +kernel, by decide +kernel, by decide +kernel⟩,
    by decide +kernel, by decide +kernel⟩

theorem witness_MediaCommandsComplete_3 : ∃ (s : State) (id : CmdId) (c : Cmd) (d : HostData) (bs : List Byte)
    (p : Partition) (es : List Defect),
    Starts id 0x25 c false none s ∧ c.listBad d = false ∧ c.fetched d = some bs ∧ s.media.unsupported = none ∧
    c.part s = some p ∧ es = (p.defects.drop (c.arg 36 4)).take (c.dlen / 16) :=
  ⟨tOn (tNoJob fun p => { p with defects := [⟨0, false, 1, 0, 0x100, false, some 0⟩] }) [(0, 0x25), (24, 5), (16, 64)], tId, tSalsia [(0, 0x25), (24, 5), (16, 64)], tData [], List.replicate 64 0, { tOpenPart with defects := [⟨0, false, 1, 0, 0x100, false, some 0⟩] }, [⟨0, false, 1, 0, 0x100, false, some 0⟩], ⟨by decide +kernel, by decide +kernel, by decide +kernel⟩, by decide +kernel, by first | decide +kernel | rfl, by decide +kernel, by first | decide +kernel | rfl, by first | decide +kernel | rfl⟩

theorem witness_MediaCommandsComplete_4 : ∃ (s : State) (id : CmdId) (c : Cmd) (d : HostData) (bs : List Byte)
    (out : List Byte),
    Starts id 0x26 c false none s ∧ c.listBad d = false ∧ c.fetched d = some bs ∧ s.media.unsupported = none ∧ out = ((s.media.partitions.filter fun p => !p.sealed).flatMap statusRecord).take c.dlen :=
  ⟨tOn tNoon [(0, 0x26), (16, 64)], tId, tSalsia [(0, 0x26), (16, 64)], tData [], List.replicate 64 0, [],
    ⟨by decide +kernel, by decide +kernel, by decide +kernel⟩, by decide +kernel, by first | decide +kernel | rfl,
    by decide +kernel, by first | decide +kernel | rfl⟩

theorem witness_MediaCommandsComplete_5 : ∃ (s : State) (id : CmdId) (c : Cmd) (d : HostData) (bs : List Byte),
    Starts id 0x27 c false none s ∧ c.listBad d = false ∧ c.fetched d = some bs :=
  ⟨tOn tNoon [(0, 0x27), (16, 64)], tId, tSalsia [(0, 0x27), (16, 64)], tData [], List.replicate 64 0,
    ⟨by decide +kernel, by decide +kernel, by decide +kernel⟩, by decide +kernel, by first | decide +kernel | rfl⟩

theorem witness_MediaCommandsComplete_6 : ∃ (s : State) (id : CmdId) (c : Cmd) (d : HostData),
    c.listBad d = false ∧ c.fetched d = none :=
  ⟨tOn tNoon [(0, 0x27), (16, 64)], tId, tSalsia [(0, 0x27), (16, 64)], ⟨true, [], []⟩,
    by and_intros <;> first | decide +kernel | rfl⟩

theorem witness_MediaCommandsComplete_7 : ∃ (s : State) (id : CmdId) (c : Cmd) (d : HostData) (bs : List Byte),
    s.media.unsupported.isSome = true ∧ c.listBad d = false ∧ c.fetched d = some bs :=
  ⟨tRefusedOn [(0, 0x26), (16, 64)], tId, tSalsia [(0, 0x26), (16, 64)], tData [], List.replicate 64 0,
    by and_intros <;> first | decide +kernel | rfl⟩

theorem witness_JobCommandsComplete_1 : ∃ (s : State) (id : CmdId) (c : Cmd),
    Starts id 0x01 c false none s :=
  ⟨tOn tNoon [(0, 1)], tId, tSalsia [(0, 1)], ⟨by decide +kernel, by decide +kernel, by decide +kernel⟩⟩

theorem witness_JobCommandsComplete_2 : ∃ (s : State) (id : CmdId) (c : Cmd),
    Starts id 0x09 c false none s ∧ linkInMode s (c.arg 24 1) = true :=
  ⟨tOn tNoon [(0, 9), (24, 2), (32, 10), (48, 24)], tId, tSalsia [(0, 9), (24, 2), (32, 10), (48, 24)],
    ⟨by decide +kernel, by decide +kernel, by decide +kernel⟩, by decide +kernel⟩

theorem witness_JobCommandsComplete_3 : ∃ (s : State) (id : CmdId) (c : Cmd) (d : HostData) (bs : List Byte),
    Starts id 0x10 c false none s ∧ c.listBad d = false ∧ c.fetched d = some bs ∧ descriptorBad bs = false ∧
    setupStatus (parseJob bs) s = none :=
  ⟨tOn tNoon [(0, 0x10), (16, 112)], tId, tSalsia [(0, 0x10), (16, 112)], tData tDescriptor, tDescriptor,
    ⟨by decide +kernel, by decide +kernel, by decide +kernel⟩, by decide +kernel, by first | decide +kernel | rfl,
    by decide +kernel, by decide +kernel⟩

theorem witness_JobCommandsComplete_4 : ∃ (s : State) (id : CmdId) (c : Cmd) (d : HostData) (bs : List Byte)
    (n : Nat),
    Starts id 0x10 c false none s ∧ c.listBad d = false ∧ c.fetched d = some bs ∧ descriptorBad bs = false ∧
    setupStatus (parseJob bs) s = some n :=
  ⟨tOn tRun [(0, 0x10), (16, 112)], tId, tSalsia [(0, 0x10), (16, 112)], tData tDescriptor, tDescriptor, stJobActive,
    ⟨by decide +kernel, by decide +kernel, by decide +kernel⟩, by decide +kernel, by first | decide +kernel | rfl,
    by decide +kernel, by first | decide +kernel | rfl⟩

theorem witness_JobCommandsComplete_5 : ∃ (s : State) (id : CmdId) (c : Cmd) (d : HostData),
    Starts id 0x10 c false none s ∧ c.listBad d = false ∧ c.fetched d = none :=
  ⟨tOn tNoon [(0, 0x10), (16, 112)], tId, tSalsia [(0, 0x10), (16, 112)], ⟨true, [], []⟩, ⟨by decide +kernel,
    by decide +kernel, by decide +kernel⟩, by decide +kernel, by decide +kernel⟩

theorem witness_JobCommandsComplete_6 : ∃ (s : State) (id : CmdId) (c : Cmd),
    Starts id 0x11 c false none s ∧ s.run.job.isSome = true :=
  ⟨tOn tRun [(0, 0x11)], tId, tSalsia [(0, 0x11)], ⟨by decide +kernel, by decide +kernel, by decide +kernel⟩,
    by decide +kernel⟩

theorem witness_JobCommandsComplete_7 : ∃ (s : State) (id : CmdId) (c : Cmd),
    Starts id 0x12 c false none s :=
  ⟨tOn tRun [(0, 0x12), (4, 1)], tId, tSalsia [(0, 0x12), (4, 1)], ⟨by decide +kernel, by decide +kernel,
    by decide +kernel⟩⟩

set_option exponentiation.threshold 600 in
theorem witness_JobCommandsComplete_8 : ∃ (s : State) (id : CmdId) (c : Cmd) (xs : List (Nat × Nat × List Nat))
    (p : Partition) (n : Conn),
    (s.cmd? id fun c => match c.run with | .copying .. => true | _ => false) = none ∧ Starts id 0x28 c false none s ∧ keyReason (c.part s) s = none ∧ s.media.unsupported = none ∧ c.part s = some p ∧ s.conn? (c.arg 36 4) = some n ∧ n.peer = true ∧ n.error = none :=
  ⟨tOn tKeyedNet [(0, 0x28), (4, 1), (24, 5), (36, 1)], tId, tSalsia [(0, 0x28), (4, 1), (24, 5), (36, 1)], [(0, 0,
    [2])], tKeyPart, tConn 1 true, by decide +kernel, ⟨by decide +kernel, by decide +kernel, by decide +kernel⟩,
    (by decide +kernel), by decide +kernel, by first | decide +kernel | rfl, by first | decide +kernel | rfl,
    by decide +kernel, by decide +kernel⟩

theorem witness_JobCommandsComplete_9 : ∃ (s : State) (id : CmdId) (c : Cmd) (xs : List (Nat × Nat × List Nat))
    (rest : List (Nat × Nat × List Nat)) (ab : Bool) (w : Nat) (p : Partition),
    (s.cmd? id fun c => match c.run with | .copying .. => true | _ => false) = some c ∧ c.run = .copying w rest ab ∧ c.part s = some p :=
  ⟨tCopying, tId, { tSalsia [(0, 0x28), (24, 5)] with run := .copying 3 [] false }, [], [], false, 3, tOpenPart,
    by and_intros <;> first | decide +kernel | rfl⟩

theorem witness_JobCommandsComplete_10 : ∃ (s : State) (c : Cmd) (p : Partition) (w : Nat) (n : Nat) (first : Nat)
    (ls : List Nat) (rest : List (Nat × Nat × List Nat)) (ab : Bool) (x : Fetch) (xs : List (List Byte)),
    s.egr.fetches.find? (·.id == .shard c.id) = some x ∧ x.state = .complete ∧ cutSamples ls x.bytes = xs ∧
    writeStatus p first xs s = none ∧ first + xs.length ≤ p.size :=
  ⟨tShardIn, tSalsia [(0, 0x28), (24, 5)], tOpenPart, 3, 0, 0, [2], [], false, tShardRead, [[1, 2]],
    by and_intros <;> first | decide +kernel | rfl⟩

theorem witness_JobCommandsComplete_11 : ∃ (s : State) (c : Cmd) (p : Partition) (w : Nat) (y : Nat × Nat × List Nat)
    (rest : List (Nat × Nat × List Nat)) (ab : Bool) (x : Fetch),
    s.egr.fetches.find? (·.id == .shard c.id) = some x ∧ x.state = .failed :=
  ⟨tShardLost, tSalsia [(0, 0x28), (24, 5)], tOpenPart, 3, (0, 0, [2]), [], false,
    { tShardRead with state := .failed },
    by and_intros <;> first | decide +kernel | rfl⟩

set_option exponentiation.threshold 600 in
theorem witness_JobCommandsComplete_13 : ∃ (s : State) (id : CmdId) (c : Cmd) (xs : List (Nat × Nat × List Nat))
    (p : Partition),
    (s.cmd? id fun c => match c.run with | .copying .. => true | _ => false) = none ∧ Starts id 0x28 c false none s ∧ keyReason (c.part s) s = none ∧ s.media.unsupported = none ∧ c.part s = some p ∧ ((s.conn? (c.arg 36 4)).map (·.peer)).getD false = false :=
  ⟨tOn tKeyedNet [(0, 0x28), (4, 1), (24, 5), (36, 0)], tId, tSalsia [(0, 0x28), (4, 1), (24, 5), (36, 0)], [],
    tKeyPart, by decide +kernel, ⟨by decide +kernel, by decide +kernel, by decide +kernel⟩, (by decide +kernel),
    by decide +kernel, by first | decide +kernel | rfl, by decide +kernel⟩

set_option exponentiation.threshold 600 in
theorem witness_JobCommandsComplete_14 : ∃ (s : State) (id : CmdId) (c : Cmd) (xs : List (Nat × Nat × List Nat))
    (p : Partition) (n : Conn),
    (s.cmd? id fun c => match c.run with | .copying .. => true | _ => false) = none ∧ Starts id 0x28 c false none s ∧ keyReason (c.part s) s = none ∧ s.media.unsupported = none ∧ c.part s = some p ∧ s.conn? (c.arg 36 4) = some n ∧ n.peer = true ∧ n.error.isSome = true :=
  ⟨tPeerErr, tId, tSalsia [(0, 0x28), (4, 1), (24, 5), (36, 1)], [], tKeyPart, { tConn 1 true with error := some 1 },
    by decide +kernel, ⟨by decide +kernel, by decide +kernel, by decide +kernel⟩, (by decide +kernel),
    by decide +kernel, by first | decide +kernel | rfl, by first | decide +kernel | rfl, by decide +kernel,
    by decide +kernel⟩

theorem witness_JobCommandsComplete_15 : ∃ (s : State) (id : CmdId) (c : Cmd) (xs : List (Nat × Nat × List Nat))
    (rest : List (Nat × Nat × List Nat)) (ab : Bool) (w : Nat),
    (s.cmd? id fun c => match c.run with | .copying .. => true | _ => false) = some c ∧ c.run = .copying w rest ab ∧ c.part s = none :=
  ⟨tCopyGone, tId, { tSalsia [(0, 0x28), (24, 9)] with run := .copying 3 [] false }, [], [], false, 3,
    by and_intros <;> first | decide +kernel | rfl⟩

set_option exponentiation.threshold 600 in set_option maxRecDepth 4000 in
theorem witness_StreamCommandsComplete_1 : ∃ (s : State) (id : CmdId) (c : Cmd) (d : HostData) (bs : List Byte)
    (rs : List Rec) (p : Partition),
    Starts id 0x30 c false none s ∧ c.listBad d = false ∧ c.fetched d = some bs ∧ parseRecs bs.length bs = some rs ∧
    setupFieldBad (c.arg 24 1) bs s = false ∧ keyReason (setupPart rs s) s = none ∧ setupPart rs s = some p ∧
    s.run.streams.length < 64 ∧ streamStatus rs (streamOf (c.arg 24 1) rs p) p s = none :=
  ⟨tOn tSetupState tSetupCmd, tId, tSalsia tSetupCmd, tData tSetup, tSetup, tRecs, tAudioPart, ⟨by decide +kernel,
    by decide +kernel, by decide +kernel⟩, by decide +kernel, by first | decide +kernel | rfl,
    by first | decide +kernel | rfl, by decide +kernel, (by decide +kernel), by first | decide +kernel | rfl,
    by decide +kernel, by decide +kernel⟩

set_option exponentiation.threshold 600 in set_option maxRecDepth 4000 in
theorem witness_StreamCommandsComplete_2 : ∃ (s : State) (id : CmdId) (c : Cmd) (d : HostData) (bs : List Byte)
    (rs : List Rec) (p : Partition) (n : Nat),
    Starts id 0x30 c false none s ∧ c.listBad d = false ∧ c.fetched d = some bs ∧ parseRecs bs.length bs = some rs ∧
    setupFieldBad (c.arg 24 1) bs s = false ∧ keyReason (setupPart rs s) s = none ∧ setupPart rs s = some p ∧
    s.run.streams.length < 64 ∧ streamStatus rs (streamOf (c.arg 24 1) rs p) p s = some n :=
  ⟨tOn tSetupNoConn tSetupCmd, tId, tSalsia tSetupCmd, tData tSetup, tSetup, tRecs,
    { tAudioPart with sealed := false }, 0x209, ⟨by decide +kernel, by decide +kernel, by decide +kernel⟩,
    by decide +kernel, by first | decide +kernel | rfl, by first | decide +kernel | rfl, by decide +kernel,
    (by decide +kernel), by first | decide +kernel | rfl, by decide +kernel, by first | decide +kernel | rfl⟩

set_option exponentiation.threshold 600 in set_option maxRecDepth 4000 in
theorem witness_StreamCommandsComplete_3 : ∃ (s : State) (id : CmdId) (c : Cmd) (d : HostData) (bs : List Byte)
    (rs : List Rec) (p : Partition),
    Starts id 0x30 c false none s ∧ c.listBad d = false ∧ c.fetched d = some bs ∧ parseRecs bs.length bs = some rs ∧
    setupFieldBad (c.arg 24 1) bs s = false ∧ keyReason (setupPart rs s) s = none ∧ setupPart rs s = some p ∧
    64 ≤ s.run.streams.length :=
  ⟨tOn tSetupMany tSetupCmd, tId, tSalsia tSetupCmd, tData tSetup, tSetup, tRecs, tAudioPart, ⟨by decide +kernel,
    by decide +kernel, by decide +kernel⟩, by decide +kernel, by first | decide +kernel | rfl,
    by first | decide +kernel | rfl, by decide +kernel, (by decide +kernel), by first | decide +kernel | rfl,
    by decide +kernel⟩

theorem witness_StreamCommandsComplete_4 : ∃ (s : State) (e : State) (id : CmdId) (c : Cmd) (t : Stream),
    Starts id 0x31 c false none s ∧ s.stream? (c.arg 24 1) = some t ∧ t.state = .stopped ∧ endIfDone t.num s = e :=
  ⟨tOn (tHalt .stopped) [(0, 0x31), (4, 1), (24, 3)], endIfDone 3 (tOn (tHalt .stopped) [(0, 0x31), (4, 1), (24,
    3)]), tId, tSalsia [(0, 0x31), (4, 1), (24, 3)], { tStream 4 with state := .stopped }, ⟨by decide +kernel,
    by decide +kernel, by decide +kernel⟩, by first | decide +kernel | rfl, by first | decide +kernel | rfl,
    by first | decide +kernel | rfl⟩

theorem witness_StreamCommandsComplete_5 : ∃ (s : State) (id : CmdId) (c : Cmd) (t : Stream),
    Starts id 0x31 c false none s ∧ s.stream? (c.arg 24 1) = some t ∧ t.state = .running :=
  ⟨tOn (tHalt .running) [(0, 0x31), (4, 1), (24, 3)], tId, tSalsia [(0, 0x31), (4, 1), (24, 3)],
    { tStream 4 with state := .running }, ⟨by decide +kernel, by decide +kernel, by decide +kernel⟩,
    by first | decide +kernel | rfl, by first | decide +kernel | rfl⟩

theorem witness_StreamCommandsComplete_6 : ∃ (s : State) (id : CmdId) (c : Cmd) (t : Stream),
    Starts id 0x31 c false none s ∧ s.stream? (c.arg 24 1) = some t ∧ t.state = .ended :=
  ⟨tOn (tHalt .ended) [(0, 0x31), (4, 1), (24, 3)], tId, tSalsia [(0, 0x31), (4, 1), (24, 3)],
    { tStream 4 with state := .ended }, ⟨by decide +kernel, by decide +kernel, by decide +kernel⟩,
    by first | decide +kernel | rfl, by first | decide +kernel | rfl⟩

theorem witness_StreamCommandsComplete_7 : ∃ (s : State) (u : State) (id : CmdId) (c : Cmd) (t : Stream),
    Starts id 0x32 c false none s ∧ s.stream? (c.arg 24 1) = some t ∧ t.state = .running ∧ dueKeys t.dsSlot (fun _ => true) (s.modStream t.num fun x => { x with state := .stopped, issued := none }) = u :=
  ⟨tOn (tHalt .running) [(0, 0x32), (4, 1), (24, 3)], stoppedOf 0 3 (tOn (tHalt .running) [(0, 0x32), (4, 1), (24,
    3)]), tId, tSalsia [(0, 0x32), (4, 1), (24, 3)], tStream 4, ⟨by decide +kernel, by decide +kernel,
    by decide +kernel⟩, by first | decide +kernel | rfl, by first | decide +kernel | rfl,
    by first | decide +kernel | rfl⟩

theorem witness_StreamCommandsComplete_8 : ∃ (s : State) (id : CmdId) (c : Cmd) (t : Stream),
    Starts id 0x32 c false none s ∧ s.stream? (c.arg 24 1) = some t ∧ t.state ≠ .running :=
  ⟨tOn (tHalt .ended) [(0, 0x32), (4, 1), (24, 3)], tId, tSalsia [(0, 0x32), (4, 1), (24, 3)],
    { tStream 4 with state := .ended }, ⟨by decide +kernel, by decide +kernel, by decide +kernel⟩,
    by first | decide +kernel | rfl, by decide +kernel⟩

theorem witness_StreamCommandsComplete_9 : ∃ (s : State) (id : CmdId) (c : Cmd) (n : Nat),
    (s.cmd? id fun c => match c.run with | .streamStop _ => true | _ => false) = some c ∧ c.run = .streamStop n ∧ streamIdle n s = true :=
  ⟨tCmdRun (.streamStop 3), tId, tCmd (.streamStop 3), 3, by and_intros <;> first | decide +kernel | rfl⟩

theorem witness_StreamCommandsComplete_10 : ∃ (s : State) (id : CmdId) (c : Cmd) (t : Stream) (p : Partition)
    (g : Nat),
    Starts id 0x33 c false none s ∧ s.stream? (c.arg 24 1) = some t ∧ s.partFor t = some p ∧
    g = c.arg 32 4 * t.epochLen p + c.arg 40 8 ∧ g % t.b = 0 ∧ g < t.total p ∧ t.state ≠ .running ∧
    streamIdle t.num s = true :=
  ⟨tOn (tHalt .stopped) [(0, 0x33), (4, 1), (24, 3), (40, 2)], tId, tSalsia [(0, 0x33), (4, 1), (24, 3), (40, 2)],
    { tStream 4 with state := .stopped }, tPart 4, 2, ⟨by decide +kernel, by decide +kernel, by decide +kernel⟩,
    by first | decide +kernel | rfl, by first | decide +kernel | rfl, by first | decide +kernel | rfl,
    by first | decide +kernel | rfl, by decide +kernel, by decide +kernel, by decide +kernel⟩

theorem witness_StreamCommandsComplete_11 : ∃ (s : State) (id : CmdId) (c : Cmd) (t : Stream) (p : Partition)
    (g : Nat),
    Starts id 0x33 c false none s ∧ s.stream? (c.arg 24 1) = some t ∧ s.partFor t = some p ∧
    g = c.arg 32 4 * t.epochLen p + c.arg 40 8 ∧
    ((g % t.b ≠ 0 ∨ t.total p ≤ g ∨ t.state = .running ∨ streamIdle t.num s = false)) :=
  ⟨tOn (tHalt .running) [(0, 0x33), (4, 1), (24, 3), (40, 2)], tId, tSalsia [(0, 0x33), (4, 1), (24, 3), (40, 2)],
    tStream 4, tPart 4, 2, ⟨by decide +kernel, by decide +kernel, by decide +kernel⟩,
    by first | decide +kernel | rfl, by first | decide +kernel | rfl, by first | decide +kernel | rfl,
    by decide +kernel⟩

theorem witness_StreamCommandsComplete_12 : ∃ (s : State) (id : CmdId) (c : Cmd) (t : Stream) (p : Partition),
    Starts id 0x34 c false none s ∧ s.stream? (c.arg 24 1) = some t ∧ s.partFor t = some p :=
  ⟨tOn (tHalt .stopped) [(0, 0x34), (4, 1), (24, 3)], tId, tSalsia [(0, 0x34), (4, 1), (24, 3)],
    { tStream 4 with state := .stopped }, tPart 4, ⟨by decide +kernel, by decide +kernel, by decide +kernel⟩,
    by first | decide +kernel | rfl, by first | decide +kernel | rfl⟩

theorem witness_StreamCommandsComplete_13 : ∃ (s : State) (id : CmdId) (c : Cmd) (d : HostData) (bs : List Byte)
    (x : TextTable),
    Starts id 0x40 c false none s ∧ c.listBad d = false ∧ c.fetched d = some bs ∧ parseTable bs = some x ∧
    loadStatus x s = none :=
  ⟨tOn tTextJob [(0, 0x40), (4, 1), (16, 64)], tId, tSalsia [(0, 0x40), (4, 1), (16, 64)], tData tTable, tTable, ⟨1,
    tTable, 4096, .norm []⟩, ⟨by decide +kernel, by decide +kernel, by decide +kernel⟩, by decide +kernel,
    by first | decide +kernel | rfl, by first | decide +kernel | rfl, by decide +kernel⟩

theorem witness_StreamCommandsComplete_14 : ∃ (s : State) (id : CmdId) (c : Cmd) (d : HostData) (bs : List Byte),
    Starts id 0x40 c false none s ∧ c.listBad d = false ∧ c.fetched d = some bs ∧ parseTable bs = none :=
  ⟨tOn tTextJob [(0, 0x40), (4, 1), (16, 4)], tId, tSalsia [(0, 0x40), (4, 1), (16, 4)], tData [1, 2, 3, 4], [1, 2,
    3, 4], ⟨by decide +kernel, by decide +kernel, by decide +kernel⟩, by decide +kernel,
    by first | decide +kernel | rfl, by decide +kernel⟩

theorem witness_StreamCommandsComplete_15 : ∃ (s : State) (id : CmdId) (c : Cmd) (d : HostData) (bs : List Byte)
    (x : TextTable) (n : Nat),
    Starts id 0x40 c false none s ∧ c.listBad d = false ∧ c.fetched d = some bs ∧ parseTable bs = some x ∧
    loadStatus x s = some n :=
  ⟨tOn tRun [(0, 0x40), (4, 1), (16, 64)], tId, tSalsia [(0, 0x40), (4, 1), (16, 64)], tData tTable, tTable, ⟨1,
    tTable, 4096, .norm []⟩, 0x502, ⟨by decide +kernel, by decide +kernel, by decide +kernel⟩, by decide +kernel,
    by first | decide +kernel | rfl, by first | decide +kernel | rfl, by first | decide +kernel | rfl⟩

theorem witness_StreamCommandsComplete_16 : ∃ (s : State) (id : CmdId) (c : Cmd) (d : HostData) (bs : List Byte)
    (out : List Byte) (t : Stream) (xs : List (Option (List Byte))),
    Starts id 0x41 c false none s ∧ c.listBad d = false ∧ c.fetched d = some bs ∧ s.stream? (c.arg 24 1) = some t ∧ t.cls = 4 ∧ 4 * c.arg 28 4 ≤ c.dlen ∧ (wordsOf bs (c.arg 28 4)).map (detokenise1 s t.txt) = xs ∧ xs.findIdx? Option.isNone = none ∧ out = (xs.flatMap fun o => o.getD []).take c.dlen :=
  ⟨tOn (tHalt .stopped) [(0, 0x41), (4, 1), (16, 8), (24, 3), (28, 1)], tId, tSalsia [(0, 0x41), (4, 1), (16, 8),
    (24, 3), (28, 1)], tData [97, 0, 0, 0], [97, 0, 0, 0, 0, 0, 0, 0], [97], { tStream 4 with state := .stopped },
    [some [97]], ⟨by decide +kernel, by decide +kernel, by decide +kernel⟩, by decide +kernel,
    by first | decide +kernel | rfl, by first | decide +kernel | rfl, by first | decide +kernel | rfl,
    by decide +kernel, by first | decide +kernel | rfl, by decide +kernel, by first | decide +kernel | rfl⟩

theorem witness_StreamCommandsComplete_17 : ∃ (s : State) (id : CmdId) (c : Cmd) (d : HostData) (bs : List Byte)
    (t : Stream) (i : Nat),
    Starts id 0x41 c false none s ∧ c.listBad d = false ∧ c.fetched d = some bs ∧ s.stream? (c.arg 24 1) = some t ∧
    t.cls = 4 ∧ 4 * c.arg 28 4 ≤ c.dlen ∧ ((wordsOf bs (c.arg 28 4)).map
    (detokenise1 s t.txt)).findIdx? Option.isNone = some i :=
  ⟨tOn (tHalt .stopped) [(0, 0x41), (4, 1), (16, 8), (24, 3), (28, 1)], tId, tSalsia [(0, 0x41), (4, 1), (16, 8),
    (24, 3), (28, 1)], tData [0, 0, 0, 9], [0, 0, 0, 9, 0, 0, 0, 0], { tStream 4 with state := .stopped }, 0,
    ⟨by decide +kernel, by decide +kernel, by decide +kernel⟩, by decide +kernel, by first | decide +kernel | rfl,
    by first | decide +kernel | rfl, by first | decide +kernel | rfl, by decide +kernel,
    by first | decide +kernel | rfl⟩

theorem witness_StreamCommandsComplete_18 : ∃ (s : State) (id : CmdId) (c : Cmd),
    s.stream? (c.arg 24 1) = none :=
  ⟨tOn (tHalt .stopped) [(0, 0x34), (4, 1), (24, 9)], tId, tSalsia [(0, 0x34), (4, 1), (24, 9)], by decide +kernel⟩

theorem witness_ConnectionCommandsComplete_1 : ∃ (s : State) (id : CmdId) (c : Cmd) (d : HostData) (bs : List Byte),
    Starts id 0x50 c false none s ∧ c.listBad d = false ∧ c.fetched d = some bs ∧ bs.length = 64 ∧
    connectReserved bs = false ∧ noConnKey bs s = false ∧ s.egr.conns.length < 262144 ∧ c.arg 24 4 < 262144 ∧ s.conn?
    (c.arg 24 4) = none ∧ connectRange bs s = false :=
  ⟨tOn tRun [(0, 0x50), (4, 1), (16, 64), (24, 9)], tId, tSalsia [(0, 0x50), (4, 1), (16, 64), (24, 9)],
    tData tConnRec, tConnRec, ⟨by decide +kernel, by decide +kernel, by decide +kernel⟩, by decide +kernel,
    by first | decide +kernel | rfl, by first | decide +kernel | rfl, by decide +kernel, by decide +kernel,
    by decide +kernel, by decide +kernel, by decide +kernel, by decide +kernel⟩

theorem witness_ConnectionCommandsComplete_2 : ∃ (s : State) (id : CmdId) (c : Cmd) (d : HostData) (bs : List Byte),
    Starts id 0x50 c false none s ∧ c.listBad d = false ∧ c.fetched d = some bs ∧
    ((bs.length = 64 → connectReserved bs = false)) ∧ noConnKey bs s = false ∧ 262144 ≤ s.egr.conns.length :=
  ⟨tConnFull, tId, tSalsia [(0, 0x50), (4, 1), (16, 64), (24, 9)], tData tConnRec, tConnRec, ⟨by decide +kernel,
    by decide +kernel, by decide +kernel⟩, by decide +kernel, by rfl, by decide +kernel, by decide +kernel,
    Nat.le_of_eq List.length_replicate.symm⟩

theorem witness_ConnectionCommandsComplete_3 : ∃ (s : State) (id : CmdId) (c : Cmd) (d : HostData) (bs : List Byte),
    Starts id 0x50 c false none s ∧ c.listBad d = false ∧ c.fetched d = some bs ∧
    ((bs.length = 64 → connectReserved bs = false)) ∧ noConnKey bs s = false ∧ s.egr.conns.length < 262144 ∧
    ((bs.length ≠ 64 ∨ 262144 ≤ c.arg 24 4 ∨ (s.conn? (c.arg 24 4)).isSome = true ∨ connectRange bs s = true)) :=
  ⟨tOn (tNet id) [(0, 0x50), (4, 1), (16, 64), (24, 1)], tId, tSalsia [(0, 0x50), (4, 1), (16, 64), (24, 1)],
    tData tConnRec, tConnRec, ⟨by decide +kernel, by decide +kernel, by decide +kernel⟩, by decide +kernel,
    by first | decide +kernel | rfl, by first | decide +kernel | rfl, by decide +kernel, by decide +kernel,
    by decide +kernel⟩

theorem witness_ConnectionCommandsComplete_4 : ∃ (s : State) (id : CmdId) (c : Cmd) (k : Conn),
    Starts id 0x51 c false none s ∧ s.conn? (c.arg 24 4) = some k :=
  ⟨tOn (tNet id) [(0, 0x51), (4, 1), (24, 1)], tId, tSalsia [(0, 0x51), (4, 1), (24, 1)], tConn 1 true,
    ⟨by decide +kernel, by decide +kernel, by decide +kernel⟩, by first | decide +kernel | rfl⟩

theorem witness_ConnectionCommandsComplete_5 : ∃ (s : State) (id : CmdId) (c : Cmd) (i : Nat) (m : Mooring),
    Starts id 0x52 c false none s ∧ mooringBad c s = false ∧ freeIndex s = some i ∧ m = ⟨i, ((s.mooring? i).map
    (·.gen)).getD 1, c.arg 24 2, c.arg 32 8, c.arg 40 8, c.arg 26 1, .valid, [], false, 0⟩ :=
  ⟨tOn tSpace [(0, 0x52), (4, 1), (24, 1), (26, 3), (40, 64)], tId, tSalsia [(0, 0x52), (4, 1), (24, 1), (26, 3),
    (40, 64)], 0, ⟨0, 1, 1, 0, 64, 3, .valid, [], false, 0⟩, ⟨by decide +kernel, by decide +kernel,
    by decide +kernel⟩, by decide +kernel, by first | decide +kernel | rfl, by first | decide +kernel | rfl⟩

theorem witness_ConnectionCommandsComplete_6 : ∃ (s : State) (id : CmdId) (c : Cmd),
    Starts id 0x52 c false none s ∧ mooringBad c s = false ∧ freeIndex s = none :=
  ⟨tKeysFull, tId, tSalsia [(0, 0x52), (4, 1), (24, 1), (26, 3), (40, 64)], ⟨by decide +kernel, by decide +kernel,
    by decide +kernel⟩, by decide +kernel, no_index_in_full⟩

theorem witness_ConnectionCommandsComplete_7 : ∃ (s : State) (id : CmdId) (c : Cmd) (m : Mooring),
    Starts id 0x54 c false none s ∧ 1 ≤ c.arg 24 2 ∧ c.arg 24 2 ≤ 1023 ∧ 1 ≤ c.arg 26 1 ∧ c.arg 26 1 ≤ 3 ∧
    ((s.mooring? (spaceKey + c.arg 24 2)).map (·.state)).getD .free = .free ∧ m = ⟨spaceKey + c.arg 24 2,
    ((s.mooring? (spaceKey + c.arg 24 2)).map (·.gen)).getD 1, c.arg 24 2, 0, s.spaceBytes, c.arg 26 1, .valid, [],
    false, 0⟩ :=
  ⟨tOn tSpace [(0, 0x54), (4, 1), (24, 1), (26, 3)], tId, tSalsia [(0, 0x54), (4, 1), (24, 1), (26, 3)],
    ⟨spaceKey + 1, 1, 1, 0, tSpace.spaceBytes, 3, .valid, [], false, 0⟩, ⟨by decide +kernel, by decide +kernel,
    by decide +kernel⟩, by decide +kernel, by decide +kernel, by decide +kernel, by decide +kernel,
    by first | decide +kernel | rfl, by first | decide +kernel | rfl⟩

theorem witness_ConnectionCommandsComplete_8 : ∃ (s : State) (id : CmdId) (c : Cmd) (m : Mooring),
    Starts id 0x54 c false none s ∧ 1 ≤ c.arg 24 2 ∧ c.arg 24 2 ≤ 1023 ∧ 1 ≤ c.arg 26 1 ∧ c.arg 26 1 ≤ 3 ∧ s.mooring?
    (spaceKey + c.arg 24 2) = some m ∧ m.state = .valid :=
  ⟨tGranted .valid [(26, 2)], tId, tSalsia ([(0, 0x54), (4, 1), (24, 1)] ++ [(26, 2)]), tSpaceKey .valid,
    ⟨by decide +kernel, by decide +kernel, by decide +kernel⟩, by decide +kernel, by decide +kernel,
    by decide +kernel, by decide +kernel, by first | decide +kernel | rfl, by first | decide +kernel | rfl⟩

theorem witness_ConnectionCommandsComplete_9 : ∃ (s : State) (id : CmdId) (c : Cmd) (i : Nat),
    Starts id 0x54 c false none s ∧ 1 ≤ c.arg 24 2 ∧ c.arg 24 2 ≤ 1023 ∧ c.arg 26 1 = 0 ∧ i = spaceKey + c.arg 24 2 :=
  ⟨tGranted .valid [], tId, tSalsia ([(0, 0x54), (4, 1), (24, 1)] ++ []), spaceKey + 1, ⟨by decide +kernel,
    by decide +kernel, by decide +kernel⟩, by decide +kernel, by decide +kernel, by first | decide +kernel | rfl,
    by first | decide +kernel | rfl⟩

theorem witness_ConnectionCommandsComplete_10 : ∃ (s : State) (id : CmdId) (c : Cmd) (m : Mooring),
    Starts id 0x54 c false none s ∧ 1 ≤ c.arg 24 2 ∧ c.arg 24 2 ≤ 1023 ∧ 1 ≤ c.arg 26 1 ∧ c.arg 26 1 ≤ 3 ∧ s.mooring?
    (spaceKey + c.arg 24 2) = some m ∧ m.state = .revoking :=
  ⟨tGranted .revoking [(26, 2)], tId, tSalsia ([(0, 0x54), (4, 1), (24, 1)] ++ [(26, 2)]), tSpaceKey .revoking,
    ⟨by decide +kernel, by decide +kernel, by decide +kernel⟩, by decide +kernel, by decide +kernel,
    by decide +kernel, by decide +kernel, by first | decide +kernel | rfl, by first | decide +kernel | rfl⟩

theorem witness_ConnectionCommandsComplete_11 : ∃ (s : State) (id : CmdId) (c : Cmd) (m : Mooring),
    Starts id 0x53 c false none s ∧ s.keyed (BitVec.ofNat 32 (c.arg 24 4)) = some m ∧ m.serve = false ∧
    m.state = .valid :=
  ⟨tOn (tNet id) [(0, 0x53), (4, 1), (24, 0x20001)], tId, tSalsia [(0, 0x53), (4, 1), (24, 0x20001)], tMooring,
    ⟨by decide +kernel, by decide +kernel, by decide +kernel⟩, by first | decide +kernel | rfl, by decide +kernel,
    by first | decide +kernel | rfl⟩

theorem witness_ConnectionCommandsComplete_12 : ∃ (s : State) (id : CmdId) (c : Cmd) (m : Mooring),
    Starts id 0x53 c false none s ∧ s.keyed (BitVec.ofNat 32 (c.arg 24 4)) = some m ∧ m.serve = false ∧
    m.state = .revoking :=
  ⟨tOn (tRevoking [0]) [(0, 0x53), (4, 1), (24, 0x20001)], tId, tSalsia [(0, 0x53), (4, 1), (24, 0x20001)],
    { tMooring with state := .revoking, inflight := [0] }, ⟨by decide +kernel, by decide +kernel, by decide +kernel⟩,
    by first | decide +kernel | rfl, by decide +kernel, by first | decide +kernel | rfl⟩

theorem witness_ConnectionCommandsComplete_13 : ∃ (s : State) (id : CmdId) (c : Cmd) (m : Mooring),
    Starts id 0x53 c false none s ∧ s.keyed (BitVec.ofNat 32 (c.arg 24 4)) = some m ∧
    (m.serve = true ∨ m.state = .free) :=
  ⟨tFreeKey, tId, tSalsia [(0, 0x53), (4, 1), (24, 0x20001)], { tMooring with state := .free }, ⟨by decide +kernel,
    by decide +kernel, by decide +kernel⟩, by first | decide +kernel | rfl, by first | decide +kernel | rfl⟩

theorem witness_ConnectionCommandsComplete_14 : ∃ (s : State) (key : Word) (m : Mooring),
    s.keyed key = some m ∧ m.state = .revoking ∧ m.inflight = [] :=
  ⟨tRevoking [], 0x20001, { tMooring with state := .revoking }, by and_intros <;> first | decide +kernel | rfl⟩

theorem witness_ConnectionCommandsComplete_15 : ∃ (s : State) (a : State) (key : Word) (m : Mooring),
    s.keyed key = some m ∧ m.state = .revoking ∧ m.inflight ≠ [] ∧ m.since + s.applied.egrRevokeMax.toNat * 1000 ≤ s.mono ∧ a = s.each m.inflight.eraseDups (fun i t => connError i 7 t) :=
  ⟨tRevoking [0], (tRevoking [0]).each [0] (fun i t => connError i 7 t), 0x20001, { tMooring with state := .revoking, inflight := [0] },
    by and_intros <;> first | decide +kernel | rfl⟩

theorem witness_ConnectionCommandsComplete_16 : ∃ (s : State) (id : CmdId) (c : Cmd) (d : HostData) (bs : List Byte)
    (k : Conn),
    Starts id 0x55 c false none s ∧ c.listBad d = false ∧ c.fetched d = some bs ∧ s.conn? (c.arg 24 4) = some k :=
  ⟨tOn (tNet id) [(0, 0x55), (4, 1), (16, 128), (24, 1), (28, 1)], tId, tSalsia [(0, 0x55), (4, 1), (16, 128), (24,
    1), (28, 1)], tData [], List.replicate 128 0, tConn 1 true, ⟨by decide +kernel, by decide +kernel,
    by decide +kernel⟩, by decide +kernel, by first | decide +kernel | rfl, by first | decide +kernel | rfl⟩

theorem witness_ConnectionCommandsComplete_17 : ∃ (s : State) (id : CmdId) (c : Cmd) (d : HostData) (bs : List Byte),
    c.listBad d = false ∧ c.fetched d = some bs ∧ s.conn? (c.arg 24 4) = none ∧ s.keyed (BitVec.ofNat 32
    (c.arg 24 4)) = none :=
  ⟨tOn (tNet id) [(0, 0x51), (4, 1), (24, 77)], tId, tSalsia [(0, 0x51), (4, 1), (24, 77)], tData [], [],
    by and_intros <;> first | decide +kernel | rfl⟩

theorem witness_FirmwareAndFuses_1 : ∃ (s : State) (id : CmdId) (c : Cmd),
    Starts id 0x60 c false none s :=
  ⟨tOn tNoon [(0, 0x60)], tId, tSalsia [(0, 0x60)], ⟨by decide +kernel, by decide +kernel, by decide +kernel⟩⟩

theorem witness_FirmwareAndFuses_2 : ∃ (s : State) (id : CmdId) (c : Cmd) (d : HostData) (bs : List Byte)
    (g : List Byte),
    Starts id 0x07 c false none s ∧ c.listBad d = false ∧ c.fetched d = some bs ∧ chunkFollows c s.sec = true ∧
    s.sec.stagedWith (c.arg 24 4) bs = g ∧ g.length < c.arg 28 4 :=
  ⟨tOn tNoon [(0, 7), (16, 64), (28, 128)], tId, tSalsia [(0, 7), (16, 64), (28, 128)], tData [],
    List.replicate 64 0, List.replicate 64 0, ⟨by decide +kernel, by decide +kernel, by decide +kernel⟩,
    by decide +kernel, by first | decide +kernel | rfl, by decide +kernel, by first | decide +kernel | rfl,
    by decide +kernel⟩

theorem witness_FirmwareAndFuses_3 : ∃ (s : State) (id : CmdId) (c : Cmd) (d : HostData) (bs : List Byte)
    (g : List Byte),
    Starts id 0x07 c false none s ∧ c.listBad d = false ∧ c.fetched d = some bs ∧ chunkFollows c s.sec = true ∧
    s.sec.stagedWith (c.arg 24 4) bs = g ∧ c.arg 28 4 ≤ g.length ∧ imageReason s.sec (c.arg 28 4) g = none :=
  ⟨tOn tStagedHead [(0, 7), (16, 1), (24, 1024), (28, 1025)], tId, tSalsia [(0, 7), (16, 1), (24, 1024), (28, 1025)],
    tData [0x5A], [0x5A], tImage, ⟨by decide +kernel, by decide +kernel, by decide +kernel⟩, by decide +kernel,
    by first | decide +kernel | rfl, by decide +kernel, by first | decide +kernel | rfl, by decide +kernel,
    by decide +kernel⟩

theorem witness_FirmwareAndFuses_4 : ∃ (s : State) (id : CmdId) (c : Cmd) (d : HostData) (bs : List Byte)
    (g : List Byte) (r : Nat),
    Starts id 0x07 c false none s ∧ c.listBad d = false ∧ c.fetched d = some bs ∧ chunkFollows c s.sec = true ∧
    s.sec.stagedWith (c.arg 24 4) bs = g ∧ c.arg 28 4 ≤ g.length ∧ imageReason s.sec (c.arg 28 4) g = some r :=
  ⟨tOn tNoon [(0, 7), (16, 64), (28, 64)], tId, tSalsia [(0, 7), (16, 64), (28, 64)], tData [], List.replicate 64 0,
    List.replicate 64 0, 1, ⟨by decide +kernel, by decide +kernel, by decide +kernel⟩, by decide +kernel,
    by first | decide +kernel | rfl, by decide +kernel, by first | decide +kernel | rfl, by decide +kernel,
    by first | decide +kernel | rfl⟩

theorem witness_FirmwareAndFuses_5 : ∃ (s : State) (id : CmdId) (c : Cmd) (d : HostData) (bs : List Byte),
    Starts id 0x07 c false none s ∧ c.listBad d = false ∧ c.fetched d = some bs ∧ chunkFollows c s.sec = false :=
  ⟨tOn tNoon [(0, 7), (16, 64), (24, 64), (28, 128)], tId, tSalsia [(0, 7), (16, 64), (24, 64), (28, 128)], tData [],
    List.replicate 64 0, ⟨by decide +kernel, by decide +kernel, by decide +kernel⟩, by decide +kernel,
    by first | decide +kernel | rfl, by decide +kernel⟩

theorem witness_FirmwareAndFuses_6 : ∃ (s : State) (id : CmdId) (c : Cmd) (n : Nat) (g : List Byte),
    Starts id 0x08 c false none s ∧ s.sec.staged = some ⟨n, g, true⟩ :=
  ⟨tOn tStagedState [(0, 8)], tId, tSalsia [(0, 8)], 1025, tImage, ⟨by decide +kernel, by decide +kernel,
    by decide +kernel⟩, by first | decide +kernel | rfl⟩

theorem witness_FirmwareAndFuses_7 : ∃ (s : State) (id : CmdId) (c : Cmd),
    Starts id 0x08 c false none s ∧ ((s.sec.staged.map (·.verified)).getD false) = false :=
  ⟨tOn tNoon [(0, 8)], tId, tSalsia [(0, 8)], ⟨by decide +kernel, by decide +kernel, by decide +kernel⟩,
    by decide +kernel⟩

theorem witness_FirmwareAndFuses_8 : ∃ (s : State) (id : CmdId) (c : Cmd),
    (s.cmd? id fun c => match c.run with | .fwActivate _ => true | _ => false) = some c :=
  ⟨tCmdRun (.fwActivate false), tId, tCmd (.fwActivate false), by decide +kernel⟩

theorem witness_FirmwareAndFuses_9 : ∃ (s : State) (id : CmdId) (c : Cmd),
    (s.cmd? id fun c => match c.run with | .fwActivate _ => true | _ => false) = some c ∧ c.run = .fwActivate false :=
  ⟨tCmdRun (.fwActivate false), tId, tCmd (.fwActivate false), by and_intros <;> first | decide +kernel | rfl⟩

theorem witness_FirmwareAndFuses_10 : ∃ (s : State) (id : CmdId) (c : Cmd),
    (s.cmd? id fun c => match c.run with | .fwActivate _ => true | _ => false) = some c ∧ c.run = .fwActivate true :=
  ⟨tCmdRun (.fwActivate true), tId, tCmd (.fwActivate true), by and_intros <;> first | decide +kernel | rfl⟩

theorem witness_FirmwareAndFuses_11 : ∃ (s : State) (n : Nat) (g : List Byte),
    s.sec.restart = some (n, g) ∧ n ≤ s.mono ∧ s.jobActive = false :=
  ⟨tSecState fun x => { x with restart := some (0, tImage) }, 0, tImage,
    by and_intros <;> first | decide +kernel | rfl⟩

theorem witness_FirmwareAndFuses_12 : ∃ (s : State) (n : Nat) (g : List Byte),
    s.sec.restart = some (n, g) ∧ (s.mono < n ∨ s.jobActive = true) :=
  ⟨tSecState fun x => { x with restart := some (1000, tImage) }, 1000, tImage,
    by and_intros <;> first | decide +kernel | rfl⟩

theorem witness_FirmwareAndFuses_13 : ∃ (s : State) (id : CmdId) (c : Cmd) (d : HostData) (bs : List Byte),
    Starts id 0x61 c false none s ∧ c.listBad d = false ∧ c.fetched d = some bs ∧ c.arg 24 1 ≤ 3 ∧ c.dlen = 32 ∧
    s.sec.lifecycle = .provisioning ∧ s.sec.keyOf (c.arg 24 1) = 0 :=
  ⟨tOn (tSecState id) [(0, 0x61), (16, 32), (24, 2)], tId, tSalsia [(0, 0x61), (16, 32), (24, 2)], tData [],
    List.replicate 32 0, ⟨by decide +kernel, by decide +kernel, by decide +kernel⟩, by decide +kernel,
    by first | decide +kernel | rfl, by decide +kernel, by first | decide +kernel | rfl,
    by first | decide +kernel | rfl, by first | decide +kernel | rfl⟩

theorem witness_FirmwareAndFuses_14 : ∃ (s : State) (id : CmdId) (c : Cmd) (d : HostData),
    Starts id 0x61 c false none s ∧ c.listBad d = false ∧ c.arg 24 1 ≤ 3 ∧ c.dlen = 32 ∧
    (s.sec.lifecycle ≠ .provisioning ∨ s.sec.keyOf (c.arg 24 1) ≠ 0) :=
  ⟨tOn (tSecState id) [(0, 0x61), (16, 32), (24, 1)], tId, tSalsia [(0, 0x61), (16, 32), (24, 1)], tData [],
    ⟨by decide +kernel, by decide +kernel, by decide +kernel⟩, by decide +kernel, by decide +kernel,
    by first | decide +kernel | rfl, by decide +kernel⟩

theorem witness_FirmwareAndFuses_15 : ∃ (s : State) (id : CmdId) (c : Cmd),
    Starts id 0x62 c false none s :=
  ⟨tOn tNoon [(0, 0x62)], tId, tSalsia [(0, 0x62)], ⟨by decide +kernel, by decide +kernel, by decide +kernel⟩⟩

theorem witness_FirmwareAndFuses_16 : ∃ (s : State) (id : CmdId) (c : Cmd),
    Starts id 0x63 c false none s ∧ s.sec.lifecycle = .provisioning ∧ (List.range 4).any s.sec.programmed = true ∧
    s.sec.cert.isSome = true :=
  ⟨tOn (tSecState fun x => { x with cert := some [] }) [(0, 0x63)], tId, tSalsia [(0, 0x63)], ⟨by decide +kernel, by decide +kernel, by decide +kernel⟩, by first | decide +kernel | rfl, by decide +kernel, by decide +kernel⟩

theorem witness_FirmwareAndFuses_17 : ∃ (s : State) (id : CmdId) (c : Cmd),
    Starts id 0x63 c false none s ∧ (s.sec.lifecycle ≠ .provisioning ∨
    (List.range 4).any s.sec.programmed = false ∨ s.sec.cert = none) :=
  ⟨tOn (tSecState fun x => { x with cert := none }) [(0, 0x63)], tId, tSalsia [(0, 0x63)], ⟨by decide +kernel, by decide +kernel, by decide +kernel⟩, by decide +kernel⟩

theorem witness_KeysAndDebug_1 : ∃ (s : State) (id : CmdId) (p : Port) (c : Cmd) (d : HostData) (bs : List Byte),
    id.via = .doe p ∧ Starts id 0x64 c false none s ∧ c.listBad d = false ∧ c.fetched d = some bs ∧
    keyFieldBad c = false ∧ c.dlen = 32 ∧ keyInUse c s = false ∧ keyNoJob c s = false :=
  ⟨tOnDoe tNoon [(0, 0x64), (16, 32), (24, 1)], tDoe, .a, { tSalsia [(0, 0x64), (16, 32), (24, 1)] with id := tDoe },
    tData [], List.replicate 32 0, by first | decide +kernel | rfl, ⟨by decide +kernel, by decide +kernel,
    by decide +kernel⟩, by decide +kernel, by first | decide +kernel | rfl, by decide +kernel,
    by first | decide +kernel | rfl, by decide +kernel, by decide +kernel⟩

theorem witness_KeysAndDebug_2 : ∃ (s : State) (id : CmdId) (c : Cmd) (d : HostData),
    ((∀ p, id.via ≠ .doe p)) ∧ Starts id 0x64 c false none s ∧ c.listBad d = false ∧ keyFieldBad c = false ∧
    c.dlen = 32 :=
  ⟨tOn tNoon [(0, 0x64), (16, 32), (24, 1)], tId, tSalsia [(0, 0x64), (16, 32), (24, 1)], tData [], fun p h => Via.noConfusion h, ⟨by decide +kernel, by decide +kernel, by decide +kernel⟩, by decide +kernel, by decide +kernel, by decide +kernel⟩

theorem witness_KeysAndDebug_3 : ∃ (s : State) (id : CmdId) (p : Port) (c : Cmd) (d : HostData),
    id.via = .doe p ∧ Starts id 0x64 c false none s ∧ c.listBad d = false ∧ keyFieldBad c = false ∧ c.dlen = 32 ∧
    keyInUse c s = true :=
  ⟨tOnDoe tRun [(0, 0x64), (16, 32), (24, 1)], tDoe, .a, { tSalsia [(0, 0x64), (16, 32), (24, 1)] with id := tDoe },
    tData [], by first | decide +kernel | rfl, ⟨by decide +kernel, by decide +kernel, by decide +kernel⟩,
    by decide +kernel, by decide +kernel, by first | decide +kernel | rfl, by decide +kernel⟩

theorem witness_KeysAndDebug_4 : ∃ (s : State) (id : CmdId) (c : Cmd),
    Starts id 0x65 c false none s ∧ keyFieldBad c = false ∧ keyInUse c s = false ∧ keyNoJob c s = false :=
  ⟨tOn tNoon [(0, 0x65), (24, 1)], tId, tSalsia [(0, 0x65), (24, 1)], ⟨by decide +kernel, by decide +kernel,
    by decide +kernel⟩, by decide +kernel, by decide +kernel, by decide +kernel⟩

theorem witness_KeysAndDebug_5 : ∃ (s : State) (id : CmdId) (c : Cmd),
    Starts id 0x65 c false none s ∧ keyFieldBad c = false ∧ keyInUse c s = true :=
  ⟨tOn tRun [(0, 0x65), (24, 1)], tId, tSalsia [(0, 0x65), (24, 1)], ⟨by decide +kernel, by decide +kernel,
    by decide +kernel⟩, by decide +kernel, by decide +kernel⟩

theorem witness_KeysAndDebug_6 : ∃ (s : State) (id : CmdId) (p : Port) (c : Cmd) (d : HostData) (bs : List Byte),
    keyFieldBad c = false ∧ keyInUse c s = false ∧ keyNoJob c s = true :=
  ⟨tOnDoe tNoon [(0, 0x64), (16, 32), (24, 2), (25, 1)], tDoe, .a,
    { tSalsia [(0, 0x64), (16, 32), (24, 2), (25, 1)] with id := tDoe }, tData [], List.replicate 32 0,
    by and_intros <;> first | decide +kernel | rfl⟩

theorem witness_KeysAndDebug_7 : ∃ (s : State) (id : CmdId) (c : Cmd) (d : HostData) (bs : List Byte),
    Starts id 0x66 c false none s ∧ c.listBad d = false ∧ c.fetched d = some bs ∧ bs.length = 1024 ∧ s.sec.lastSlot
    (byteField bs 12 1) = false ∧ revokeReason bs = none ∧ signerReason s.sec (byteField bs 13 1) bs = none :=
  ⟨tOn (tSecState id) [(0, 0x66), (16, 1024)], tId, tSalsia [(0, 0x66), (16, 1024)], tData tRevocation, tRevocation,
    ⟨by decide +kernel, by decide +kernel, by decide +kernel⟩, by decide +kernel, by first | decide +kernel | rfl,
    by first | decide +kernel | rfl, by decide +kernel, by decide +kernel, by decide +kernel⟩

theorem witness_KeysAndDebug_8 : ∃ (s : State) (id : CmdId) (c : Cmd) (d : HostData) (bs : List Byte) (r : Nat),
    Starts id 0x66 c false none s ∧ c.listBad d = false ∧ c.fetched d = some bs ∧ ((bs.length ≠ 1024 ∧ r = 2) ∨ (bs.length = 1024 ∧ s.sec.lastSlot (byteField bs 12 1) = false ∧ ((revokeReason bs).orElse fun _ => signerReason s.sec (byteField bs 13 1) bs) = some r)) :=
  ⟨tOn (tSecState id) [(0, 0x66), (16, 64)], tId, tSalsia [(0, 0x66), (16, 64)], tData [], List.replicate 64 0, 2,
    ⟨by decide +kernel, by decide +kernel, by decide +kernel⟩, by decide +kernel, by decide +kernel, .inl
    (by decide +kernel)⟩

theorem witness_KeysAndDebug_9 : ∃ (s : State) (id : CmdId) (c : Cmd) (d : HostData) (bs : List Byte),
    Starts id 0x66 c false none s ∧ c.listBad d = false ∧ c.fetched d = some bs ∧ bs.length = 1024 ∧ s.sec.lastSlot
    (byteField bs 12 1) = true :=
  ⟨tOn (tSecState fun x => { x with keyHash := [0, 9, 0, 0] }) [(0, 0x66), (16, 1024)], tId, tSalsia [(0, 0x66), (16, 1024)], tData tRevocation, tRevocation, ⟨by decide +kernel, by decide +kernel, by decide +kernel⟩, by decide +kernel, by first | decide +kernel | rfl, by first | decide +kernel | rfl, by decide +kernel⟩

theorem witness_KeysAndDebug_10 : ∃ (s : State) (id : CmdId) (m : MbxId) (c : Cmd) (n : Nat),
    id.via = .mbx m ∧ Starts id 0x67 c false none s ∧ s.sec.debugFails < 8 ∧
    n = s.draw.1.toNat + s.draw.2.draw.1.toNat * 2 ^ 64 :=
  ⟨tOn tNoon [(0, 0x67)], tId, ⟨.a, 1⟩, tSalsia [(0, 0x67)], (tOn tNoon [(0, 0x67)]).draw.1.toNat + (tOn tNoon [(0,
    0x67)]).draw.2.draw.1.toNat * 2 ^ 64, rfl, ⟨by decide +kernel, by decide +kernel, by decide +kernel⟩,
    by decide +kernel, rfl⟩

theorem witness_KeysAndDebug_11 : ∃ (s : State) (id : CmdId) (c : Cmd),
    Starts id 0x67 c false none s ∧ (8 ≤ s.sec.debugFails ∨ (∀ m, id.via ≠ .mbx m)) :=
  ⟨tOn (tSecState fun x => { x with debugFails := 8 }) [(0, 0x67)], tId, tSalsia [(0, 0x67)], ⟨by decide +kernel, by decide +kernel, by decide +kernel⟩, .inl (by decide +kernel)⟩

theorem witness_KeysAndDebug_12 : ∃ (s : State) (id : CmdId) (c : Cmd) (d : HostData) (bs : List Byte),
    Starts id 0x68 c false none s ∧ c.listBad d = false ∧ c.fetched d = some bs ∧ s.sec.debug ≠ .openAll ∧
    grantReason s.sec bs = none ∧ signerReason s.sec (byteField bs 29 1) bs = none :=
  ⟨tOn (tSecState fun x => { x with nonce := some 7 }) [(0, 0x68), (16, 1024)], tId, tSalsia [(0, 0x68), (16, 1024)], tData tGrant, tGrant, ⟨by decide +kernel, by decide +kernel, by decide +kernel⟩, by decide +kernel, by first | decide +kernel | rfl, by decide +kernel, by decide +kernel, by decide +kernel⟩

theorem witness_KeysAndDebug_13 : ∃ (s : State) (id : CmdId) (c : Cmd) (d : HostData) (bs : List Byte) (r : Nat),
    Starts id 0x68 c false none s ∧ c.listBad d = false ∧ c.fetched d = some bs ∧ s.sec.debug ≠ .openAll ∧ ((grantReason s.sec bs).orElse fun _ => signerReason s.sec (byteField bs 29 1) bs) = some r :=
  ⟨tOn (tSecState fun x => { x with nonce := some 8 }) [(0, 0x68), (16, 1024)], tId, tSalsia [(0, 0x68), (16, 1024)], tData tGrant, tGrant, 1, ⟨by decide +kernel, by decide +kernel, by decide +kernel⟩, by decide +kernel, by first | decide +kernel | rfl, by decide +kernel, by first | decide +kernel | rfl⟩

theorem witness_KeysAndDebug_14 : ∃ (s : State) (id : CmdId) (c : Cmd) (d : HostData),
    Starts id 0x68 c false none s ∧ c.listBad d = false ∧ s.sec.debug = .openAll :=
  ⟨tOn (tSecState fun x => { x with debug := .openAll }) [(0, 0x68), (16, 1024)], tId, tSalsia [(0, 0x68), (16, 1024)], tData tGrant, ⟨by decide +kernel, by decide +kernel, by decide +kernel⟩, by decide +kernel, by first | decide +kernel | rfl⟩

theorem witness_KeysAndDebug_15 : ∃ (s : State) (id : CmdId) (c : Cmd),
    Starts id 0x69 c false none s ∧ isAuth s.sec.debug = true :=
  ⟨tOn (tSecState fun x => { x with debug := .auth true true true none }) [(0, 0x69)], tId, tSalsia [(0, 0x69)], ⟨by decide +kernel, by decide +kernel, by decide +kernel⟩, by decide +kernel⟩

theorem witness_KeysAndDebug_16 : ∃ (s : State) (w : Bool) (c : Bool) (z : Bool) (t : Nat),
    s.sec.debug = .auth w c z (some t) ∧ t ≤ s.mono :=
  ⟨tSecState fun x => { x with debug := .auth true true true (some 0) }, true, true, true, 0,
    by and_intros <;> first | decide +kernel | rfl⟩

theorem witness_KeysAndDebug_17 : ∃ (s : State) (id : CmdId) (c : Cmd),
    Starts id 0x6A c false none s ∧ zeroiseReason s.sec = none :=
  ⟨tOn (tSecState fun x => { x with debug := .auth true true true none }) [(0, 0x6A)], tId, tSalsia [(0, 0x6A)], ⟨by decide +kernel, by decide +kernel, by decide +kernel⟩, by decide +kernel⟩

theorem witness_KeysAndDebug_19 : ∃ (s : State) (id : CmdId) (c : Cmd) (r : Nat),
    Starts id 0x6A c false none s ∧ zeroiseReason s.sec = some r :=
  ⟨tOn (tSecState fun x => { x with lifecycle := .secured, debug := .auth true true false none }) [(0, 0x6A)], tId, tSalsia [(0, 0x6A)], 7, ⟨by decide +kernel, by decide +kernel, by decide +kernel⟩, by first | decide +kernel | rfl⟩

theorem witness_KeysAndDebug_20 : ∃ (s : State) (id : CmdId) (c : Cmd),
    Starts id 0x6B c false none s ∧ s.sec.lifecycle = .zeroised :=
  ⟨tOn (tSecState fun x => { x with lifecycle := .zeroised }) [(0, 0x6B)], tId, tSalsia [(0, 0x6B)], ⟨by decide +kernel, by decide +kernel, by decide +kernel⟩, by first | decide +kernel | rfl⟩

theorem witness_KeysAndDebug_21 : ∃ (s : State) (id : CmdId) (c : Cmd),
    Starts id 0x6B c false none s ∧ s.sec.lifecycle ≠ .zeroised :=
  ⟨tOn (tSecState id) [(0, 0x6B)], tId, tSalsia [(0, 0x6B)], ⟨by decide +kernel, by decide +kernel,
    by decide +kernel⟩, by decide +kernel⟩

theorem witness_KeysAndDebug_22 : ∃ (s : State) (id : CmdId) (c : Cmd),
    Starts id 0x69 c false none s ∧ isAuth s.sec.debug = false :=
  ⟨tOn (tSecState fun x => { x with debug := .locked }) [(0, 0x69)], tId, tSalsia [(0, 0x69)], ⟨by decide +kernel, by decide +kernel, by decide +kernel⟩, by decide +kernel⟩

theorem witness_AttestationCompletes_1 : ∃ (s : State),
    s.pwr.off = false ∧ s.fab.iod0 = true ∧ s.host.hm ≠ .boot ∧ s.sec.deviceSeed = Config.deviceSeed ∧
    s.sec.lifecycle ≠ .zeroised :=
  ⟨{ tNoon with sec := { tNoon.sec with deviceSeed := Config.deviceSeed } }, by decide +kernel, by decide +kernel,
    by decide +kernel, rfl, by decide +kernel⟩

theorem witness_AttestationCompletes_2 : ∃ (s : State),
    (s.sec.deviceSeed ≠ Config.deviceSeed ∨ s.sec.lifecycle = .zeroised ∨ s.host.hm = .boot ∨ s.pwr.off = true ∨ s.fab.iod0 = false) :=
  ⟨tBooting, .inr (.inr (.inl (by decide +kernel)))⟩

theorem witness_AttestationCompletes_3 : ∃ (s : State) (t : SpdmTransport),
    spdmReaches t s = true :=
  ⟨tNoon, .doe .a, by decide +kernel⟩

theorem witness_AttestationCompletes_4 : ∃ (s : State) (t : SpdmTransport) (o : Nat) (n : Nat) (k : BitVec 256)
    (g : List Byte),
    spdmReaches t s = true ∧ spdmOpen s = true ∧ s.sec.cert = some g :=
  ⟨tOpenSpdm [], .doe .a, 0, 64, 9, [], by and_intros <;> first | decide +kernel | rfl⟩

theorem witness_AttestationCompletes_5 : ∃ (s : State) (t : SpdmTransport) (i : Nat),
    spdmReaches t s = true ∧ spdmOpen s = true ∧ (i ≤ 8 ∨ i = 0xFF) :=
  ⟨tOpenSpdm [], .doe .a, 5, by and_intros <;> first | decide +kernel | rfl⟩

theorem witness_AttestationCompletes_6 : ∃ (s : State) (t : SpdmTransport),
    spdmReaches t s = true ∧ spdmOpen s = true ∧ (s.sec.sessions.filter (·.transport == t)).length < 2 :=
  ⟨tOpenSpdm [], .doe .a, by and_intros <;> first | decide +kernel | rfl⟩

theorem witness_AttestationCompletes_7 : ∃ (s : State) (t : SpdmTransport) (n : Nat),
    spdmReaches t s = true ∧ spdmOpen s = true ∧ session? t n false s = true :=
  ⟨tOpenSpdm [⟨.doe .a, 3, false⟩], .doe .a, 3, by and_intros <;> first | decide +kernel | rfl⟩

theorem witness_AttestationCompletes_8 : ∃ (s : State) (t : SpdmTransport) (n : Nat),
    spdmReaches t s = true ∧ spdmOpen s = true ∧ session? t n false s = true :=
  ⟨tOpenSpdm [⟨.doe .a, 3, false⟩], .doe .a, 3, by and_intros <;> first | decide +kernel | rfl⟩

theorem witness_AttestationCompletes_9 : ∃ (s : State) (t : SpdmTransport) (n : Nat),
    spdmReaches t s = true ∧ spdmOpen s = true ∧ session? t n true s = true :=
  ⟨tOpenSpdm [⟨.mctp, 3, true⟩], .mctp, 3, by and_intros <;> first | decide +kernel | rfl⟩

theorem witness_AttestationCompletes_10 : ∃ (s : State) (t : SpdmTransport) (n : Nat),
    spdmReaches t s = true ∧ spdmOpen s = true ∧ session? t n true s = true :=
  ⟨tOpenSpdm [⟨.doe .a, 3, true⟩], .doe .a, 3, by and_intros <;> first | decide +kernel | rfl⟩

theorem witness_AttestationCompletes_11 : ∃ (s : State) (t : SpdmTransport) (n : Nat),
    spdmReaches t s = true ∧ spdmOpen s = true ∧ session? t n true s = true :=
  ⟨tOpenSpdm [⟨.doe .a, 3, true⟩], .doe .a, 3, by and_intros <;> first | decide +kernel | rfl⟩

theorem witness_AttestationCompletes_12 : ∃ (s : State) (p : Port) (n : Nat) (e : BitVec 512),
    spdmReaches (.doe p) s = true ∧ spdmOpen s = true ∧ session? (.doe p) n true s = true ∧ s.host.fwReady = true :=
  ⟨tOpenSpdm [⟨.doe .a, 3, true⟩], .a, 3, 0x10001, by and_intros <;> first | decide +kernel | rfl⟩

theorem witness_AttestationCompletes_13 : ∃ (s : State) (t : SpdmTransport) (k : Nat) (n : Nat) (o : Nat) (l : Nat)
    (c : BitVec 256) (v : Bool) (x : Option Nat) (e : BitVec 512),
    spdmReaches t s = true ∧ spdmOpen s = false :=
  ⟨tNoon, .doe .a, 0, 0, 0, 0, 0, true, none, 0, by and_intros <;> first | decide +kernel | rfl⟩

theorem witness_AttestationCompletes_14 : ∃ (s : State) (t : SpdmTransport) (k : Nat) (n : Nat) (o : Nat) (l : Nat)
    (c : BitVec 256) (v : Bool) (e : BitVec 512),
    spdmReaches t s = true ∧ spdmOpen s = true :=
  ⟨tOpenSpdm [], .doe .a, 1, 0, 0, 0, 0, true, 0, by and_intros <;> first | decide +kernel | rfl⟩

theorem witness_AttestationCompletes_15 : ∃ (s : State) (t : SpdmTransport) (k : Nat) (n : Nat) (o : Nat) (l : Nat)
    (c : BitVec 256) (v : Bool) (x : Option Nat) (e : BitVec 512),
    spdmReaches t s = false :=
  ⟨tDeaf, .doe .b, 0, 0, 0, 0, 0, true, none, 0, by decide +kernel⟩

theorem witness_AttestationCompletes_16 : ∃ (s : State) (c : DebugClass) (o : JtagOp),
    s.fab.iod0 = true ∧ jtagAllowed c o s = true :=
  ⟨tNoon, .b, .idcode, by and_intros <;> first | decide +kernel | rfl⟩

theorem witness_AttestationCompletes_17 : ∃ (s : State) (c : DebugClass) (o : JtagOp),
    s.fab.iod0 = true ∧ jtagAllowed c o s = false :=
  ⟨tNoon, .m, .memRead .iod 0, by and_intros <;> first | decide +kernel | rfl⟩

theorem witness_HealthAndLinkTests_1 : ∃ (s : State),
    smbusAnswers s = true :=
  ⟨tSmb, by decide +kernel⟩

theorem witness_HealthAndLinkTests_2 : ∃ (s : State),
    smbusAnswers s = true :=
  ⟨tSmb, by decide +kernel⟩

theorem witness_HealthAndLinkTests_3 : ∃ (s : State),
    smbusAnswers s = true :=
  ⟨tSmb, by decide +kernel⟩

theorem witness_HealthAndLinkTests_4 : ∃ (s : State),
    smbusAnswers s = false :=
  ⟨tNoon.modFab fun f => { f with iod0 := false }, by decide +kernel⟩

theorem witness_HealthAndLinkTests_5 : ∃ (s : State) (e : Nat),
    s.edgeWhere (·.up) e = true ∧ (((s.fab.edges[e]?).map (·.since)).getD 0) + 1000000000 ≤ s.mono :=
  ⟨tEdge1, 4, by and_intros <;> first | decide +kernel | rfl⟩

theorem witness_HealthAndLinkTests_7 : ∃ (s : State) (w : Owner),
    s.heard w = true ∧ ltRefusal w s.rw.ltCfg s = none ∧ ltType s.rw.ltCfg ≠ 1 ∧ ltType s.rw.ltCfg ≠ 2 :=
  ⟨{ tNoon with rw := { RwRegs.reset with ltCfg := 0x4004 } }, .portA, by and_intros <;> first | decide +kernel | rfl⟩

theorem witness_HealthAndLinkTests_8 : ∃ (s : State) (w : Owner),
    s.heard w = true ∧ ltRefusal w s.rw.ltCfg s = none ∧ ltType s.rw.ltCfg = 1 :=
  ⟨{ tNoon with rw := { RwRegs.reset with ltCfg := 0x4011 } }, .portA, by and_intros <;> first | decide +kernel | rfl⟩

theorem witness_HealthAndLinkTests_9 : ∃ (s : State) (w : Owner),
    s.heard w = true ∧ ltRefusal w s.rw.ltCfg s = none ∧ ltType s.rw.ltCfg = 2 :=
  ⟨{ tNoon with rw := { RwRegs.reset with ltCfg := 0x4002 } }, .portA, by and_intros <;> first | decide +kernel | rfl⟩

theorem witness_HealthAndLinkTests_10 : ∃ (s : State) (w : Owner) (r : Nat),
    s.heard w = true ∧ ltRefusal w s.rw.ltCfg s = some r :=
  ⟨tTest, .portA, 5, by and_intros <;> first | decide +kernel | rfl⟩

theorem witness_HealthAndLinkTests_11 : ∃ (s : State) (a : State) (w : Owner),
    s.heard w = true ∧ s.lt.active = true ∧ ltType s.lt.cfg ≠ 1 ∧ ltType s.lt.cfg ≠ 2 ∧ s.draw.2.modLt (fun l => { l with state := .stopped, active := false, bits := s.draw.1.toNat % 2 ^ 48 }) = a :=
  ⟨tTest, tTest.draw.2.modLt (fun l => { l with state := .stopped, active := false, bits := tTest.draw.1.toNat % 2 ^ 48 }), .portA,
    by and_intros <;> first | decide +kernel | rfl⟩

theorem witness_HealthAndLinkTests_12 : ∃ (s : State) (a : State) (w : Owner),
    s.heard w = true ∧ s.lt.active = true ∧ ltType s.lt.cfg = 1 ∧ s.draw.2.modLt (fun l => { l with state := .stopped, active := false, bits := s.draw.1.toNat % 2 ^ 48 }) = a :=
  ⟨tTestOf 0x4011, (tTestOf 0x4011).draw.2.modLt (fun l => { l with state := .stopped, active := false, bits := (tTestOf 0x4011).draw.1.toNat % 2 ^ 48 }), .portA,
    by and_intros <;> first | decide +kernel | rfl⟩

theorem witness_HealthAndLinkTests_13 : ∃ (s : State) (a : State) (w : Owner),
    s.heard w = true ∧ s.lt.active = true ∧ ltType s.lt.cfg = 2 ∧ s.draw.2.modLt (fun l => { l with state := .stopped, active := false, bits := s.draw.1.toNat % 2 ^ 48 }) = a :=
  ⟨tTestOf 0x4002, (tTestOf 0x4002).draw.2.modLt (fun l => { l with state := .stopped, active := false, bits := (tTestOf 0x4002).draw.1.toNat % 2 ^ 48 }), .portA,
    by and_intros <;> first | decide +kernel | rfl⟩

theorem witness_HealthAndLinkTests_14 : ∃ (s : State) (w : Owner),
    s.heard w = true ∧ s.lt.active = true :=
  ⟨tTest, .portA, by and_intros <;> first | decide +kernel | rfl⟩

theorem witness_HealthAndLinkTests_15 : ∃ (s : State) (n : Fin 32) (k : Word),
    s.lt.active = true ∧ (n : Nat) < ltLanes s.lt.cfg s ∧ k = s.lt.lock ||| (1 <<< (n : Nat)) :=
  ⟨tTest, 2, 5, by and_intros <;> first | decide +kernel | rfl⟩

theorem witness_HealthAndLinkTests_16 : ∃ (s : State) (n : Fin 32),
    s.lt.active = true ∧ bitOf s.lt.lock n = true :=
  ⟨tTest, 0, by and_intros <;> first | decide +kernel | rfl⟩

theorem witness_HealthAndLinkTests_17 : ∃ (s : State) (w : Owner) (n : Fin 32),
    s.lt.active = false :=
  ⟨tNoon, .portA, 0, by decide +kernel⟩

theorem witness_CountersComplete_3 : ∃ (s : State) (a : BitVec 12) (ok : Nat → Bool) (m : BitVec 12),
    s.pmc.snapBusy = false ∧ (ok = fun d => bitOf a d && s.dieUp d && !(decide (d < 8) && s.pwr.state == .night)) ∧ m = BitVec.ofNat 12 (((List.range 12).map fun d => flag (!ok d) * 2 ^ d).sum) :=
  ⟨tNoon, 0xFF0, (fun d => bitOf (0xFF0 : BitVec 12) d && tNoon.dieUp d && !(decide (d < 8) && tNoon.pwr.state == .night)), 0xF, by decide +kernel, rfl, by decide +kernel⟩

theorem witness_CountersComplete_4 : ∃ (s : State) (a : BitVec 12),
    s.pmc.snapBusy = true :=
  ⟨{ tNoon with pmc := { tNoon.pmc with snapBusy := true } }, 0xFFF, by decide +kernel⟩

theorem witness_CountersComplete_5 : ∃ (s : State),
    s.pmc.snapBusy = true :=
  ⟨{ tNoon with pmc := { tNoon.pmc with snapBusy := true } }, by decide +kernel⟩

theorem witness_CountersComplete_8 : ∃ (s : State) (bs : List (Nat × Nat)) (n : Nat),
    s.rw.pmcBwWin ≠ 0 ∧ n = s.pmc.bwSince + min 1000000 s.rw.pmcBwWin.toNat * 1000 ∧ n ≤ s.mono ∧
    s.pmc.frozen = false :=
  ⟨tWindow 5 false, [(2 ^ 50, 1)], 5000, by and_intros <;> first | decide +kernel | rfl⟩

theorem witness_CountersComplete_9 : ∃ (s : State) (bs : List (Nat × Nat)) (n : Nat),
    s.rw.pmcBwWin ≠ 0 ∧ n = s.pmc.bwSince + min 1000000 s.rw.pmcBwWin.toNat * 1000 ∧ n ≤ s.mono ∧
    s.pmc.frozen = true :=
  ⟨tWindow 2000000 true, [(2 ^ 50, 1)], 1000000000, by and_intros <;> first | decide +kernel | rfl⟩

theorem witness_CountersComplete_10 : ∃ (s : State) (bs : List (Nat × Nat)),
    (s.rw.pmcBwWin = 0 ∨ s.mono < s.pmc.bwSince + min 1000000 s.rw.pmcBwWin.toNat * 1000) :=
  ⟨tNoon, [], by decide +kernel⟩

theorem witness_PowerStatesComplete_1 : ∃ (s : State),
    mayEnterDusk s = true :=
  ⟨tDusky, by decide +kernel⟩

theorem witness_PowerStatesComplete_2 : ∃ (s : State) (n : Bool),
    s.pwr.entry = some (n, .drain) :=
  ⟨{ tNoon with pwr := { tNoon.pwr with entry := some (false, .drain) } }, false, by first | decide +kernel | rfl⟩

theorem witness_PowerStatesComplete_3 : ∃ (s : State) (a : State),
    ((s.pwr.entry = some (false, .closing) ∨ s.pwr.entry = some (false, .completing))) ∧ a = ((s.each s.servingList fun n t => t.modPower n SpdPower.doze).modPwr fun p => { p with state := .dusk, entry := none, duskSince := s.mono, exiting := false, heldWake := false }) :=
  ⟨{ tNoon with pwr := { tNoon.pwr with entry := some (false, .completing) } },
    dozing { tNoon with pwr := { tNoon.pwr with entry := some (false, .completing) } },
    by and_intros <;> first | decide +kernel | rfl⟩

theorem witness_PowerStatesComplete_4 : ∃ (s : State),
    mayEnterNight s = true :=
  ⟨tNighty, by decide +kernel⟩

theorem witness_PowerStatesComplete_5 : ∃ (s : State) (a : State),
    s.pwr.entry = some (true, .completing) ∧ a = ((nightEntry s).modPwr fun p => { p with state := .night, entry := none, exiting := false, heldWake := false }) :=
  ⟨{ tNoon with pwr := { tNoon.pwr with entry := some (true, .completing) } },
    sleeping { tNoon with pwr := { tNoon.pwr with entry := some (true, .completing) } },
    by and_intros <;> first | decide +kernel | rfl⟩

theorem witness_PowerStatesComplete_6 : ∃ (s : State) (n : Fin 8) (d : Spd),
    s.spd? n = some d ∧ d.serving = true :=
  ⟨tNoon, 3, tSpd, by and_intros <;> first | decide +kernel | rfl⟩

theorem witness_PowerStatesComplete_9 : ∃ (s : State) (t : Nat),
    s.pwr.tideTimer = some t ∧ t ≤ s.now :=
  ⟨{ tNoon with pwr := { tNoon.pwr with tideTimer := some 0 } }, 0, by and_intros <;> first | decide +kernel | rfl⟩

theorem witness_PowerStatesComplete_10 : ∃ (s : State),
    s.pwr.state = .dusk ∧ s.pwr.exiting = true ∧ s.pwr.entry = none :=
  ⟨{ tNoon with pwr := { tNoon.pwr with state := .dusk, exiting := true } },
    by and_intros <;> first | decide +kernel | rfl⟩

theorem witness_PowerStatesComplete_11 : ∃ (s : State),
    s.pwr.state = .night ∧ s.pwr.exiting = true ∧ s.pwr.entry = none :=
  ⟨{ tNoon with pwr := { tNoon.pwr with state := .night, exiting := true } },
    by and_intros <;> first | decide +kernel | rfl⟩

theorem witness_PowerStatesComplete_13 : ∃ (s : State) (a : State) (b : State) (c : State) (x : Sensors),
    s.pwr.off = false ∧ recordSample (validReadings s x) s = a ∧ (if a.pwr.crossed then wake 4 true a else a) = b ∧
    (if s.pwr.hotSince.isNone && b.pwr.hotSince.isSome then moveThermal true b else b) = c ∧ tripsAt
    (validReadings s x) = false ∧ critical s (validReadings s x) = [] :=
  ⟨tNoon, recordSample (validReadings tNoon tCool) tNoon, recordSample (validReadings tNoon tCool) tNoon,
    recordSample (validReadings tNoon tCool) tNoon, tCool,
    by and_intros <;> first | decide +kernel | rfl⟩

theorem witness_PowerStatesComplete_14 : ∃ (s : State) (a : State) (b : State) (c : State) (x : Sensors)
    (k : Nat × Int) (l : List (Nat × Int)),
    s.pwr.off = false ∧ recordSample (validReadings s x) s = a ∧ (if a.pwr.crossed then wake 4 true a else a) = b ∧
    (if s.pwr.hotSince.isNone && b.pwr.hotSince.isSome then moveThermal true b else b) = c ∧ tripsAt
    (validReadings s x) = false ∧ critical s (validReadings s x) = k :: l :=
  ⟨tNoon, recordSample (validReadings tNoon tHotOne) tNoon, tHotB, tHotC, tHotOne, (0, 110), [],
    by and_intros <;> first | decide +kernel | rfl⟩

theorem witness_PowerStatesComplete_15 : ∃ (s : State) (a : State) (b : State) (c : State) (x : Sensors),
    s.pwr.off = false ∧ recordSample (validReadings s x) s = a ∧ (if a.pwr.crossed then wake 4 true a else a) = b ∧
    (if s.pwr.hotSince.isNone && b.pwr.hotSince.isSome then moveThermal true b else b) = c ∧ tripsAt
    (validReadings s x) = true :=
  ⟨tNoon, recordSample (validReadings tNoon tBurning) tNoon, recordSample (validReadings tNoon tBurning) tNoon,
    moveThermal true (recordSample (validReadings tNoon tBurning) tNoon), tBurning,
    by and_intros <;> first | decide +kernel | rfl⟩

theorem witness_PowerStatesComplete_16 : ∃ (s : State) (t : Nat),
    s.pwr.hotSince = some t ∧ t + 10000000 ≤ s.mono :=
  ⟨{ tEdge1 with pwr := { tNoon.pwr with hotSince := some 0 } }, 0, by and_intros <;> first | decide +kernel | rfl⟩

theorem witness_PowerStatesComplete_17 : ∃ (s : State) (t : Nat),
    ((s.pwr.hotSince.map fun h => decide (s.mono < h + 10000000)).getD true) = true ∧ s.pwr.coolSince = some t ∧ t + 100000000 ≤ s.mono ∧ s.pwr.therm = false :=
  ⟨{ tEdge1 with pwr := { tNoon.pwr with coolSince := some 0 } }, 0, by and_intros <;> first | decide +kernel | rfl⟩

theorem witness_PowerStatesComplete_18 : ∃ (s : State),
    ((s.pwr.hotSince.map fun h => decide (s.mono < h + 10000000)).getD true) = true ∧ ((((s.pwr.coolSince.map fun h => decide (s.mono < h + 100000000)).getD true) = true ∨ s.pwr.therm = true)) :=
  ⟨tNoon, by and_intros <;> first | decide +kernel | rfl⟩

theorem witness_ResetsComplete_2 : ∃ (s : State) (e : Bool),
    s.pwr.v3p3 = true :=
  ⟨tSmb, false, by decide +kernel⟩

theorem witness_ResetsComplete_3 : ∃ (s : State) (r : Rail) (d : Power),
    (match r with | .vin48 => s.pwr.vin48 | .v1p8 => s.pwr.v1p8 | .v3p3 => s.pwr.v3p3) = true ∧ { s.pwr with v3p3 := s.pwr.v3p3 && r != .v3p3, vin48 := s.pwr.vin48 && r == .v1p8, v1p8 := s.pwr.v1p8 && r == .vin48 } = d :=
  ⟨tNoon, .vin48, { tNoon.pwr with vin48 := false }, by and_intros <;> first | decide +kernel | rfl⟩

theorem witness_ResetsComplete_4 : ∃ (s : State) (n : Nat) (e : Bool),
    s.pwr.off = false ∧ 10000 ≤ n :=
  ⟨tNoon, 10 ^ 9, false, by and_intros <;> first | decide +kernel | rfl⟩

theorem witness_ResetsComplete_5 : ∃ (s : State) (n : Nat) (e : Bool),
    (s.pwr.off = true ∨ n < 1000) :=
  ⟨tNoon, 999, false, by decide +kernel⟩

theorem witness_ResetsComplete_8 : ∃ (s : State) (b : State) (x : Sensors),
    s.pwr.off = false ∧ (validReadings s x).any (fun y => if y.1 < 80 then decide (115 ≤ y.2) else decide (105 ≤ y.2)) = true ∧ tripReason (s.modHlth fun h => { h with trips := windowed weekNs s.aon.clock h.trips ++ [s.aon.clock] }) = b :=
  ⟨tNoon, tripReason (tNoon.modHlth fun h => { h with trips := [0] }), tBurning,
    by and_intros <;> first | decide +kernel | rfl⟩

theorem witness_ResetsComplete_9 : ∃ (s : State) (x : Sensors),
    (s.pwr.off = true ∨ (validReadings s x).all (fun y => if y.1 < 80 then decide (y.2 < 115) else decide (y.2 < 105)) = true) :=
  ⟨tNoon, tCool, by decide +kernel⟩

theorem witness_ResetsComplete_10 : ∃ (s : State) (x : Sensors),
    s.pwr.tripped = true ∧ (x.all fun r => (r.map fun t => decide (t < 90)).getD true) = true :=
  ⟨{ tNoon with pwr := { tNoon.pwr with tripped := true } }, tCool, by and_intros <;> first | decide +kernel | rfl⟩

theorem witness_ResetsComplete_16 : ∃ (s : State) (a : State) (n : Fin 2),
    s.host.hm ≠ .boot ∧ restartHarbourmaster (lockstepReason n (s.modHlth fun h => { h with mismatches := windowed dayNs s.aon.clock h.mismatches ++ [s.aon.clock] })) = a :=
  ⟨tNoon, restartHarbourmaster (lockstepReason 0 (tNoon.modHlth fun h => { h with mismatches := [0] })), 0,
    by and_intros <;> first | decide +kernel | rfl⟩

theorem witness_ResetsComplete_17 : ∃ (s : State) (n : Fin 2),
    s.host.hm = .boot :=
  ⟨tBooting, 0, by first | decide +kernel | rfl⟩

theorem witness_ResetsComplete_18 : ∃ (s : State) (a : State) (g : List Byte),
    booting s = true ∧ s.sec.norImage = g ∧ a = (((repeatZeroise s).modPower 0 fun p => { p with hbm := p.hbm.set 0 .active }).modSec fun x => { x with bootBuffer := g, bootFuses := fuseBytes x }) ∧ imageReason a.sec g.length g = none :=
  ⟨tBooting, tBootCopied, tImage, by decide +kernel, by decide +kernel, by rw [boot_kept]; rfl, by decide +kernel⟩

theorem witness_ResetsComplete_19 : ∃ (s : State) (a : State) (g : List Byte) (b : Bool),
    booting s = true ∧ s.sec.norImage = g ∧ a = (((repeatZeroise s).modPower 0 fun p => { p with hbm := p.hbm.set 0 .active }).modSec fun x => { x with bootBuffer := g, bootFuses := fuseBytes x }) ∧ (b = true ∨ (imageReason a.sec g.length g).isSome = true) :=
  ⟨tBooting, tBootCopied, tImage, true, by decide +kernel, by decide +kernel, by rw [boot_kept]; rfl, .inl rfl⟩

theorem witness_ResetsComplete_20 : ∃ (s : State) (a : State) (b : Bringup),
    s.sec.verified = true ∧ s.sec.recovery = false ∧ s.host.broughtUp = false ∧ s.pwr.off = false ∧ transmittersAfter (bringReasons b (startAtPoint (((((s.modFab (bringFabric b s.mono)).modMedia (bringMedia b)).modHost fun h => { h with broughtUp := true }).modPmc fun p => { p with stale := bringStale b }).modEgr fun e => { e with linksFrom := s.mono + 100000000 }))) = a :=
  ⟨tVerified, broughtUpBy tBring tVerified, tBring, by decide +kernel, by decide +kernel, by decide +kernel,
    by decide +kernel, by unfold broughtUpBy; rfl⟩

theorem witness_ResetsComplete_21 : ∃ (s : State) (b : Bringup),
    (s.sec.verified = false ∨ s.sec.recovery = true ∨ s.host.broughtUp = true ∨ s.pwr.off = true) :=
  ⟨tNoon, tBring, by decide +kernel⟩

theorem witness_StepKeepsSound_1 : ∃ (s : State) (t : State),
    Sound s ∧ step s = .next t :=
  ⟨State.reset, idleTick State.reset, by refine ⟨⟨?_, ?_, ?_, ?_⟩, rfl⟩ <;> decide +kernel⟩

theorem witness_IdleStep_1 : ∃ (s : State),
    s.pwr.state = .night ∧ s.pwr.exiting = true ∧ s.pwr.exitStep < 6 ∧ exitStepDue (s.pwr.exitStep + 1) s = true :=
  ⟨{ tNoon with pwr := { tNoon.pwr with state := .night, exiting := true, exitStep := 2 }, tide := { Tide.reset with uptime := 2 ^ 40 } }, by decide +kernel, by decide +kernel, by decide +kernel, decide_eq_true (Nat.le_trans (Nat.add_le_add_left (Nat.min_le_left _ _) _) (by decide +kernel))⟩

theorem witness_IdleStep_2 : ∃ (s : State) (a : State) (k : Nat),
    s.sec.zeroising = some k ∧ a = ((zeroiseStep (k + 1) s).modSec fun x => { x with zeroising := if k + 1 < 3 then some (k + 1) else none }) :=
  ⟨tSecState (fun x => { x with zeroising := some 1 }), (zeroiseStep 2 (tSecState fun x => { x with zeroising := some 1 })).modSec (fun x => { x with zeroising := some 2 }), 1, rfl, rfl⟩

theorem witness_IdleStep_3 : ∃ (s : State),
    s.pending = [] :=
  ⟨State.reset, by decide +kernel⟩

theorem witness_IdleStep_4 : ∃ (s : State),
    s.pending = [] ∧ (s.pwr.state ≠ .night ∨ s.pwr.exiting = false ∨ 6 ≤ s.pwr.exitStep) ∧ s.sec.zeroising = none :=
  ⟨State.reset, by decide +kernel⟩

theorem witness_PermIsAPermutation_1 : ∃ (c : WalkCtx) (n : Nat) (x : Nat),
    x < n :=
  ⟨⟨(0x1F40, 0xA5), 2, 0x13, 6, 0, 7⟩, 1000, 417, by decide⟩

theorem witness_PermIsAPermutation_2 : ∃ (c : WalkCtx) (n : Nat) (x : Nat) (y : Nat),
    x < n ∧ y < n ∧ c.perm n x = c.perm n y :=
  ⟨⟨(0x1F40, 0xA5), 2, 0x13, 6, 0, 7⟩, 1000, 417, 417, by decide⟩

theorem witness_PermIsAPermutation_3 : ∃ (c : WalkCtx) (n : Nat) (x : Nat),
    x < n :=
  ⟨⟨(0x1F40, 0xA5), 2, 0x13, 6, 0, 7⟩, 1000, 417, by decide⟩

theorem witness_EpochServesEachSampleOnce_1 : ∃ (seed : Dword) (t : Stream) (d : Partition) (e : Nat) (i : Nat),
    t.order ≤ 1 ∧ i < d.size :=
  ⟨0xA500001F40, { tStream 1 with order := 1 }, tPart 1, 7, 0, by decide⟩

theorem witness_EpochServesEachSampleOnce_2 : ∃ (n : Nat) (parts : Nat) (p : Nat),
    p < parts :=
  ⟨10000003, 4, 3, by decide⟩

theorem witness_PendingBits_3 : ∃ (e : Events) (i : Nat),
    14 ≤ i :=
  ⟨State.reset.ev, 14, by decide⟩

theorem witness_PendingBits_4 : ∃ (o : Owner) (s : State),
    s.heard o = true ∧ s.host.hm ≠ .boot :=
  ⟨.portA, tNoon, by decide +kernel⟩

theorem witness_TopReason_1 : ∃ (rs : List Reason) (r : Reason),
    ((∀ q ∈ rs, q.conf ≤ 100 ∧ q.code < 256)) ∧ topReason rs = some r :=
  ⟨[⟨1, 100, 2⟩, ⟨8, 60, 0⟩], ⟨1, 100, 2⟩, by decide⟩

theorem witness_TopReason_2 : ∃ (rs : List Reason),
    topReason rs = none :=
  ⟨[], by rfl⟩

theorem witness_PeriodEstimate_2 : ∃ (seed : Nat) (w : List Nat) (a : List Nat),
    a.Perm w ∧ a.Pairwise (· ≤ ·) ∧ w.length % 2 = 1 :=
  ⟨0, [5, 3, 4], [3, 4, 5], by decide⟩

theorem witness_PeriodEstimate_3 : ∃ (seed : Nat) (w : List Nat) (a : List Nat),
    a.Perm w ∧ a.Pairwise (· ≤ ·) ∧ w ≠ [] ∧ w.length % 2 = 0 :=
  ⟨0, [5, 3], [3, 5], by decide⟩

theorem witness_PeriodEstimate_4 : ∃ (w : List Nat) (v : Nat),
    w.length < 16 :=
  ⟨[], 1, by decide⟩

theorem witness_PeriodEstimate_5 : ∃ (w : List Nat) (v : Nat),
    w.length = 16 :=
  ⟨List.replicate 16 0, 1, by decide⟩

theorem witness_PeriodEstimate_7 : ∃ (s : State) (o : Owner),
    s.heard o = true :=
  ⟨tNoon, .portA, by decide +kernel⟩

theorem witness_CrcModel_3 : ∃ (w : Nat) (poly : Nat) (reg : Nat) (refin : Bool) (b : Byte),
    0 < w ∧ w ≤ 64 ∧ reg < 2 ^ w :=
  ⟨32, 7, 5, true, 3, by decide⟩

theorem witness_AbandonedSemaphores_1 : ∃ (s : State) (p : Port) (cause : PortResetCause) (k : Nat),
    k < 64 ∧ (s.sem k).owner = some p.owner :=
  ⟨{ tNoon with host := { tNoon.host with sems := tNoon.host.sems.set 16 ⟨some .portA, none⟩ } }, .a, .flr, 16,
    by decide +kernel⟩

theorem witness_AbandonedSemaphores_2 : ∃ (s : State) (p : Port) (cause : PortResetCause) (k : Nat),
    (s.sem k).owner ≠ some p.owner :=
  ⟨tNoon, .a, .flr, 16, by decide +kernel⟩

theorem witness_JobMemoryReadsBack_1 : ∃ (s : State) (a : Nat) (x : Nat) (bs : List Byte),
    wfCells zeroBase s.egr.jobMem = true ∧ a ≤ x ∧ x < a + bs.length :=
  ⟨tNoon, 0x1000, 0x1001, [1, 2, 3], by decide +kernel⟩

theorem witness_JobMemoryReadsBack_2 : ∃ (s : State) (a : Nat) (x : Nat) (bs : List Byte),
    wfCells zeroBase s.egr.jobMem = true ∧ (x < a ∨ a + bs.length ≤ x) :=
  ⟨tNoon, 0x1000, 0x1003, [1, 2, 3], by decide +kernel⟩

theorem witness_JobMemoryReadsBack_3 : ∃ (s : State) (a : Nat) (bs : List Byte),
    wfCells zeroBase s.egr.jobMem = true :=
  ⟨tNoon, 0x1000, [1, 2, 3], by decide +kernel⟩

theorem witness_ExactValuesKeepTheirCodes_1 : ∃ (f : FloatFmt) (fmt : Nat) (mode : Nat) (m : Nat) (x : Nat) (w : Nat)
    (sat : Bool) (neg : Bool),
    f ∈ [FloatFmt.fp32, .bf16, .fp16, .e4m3, .e5m2, .e3m2, .e2m3, .e2m1] ∧ m < 2 ^ f.mb ∧
    x * 2 ^ f.mb + m ≤ f.maxCode :=
  ⟨FloatFmt.bf16, 1, 0, 5, 127, 0, false, true, by decide⟩

end Sys2Proof.Tests
end

section
/-! The period estimate (R38). The model's sort is Mathlib's insertion sort, so the median is that of the one ascending
arrangement of the window. That a RESTART mark leaves the estimator as its first step sets it (R39) rests on one frame lemma for
each operation of the event of an accepted start. -/

namespace Sys2Proof.Machine

/-! ### The median -/

theorem insertBy_eq_orderedInsert {α : Type} (r : α → α → Prop) [DecidableRel r] (x : α) (l : List α) :
    insertBy (fun a b => decide (r a b)) x l = l.orderedInsert r x := by
  induction l with
  | nil => rfl
  | cons y ys ih => simp [insertBy, ih]

theorem sortBy_eq_insertionSort {α : Type} (r : α → α → Prop) [DecidableRel r] (l : List α) :
    sortBy (fun a b => decide (r a b)) l = l.insertionSort r := by
  induction l with
  | nil => rfl
  | cons x xs ih =>
    rw [List.insertionSort_cons, ← ih]
    exact insertBy_eq_orderedInsert r x _

/-- The model's sort is the ascending arrangement that R38 speaks of: there is only one. -/
theorem sortBy_le_eq_of_perm {w a : List Nat} (hp : a.Perm w) (ha : a.Pairwise (· ≤ ·)) :
    sortBy (fun x y => decide (x ≤ y)) w = a := by
  rw [sortBy_eq_insertionSort]
  exact ((List.perm_insertionSort _ w).trans hp.symm).eq_of_pairwise' (List.pairwise_insertionSort _ w) ha

/-- The estimate, in terms of the ascending arrangement of the window. -/
theorem periodOf_of_sorted (seed : Nat) {w a : List Nat} (hp : a.Perm w) (ha : a.Pairwise (· ≤ ·)) :
    periodOf seed w =
      if w.length = 0 then seed
      else if w.length % 2 = 1 then a.getD ((w.length - 1) / 2) 0
      else (a.getD (w.length / 2 - 1) 0 + a.getD (w.length / 2) 0) / 2 := by
  rw [← hp.length_eq, periodOf, sortBy_le_eq_of_perm hp ha]

theorem periodOf_odd (seed : Nat) {w a : List Nat} (hp : a.Perm w) (ha : a.Pairwise (· ≤ ·)) (hk : w.length % 2 = 1) :
    periodOf seed w = a.getD ((w.length - 1) / 2) 0 := by
  rw [periodOf_of_sorted seed hp ha, if_neg (by omega), if_pos hk]

theorem periodOf_even (seed : Nat) {w a : List Nat} (hp : a.Perm w) (ha : a.Pairwise (· ≤ ·)) (hw : w ≠ [])
    (hk : w.length % 2 = 0) :
    periodOf seed w = (a.getD (w.length / 2 - 1) 0 + a.getD (w.length / 2) 0) / 2 := by
  have h0 : w.length ≠ 0 := fun h => hw (List.length_eq_zero_iff.1 h)
  rw [periodOf_of_sorted seed hp ha, if_neg h0, if_neg (by omega)]

/-! ### The window -/

theorem pushInterval_of_room {w : List Nat} (v : Nat) (h : w.length < 16) : pushInterval w (some v) = w ++ [v] := by
  have hd : (w ++ [v]).length - 16 = 0 := by rw [List.length_append, List.length_singleton]; omega
  simp only [pushInterval, hd, List.drop_zero]

theorem pushInterval_of_full {w : List Nat} (v : Nat) (h : w.length = 16) : pushInterval w (some v) = w.tail ++ [v] := by
  have hd : (w ++ [v]).length - 16 = 1 := by rw [List.length_append, List.length_singleton, h]
  simp only [pushInterval, hd]
  cases w with
  | nil => simp at h
  | cons x xs => rfl

/-! ### Operations of an accepted start that leave the Tide alone -/

/-- A part of the state that each pass of a loop keeps, the loop keeps. -/
theorem State.each_keeps {α β : Type} (part : State → β) {f : α → State → State}
    (h : ∀ a t, part (f a t) = part t) (l : List α) (s : State) : part (s.each l f) = part s := by
  unfold State.each
  induction l generalizing s with
  | nil => rfl
  | cons a l ih => exact (ih _).trans (h a s)

theorem State.each_tide {α : Type} {f : α → State → State} (h : ∀ a t, (f a t).tide = t.tide) (l : List α) (s : State) :
    (s.each l f).tide = s.tide := State.each_keeps State.tide h l s

@[simp] theorem State.modSpd_tide (n : Nat) (f : Spd → Spd) (s : State) : (s.modSpd n f).tide = s.tide := rfl

@[simp] theorem State.modConn_tide (i : Nat) (f : Conn → Conn) (s : State) : (s.modConn i f).tide = s.tide := rfl

@[simp] theorem wakeBit_tide (i : Nat) (s : State) : (wakeBit i s).tide = s.tide := rfl

@[simp] theorem sendOnEdges_tide (n : Nat) (k : FlitKind) (s : State) : (sendOnEdges n k s).tide = s.tide := by
  refine State.each_tide (fun _ _ => ?_) _ s
  rfl

@[simp] theorem exitStepOn_tide (k n : Nat) (s : State) : (exitStepOn k n s).tide = s.tide := by
  simp only [exitStepOn]
  split
  · exact sendOnEdges_tide ..
  · rfl

@[simp] theorem nextExitStep_tide (s : State) : (nextExitStep s).tide = s.tide :=
  State.each_tide (exitStepOn_tide _) _ s

@[simp] theorem beginExit_tide (s : State) : (beginExit s).tide = s.tide := by
  simp only [beginExit]
  repeat' split
  · rfl
  · exact nextExitStep_tide _
  · rfl

@[simp] theorem wake_tide (i : Nat) (level : Bool) (s : State) : (wake i level s).tide = s.tide := by
  unfold wake
  repeat' split
  all_goals simp

@[simp] theorem goBack_tide (i : Nat) (s : State) : (goBack i s).tide = s.tide := by
  unfold goBack
  split
  · rfl
  · exact State.each_tide (fun _ _ => countPerf_tide ..) _ _

@[simp] theorem changePath_tide (i : Nat) (alt : Bool) (s : State) : (changePath i alt s).tide = s.tide := by
  simp [changePath, openQuiet]

@[simp] theorem leaveLink_tide (m : Nat) (s : State) : (leaveLink m s).tide = s.tide := by
  refine State.each_tide (fun c u => ?_) _ s
  repeat' split
  all_goals simp

@[simp] theorem downLinks_tide (ms : List Nat) (s : State) : (downLinks ms s).tide = s.tide := by
  unfold downLinks
  split
  · rfl
  · simp [State.each_tide leaveLink_tide]

@[simp] theorem egressApply_tide (old : StRegs) (s : State) : (egressApply old s).tide = s.tide := by
  simp [egressApply]

@[simp] theorem bwApply_tide (old : StRegs) (s : State) : (bwApply old s).tide = s.tide := rfl

@[simp] theorem sluCycle_tide (k : Nat) (take : Bool) (t : Int) (s : State) : (sluCycle k take t s).tide = s.tide := by
  unfold sluCycle
  split
  · rfl
  · simp only [apply_ite State.tide, setEv_tide, State.modBw_tide, ite_self]

@[simp] theorem sluApply_tide (immediate : Bool) (old : StRegs) (s : State) : (sluApply immediate old s).tide = s.tide := by
  refine State.each_tide (fun k t => ?_) _ s
  dsimp only
  repeat' split
  all_goals simp

@[simp] theorem sluStepStart_tide (t0 : Int) (s : State) : (sluStepStart t0 s).tide = s.tide := by
  refine State.each_tide (fun k t => ?_) _ s
  repeat' split
  all_goals simp

@[simp] theorem keepSpill_tide (n : Nat) (keep : List CacheEntry → List CacheEntry) (s : State) :
    (keepSpill n keep s).tide = s.tide := by
  unfold keepSpill
  split <;> rfl

@[simp] theorem updateThrottle_tide (s : State) : (updateThrottle s).tide = s.tide := by
  simp only [updateThrottle]
  split <;> simp

@[simp] theorem guardCheck_tide (s : State) : (guardCheck s).tide = s.tide := by
  simp only [guardCheck]
  split <;> simp

@[simp] theorem guardApply_tide (s : State) : (guardApply s).tide = s.tide := by
  simp [guardApply]

/-! ### Operations that change the Tide, and leave the estimator -/

/-- What the Tide keeps for the estimate of R38: the window and the seed. -/
def Tide.estimator (d : Tide) : List Nat × Option Nat := (d.window, d.seed)

@[simp] theorem timeSourceApply_estimator (old : Word) (s : State) :
    (timeSourceApply old s).tide.estimator = s.tide.estimator := by
  simp only [timeSourceApply]
  split <;> rfl

@[simp] theorem opSettle_estimator (s : State) : (opSettle s).tide.estimator = s.tide.estimator := by
  unfold opSettle
  split
  · simp [Tide.estimator]
  · rfl

@[simp] theorem opRetarget_estimator (s : State) : (opRetarget s).tide.estimator = s.tide.estimator := by
  simp only [opRetarget]
  split <;> simp

@[simp] theorem groupEffect_estimator (g : Nat) (old : StRegs) (s : State) :
    (groupEffect g old s).tide.estimator = s.tide.estimator := by
  unfold groupEffect
  split
  case h_2 =>
    dsimp only
    split <;> simp [State.each_tide fun n t => keepSpill_tide n _ t]
  all_goals simp

@[simp] theorem applyGroups_estimator (gs : List Nat) (s : State) : (applyGroups gs s).tide.estimator = s.tide.estimator := by
  have hg (old : StRegs) (u : State) :
      (u.each gs fun g => groupEffect g old).tide.estimator = u.tide.estimator :=
    State.each_keeps (fun v => v.tide.estimator) (fun g t => groupEffect_estimator g old t) gs u
  unfold applyGroups
  dsimp only
  repeat' split
  · rfl
  all_goals simp [hg]

@[simp] theorem takeBoundaries_estimator (due : Arm → Bool) (s : State) :
    (takeBoundaries due s).tide.estimator = s.tide.estimator := by
  simp only [takeBoundaries, applyGroups_estimator]
  split <;> simp

/-! ### Restarts of the estimator -/

/-- What is left of an accepted start (R39) keeps the estimator that its first step sets. -/
theorem acceptStart_estimator (step : Nat) (t : Int) (interval : Option Nat) (restart : Bool) (seq : Option Nat) (evt : Word)
    (s : State) : (acceptStart step t interval restart seq evt s).tide.estimator =
      (s.tide.accept step t interval restart seq s.period).estimator := by
  simp [acceptStart]

/-- A RESTART mark is accepted whatever the step, and enters no interval (R36). -/
theorem judge_restart (step : Nat) (t : Int) (seq : Option Nat) (s : State) :
    judge step t true seq s =
      acceptStart step t none true seq 8 (s.modTide fun d => { d with afterRelease := false }) := rfl

/-- After a RESTART mark the window is empty and the seed is the estimate that was in force. -/
theorem judge_restart_estimator (step : Nat) (t : Int) (seq : Option Nat) (s : State) :
    (judge step t true seq s).tide.estimator = ([], some s.period) := by
  rw [judge_restart, acceptStart_estimator]
  rfl

theorem restartEstimator_estimator (s : State) : (restartEstimator s).tide.estimator = ([], some s.period) := rfl

theorem State.byOwner_of_heard {o : Owner} {s : State} (f : State → State) (h : s.heard o = true) : s.byOwner o f = f s := by
  simp [State.byOwner, State.onlyIf, h]

theorem exec_tideRestartEst_of_heard {o : Owner} {s : State} (h : s.heard o = true) :
    exec (.tideRestartEst o) s = .next (restartEstimator s) :=
  congrArg Host.Outcome.next (State.byOwner_of_heard restartEstimator h)

/-- At job start no interval stands and the applied `TIDE_PERIOD_INIT` is the seed. -/
theorem tideNewJob_period (s : State) : (tideNewJob s).period = s.applied.tidePeriodInit.toNat * 1000 := rfl

/-- Settles O53: the sorted window is unique, so the median is that of any ascending arrangement; and nothing after the first
step of an accepted start touches the estimator. -/
theorem periodEstimate : Obligations.PeriodEstimate := by
  refine ⟨fun _ => rfl, fun seed _ _ => periodOf_odd seed, fun seed _ _ => periodOf_even seed,
    fun _ v => pushInterval_of_room v, fun _ v => pushInterval_of_full v, tideNewJob_period, fun s o ho => ?_,
    fun s step t seq => ?_⟩
  · exact ⟨_, exec_tideRestartEst_of_heard ho, Prod.mk.inj (restartEstimator_estimator s)⟩
  · exact Prod.mk.inj (judge_restart_estimator step t seq s)

end Sys2Proof.Machine
end

section
/-! What the Harbourmaster reads right after reset. -/

namespace Sys2Proof.Machine

/-- A read while the device starts, of a register that is neither a lock nor a semaphore, returns what R503 gives. -/
theorem windowRead_at_boot {o : Owner} {off : Nat} {s : State} (ho : s.heard o = true) (hl : lockAt off = none)
    (hb : s.host.hm = .boot) : (windowRead o off s).1 = dawnValue o off s := by
  simp [windowRead, ho, hl, hb]

theorem reset_heard_harbourmaster : State.reset.heard .harbourmaster = true := by decide

theorem reset_hm : State.reset.host.hm = .boot := rfl

/-- Settles O58: none of these registers is a lock or a semaphore, so each is read as R503 gives it while the device starts, and
that is its entry in the table. -/
theorem resetRegisters : Obligations.ResetRegisters := by
  intro p hp
  have hl : lockAt p.1 = none := by
    revert p
    decide
  rw [windowRead_at_boot reset_heard_harbourmaster hl reset_hm]
  revert p
  decide

end Sys2Proof.Machine
end

section
/-! The pending bits of the interrupt sources (R376). `HW_IRQ_PEND` is a sum of powers of 2 in ascending order of the sources'
indices, so each addition sets one bit above those already there. -/

namespace Sys2Proof.Machine

/-! ### A sum of distinct powers of 2, bit by bit -/

theorem testBit_add_flag_mul_two_pow {n k : Nat} (b : Bool) (i : Nat) (hn : n < 2 ^ k) :
    (n + flag b * 2 ^ k).testBit i = (n.testBit i || (k == i && b)) := by
  cases b with
  | false => simp [flag]
  | true =>
    have hor : n + 2 ^ k = 2 ^ k ||| n := by
      simpa [Nat.add_comm] using Nat.two_pow_add_eq_or_of_lt hn 1
    simp [flag, hor, Nat.testBit_two_pow, Bool.or_comm, beq_eq_decide]

theorem add_flag_mul_two_pow_lt {n k m : Nat} (b : Bool) (hn : n < 2 ^ k) (hm : k < m) : n + flag b * 2 ^ k < 2 ^ m :=
  calc n + flag b * 2 ^ k
    _ < 2 ^ k + 1 * 2 ^ k := Nat.add_lt_add_of_lt_of_le hn (Nat.mul_le_mul_right _ (by cases b <;> simp [flag]))
    _ = 2 ^ (k + 1) := by rw [Nat.pow_succ]; omega
    _ ≤ 2 ^ m := Nat.pow_le_pow_right (by decide) hm

/-- Bit `i` of the sum is set where the element of exponent `i` is flagged, or where the start of the sum has it. -/
theorem testBit_foldl_flag_mul_two_pow {α : Type} (f : α → Bool) (k : α → Nat) (i : Nat) (l : List α)
    (hl : l.Pairwise (k · < k ·)) (n : Nat) (hn : ∀ x ∈ l, n < 2 ^ k x) :
    (l.foldl (fun n x => n + flag (f x) * 2 ^ k x) n).testBit i = (n.testBit i || l.any fun x => k x == i && f x) := by
  induction l generalizing n with
  | nil => simp
  | cons x xs ih =>
    obtain ⟨hx, hxs⟩ := List.pairwise_cons.mp hl
    have hnx : n < 2 ^ k x := hn x List.mem_cons_self
    rw [List.foldl_cons, ih hxs _ fun y hy => add_flag_mul_two_pow_lt _ hnx (hx y hy),
      testBit_add_flag_mul_two_pow _ _ hnx, List.any_cons, Bool.or_assoc]

/-! ### The sources and their bits -/

theorem Source.mem_all (src : Source) : src ∈ Source.all := by
  cases src <;> decide

theorem Source.all_index_pairwise : Source.all.Pairwise (·.index < ·.index) := by decide

theorem Source.index_lt (src : Source) : src.index < 14 := by
  cases src <;> decide

theorem Source.index_injective : Function.Injective Source.index :=
  Function.LeftInverse.injective (g := fun i => Source.all.getD i .tide) fun src => by cases src <;> rfl

theorem irqPend_getLsbD (e : Events) (i : Nat) :
    (irqPend e).getLsbD i = (decide (i < 32) && Source.all.any fun src => src.index == i && decide (e.get src ≠ 0)) := by
  have hsum := testBit_foldl_flag_mul_two_pow (fun src => decide (e.get src ≠ 0)) Source.index i Source.all
    Source.all_index_pairwise 0 fun _ _ => Nat.two_pow_pos _
  rw [Nat.zero_testBit, Bool.false_or] at hsum
  rw [irqPend, BitVec.getLsbD_ofNat, hsum]

theorem irqPend_getLsbD_index (e : Events) (src : Source) :
    (irqPend e).getLsbD src.index = decide (e.get src ≠ 0) := by
  have hlt : src.index < 32 := src.index_lt.trans (by decide)
  rw [irqPend_getLsbD, Bool.eq_iff_iff]
  simp only [hlt, decide_true, Bool.true_and, List.any_eq_true, Bool.and_eq_true, beq_iff_eq]
  constructor
  · rintro ⟨x, -, hx, hset⟩
    rwa [← Source.index_injective hx]
  · exact fun hset => ⟨src, src.mem_all, rfl, hset⟩

theorem irqPend_getLsbD_of_le (e : Events) {i : Nat} (hi : 14 ≤ i) : (irqPend e).getLsbD i = false := by
  have hnone : ∀ src : Source, (src.index == i) = false := fun src =>
    beq_false_of_ne (src.index_lt.trans_le hi).ne
  simp [irqPend_getLsbD, hnone]

/-! ### The register -/

theorem windowRead_after_boot {o : Owner} {off : Nat} {s : State} (ho : s.heard o = true) (hl : lockAt off = none)
    (hb : s.host.hm ≠ .boot) : (windowRead o off s).1 = regValue o off s := by
  simp [windowRead, ho, hl, hb]

theorem regValue_irqPend (o : Owner) (s : State) : regValue o 0x100 s = irqPend s.ev := rfl

/-- Settles O51: the sources are summed in ascending order of their bits, so none of them carries into another's; and the offset
of the register is neither a lock's nor a semaphore's. -/
theorem pendingBits : Obligations.PendingBits := by
  refine ⟨irqPend_getLsbD_index, rfl, fun e _ => irqPend_getLsbD_of_le e, fun o s ho hb => ?_⟩
  rw [windowRead_after_boot ho rfl hb, regValue_irqPend]

end Sys2Proof.Machine
end

section
/-! The CRCs of the data path against the model of R413. The model's register takes the most significant bit of a reflected byte
first; `crcByte` takes the least significant bit first into a register that is the mirror image of it. So each bit, each byte and
each string keeps `reflect w` between the two registers, and `REFOUT` undoes it at the end. -/

namespace Sys2Proof.Machine

/-! ### The mirror image of a number, bit by bit -/

theorem natBits_one (v i : Nat) : natBits v i 1 = (v.testBit i).toNat := (Nat.toNat_testBit v i).symm

theorem natBits_one_lt (v i : Nat) : natBits v i 1 < 2 := Nat.mod_lt _ (by decide)

/-- The next bit of the number enters below those already mirrored. -/
theorem reflect_succ (n v : Nat) : reflect (n + 1) v = Nat.bit (v.testBit n) (reflect n v) := by
  have hdouble : ∀ i ∈ List.range n, natBits v i 1 * 2 ^ (n + 1 - 1 - i) = 2 * (natBits v i 1 * 2 ^ (n - 1 - i)) := by
    intro i hi
    have hlt : i < n := List.mem_range.mp hi
    have hexp : n + 1 - 1 - i = (n - 1 - i) + 1 := by omega
    rw [hexp, Nat.pow_succ']
    exact Nat.mul_left_comm _ 2 _
  rw [reflect, List.range_succ, List.map_append, List.sum_append, List.map_congr_left hdouble, List.sum_map_mul_left,
    Nat.bit_val, reflect]
  simp [natBits_one]

@[simp] theorem testBit_reflect (n v i : Nat) : (reflect n v).testBit i = (decide (i < n) && v.testBit (n - 1 - i)) := by
  induction n generalizing i with
  | zero => simp [reflect]
  | succ n ih =>
    rw [reflect_succ]
    cases i with
    | zero => simp
    | succ i => simp [Nat.testBit_bit_succ, ih, Nat.sub_sub, Nat.add_comm]

theorem reflect_lt (n v : Nat) : reflect n v < 2 ^ n :=
  Nat.lt_pow_two_of_testBit _ fun i hi => by simp [hi]

theorem reflect_xor (n a b : Nat) : reflect n (Nat.xor a b) = Nat.xor (reflect n a) (reflect n b) :=
  Nat.eq_of_testBit_eq fun i => by
    change (reflect n (a ^^^ b)).testBit i = (reflect n a ^^^ reflect n b).testBit i
    by_cases hi : i < n <;> simp [hi]

theorem reflect_mod_two_pow (n v : Nat) : reflect n (v % 2 ^ n) = reflect n v :=
  Nat.eq_of_testBit_eq fun i => by
    by_cases hi : i < n
    · have hin : n - 1 - i < n := by omega
      simp [hi, hin]
    · simp [hi]

/-- A shift up in a register of `n` bits is a shift down in its mirror image. -/
theorem reflect_mul_two (n v : Nat) : reflect n (v * 2) = reflect n v / 2 :=
  Nat.eq_of_testBit_eq fun i => by
    have hbit : i < n ∧ 1 ≤ n - 1 - i ↔ i + 1 < n := by omega
    rw [Nat.testBit_div_two, testBit_reflect, testBit_reflect, Nat.mul_comm, ← Nat.pow_one 2, Nat.testBit_two_pow_mul,
      ← Bool.and_assoc, ← Bool.decide_and, decide_eq_decide.mpr hbit, Nat.sub_add_eq]

theorem reflect_mod_two {n : Nat} (hn : 0 < n) (v : Nat) : reflect n v % 2 = natBits v (n - 1) 1 := by
  obtain ⟨m, rfl⟩ := Nat.exists_eq_add_one.mpr hn
  rw [reflect_succ, Nat.bit_mod_two, natBits_one, Nat.add_sub_cancel]

theorem reflect_two_pow_sub_one (n : Nat) : reflect n (2 ^ n - 1) = 2 ^ n - 1 :=
  Nat.eq_of_testBit_eq fun i => by
    rw [testBit_reflect, Nat.testBit_two_pow_sub_one, Nat.testBit_two_pow_sub_one]
    by_cases hi : i < n
    · have hin : n - 1 - i < n := by omega
      simp [hi, hin]
    · simp [hi]

/-! ### The register of the model and its mirror image -/

/-- The model's step under the condition as R413 writes it: the top bit of the register against the bit that enters. -/
theorem crcStep_eq (w poly reg : Nat) {bit : Nat} (hbit : bit < 2) :
    crcStep w poly reg bit = if (natBits reg (w - 1) 1 + bit) % 2 = 1 then Nat.xor (reg * 2 % 2 ^ w) (poly % 2 ^ w)
      else reg * 2 % 2 ^ w := by
  have htop : natBits reg (w - 1) 1 < 2 := natBits_one_lt reg (w - 1)
  have hdiffer : natBits reg (w - 1) 1 ≠ bit ↔ (natBits reg (w - 1) 1 + bit) % 2 = 1 := by omega
  simp only [crcStep, hdiffer]

theorem crcBit_reflect {w : Nat} (hw : 0 < w) (poly reg : Nat) {bit : Nat} (hbit : bit < 2) :
    crcBit w (reflect w poly) (reflect w reg) bit = reflect w (crcStep w poly reg bit) := by
  have hxor : Nat.xor (reflect w reg / 2) (reflect w poly) % 2 ^ w = Nat.xor (reflect w reg / 2) (reflect w poly) :=
    Nat.mod_eq_of_lt (Nat.xor_lt_two_pow ((Nat.div_le_self _ 2).trans_lt (reflect_lt w reg)) (reflect_lt w poly))
  have hcond : (reflect w reg + bit) % 2 = (natBits reg (w - 1) 1 + bit) % 2 := by
    rw [← reflect_mod_two hw, Nat.mod_add_mod]
  rw [crcBit, hxor, hcond, crcStep_eq w poly reg hbit, apply_ite (reflect w), reflect_xor, reflect_mod_two_pow,
    reflect_mod_two_pow, reflect_mul_two]

/-- The bits of a mirrored byte from its bit 7 down are those of the byte from its bit 0 up. -/
theorem natBits_reflect_byte (v : Nat) {i : Nat} (hi : i < 8) : natBits (reflect 8 v) (7 - i) 1 = natBits v i 1 := by
  have hsub : 7 - (7 - i) = i := by omega
  have hlt : 7 - i < 8 := by omega
  simp [natBits_one, hsub, hlt]

theorem crcByte_reflect {w : Nat} (hw : 0 < w) (poly reg : Nat) (b : Byte) :
    crcByte w (reflect w poly) (reflect w reg) b = reflect w (crcFeed w poly true reg b) := by
  have hbits : crcFeed w poly true reg b =
      (List.range 8).foldl (fun r i => crcStep w poly r (natBits b.toNat i 1)) reg :=
    List.foldl_ext _ _ _ fun r i hi => congrArg (crcStep w poly r) (natBits_reflect_byte b.toNat (List.mem_range.mp hi))
  rw [hbits]
  exact List.foldl_hom (reflect w) fun r i => crcBit_reflect hw poly r (natBits_one_lt b.toNat i)

theorem foldl_crcByte_reflect {w : Nat} (hw : 0 < w) (poly reg : Nat) (bs : List Byte) :
    bs.foldl (crcByte w (reflect w poly)) (reflect w reg) = reflect w (bs.foldl (crcFeed w poly true) reg) :=
  List.foldl_hom (reflect w) (crcByte_reflect hw poly)

/-! ### The results -/

/-- The complement is the final XOR with all ones. -/
theorem toNat_not_ofNat_reflect (w reg : Nat) :
    (~~~ BitVec.ofNat w (reflect w reg)).toNat = crcResult w true (2 ^ w - 1) reg := by
  have hones : (2 ^ w - 1) % 2 ^ w = 2 ^ w - 1 := Nat.mod_eq_of_lt (Nat.sub_lt (Nat.two_pow_pos w) Nat.one_pos)
  rw [← BitVec.xor_allOnes, BitVec.toNat_xor, BitVec.toNat_ofNat, BitVec.toNat_allOnes, Nat.mod_eq_of_lt (reflect_lt w reg),
    crcResult, hones]
  rfl

/-- A reflected CRC of `w` bits, with initial value and final XOR of all ones, is the model of R413. -/
theorem toNat_not_foldl_crcByte {w : Nat} (hw : 0 < w) (poly : Nat) (bs : List Byte) :
    (~~~ BitVec.ofNat w (bs.foldl (crcByte w (reflect w poly)) (2 ^ w - 1))).toNat =
      crcResult w true (2 ^ w - 1) (bs.foldl (crcFeed w poly true) (2 ^ w - 1)) := by
  have hfold := foldl_crcByte_reflect hw poly (2 ^ w - 1) bs
  rw [reflect_two_pow_sub_one] at hfold
  rw [hfold, toNat_not_ofNat_reflect]

theorem crc64_eq_model (bs : List Byte) : (crc64 bs).toNat =
    crcResult 64 true (2 ^ 64 - 1) (bs.foldl (crcFeed 64 0x42F0E1EBA9EA3693 true) (2 ^ 64 - 1)) := by
  have hpoly : reflect 64 0x42F0E1EBA9EA3693 = 0xC96C5795D7870F42 := by decide
  rw [← toNat_not_foldl_crcByte (by decide), hpoly]
  rfl

theorem crc32c_eq_model (bs : List Byte) : (crc32c bs).toNat =
    crcResult 32 true (2 ^ 32 - 1) (bs.foldl (crcFeed 32 0x1EDC6F41 true) (2 ^ 32 - 1)) := by
  have hpoly : reflect 32 0x1EDC6F41 = 0x82F63B78 := by decide
  rw [← toNat_not_foldl_crcByte (by decide), hpoly]
  rfl

/-- Each bit of a byte enters from bit 7 down, after the reflection of the byte where REFIN is set. -/
theorem crcFeed_eq_foldl (w poly reg : Nat) (refin : Bool) (b : Byte) :
    crcFeed w poly refin reg b = (List.range 8).foldl (fun r i =>
      if (r / 2 ^ (w - 1) % 2 + (if refin then reflect 8 b.toNat else b.toNat) / 2 ^ (7 - i) % 2) % 2 = 1
      then Nat.xor (r * 2 % 2 ^ w) (poly % 2 ^ w) else r * 2 % 2 ^ w) reg :=
  List.foldl_ext _ _ _ fun r i _ => crcStep_eq w poly r (natBits_one_lt _ (7 - i))

/-! ### The check values of R413 and the empty string -/

theorem crc64_check : crc64 [0x31, 0x32, 0x33, 0x34, 0x35, 0x36, 0x37, 0x38, 0x39] = 0x995DC9BBDF1939FA := by decide +kernel

theorem crc32c_check : crc32c [0x31, 0x32, 0x33, 0x34, 0x35, 0x36, 0x37, 0x38, 0x39] = 0xE3069283 := by decide +kernel

theorem crc64_nil : crc64 [] = 0 := rfl

theorem crc32c_nil : crc32c [] = 0 := rfl

/-- Settles O54: at every bit the register of each CRC is the mirror image of the model's. -/
theorem crcModel : Obligations.CrcModel :=
  ⟨crc64_eq_model, crc32c_eq_model, fun w poly reg refin b _ _ _ => crcFeed_eq_foldl w poly reg refin b,
    crc64_check, crc32c_check, crc64_nil, crc32c_nil⟩

end Sys2Proof.Machine
end

section
/-! The top reason (R479). The model folds the reasons with one number per reason, in which the rank of the kind, the confidence
and the inverted code stand as the digits of a mixed radix. The fold is Mathlib's `List.argmax`, and within the ranges of code
and confidence the order of the numbers is the order of R479. -/

namespace Sys2Proof.Machine

/-- The number by which `topReason` compares: the digits are the rank, the confidence (radix 101) and 255 − code (radix 256). -/
def Reason.key (r : Reason) : Nat := (reasonRank r.code * 101 + r.conf) * 256 + (255 - r.code)

theorem topReason_eq_argmax (rs : List Reason) : topReason rs = rs.argmax Reason.key := by
  refine List.foldl_ext _ _ _ fun best r _ => ?_
  cases best with
  | none => rfl
  | some b => rfl

/-- A digit of the key counts only where the digits above it are equal, since no digit reaches its radix. -/
theorem Reason.key_le_key_iff {q r : Reason} (hq : q.conf ≤ 100 ∧ q.code < 256) (hr : r.conf ≤ 100 ∧ r.code < 256) :
    q.key ≤ r.key ↔ reasonRank q.code < reasonRank r.code ∨ (reasonRank q.code = reasonRank r.code ∧
      (q.conf < r.conf ∨ (q.conf = r.conf ∧ r.code ≤ q.code))) := by
  obtain ⟨hqConf, hqCode⟩ := hq
  obtain ⟨hrConf, hrCode⟩ := hr
  unfold Reason.key
  omega

theorem reasonRank_eq_two_iff (c : Nat) :
    reasonRank c = 2 ↔ c = 0x14 ∨ c = 0x20 ∨ c = 0x21 ∨ c = 0x22 ∨ c = 0x23 := by
  unfold reasonRank
  split
  · omega
  · split <;> omega

theorem reasonRank_eq_one_iff (c : Nat) :
    reasonRank c = 1 ↔ c = 1 ∨ c = 2 ∨ c = 3 ∨ c = 4 ∨ c = 5 ∨ c = 0x0A ∨ c = 0x13 := by
  unfold reasonRank
  split
  · omega
  · split <;> omega

/-- Settles O52: the fold takes a reason with the greatest key, and the keys are ordered as R479 orders the reasons. -/
theorem topReason_ranks_highest : Obligations.TopReason := by
  refine ⟨fun rs r hrange htop => ?_, fun rs hnone => ?_, reasonRank_eq_two_iff, reasonRank_eq_one_iff⟩
  · have hmax : r ∈ rs.argmax Reason.key := topReason_eq_argmax rs ▸ htop
    have hmem : r ∈ rs := List.argmax_mem hmax
    exact ⟨hmem, fun q hq =>
      (Reason.key_le_key_iff (hrange q hq) (hrange r hmem)).mp (List.le_of_mem_argmax hq hmax)⟩
  · rwa [topReason_eq_argmax, List.argmax_eq_none] at hnone

end Sys2Proof.Machine
end

section
/-! The step as a whole: every command answers, keeps what `Held` names, and so does the idle nanosecond. The case split over the
commands is made twice, once for each of the two facts. -/

namespace Sys2Proof.Machine

/-! ### What a command keeps -/

/-- Each arm of the dispatch is held, by the lemma of its meaning. -/
theorem exec_held (c : Instr) {s₀ s : State} (h : Held s₀ s) : HeldA s₀ (exec c s) := by
  cases c with
  | slipwayFlitRx edge fromLow kind crcOk => exact execSlipwayFlitRx_held edge fromLow kind crcOk h
  | idleFlitTimer edge fromLow => exact execIdleFlitTimer_held edge fromLow h
  | edgeSilenceTimeout edges => exact execEdgeSilenceTimeout_held edges h
  | homeMapApply => exact execHomeMapApply_held h
  | requestIssue req => exact execRequestIssue_held req h
  | latestStartReached req stage => exact execLatestStartReached_held req stage h
  | ptpSyncRx port msg => exact execPtpSyncRx_held port msg h
  | timeSourceLost => exact execTimeSourceLost_held h
  | ptpFailback => exact execPtpFailback_held h
  | ppsEdge captured => exact execPpsEdge_held captured h
  | stepMarkDatagram d => exact execStepMarkDatagram_held d h
  | syncInEdge captured rising => exact execSyncInEdge_held captured rising h
  | markPairWindowExpiry => exact execMarkPairWindowExpiry_held h
  | deadlineRecomputeDone => exact execDeadlineRecomputeDone_held h
  | stepLost => exact execStepLost_held h
  | stepBoundaryApply => exact execStepBoundaryApply_held h
  | tideSnap owner => exact execTideSnap_held owner h
  | tideCancel owner => exact execTideCancel_held owner h
  | tideArm owner => exact execTideArm_held owner h
  | tideRestartEst owner => exact execTideRestartEst_held owner h
  | barrierReady => exact execBarrierReady_held h
  | heartbeatSend conn => exact execHeartbeatSend_held conn h
  | permPositionAdmit req spd plan => exact execPermPositionAdmit_held req spd plan h
  | permPassDone req agree => exact execPermPassDone_held req agree h
  | defectEntryDurable dsSlot index global => exact execDefectEntryDurable_held dsSlot index global h
  | peerRoundRetry req => exact execPeerRoundRetry_held req h
  | peerReadGiveUp req => exact execPeerReadGiveUp_held req h
  | flashTrainingTimer channel failed => exact execFlashTrainingTimer_held channel failed h
  | flashReadDone req results => exact execFlashReadDone_held req results h
  | programDone die block page src ok => exact execProgramDone_held die block page src ok h
  | eraseDone die block ok => exact execEraseDone_held die block ok h
  | stripeVerifyDone group stripe badBlocks => exact execStripeVerifyDone_held group stripe badBlocks h
  | stagingResize => exact execStagingResize_held h
  | foldStart => exact execFoldStart_held h
  | gcStart die => exact execGcStart_held die h
  | staticRelocation die => exact execStaticRelocation_held die h
  | blockRewriteStart die block => exact execBlockRewriteStart_held die block h
  | flashDieFailed die noReset => exact execFlashDieFailed_held die noReset h
  | writeBufferAdmit cmd => exact execWriteBufferAdmit_held cmd h
  | flushComplete cmd => exact execFlushComplete_held cmd h
  | journalProgram => exact execJournalProgram_held h
  | checkpointStart => exact execCheckpointStart_held h
  | checkpointRootDone med0 med1 => exact execCheckpointRootDone_held med0 med1 h
  | mapSegmentReloadDone segment => exact execMapSegmentReloadDone_held segment h
  | mapMirrorRecopyDone spd => exact execMapMirrorRecopyDone_held spd h
  | recoveryDone badRoots torn wiped => exact execRecoveryDone_held badRoots torn wiped h
  | mediaTempSample temp0 temp1 => exact execMediaTempSample_held temp0 temp1 h
  | memoryCe spd row => exact execMemoryCe_held spd row h
  | memoryUe place row => exact execMemoryUe_held place row h
  | patrolScrub hbm start => exact execPatrolScrub_held hbm start h
  | jobClearDone => exact execJobClearDone_held h
  | keySweepDone spd => exact execKeySweepDone_held spd h
  | cacheSplitDone spd => exact execCacheSplitDone_held spd h
  | hbmStackLost stack => exact execHbmStackLost_held stack h
  | stackRebuildDone stack => exact execStackRebuildDone_held stack h
  | decodeDone req inp => exact execDecodeDone_held req inp h
  | decodeEngineFault spd engine => exact execDecodeEngineFault_held spd engine h
  | engineResetDone spd kind engine passed => exact execEngineResetDone_held spd kind engine passed h
  | transformDone req => exact execTransformDone_held req h
  | residueMismatch spd engine => exact execResidueMismatch_held spd engine h
  | transformRestart req engine => exact execTransformRestart_held req engine h
  | xfEngineFault spd engine => exact execXfEngineFault_held spd engine h
  | tokeniseChunk req => exact execTokeniseChunk_held req h
  | vocabLineFill spd engine line => exact execVocabLineFill_held spd engine line h
  | tokeniseDone req => exact execTokeniseDone_held req h
  | txtEngineFault spd engine => exact execTxtEngineFault_held spd engine h
  | textPlacement req => exact execTextPlacement_held req h
  | packDone req => exact execPackDone_held req h
  | packEngineFault spd engine => exact execPackEngineFault_held spd engine h
  | trailerHeaderSend stream batch => exact execTrailerHeaderSend_held stream batch h
  | timelockHoldExpiry stream batch => exact execTimelockHoldExpiry_held stream batch h
  | linkDown link ownSerdes => exact execLinkDown_held link ownSerdes h
  | linkUp link => exact execLinkUp_held link h
  | pathMigrateBack conn => exact execPathMigrateBack_held conn h
  | quietPeriodEnd conn => exact execQuietPeriodEnd_held conn h
  | rxRdmaWrite conn wire key va length first last payload => exact execRxRdmaWrite_held conn wire key va length first last payload h
  | rxRdmaRead conn wire key va length => exact execRxRdmaRead_held conn wire key va length h
  | rxAck conn wire => exact execRxAck_held conn wire h
  | rxNak conn wire code => exact execRxNak_held conn wire code h
  | rxRnrNak conn wire => exact execRxRnrNak_held conn wire h
  | rxReadResponse conn wire last payload => exact execRxReadResponse_held conn wire last payload h
  | rxCnp conn ce => exact execRxCnp_held conn ce h
  | rxRefusedPacket conn kind ce => exact execRxRefusedPacket_held conn kind ce h
  | ackTimeout conn => exact execAckTimeout_held conn h
  | rnrRetryTimer conn => exact execRnrRetryTimer_held conn h
  | waitSatisfied conn => exact execWaitSatisfied_held conn h
  | revokeComplete key => exact execRevokeComplete_held key h
  | revokeTimeout key => exact execRevokeTimeout_held key h
  | releaseTokenSend stream batch member => exact execReleaseTokenSend_held stream batch member h
  | returnRx conn wire payload => exact execReturnRx_held conn wire payload h
  | peerReqRx conn wire payload => exact execPeerReqRx_held conn wire payload h
  | peerServeReady conn tag mediaFailed => exact execPeerServeReady_held conn tag mediaFailed h
  | peerRspRx conn wire payload => exact execPeerRspRx_held conn wire payload h
  | peerReadDone conn tag complete => exact execPeerReadDone_held conn tag complete h
  | peerDoneRx conn wire payload => exact execPeerDoneRx_held conn wire payload h
  | peerHoldExpiry conn tag => exact execPeerHoldExpiry_held conn tag h
  | frameTxDone link => exact execFrameTxDone_held link h
  | pfcRx link priority pause => exact execPfcRx_held link priority pause h
  | ccRateRecover conn => exact execCcRateRecover_held conn h
  | sluiceEntryChange list => exact execSluiceEntryChange_held list h
  | sluiceListTakeover list => exact execSluiceListTakeover_held list h
  | contextLoadDone conn => exact execContextLoadDone_held conn h
  | sliceBoundary => exact execSliceBoundary_held h
  | mbxLockRead readers m => exact execMbxLockRead_held readers m h
  | mbxLockRelease writer m value => exact execMbxLockRelease_held writer m value h
  | mbxBufWrite writer m word value => exact execMbxBufWrite_held writer m word value h
  | mbxDoorbell writer m => exact execMbxDoorbell_held writer m h
  | mbxAck writer m => exact execMbxAck_held writer m h
  | mbxTake m => exact execMbxTake_held m h
  | mbxReply m => exact execMbxReply_held m h
  | semRead readers k => exact execSemRead_held readers k h
  | semRelease writer k value => exact execSemRelease_held writer k value h
  | portReset port cause => exact execPortReset_held port cause h
  | perstRelease port => exact execPerstRelease_held port h
  | quaySqDoorbell q value => exact execQuaySqDoorbell_held q value h
  | quayCqDoorbell q value => exact execQuayCqDoorbell_held q value h
  | quayFetch q entry => exact execQuayFetch_held q entry h
  | completionWrite q linkOk => exact execCompletionWrite_held q linkOk h
  | cqCoalesceTimer q => exact execCqCoalesceTimer_held q h
  | invalidOpcode cmd => exact execInvalidOpcode_held cmd h
  | identify cmd => exact execIdentify_held cmd h
  | createQuay cmd => exact execCreateQuay_held cmd h
  | deleteQuay cmd => exact execDeleteQuay_held cmd h
  | abort cmd => exact execAbort_held cmd h
  | getEvent cmd => exact execGetEvent_held cmd h
  | getEventComplete port => exact execGetEventComplete_held port h
  | selfTest cmd => exact execSelfTest_held cmd h
  | selfTestItemDone passed item lastOfStep reads => exact execSelfTestItemDone_held passed item lastOfStep reads h
  | selfTestResume => exact execSelfTestResume_held h
  | fwStage cmd data => exact execFwStage_held cmd data h
  | fwActivate cmd => exact execFwActivate_held cmd h
  | fwNorWriteDone cmd matched => exact execFwNorWriteDone_held cmd matched h
  | fwActivateRestart => exact execFwActivateRestart_held h
  | portConfig cmd => exact execPortConfig_held cmd h
  | format cmd => exact execFormat_held cmd h
  | jobSetup cmd data => exact execJobSetup_held cmd data h
  | jobEnd cmd => exact execJobEnd_held cmd h
  | stepMark cmd => exact execStepMark_held cmd h
  | datasetCreate cmd data => exact execDatasetCreate_held cmd data h
  | write cmd data => exact execWrite_held cmd data h
  | flush cmd => exact execFlush_held cmd h
  | sealPartition cmd => exact execSealPartition_held cmd h
  | datasetDelete cmd => exact execDatasetDelete_held cmd h
  | defectList cmd data => exact execDefectList_held cmd data h
  | mediaStatus cmd data => exact execMediaStatus_held cmd data h
  | mediaHealth cmd data => exact execMediaHealth_held cmd data h
  | copyFromPeer cmd plan => exact execCopyFromPeer_held cmd plan h
  | streamSetup cmd data => exact execStreamSetup_held cmd data h
  | streamStart cmd => exact execStreamStart_held cmd h
  | streamStop cmd => exact execStreamStop_held cmd h
  | streamStopComplete cmd => exact execStreamStopComplete_held cmd h
  | seek cmd => exact execSeek_held cmd h
  | streamStatus cmd => exact execStreamStatus_held cmd h
  | tableLoad cmd data => exact execTableLoad_held cmd data h
  | detokenise cmd data => exact execDetokenise_held cmd data h
  | connect cmd data => exact execConnect_held cmd data h
  | disconnect cmd => exact execDisconnect_held cmd h
  | mooringCreate cmd => exact execMooringCreate_held cmd h
  | mooringRevoke cmd => exact execMooringRevoke_held cmd h
  | mooringGrant cmd => exact execMooringGrant_held cmd h
  | queueStats cmd data => exact execQueueStats_held cmd data h
  | secStatus cmd => exact execSecStatus_held cmd h
  | slotProgram cmd data => exact execSlotProgram_held cmd data h
  | svnCommit cmd => exact execSvnCommit_held cmd h
  | lifecycleSecure cmd => exact execLifecycleSecure_held cmd h
  | keyLoad cmd data => exact execKeyLoad_held cmd data h
  | keyClear cmd => exact execKeyClear_held cmd h
  | keyRevoke cmd data => exact execKeyRevoke_held cmd data h
  | debugChallenge cmd => exact execDebugChallenge_held cmd h
  | debugResponse cmd data => exact execDebugResponse_held cmd data h
  | debugExit cmd => exact execDebugExit_held cmd h
  | debugGrantExpiry => exact execDebugGrantExpiry_held h
  | zeroise cmd => exact execZeroise_held cmd h
  | debugOpen cmd => exact execDebugOpen_held cmd h
  | regWrite writer w => exact execRegWrite_held writer w h
  | evClear writer offset value => exact execEvClear_held writer offset value h
  | irqEnableWrite writer port value => exact execIrqEnableWrite_held writer port value h
  | windowAccessReject port a => exact execWindowAccessReject_held port a h
  | aliasWrite writer offset value => exact execAliasWrite_held writer offset value h
  | cfgArm writer groups => exact execCfgArm_held writer groups h
  | cfgCancel writer groups => exact execCfgCancel_held writer groups h
  | groupApply groups => exact execGroupApply_held groups h
  | guardComputeStart => exact execGuardComputeStart_held h
  | guardComputeDone => exact execGuardComputeDone_held h
  | guardCommit writer => exact execGuardCommit_held writer h
  | aonWrite writer offset value => exact execAonWrite_held writer offset value h
  | aonWriteTaken => exact execAonWriteTaken_held h
  | slowclkLost => exact execSlowclkLost_held h
  | cvuStart unit => exact execCvuStart_held unit h
  | cvuTail unit tail => exact execCvuTail_held unit tail h
  | cvuFinish unit => exact execCvuFinish_held unit h
  | cvuDataWrite unit value => exact execCvuDataWrite_held unit value h
  | cvuParityError unit req => exact execCvuParityError_held unit req h
  | duskEntryStart => exact execDuskEntryStart_held h
  | entryCommit => exact execEntryCommit_held h
  | duskEntryDone => exact execDuskEntryDone_held h
  | nightEntryStart => exact execNightEntryStart_held h
  | nightEntryDone => exact execNightEntryDone_held h
  | wakeNEdge low => exact execWakeNEdge_held low h
  | tideWakeTimer => exact execTideWakeTimer_held h
  | duskExitDone => exact execDuskExitDone_held h
  | nightExitDone => exact execNightExitDone_held h
  | opStepDone spd freqStep => exact execOpStepDone_held spd freqStep h
  | thermalSample readings => exact execThermalSample_held readings h
  | throttleStep => exact execThrottleStep_held h
  | thermalTrip readings => exact execThermalTrip_held readings h
  | tripCooled readings => exact execTripCooled_held readings h
  | bootImageVerified strapRecovery => exact execBootImageVerified_held strapRecovery h
  | attestReady => exact execAttestReady_held h
  | getVersion t => exact execGetVersion_held t h
  | getCapabilities t => exact execGetCapabilities_held t h
  | negotiateAlgorithms t => exact execNegotiateAlgorithms_held t h
  | getDigests t => exact execGetDigests_held t h
  | getCertificate t slot offset length => exact execGetCertificate_held t slot offset length h
  | challenge t slot nonce => exact execChallenge_held t slot nonce h
  | getMeasurements t index => exact execGetMeasurements_held t index h
  | keyExchange t slot => exact execKeyExchange_held t slot h
  | finish t session verifyOk => exact execFinish_held t session verifyOk h
  | heartbeat t session => exact execHeartbeat_held t session h
  | keyUpdate t session => exact execKeyUpdate_held t session h
  | endSession t session => exact execEndSession_held t session h
  | vendorDefinedRequest t session entry => exact execVendorDefinedRequest_held t session entry h
  | jtagAccess cls op => exact execJtagAccess_held cls op h
  | smbusHealthRead => exact execSmbusHealthRead_held h
  | smbusAlertClear => exact execSmbusAlertClear_held h
  | smbusAra => exact execSmbusAra_held h
  | healthReasonTimer code location => exact execHealthReasonTimer_held code location h
  | ltStart writer => exact execLtStart_held writer h
  | ltStop writer => exact execLtStop_held writer h
  | ltInject writer => exact execLtInject_held writer h
  | ltLaneLock lane => exact execLtLaneLock_held lane h
  | pmcFreeze => exact execPmcFreeze_held h
  | pmcUnfreeze => exact execPmcUnfreeze_held h
  | pmcSnap answering => exact execPmcSnap_held answering h
  | pmcClear => exact execPmcClear_held h
  | pmcSnapDone => exact execPmcSnapDone_held h
  | pmcBwWinWrite value => exact execPmcBwWinWrite_held value h
  | pmcBwWindowEnd bytes => exact execPmcBwWindowEnd_held bytes h
  | coldReset => exact execColdReset_held h
  | warmReset pin => exact execWarmReset_held pin h
  | lockstepMismatch pair => exact execLockstepMismatch_held pair h
  | hmWatchdogExpiry pair => exact execHmWatchdogExpiry_held pair h
  | bringupDone b => exact execBringupDone_held b h
  | powerGood testEn => exact execPowerGood_held testEn h
  | railLost rail => exact execRailLost_held rail h
  | clockFault c => exact execClockFault_held c h
  | cacheReadDone req => exact execCacheReadDone_held req h
  | ltLockLost lane => exact execLtLockLost_held lane h
  | harbourmasterRestartDone => exact execHarbourmasterRestartDone_held h
  | textTableReloadDone spd => exact execTextTableReloadDone_held spd h
  | connContextRecopyDone spd => exact execConnContextRecopyDone_held spd h
  | pcieLinkUp port => exact execPcieLinkUp_held port h
  | pciePmStateChange port d3 => exact execPciePmStateChange_held port d3 h
  | shaperCreditRestored link cls => exact execShaperCreditRestored_held link cls h
  | keelFault => exact execKeelFault_held h

/-- Settles O42: the fuses are part of what every command keeps. -/
theorem fusesNeverFallBack : Obligations.FusesNeverFallBack :=
  fun c s t h => (exec_held c (.refl s) t h).fuses

/-- Settles O43: so is the queue. -/
theorem commandsLeaveTheQueue : Obligations.CommandsLeaveTheQueue :=
  fun c s t h => (exec_held c (.refl s) t h).pending

/-! ### What a step keeps -/

theorem Sound.withPending {s : State} (h : Sound s) (q : List Instr) : Sound (withPending s q) :=
  ⟨h.jobMem, h.rawMem, h.shadow, h.applied⟩

theorem clockTick_held {s₀ s : State} (h : Held s₀ s) : Held s₀ (clockTick s) :=
  h.same (clockTick_pending s) (by rw [clockTick_sec]) (by rw [clockTick_egr]) (clockTick_shadow s) (clockTick_applied s)

theorem takeExitSteps_held (n : Nat) {s₀ s : State} (h : Held s₀ s) : Held s₀ (takeExitSteps n s) := by
  induction n generalizing s with
  | zero => exact h
  | succ n ih =>
    unfold takeExitSteps
    split
    · exact ih (nextExitStep_held h)
    · exact h

theorem idleTick_held {s₀ s : State} (h : Held s₀ s) : Held s₀ (idleTick s) :=
  clockTick_held (keelStep_held (takeExitSteps_held 6 h))

/-- What a step does: an idle nanosecond on an empty queue, else the command in front. -/
theorem step_cases (s : State) : s.pending = [] ∧ step s = .next (idleTick s) ∨
    ∃ c rest, s.pending = c :: rest ∧ step s = exec c (withPending s rest) := by
  unfold step
  cases h : s.pending with
  | nil => exact .inl ⟨rfl, rfl⟩
  | cons c rest => exact .inr ⟨c, rest, rfl, rfl⟩

/-- Settles O41: a command and the idle nanosecond keep the invariant, which does not speak of the queue. -/
theorem stepKeepsSound : Obligations.StepKeepsSound := by
  intro s t hs hstep
  rcases step_cases s with ⟨-, hidle⟩ | ⟨c, rest, -, hcmd⟩
  · rw [hidle] at hstep
    exact (HeldA.next (idleTick_held (.refl s)) t hstep).sound hs
  · rw [hcmd] at hstep
    exact (exec_held c (.refl _) t hstep).sound (hs.withPending rest)

/-- Settles O45: both memories are empty, and the reset values of the staged registers have no reserved bit. -/
theorem resetIsSound : Obligations.ResetIsSound :=
  ⟨wfCells_nil _, wfCells_nil _, resetMasked, resetMasked⟩

/-- Settles O46: the queue is the only field that the step reads or replaces. -/
theorem stepRunsTheFront : Obligations.StepRunsTheFront := fun _ _ _ => rfl

/-- Settles O48: the table decodes no word. -/
theorem noWordSpellsACommand : Obligations.NoWordSpellsACommand := fun _ _ _ => ⟨rfl, rfl⟩

/-! ### Every command answers -/

/-- An answer that is a next state. -/
def Answers (a : Answer) : Prop := ∃ t, a = .next t

theorem Answers.next (t : State) : Answers (.next t) := ⟨t, rfl⟩

/-- A command of one opcode waits, fails a check or runs its body: a next state in each case. -/
theorem runCmd_answers (id : CmdId) (op : Nat) (bad : Cmd → Bool) (sec : Cmd → Option Nat) (body : Cmd → State → State)
    (s : State) : Answers (runCmd id op bad sec body s) := by
  unfold runCmd
  split
  · exact .next _
  · split
    · exact .next _
    · split <;> exact .next _

/-- The meanings that are a next state outright, those of the Salsia commands, and those that branch, each branch of which is
a next state. -/
theorem exec_answers (c : Instr) (s : State) : Answers (exec c s) := by
  cases c with
  | edgeSilenceTimeout | stepBoundaryApply | tideSnap | tideCancel | tideArm | tideRestartEst | checkpointRootDone |
    mapSegmentReloadDone | mapMirrorRecopyDone | mediaTempSample | linkDown | rxRdmaWrite | rxRdmaRead | rxAck | rxNak
    | rxRnrNak | rxReadResponse | rxCnp | waitSatisfied | returnRx | peerReqRx | peerRspRx | peerDoneRx | pfcRx |
    sluiceEntryChange | mbxLockRead | mbxLockRelease | mbxBufWrite | mbxDoorbell | mbxAck | semRead | semRelease |
    portReset | perstRelease | quaySqDoorbell | quayCqDoorbell | regWrite | evClear | irqEnableWrite |
    windowAccessReject | aliasWrite | cfgArm | cfgCancel | groupApply | guardComputeStart | guardCommit | aonWrite |
    aonWriteTaken | slowclkLost | cvuStart | cvuTail | cvuFinish | cvuDataWrite | wakeNEdge | getVersion |
    getCapabilities | negotiateAlgorithms | getDigests | getCertificate | challenge | getMeasurements | keyExchange |
    finish | heartbeat | keyUpdate | endSession | vendorDefinedRequest | jtagAccess | smbusHealthRead |
    smbusAlertClear | smbusAra | ltStart | ltStop | ltInject | pmcFreeze | pmcUnfreeze | pmcSnap | pmcClear |
    pmcBwWinWrite | coldReset | lockstepMismatch | hmWatchdogExpiry | shaperCreditRestored | keelFault =>
    exact .next _
  | identify | createQuay | deleteQuay | abort | getEvent | selfTest | fwStage | fwActivate | portConfig | format |
    jobSetup | jobEnd | stepMark | datasetCreate | write | flush | sealPartition | datasetDelete | defectList |
    mediaStatus | mediaHealth | streamSetup | streamStart | streamStop | seek | streamStatus | tableLoad | detokenise
    | connect | disconnect | mooringCreate | mooringRevoke | mooringGrant | queueStats | secStatus | slotProgram |
    svnCommit | lifecycleSecure | keyLoad | keyClear | keyRevoke | debugChallenge | debugResponse | debugExit |
    zeroise | debugOpen =>
    simp only [exec, execIdentify, execCreateQuay, execDeleteQuay, execAbort, execGetEvent, execSelfTest,
      execFwStage, execFwActivate, execPortConfig, execFormat, execJobSetup, execJobEnd, execStepMark,
      execDatasetCreate, execWrite, execFlush, execSealPartition, execDatasetDelete, execDefectList,
      execMediaStatus, execMediaHealth, execStreamSetup, execStreamStart, execStreamStop, execSeek,
      execStreamStatus, execTableLoad, execDetokenise, execConnect, execDisconnect, execMooringCreate,
      execMooringRevoke, execMooringGrant, execQueueStats, execSecStatus, execSlotProgram, execSvnCommit,
      execLifecycleSecure, execKeyLoad, execKeyClear, execKeyRevoke, execDebugChallenge, execDebugResponse,
      execDebugExit, execZeroise, execDebugOpen, runPlain, runData, runDataSec]
    exact runCmd_answers ..
  | copyFromPeer cmd plan =>
    simp only [exec, execCopyFromPeer]
    split
    · split <;> exact .next _
    · exact runCmd_answers ..
  | _ =>
    simp only [exec, execSlipwayFlitRx, execIdleFlitTimer, execHomeMapApply, execRequestIssue,
      execLatestStartReached, execPtpSyncRx, execTimeSourceLost, execPtpFailback, execPpsEdge, execStepMarkDatagram,
      execSyncInEdge, execMarkPairWindowExpiry, execDeadlineRecomputeDone, execStepLost, execBarrierReady,
      execHeartbeatSend, execPermPositionAdmit, execPermPassDone, execDefectEntryDurable, execPeerRoundRetry,
      execPeerReadGiveUp, execFlashTrainingTimer, execFlashReadDone, execProgramDone, execEraseDone,
      execStripeVerifyDone, execStagingResize, execFoldStart, execGcStart, execStaticRelocation,
      execBlockRewriteStart, execFlashDieFailed, execWriteBufferAdmit, execFlushComplete, execJournalProgram,
      execCheckpointStart, execRecoveryDone, execMemoryCe, execMemoryUe, execPatrolScrub, execJobClearDone,
      execKeySweepDone, execCacheSplitDone, execHbmStackLost, execStackRebuildDone, execDecodeDone,
      execDecodeEngineFault, execEngineResetDone, execTransformDone, execResidueMismatch, execTransformRestart,
      execXfEngineFault, execTokeniseChunk, execVocabLineFill, execTokeniseDone, execTxtEngineFault,
      execTextPlacement, execPackDone, execPackEngineFault, execTrailerHeaderSend, execTimelockHoldExpiry,
      execLinkUp, execPathMigrateBack, execQuietPeriodEnd, execRxRefusedPacket, execAckTimeout, execRnrRetryTimer,
      execRevokeComplete, execRevokeTimeout, execReleaseTokenSend, execPeerServeReady, execPeerReadDone,
      execPeerHoldExpiry, execFrameTxDone, execCcRateRecover, execSluiceListTakeover, execContextLoadDone,
      execSliceBoundary, execMbxTake, execMbxReply, execQuayFetch, execCompletionWrite, execCqCoalesceTimer,
      execInvalidOpcode, execGetEventComplete, execSelfTestItemDone, execSelfTestResume, execFwNorWriteDone,
      execFwActivateRestart, execStreamStopComplete, execDebugGrantExpiry, execGuardComputeDone, execCvuParityError,
      execDuskEntryStart, execEntryCommit, execDuskEntryDone, execNightEntryStart, execNightEntryDone,
      execTideWakeTimer, execDuskExitDone, execNightExitDone, execOpStepDone, execThermalSample, execThrottleStep,
      execThermalTrip, execTripCooled, execBootImageVerified, execAttestReady, execHealthReasonTimer,
      execLtLaneLock, execPmcSnapDone, execPmcBwWindowEnd, execWarmReset, execBringupDone, execPowerGood,
      execRailLost, execClockFault, execCacheReadDone, execLtLockLost, execHarbourmasterRestartDone,
      execTextTableReloadDone, execConnContextRecopyDone, execPcieLinkUp, execPciePmStateChange, sliceBoundary]
    repeat' split
    all_goals exact .next _

/-- Settles O44: no command has a fault or a refusal for an answer. -/
theorem everyCommandAnswers : Obligations.EveryCommandAnswers := exec_answers

/-! ### The idle nanosecond -/

theorem takeExitSteps_of_not_due {s : State} (n : Nat)
    (h : s.pwr.state ≠ .night ∨ s.pwr.exiting = false ∨ 6 ≤ s.pwr.exitStep) : takeExitSteps n s = s := by
  cases n with
  | zero => rfl
  | succ n =>
    refine if_neg fun ⟨hnight, hexit, hstep, _⟩ => ?_
    rcases h with h | h | h
    · exact h hnight
    · simp [h] at hexit
    · omega

theorem keelStep_of_not_zeroising {s : State} (h : s.sec.zeroising = none) : keelStep s = s := by
  simp [keelStep, h]

/-- The counters count before the clocks move, and no clock or idle timer reads them. -/
theorem clockTick_eq (s : State) : clockTick s = { s with
    pmc := (tickCounters s).pmc
    ev := (tickCounters s).ev
    tide := { s.tide with time := (s.tide.time + 1) % 2 ^ 64, uptime := s.tide.uptime + 1 }
    aon := { s.aon with clock := s.aon.clock + 1 }
    host := { s.host with selfTest := s.host.selfTest.map (SelfTest.track (!hostPending s) s.mono) }
    pwr := { s.pwr with idleSince := idleTrack s } } := by
  obtain ⟨p, e, h⟩ := tickCounters_eq s
  rw [clockTick, h]
  rfl

/-- Settles O47. -/
theorem idleStep : Obligations.IdleStep := by
  have hidle : ∀ s : State, s.pending = [] → step s = .next (idleTick s) := fun s h => by rw [step, h]
  refine ⟨fun s hnight hexit hstep hdue => if_pos ⟨hnight, hexit, hstep, hdue⟩, ?_, hidle, ?_⟩
  · rintro s a k hz rfl
    rw [keelStep, hz]
  · intro s hp hnight hz
    rw [hidle s hp, idleTick, dueWork, takeExitSteps_of_not_due 6 hnight, keelStep_of_not_zeroising hz, clockTick_eq]

end Sys2Proof.Machine
end

section
/-! The permutation of R69 and its inverse of R130. One pass is a bijection of the 2^(2h) values, with the inverse pass for its
inverse; a value below N therefore lies on a cycle, its walk ends at the next value of the cycle below N, and the inverse walk from
there passes the same values in the opposite order. -/

namespace Sys2Proof.Machine

/-! ### Cycle walking -/

/-- `f` and `g` map the numbers below `m` to themselves, and each undoes the other. -/
structure InverseBelow (m : Nat) (f g : Nat → Nat) : Prop where
  lt : ∀ x, x < m → f x < m
  gt : ∀ x, x < m → g x < m
  left : ∀ x, x < m → g (f x) = x
  right : ∀ x, x < m → f (g x) = x

theorem InverseBelow.symm {m : Nat} {f g : Nat → Nat} (h : InverseBelow m f g) : InverseBelow m g f :=
  ⟨h.gt, h.lt, h.right, h.left⟩

theorem InverseBelow.iterate_lt {m : Nat} {f g : Nat → Nat} (h : InverseBelow m f g) {x : Nat} (hx : x < m) (k : Nat) :
    f^[k] x < m := by
  induction k generalizing x with
  | zero => exact hx
  | succ k ih => exact ih (h.lt x hx)

/-- Going back `j` of `k` steps leaves `k - j`. -/
theorem InverseBelow.iterate_back {m : Nat} {f g : Nat → Nat} (h : InverseBelow m f g) {x : Nat} (hx : x < m) {j k : Nat}
    (hjk : j ≤ k) : g^[j] (f^[k] x) = f^[k - j] x := by
  induction j generalizing k with
  | zero => rfl
  | succ j ih =>
    obtain ⟨k, rfl⟩ : ∃ i, k = i + 1 := ⟨k - 1, by omega⟩
    rw [Function.iterate_succ_apply, Function.iterate_succ_apply' f, h.left _ (h.iterate_lt hx k), ih (by omega),
      Nat.add_sub_add_right]

/-- Every number below `m` returns to itself within `m` steps: the numbers below `m` are finitely many and `f` is injective on
them. -/
theorem InverseBelow.returns {m : Nat} {f g : Nat → Nat} (h : InverseBelow m f g) {x : Nat} (hx : x < m) :
    ∃ k, k < m ∧ f^[k + 1] x = x := by
  let F : Fin m → Fin m := fun y => ⟨f y, h.lt y y.2⟩
  have hval : ∀ (k : Nat) (y : Fin m), ((F^[k] y : Fin m) : Nat) = f^[k] y := fun k => by
    induction k with
    | zero => exact fun _ => rfl
    | succ k ih => exact fun y => ih (F y)
  have hinj : Function.Injective F := fun y z hyz => Fin.ext <| by
    rw [← h.left y y.2, ← h.left z z.2]
    exact congrArg (fun i : Fin m => g i) hyz
  have hpos : 0 < Function.minimalPeriod F ⟨x, hx⟩ := Function.minimalPeriod_pos_of_mem_periodicPts (hinj.mem_periodicPts _)
  have hle : Function.minimalPeriod F ⟨x, hx⟩ ≤ m := Function.minimalPeriod_le_card.trans_eq (Fintype.card_fin m)
  refine ⟨Function.minimalPeriod F ⟨x, hx⟩ - 1, by omega, ?_⟩
  rw [Nat.sub_add_cancel hpos, ← hval _ ⟨x, hx⟩, Function.iterate_minimalPeriod]

/-- The walk stops at the first value below `n`. -/
theorem cycleWalk_eq_iterate {n : Nat} {f : Nat → Nat} {k fuel x : Nat} (hk : k < fuel) (hin : f^[k + 1] x < n)
    (hout : ∀ j, j < k → n ≤ f^[j + 1] x) : cycleWalk n f fuel x = f^[k + 1] x := by
  induction k generalizing fuel x with
  | zero =>
    obtain ⟨fuel, rfl⟩ : ∃ i, fuel = i + 1 := ⟨fuel - 1, by omega⟩
    exact if_pos hin
  | succ k ih =>
    obtain ⟨fuel, rfl⟩ : ∃ i, fuel = i + 1 := ⟨fuel - 1, by omega⟩
    have hfirst : ¬ f x < n := Nat.not_lt.mpr (hout 0 (by omega))
    rw [cycleWalk, if_neg hfirst]
    exact ih (by omega) hin fun j hj => hout (j + 1) (by omega)

/-- From a number below `n`, `m` steps suffice to reach the first value below `n`. -/
theorem InverseBelow.first_return {m n : Nat} {f g : Nat → Nat} (h : InverseBelow m f g) (hnm : n ≤ m) {x : Nat} (hx : x < n) :
    ∃ k, k < m ∧ f^[k + 1] x < n ∧ ∀ j, j < k → n ≤ f^[j + 1] x := by
  obtain ⟨r, hr, hret⟩ := h.returns (hx.trans_le hnm)
  have hex : ∃ k, f^[k + 1] x < n := ⟨r, hret.symm ▸ hx⟩
  exact ⟨Nat.find hex, (Nat.find_le (hret.symm ▸ hx)).trans_lt hr, Nat.find_spec hex,
    fun j hj => Nat.le_of_not_lt (Nat.find_min hex hj)⟩

theorem InverseBelow.cycleWalk_lt {m n : Nat} {f g : Nat → Nat} (h : InverseBelow m f g) (hnm : n ≤ m) {x : Nat} (hx : x < n) :
    cycleWalk n f m x < n := by
  obtain ⟨k, hk, hin, hout⟩ := h.first_return hnm hx
  rwa [cycleWalk_eq_iterate hk hin hout]

/-- The inverse walk meets the same values above `n` in the opposite order, and then the start. -/
theorem InverseBelow.cycleWalk_cycleWalk {m n : Nat} {f g : Nat → Nat} (h : InverseBelow m f g) (hnm : n ≤ m) {x : Nat}
    (hx : x < n) : cycleWalk n g m (cycleWalk n f m x) = x := by
  obtain ⟨k, hk, hin, hout⟩ := h.first_return hnm hx
  have hback : ∀ j, j ≤ k → g^[j + 1] (f^[k + 1] x) = f^[k - j] x := fun j hj => by
    rw [h.iterate_back (hx.trans_le hnm) (by omega), Nat.add_sub_add_right]
  have hend : g^[k + 1] (f^[k + 1] x) = x := by
    rw [hback k le_rfl, Nat.sub_self, Function.iterate_zero_apply]
  rw [cycleWalk_eq_iterate hk hin hout, cycleWalk_eq_iterate hk (hend.symm ▸ hx), hend]
  intro j hj
  rw [hback j hj.le, show k - j = k - j - 1 + 1 by omega]
  exact hout _ (by omega)

/-! ### One pass -/

/-- One round of the Feistel network of R69, and its inverse, on the two halves. -/
def WalkCtx.round (c : WalkCtx) (h i : Nat) (p : Nat × Nat) : Nat × Nat := (p.2, Nat.xor p.1 (c.f p.2 i % 2 ^ h))
def WalkCtx.unround (c : WalkCtx) (h i : Nat) (p : Nat × Nat) : Nat × Nat := (Nat.xor p.2 (c.f p.1 i % 2 ^ h), p.1)

/-- Both halves fit in `h` bits. -/
def HalvesFit (h : Nat) (p : Nat × Nat) : Prop := p.1 < 2 ^ h ∧ p.2 < 2 ^ h

theorem xor_mod_two_pow_lt {h a : Nat} (ha : a < 2 ^ h) (b : Nat) : Nat.xor a (b % 2 ^ h) < 2 ^ h :=
  Nat.xor_lt_two_pow ha (Nat.mod_lt _ (Nat.two_pow_pos h))

theorem WalkCtx.round_fits (c : WalkCtx) {h : Nat} (i : Nat) {p : Nat × Nat} (hp : HalvesFit h p) : HalvesFit h (c.round h i p) :=
  ⟨hp.2, xor_mod_two_pow_lt hp.1 _⟩

theorem WalkCtx.unround_fits (c : WalkCtx) {h : Nat} (i : Nat) {p : Nat × Nat} (hp : HalvesFit h p) :
    HalvesFit h (c.unround h i p) :=
  ⟨xor_mod_two_pow_lt hp.2 _, hp.1⟩

theorem WalkCtx.unround_round (c : WalkCtx) (h i : Nat) (p : Nat × Nat) : c.unround h i (c.round h i p) = p :=
  Prod.ext (Nat.xor_xor_cancel_right ..) rfl

theorem WalkCtx.round_unround (c : WalkCtx) (h i : Nat) (p : Nat × Nat) : c.round h i (c.unround h i p) = p :=
  Prod.ext rfl (Nat.xor_xor_cancel_right ..)

/-- The rounds of a list in order, and the inverse rounds in the opposite order. -/
def WalkCtx.rounds (c : WalkCtx) (h : Nat) (is : List Nat) (p : Nat × Nat) : Nat × Nat := is.foldl (fun q i => c.round h i q) p
def WalkCtx.unrounds (c : WalkCtx) (h : Nat) (is : List Nat) (p : Nat × Nat) : Nat × Nat := is.foldr (fun i q => c.unround h i q) p

theorem WalkCtx.rounds_fit (c : WalkCtx) {h : Nat} (is : List Nat) {p : Nat × Nat} (hp : HalvesFit h p) :
    HalvesFit h (c.rounds h is p) := by
  induction is generalizing p with
  | nil => exact hp
  | cons i is ih => exact ih (c.round_fits i hp)

theorem WalkCtx.unrounds_fit (c : WalkCtx) {h : Nat} (is : List Nat) {p : Nat × Nat} (hp : HalvesFit h p) :
    HalvesFit h (c.unrounds h is p) := by
  induction is with
  | nil => exact hp
  | cons i is ih => exact c.unround_fits i ih

theorem WalkCtx.unrounds_rounds (c : WalkCtx) (h : Nat) (is : List Nat) (p : Nat × Nat) : c.unrounds h is (c.rounds h is p) = p := by
  induction is generalizing p with
  | nil => rfl
  | cons i is ih => exact (congrArg (c.unround h i) (ih (c.round h i p))).trans (c.unround_round h i p)

theorem WalkCtx.rounds_unrounds (c : WalkCtx) (h : Nat) (is : List Nat) (p : Nat × Nat) : c.rounds h is (c.unrounds h is p) = p := by
  induction is with
  | nil => rfl
  | cons i is ih => exact (congrArg (c.rounds h is) (c.round_unround h i _)).trans ih

/-- The halves of a number, and the number of two halves. -/
def halves (h x : Nat) : Nat × Nat := (x / 2 ^ h, x % 2 ^ h)
def joined (h : Nat) (p : Nat × Nat) : Nat := p.1 * 2 ^ h + p.2

theorem halves_fit {h x : Nat} (hx : x < 2 ^ (2 * h)) : HalvesFit h (halves h x) :=
  ⟨Nat.div_lt_of_lt_mul (by rwa [← Nat.pow_add, ← Nat.two_mul]), Nat.mod_lt _ (Nat.two_pow_pos h)⟩

theorem joined_lt {h : Nat} {p : Nat × Nat} (hp : HalvesFit h p) : joined h p < 2 ^ (2 * h) :=
  calc p.1 * 2 ^ h + p.2 < p.1 * 2 ^ h + 2 ^ h := Nat.add_lt_add_left hp.2 _
    _ = (p.1 + 1) * 2 ^ h := (Nat.succ_mul ..).symm
    _ ≤ 2 ^ h * 2 ^ h := Nat.mul_le_mul_right _ hp.1
    _ = 2 ^ (2 * h) := by rw [← Nat.pow_add, Nat.two_mul]

theorem joined_halves (h x : Nat) : joined h (halves h x) = x := Nat.div_add_mod' x (2 ^ h)

theorem halves_joined {h : Nat} {p : Nat × Nat} (hp : HalvesFit h p) : halves h (joined h p) = p := by
  obtain ⟨l, r⟩ := p
  have hpos : 0 < 2 ^ h := Nat.two_pow_pos h
  have hdiv : (l * 2 ^ h + r) / 2 ^ h = l := by
    rw [Nat.mul_comm, Nat.mul_add_div hpos, Nat.div_eq_of_lt hp.2, Nat.add_zero]
  have hmod : (l * 2 ^ h + r) % 2 ^ h = r := by
    rw [Nat.mul_comm, Nat.mul_add_mod, Nat.mod_eq_of_lt hp.2]
  exact Prod.ext hdiv hmod

theorem WalkCtx.pass_eq (c : WalkCtx) (h x : Nat) : c.pass h x = joined h (c.rounds h [1, 2, 3, 4, 5, 6] (halves h x)) := rfl

theorem WalkCtx.unpass_eq (c : WalkCtx) (h x : Nat) : c.unpass h x = joined h (c.unrounds h [1, 2, 3, 4, 5, 6] (halves h x)) := rfl

/-- A pass is a bijection of the values of 2h bits, and the inverse pass is its inverse. -/
theorem WalkCtx.pass_inverse (c : WalkCtx) (h : Nat) : InverseBelow (2 ^ (2 * h)) (c.pass h) (c.unpass h) where
  lt x hx := c.pass_eq h x ▸ joined_lt (c.rounds_fit _ (halves_fit hx))
  gt x hx := c.unpass_eq h x ▸ joined_lt (c.unrounds_fit _ (halves_fit hx))
  left x hx := by
    rw [c.pass_eq, c.unpass_eq, halves_joined (c.rounds_fit _ (halves_fit hx)), c.unrounds_rounds, joined_halves]
  right x hx := by
    rw [c.pass_eq, c.unpass_eq, halves_joined (c.unrounds_fit _ (halves_fit hx)), c.rounds_unrounds, joined_halves]

/-! ### The permutation -/

theorem le_two_pow_halfWidth (n : Nat) : n ≤ 2 ^ (2 * halfWidth n) :=
  (Nat.le_pow_clog Nat.one_lt_two n).trans (Nat.pow_le_pow_right Nat.two_pos (by unfold halfWidth; omega))

theorem WalkCtx.perm_lt (c : WalkCtx) {n x : Nat} (hx : x < n) : c.perm n x < n := by
  unfold WalkCtx.perm
  split
  · omega
  · exact (c.pass_inverse _).cycleWalk_lt (le_two_pow_halfWidth n) hx

theorem WalkCtx.unperm_lt (c : WalkCtx) {n x : Nat} (hx : x < n) : c.unperm n x < n := by
  unfold WalkCtx.unperm
  split
  · omega
  · exact (c.pass_inverse _).symm.cycleWalk_lt (le_two_pow_halfWidth n) hx

theorem WalkCtx.unperm_perm (c : WalkCtx) {n x : Nat} (hx : x < n) : c.unperm n (c.perm n x) = x := by
  unfold WalkCtx.unperm WalkCtx.perm
  split
  · omega
  · exact (c.pass_inverse _).cycleWalk_cycleWalk (le_two_pow_halfWidth n) hx

theorem WalkCtx.perm_unperm (c : WalkCtx) {n x : Nat} (hx : x < n) : c.perm n (c.unperm n x) = x := by
  unfold WalkCtx.unperm WalkCtx.perm
  split
  · omega
  · exact (c.pass_inverse _).symm.cycleWalk_cycleWalk (le_two_pow_halfWidth n) hx

/-- Settles O49: `unperm` is a left inverse, so no two indices share a value. -/
theorem permIsAPermutation : Obligations.PermIsAPermutation :=
  ⟨fun c _ _ hx => c.perm_lt hx,
    fun c n x y hx hy hxy => by rw [← c.unperm_perm hx, hxy, c.unperm_perm hy],
    fun c _ _ hx => c.unperm_perm hx⟩

/-! ### The order of an epoch -/

/-- Below N_p the position is its own input, and the order value is the position or its image under the permutation of N_p. -/
theorem orderValue_of_lt (seed : Dword) {t : Stream} {d : Partition} (e : Nat) {l : Nat} (ht : t.order ≤ 1) (hl : l < d.size) :
    orderValue seed t d e l = if t.order = 0 then l else (walkCtx seed t d 6 0 false e).perm d.size l := by
  have hne : t.order ≠ 2 := by omega
  have hfill : t.isFill d l = false := by simp [Stream.isFill, hne, hl]
  simp [orderValue, Stream.input, Stream.space, hfill, hne]

/-- N_p counts the samples of partition `p` (R64). -/
theorem partSize_eq_count {n parts p : Nat} (hp : p < parts) : partSize n parts p = n.count (· ≡ p [MOD parts]) := by
  have hparts : 0 < parts := by omega
  rw [Nat.count_modEq_card _ hparts, Nat.mod_eq_of_lt hp]
  have hn : n = parts * (n / parts) + n % parts := (Nat.div_add_mod n parts).symm
  have hr : n % parts < parts := Nat.mod_lt _ hparts
  generalize n / parts = q at *
  generalize n % parts = r at *
  subst hn
  unfold partSize
  by_cases hpr : p < r
  · have hdiv : (parts * q + r - 1 - p) / parts = q := by
      rw [show parts * q + r - 1 - p = parts * q + (r - 1 - p) by omega, Nat.mul_add_div hparts,
        Nat.div_eq_of_lt (by omega), Nat.add_zero]
    simp [hpr, hdiv, show p < parts * q + r by omega]
  · cases q with
    | zero => simp [hpr]
    | succ q =>
      have hmul : parts * (q + 1) = parts * q + parts := Nat.mul_succ parts q
      have hdiv : (parts * (q + 1) + r - 1 - p) / parts = q := by
        rw [show parts * (q + 1) + r - 1 - p = parts * q + (parts + r - 1 - p) by omega, Nat.mul_add_div hparts,
          Nat.div_eq_of_lt (by omega), Nat.add_zero]
      simp [hpr, hdiv, show p < parts * (q + 1) + r by omega]

theorem count_modEq_eq_length_filter {parts p : Nat} (hp : p < parts) (n : Nat) :
    n.count (· ≡ p [MOD parts]) = ((List.range n).filter fun i => i % parts == p).length := by
  have hiff : ∀ i, i ≡ p [MOD parts] ↔ i % parts = p := fun i => by rw [Nat.ModEq, Nat.mod_eq_of_lt hp]
  simp only [Nat.count, List.countP_eq_length_filter, hiff]
  rfl

/-- Settles O50: a position below N_p has an order value of its own, and `unperm` finds the position of a sample. -/
theorem epochServesEachSampleOnce : Obligations.EpochServesEachSampleOnce := by
  refine ⟨fun seed t d e i ht hi => ?_, fun n parts p hp => (partSize_eq_count hp).trans (count_modEq_eq_length_filter hp n)⟩
  by_cases h0 : t.order = 0
  · refine ⟨i, ⟨hi, by rw [orderValue_of_lt seed e ht hi, if_pos h0]⟩, fun k hk hki => ?_⟩
    rwa [orderValue_of_lt seed e ht hk, if_pos h0] at hki
  · have hperm : ∀ l, l < d.size → orderValue seed t d e l = (walkCtx seed t d 6 0 false e).perm d.size l := fun l hl => by
      rw [orderValue_of_lt seed e ht hl, if_neg h0]
    refine ⟨(walkCtx seed t d 6 0 false e).unperm d.size i, ⟨WalkCtx.unperm_lt _ hi, ?_⟩, fun k hk hki => ?_⟩
    · rw [hperm _ (WalkCtx.unperm_lt _ hi), WalkCtx.perm_unperm _ hi]
    · rw [← hki, hperm k hk, WalkCtx.unperm_perm _ hk]

end Sys2Proof.Machine
end

section
/-! What a byte memory reads after a write: the bytes written, and elsewhere what it read before. -/

namespace Sys2Proof.Machine

theorem readCell_nil (base : Nat → Byte) (x : Nat) : readCell base [] x = base x := rfl

theorem readCell_cons (base : Nat → Byte) (b : Nat) (w : Byte) (m : List Host.Cell) (x : Nat) :
    readCell base ((b, w) :: m) x = if b = x then w else readCell base m x := by
  by_cases h : b = x <;> simp [readCell, h]

/-- An address below every entry reads as unlisted. -/
theorem readCell_of_lt (base : Nat → Byte) {m : List Host.Cell} {x : Nat} (h : ∀ c ∈ m, x < c.1) : readCell base m x = base x := by
  induction m with
  | nil => rfl
  | cons c m ih =>
    obtain ⟨hc, hm⟩ := List.forall_mem_cons.mp h
    rw [readCell_cons, if_neg (Nat.ne_of_gt hc), ih hm]

/-- The written address reads as the byte, every other as before. Where the byte is what an unlisted address reads as, its entry
goes, and in canonical form no later entry has its address. -/
theorem readCell_writeCell (base : Nat → Byte) (a : Nat) (v : Byte) {m : List Host.Cell} (h : m.Pairwise fun x y => x.1 < y.1)
    (x : Nat) : readCell base (writeCell base a v m) x = if x = a then v else readCell base m x := by
  induction m with
  | nil =>
    unfold writeCell
    split <;> simp only [readCell_nil, readCell_cons] <;> grind
  | cons c m ih =>
    obtain ⟨b, w⟩ := c
    obtain ⟨hb, hm⟩ := List.pairwise_cons.mp h
    have hlow : ∀ y, y ≤ b → readCell base m y = base y := fun y hy => readCell_of_lt base fun c hc => hy.trans_lt (hb c hc)
    unfold writeCell
    by_cases hba : b < a
    · simp only [if_pos hba, readCell_cons, ih hm]
      grind
    · have ha : readCell base m a = base a := hlow a (by omega)
      by_cases heq : b = a <;> by_cases hv : v = base a <;> simp only [hba, heq, hv, if_true, if_false] <;> grind [readCell_cons]

/-- A range of bytes is written from its lowest address up. -/
theorem readCell_writeCells (base : Nat → Byte) (a : Nat) (bs : List Byte) {m : List Host.Cell} (h : wfCells base m = true) (x : Nat) :
    readCell base (writeCells base a bs m) x = if a ≤ x then (bs[x - a]?).getD (readCell base m x) else readCell base m x := by
  induction bs generalizing a m with
  | nil => simp [writeCells]
  | cons v bs ih =>
    rw [writeCells, ih (a + 1) (writeCell_wf base a v m h), readCell_writeCell base a v ((wfCells_iff base m).mp h).1]
    rcases Nat.lt_trichotomy x a with hx | rfl | hx
    · simp [Nat.ne_of_lt hx, Nat.not_le.mpr hx, show ¬ a + 1 ≤ x by omega]
    · simp
    · obtain ⟨i, rfl⟩ : ∃ i, x = a + 1 + i := ⟨x - (a + 1), by omega⟩
      simp [show a + 1 + i - a = i + 1 by omega, show a + 1 + i ≠ a by omega, show a ≤ a + 1 + i by omega]

theorem jobByte_writeJob (a : Nat) (bs : List Byte) {s : State} (h : wfCells zeroBase s.egr.jobMem = true) (x : Nat) :
    (writeJob a bs s).jobByte x = if a ≤ x then (bs[x - a]?).getD (s.jobByte x) else s.jobByte x :=
  readCell_writeCells zeroBase a bs h x

/-- Settles O56. -/
theorem jobMemoryReadsBack : Obligations.JobMemoryReadsBack := by
  refine ⟨fun s a x bs h hax hx => ?_, fun s a x bs h hx => ?_, fun s a bs h => writeCells_wf _ _ _ _ h⟩
  · have hlt : x - a < bs.length := by omega
    simp [jobByte_writeJob a bs h, hax, List.getElem?_eq_getElem hlt]
  · rw [jobByte_writeJob a bs h]
    split
    · have hlen : bs.length ≤ x - a := by omega
      rw [List.getElem?_eq_none hlen, Option.getD_none]
    · rfl

end Sys2Proof.Machine
end

section
/-! Values on the grid of a floating-point format (R244 to R250): the exponent of the value is that of its grid, so no bit is
rounded away and the code is the row of the binade plus the mantissa. -/

namespace Sys2Proof.Machine

/-- The least normal binade does not lie above the top one, and the greatest code lies in the top binade or below it. -/
structure FloatFmt.Fits (f : FloatFmt) : Prop where
  least : 1 - f.bias ≤ f.top
  greatest : (f.maxCode / 2 ^ f.mb : Nat) - f.bias ≤ f.top

theorem FloatFmt.fits_of_mem {f : FloatFmt}
    (hf : f ∈ [FloatFmt.fp32, .bf16, .fp16, .e4m3, .e5m2, .e3m2, .e2m3, .e2m1]) : f.Fits := by
  have hall : ∀ g ∈ [FloatFmt.fp32, .bf16, .fp16, .e4m3, .e5m2, .e3m2, .e2m3, .e2m1],
      1 - g.bias ≤ g.top ∧ (g.maxCode / 2 ^ g.mb : Nat) - g.bias ≤ g.top := by decide
  obtain ⟨hleast, hgreatest⟩ := hall f hf
  exact ⟨hleast, hgreatest⟩

/-- A value whose exponent is that of its grid keeps its mantissa. -/
theorem floatCode_of_exact {f : FloatFmt} {mode m w : Nat} {e : Int}
    (h : min (max ((Nat.log2 m : Int) + e) (1 - f.bias)) f.top - f.mb = e) :
    floatCode f mode m e w = (e + f.mb + f.bias - 1).toNat * 2 ^ f.mb + m := by
  simp [floatCode, h]

/-- Below the normal binades the code is the mantissa. -/
theorem floatCode_subnormal {f : FloatFmt} (hf : f.Fits) {m : Nat} (mode w : Nat) (hm0 : m ≠ 0) (hm : m < 2 ^ f.mb) :
    floatCode f mode m (((1 : Nat) : Int) - f.bias - f.mb) w = m := by
  have hlog : Nat.log2 m < f.mb := (Nat.log2_lt hm0).mpr hm
  have hleast := hf.least
  rw [floatCode_of_exact (by omega), show (((1 : Nat) : Int) - f.bias - f.mb + f.mb + f.bias - 1).toNat = 0 by omega, Nat.zero_mul,
    Nat.zero_add]

/-- In a normal binade the code is the exponent field and the mantissa field. -/
theorem floatCode_normal {f : FloatFmt} (hf : f.Fits) {m x : Nat} (mode w : Nat) (hx : x ≠ 0) (hm : m < 2 ^ f.mb)
    (hmax : x * 2 ^ f.mb + m ≤ f.maxCode) :
    floatCode f mode (2 ^ f.mb + m) ((x : Int) - f.bias - f.mb) w = x * 2 ^ f.mb + m := by
  have hpos : 0 < 2 ^ f.mb := Nat.two_pow_pos _
  have hlog : Nat.log2 (2 ^ f.mb + m) = f.mb := (Nat.log2_eq_iff (by omega)).mpr ⟨by omega, by rw [Nat.pow_succ]; omega⟩
  have hx' : x ≤ f.maxCode / 2 ^ f.mb := (Nat.le_div_iff_mul_le hpos).mpr (by omega)
  have hgreatest := hf.greatest
  rw [floatCode_of_exact (by rw [hlog]; omega), show ((x : Int) - f.bias - f.mb + f.mb + f.bias - 1).toNat = x - 1 by omega,
    ← Nat.add_assoc, ← Nat.succ_mul, Nat.succ_eq_add_one, Nat.sub_add_cancel (by omega)]

/-- A finite nonzero value whose code is finite packs to it. -/
theorem floatElem_of_code_le {f : FloatFmt} {fmt mode m w : Nat} {e : Int} {sat neg : Bool} (hm : m ≠ 0)
    (h : floatCode f mode m e w ≤ f.maxCode) :
    floatElem f fmt mode sat (.fin neg m e) w = (flag neg * 2 ^ (f.eb + f.mb) + floatCode f mode m e w, false) := by
  simp [floatElem, hm, h]

/-- Settles O57: zero, the subnormal codes and the normal codes. -/
theorem exactValuesKeepTheirCodes : Obligations.ExactValuesKeepTheirCodes := by
  intro f fmt mode m x w sat neg hmem hm hmax
  have hf := FloatFmt.fits_of_mem hmem
  by_cases hx : x = 0
  · subst hx
    by_cases hm0 : m = 0
    · simp [floatElem, hm0]
    · have hcode := floatCode_subnormal hf mode w hm0 hm
      simp only [if_true]
      rw [floatElem_of_code_le hm0 (by omega), hcode, Nat.zero_mul, Nat.zero_add]
  · have hcode := floatCode_normal hf mode w hx hm hmax
    have hpos : 0 < 2 ^ f.mb := Nat.two_pow_pos _
    simp only [if_neg hx]
    rw [floatElem_of_code_le (by omega) (by omega), hcode]

end Sys2Proof.Machine
end

section
/-! The frames of the commands that a register access names: beside the state they name, an event sets its bit and may send a
message, which touches the event registers, the ports and the output alone. -/

namespace Sys2Proof.Machine

/-! ### Host ports and output -/

/-- From `s` to `t` only the host part and the output have changed. -/
def HostOnly (s t : State) : Prop := ∃ h o, t = { s with host := h, out := o }

theorem HostOnly.refl (s : State) : HostOnly s s := ⟨_, _, rfl⟩

theorem HostOnly.trans {s t u : State} (a : HostOnly s t) (b : HostOnly t u) : HostOnly s u := by
  obtain ⟨h, o, rfl⟩ := a
  obtain ⟨h', o', rfl⟩ := b
  exact ⟨h', o', rfl⟩

theorem HostOnly.eq {s t : State} (a : HostOnly s t) : t = { s with host := t.host, out := t.out } := by
  obtain ⟨h, o, rfl⟩ := a
  rfl

theorem HostOnly.ite {c : Prop} [Decidable c] {s t u : State} (a : HostOnly s t) (b : HostOnly s u) :
    HostOnly s (if c then t else u) := by
  split
  · exact a
  · exact b

theorem State.modHost_hostOnly (f : Hosts → Hosts) (s : State) : HostOnly s (s.modHost f) := ⟨_, _, rfl⟩

theorem State.emit_hostOnly (x : Output) (s : State) : HostOnly s (s.emit x) := ⟨_, _, rfl⟩

theorem State.each_hostOnly {α : Type} {f : α → State → State} (h : ∀ a u, HostOnly u (f a u)) (l : List α) (s : State) :
    HostOnly s (s.each l f) := by
  unfold State.each
  induction l generalizing s with
  | nil => exact .refl s
  | cons a l ih => exact (h a s).trans (ih _)

theorem sendMsix_hostOnly (p : Port) (v : Nat) (s : State) : HostOnly s (sendMsix p v s) := by
  unfold sendMsix
  dsimp only
  split
  · exact .refl s
  · split
    · exact State.modHost_hostOnly ..
    · exact State.emit_hostOnly ..

theorem mbxEvent_hostOnly (m : MbxId) (bit : Nat) (s : State) : HostOnly s (mbxEvent m bit s) := by
  unfold mbxEvent
  dsimp only
  split
  · exact (State.modHost_hostOnly _ s).trans (sendMsix_hostOnly ..)
  · exact State.modHost_hostOnly ..

theorem mbxRelease_hostOnly (o : Owner) (m : MbxId) (v : Word) (s : State) : HostOnly s (mbxRelease o m v s) := by
  unfold mbxRelease
  dsimp only
  split
  · exact .refl s
  · split
    · exact State.modHost_hostOnly ..
    · exact State.modHost_hostOnly ..
    · exact State.modHost_hostOnly ..
    · exact mbxEvent_hostOnly ..
    · exact mbxEvent_hostOnly ..

theorem mbxAct_hostOnly (o : Owner) (m : MbxId) (fits : Mailbox → Bool) {act : State → State} {s : State}
    (h : HostOnly s (act s)) : HostOnly s (mbxAct o m fits act s) := by
  unfold mbxAct
  split
  · exact .refl s
  · split
    · exact h
    · exact mbxEvent_hostOnly ..

theorem releaseSem_host (o : Owner) (k : Nat) (v : Word) (s : State) :
    releaseSem o k v s = { s with host := (releaseSem o k v s).host } := by
  unfold releaseSem
  split <;> rfl

/-- The answers of a contest go out after its grant. -/
theorem answers_hostOnly (f : Hosts → Hosts) (readers : List Owner) (v : Owner → Word) (s : State) :
    HostOnly s ((s.modHost f).each readers fun o u => u.emit (.value o (v o))) :=
  (State.modHost_hostOnly f s).trans (State.each_hostOnly (fun _ _ => State.emit_hostOnly _ _) _ _)

/-! ### Events -/

/-- From `s` to `t` only the event registers, the host part and the output have changed. -/
def EventOnly (s t : State) : Prop := ∃ e h o, t = { s with ev := e, host := h, out := o }

theorem EventOnly.refl (s : State) : EventOnly s s := ⟨_, _, _, rfl⟩

theorem HostOnly.eventOnly {s t : State} (a : HostOnly s t) : EventOnly s t := by
  obtain ⟨h, o, rfl⟩ := a
  exact ⟨_, _, _, rfl⟩

theorem EventOnly.trans {s t u : State} (a : EventOnly s t) (b : EventOnly t u) : EventOnly s u := by
  obtain ⟨e, h, o, rfl⟩ := a
  obtain ⟨e', h', o', rfl⟩ := b
  exact ⟨e', h', o', rfl⟩

theorem irqMessage_eventOnly (p : Port) (i : Nat) (s : State) : EventOnly s (irqMessage p i s) := by
  unfold irqMessage
  split
  · exact (sendMsix_hostOnly ..).eventOnly
  · exact .refl s

theorem setEv_eventOnly (src : Source) (b : Word) (s : State) : EventOnly s (setEv src b s) := by
  have hbit : EventOnly s (s.modEv (·.set (s.ev.get src ||| b) src)) := ⟨_, _, _, rfl⟩
  unfold setEv
  dsimp only
  split
  · exact hbit.trans ((irqMessage_eventOnly ..).trans (irqMessage_eventOnly ..))
  · exact hbit

/-- The check of the guard moves MISMATCH, and its rise is an event. -/
theorem guardCheck_eq (s : State) : ∃ g e h o, guardCheck s = { s with guard := g, ev := e, host := h, out := o } := by
  unfold guardCheck
  dsimp only
  split
  · obtain ⟨e, h, o, heq⟩ := setEv_eventOnly .grd 1
      (s.modGuard fun g => { g with mismatch := g.refValid && !g.pending && g.done && g.crc != g.committed })
    exact ⟨_, e, h, o, heq⟩
  · exact ⟨_, _, _, _, rfl⟩

theorem armGroup_eq (g : Nat) (s : State) : ∃ a e h o, armGroup g s = { s with arms := a, ev := e, host := h, out := o } := by
  unfold armGroup
  dsimp only
  split
  · obtain ⟨e, h, o, heq⟩ := setEv_eventOnly .cfg 0x10000 s
    exact ⟨_, e, h, o, heq⟩
  · exact ⟨_, _, _, _, rfl⟩

theorem armGroups_eq (m : BitVec 11) (s : State) :
    ∃ a e h o, armGroups m s = { s with arms := a, ev := e, host := h, out := o } := by
  unfold armGroups State.each
  generalize groupsOf m = l
  induction l generalizing s with
  | nil => exact ⟨_, _, _, _, rfl⟩
  | cons g l ih =>
    obtain ⟨a, e, h, o, heq⟩ := armGroup_eq g s
    obtain ⟨a', e', h', o', heq'⟩ := ih (armGroup g s)
    exact ⟨a', e', h', o', by rw [List.foldl_cons, heq', heq]⟩

theorem cvuMessages_hostOnly (c : Cvu) (s : State) : HostOnly s (cvuMessages c s) :=
  have hfirst := HostOnly.ite (sendMsix_hostOnly ..) (.refl s)
  .ite (hfirst.trans (sendMsix_hostOnly ..)) hfirst

theorem cvuFinish_eq (n : Nat) (s : State) : ∃ c h o, cvuFinish n s = { s with cvu := c, host := h, out := o } := by
  unfold cvuFinish
  split
  · exact ⟨_, _, _, rfl⟩
  · dsimp only
    repeat' split
    · obtain ⟨h, o, heq⟩ := cvuMessages_hostOnly _ _
      exact ⟨_, h, o, heq⟩
    · exact ⟨_, _, _, rfl⟩
    · exact ⟨_, _, _, rfl⟩

/-- The answer of an owner's access, where what it does leaves a change of the kind wanted. -/
theorem State.byOwner_rec {P : State → State → Prop} {o : Owner} {f : State → State} {s : State} (hf : P s (f s)) (hs : P s s) :
    P s (s.byOwner o f) := by
  unfold State.byOwner State.onlyIf
  split
  · exact hf
  · exact hs

theorem takeSnap_tide (o : Owner) (s : State) : takeSnap o s = { s with tide := (takeSnap o s).tide } := rfl

theorem armBarrier_tide (s : State) : armBarrier s = { s with tide := (armBarrier s).tide } := by
  unfold armBarrier
  split <;> rfl

theorem cancelBarrier_tide (s : State) : cancelBarrier s = { s with tide := (cancelBarrier s).tide } := by
  unfold cancelBarrier
  split <;> rfl

theorem barrierReady_tide {s t : State} (ht : exec .barrierReady s = .next t) : t = { s with tide := t.tide } := by
  simp only [exec, execBarrierReady] at ht
  split at ht <;> cases ht <;> rfl

theorem stepLost_frame {s t : State} (ht : exec .stepLost s = .next t) :
    t = { s with tide := t.tide, ev := t.ev, host := t.host, out := t.out } := by
  simp only [exec, execStepLost] at ht
  split at ht <;> cases ht
  · obtain ⟨e, h, o, heq⟩ := setEv_eventOnly .tide 0x10 (s.modTide fun d => { d with stepState := .lost })
    rw [heq]
    rfl
  · rfl

theorem armGroups_frame (m : BitVec 11) (s : State) : armGroups m s =
    { s with arms := (armGroups m s).arms, ev := (armGroups m s).ev, host := (armGroups m s).host, out := (armGroups m s).out } := by
  obtain ⟨a, e, h, o, heq⟩ := armGroups_eq m s
  rw [heq]

theorem guardCheck_frame (s : State) : guardCheck s =
    { s with guard := (guardCheck s).guard, ev := (guardCheck s).ev, host := (guardCheck s).host, out := (guardCheck s).out } := by
  obtain ⟨g, e, h, o, heq⟩ := guardCheck_eq s
  rw [heq]

theorem guardComputeDone_frame {s t : State} (ht : exec .guardComputeDone s = .next t) :
    t = { s with guard := t.guard, ev := t.ev, host := t.host, out := t.out } := by
  simp only [exec, execGuardComputeDone] at ht
  split at ht <;> cases ht
  · exact guardCheck_frame _
  · rfl

theorem guardCommit_frame (s : State) : guardCommit s =
    { s with guard := (guardCommit s).guard, ev := (guardCommit s).ev, host := (guardCommit s).host, out := (guardCommit s).out } := by
  unfold guardCommit
  split
  · obtain ⟨e, h, o, heq⟩ := setEv_eventOnly .grd 2 s
    rw [heq]
  · exact guardCheck_frame _

theorem cvuFinish_frame (n : Nat) (s : State) : cvuFinish n s =
    { s with cvu := (cvuFinish n s).cvu, host := (cvuFinish n s).host, out := (cvuFinish n s).out } := by
  obtain ⟨c, h, o, heq⟩ := cvuFinish_eq n s
  rw [heq]

/-- Settles O59. -/
theorem registerSideFrame : Obligations.RegisterSideFrame := by
  refine ⟨?_, ?_, ?_, ?_, ?_, ?_, ?_, ?_, ?_, ?_, ?_, ?_, ?_, ?_, fun _ _ => barrierReady_tide, fun _ _ => stepLost_frame, ?_, ?_,
    ?_, fun _ _ => guardComputeDone_frame, ?_⟩
  · rintro s _ readers m ⟨⟩
    exact (answers_hostOnly ..).eq
  · rintro s _ o m v ⟨⟩
    exact (mbxRelease_hostOnly o m v s).eq
  · rintro s _ o m w v ⟨⟩
    exact (mbxAct_hostOnly _ _ _ (State.modHost_hostOnly ..)).eq
  · rintro s _ o m ⟨⟩
    exact (mbxAct_hostOnly _ _ _ (State.modHost_hostOnly ..)).eq
  · rintro s _ readers k ⟨⟩
    exact (answers_hostOnly ..).eq
  · rintro s _ o k v ⟨⟩
    exact releaseSem_host o k v s
  · rintro s _ n ⟨⟩
    rfl
  · rintro s _ n v ⟨⟩
    rfl
  · rintro s _ n v ⟨⟩
    rfl
  · rintro s _ n ⟨⟩
    exact cvuFinish_frame n s
  · rintro s _ o ⟨⟩
    exact State.byOwner_rec (P := fun s t => t = { s with tide := t.tide }) (takeSnap_tide o s) rfl
  · rintro s _ o ⟨⟩
    exact State.byOwner_rec (P := fun s t => t = { s with tide := t.tide }) (armBarrier_tide s) rfl
  · rintro s _ o ⟨⟩
    exact State.byOwner_rec (P := fun s t => t = { s with tide := t.tide }) (cancelBarrier_tide s) rfl
  · rintro s _ o ⟨⟩
    exact State.byOwner_rec (P := fun s t => t = { s with tide := t.tide }) (f := restartEstimator) rfl rfl
  · rintro s _ o g ⟨⟩
    exact State.byOwner_rec (P := fun s t => t = { s with arms := t.arms, ev := t.ev, host := t.host, out := t.out })
      (armGroups_frame g s) rfl
  · rintro s _ o g ⟨⟩
    exact State.byOwner_rec (P := fun s t => t = { s with arms := t.arms, ev := t.ev, host := t.host, out := t.out })
      (f := cancelGroups g) rfl rfl
  · rintro s _ ⟨⟩
    rfl
  · rintro s _ o ⟨⟩
    exact State.byOwner_rec (P := fun s t => t = { s with guard := t.guard, ev := t.ev, host := t.host, out := t.out })
      (guardCommit_frame s) rfl

end Sys2Proof.Machine
end

section
/-! The frame of a step start (R34 to R39, R49): what an accepted start and the apply it may bring never touch, operation by
operation. -/

namespace Sys2Proof.Machine

/-- The state without what a step start may change: the part that its frame speaks of. -/
def State.startRest (s : State) : State :=
  { s with
    tide := .reset, ev := .reset, host := .reset, out := [], applied := .reset, arms := [], guard := .reset, fab := .reset
    egr := .reset, bw := .reset, pwr := .reset, aon := .reset, pmc := .reset
    run := { s.run with accepted := false }
    media := { s.media with map := [] }
    cnt := { s.cnt with egrRetxCnt := 0 } }

/-- Where that part stands, the rest makes up the whole of the change. -/
theorem State.eq_of_startRest {s t : State} (h : t.startRest = s.startRest) : t = { s with
    tide := t.tide, ev := t.ev, host := t.host, out := t.out, applied := t.applied, arms := t.arms, guard := t.guard, fab := t.fab
    egr := t.egr, bw := t.bw, pwr := t.pwr, aon := t.aon, pmc := t.pmc
    run := { s.run with accepted := t.run.accepted }
    media := { s.media with map := t.media.map }
    cnt := { s.cnt with egrRetxCnt := t.cnt.egrRetxCnt } } :=
  congrArg (fun u : State => { u with
    tide := t.tide, ev := t.ev, host := t.host, out := t.out, applied := t.applied, arms := t.arms, guard := t.guard, fab := t.fab
    egr := t.egr, bw := t.bw, pwr := t.pwr, aon := t.aon, pmc := t.pmc
    run := { u.run with accepted := t.run.accepted }
    media := { u.media with map := t.media.map }
    cnt := { u.cnt with egrRetxCnt := t.cnt.egrRetxCnt } }) h

theorem State.each_startRest {α : Type} {f : α → State → State} (h : ∀ a t, (f a t).startRest = t.startRest) (l : List α)
    (s : State) : (s.each l f).startRest = s.startRest := State.each_keeps State.startRest h l s

/-! ### One part of the state -/

@[simp] theorem State.modTide_startRest (f : Tide → Tide) (s : State) : (s.modTide f).startRest = s.startRest := rfl
@[simp] theorem State.modGuard_startRest (f : Guard → Guard) (s : State) : (s.modGuard f).startRest = s.startRest := rfl
@[simp] theorem State.modFab_startRest (f : Fabric → Fabric) (s : State) : (s.modFab f).startRest = s.startRest := rfl
@[simp] theorem State.modEgr_startRest (f : Egress → Egress) (s : State) : (s.modEgr f).startRest = s.startRest := rfl
@[simp] theorem State.modBw_startRest (f : Breakwater → Breakwater) (s : State) : (s.modBw f).startRest = s.startRest := rfl
@[simp] theorem State.modPwr_startRest (f : Power → Power) (s : State) : (s.modPwr f).startRest = s.startRest := rfl
@[simp] theorem State.modConn_startRest (i : Nat) (f : Conn → Conn) (s : State) : (s.modConn i f).startRest = s.startRest := rfl
@[simp] theorem openQuiet_startRest (i : Nat) (s : State) : (openQuiet i s).startRest = s.startRest := rfl
@[simp] theorem wakeBit_startRest (i : Nat) (s : State) : (wakeBit i s).startRest = s.startRest := rfl

/-! ### Events and counts -/

@[simp] theorem setEv_startRest (src : Source) (b : Word) (s : State) : (setEv src b s).startRest = s.startRest := by
  obtain ⟨e, h, o, heq⟩ := setEv_eventOnly src b s
  rw [heq]
  rfl

@[simp] theorem countPerf_startRest (die code : Nat) (s : State) : (countPerf die code s).startRest = s.startRest := by
  unfold countPerf
  split
  · obtain ⟨p, e, heq⟩ := State.modDieCounters_eq die (·.countEvent code) s
    rw [heq]
    rfl
  · rfl

/-! ### Wakes -/

@[simp] theorem sendOnEdges_startRest (n : Nat) (k : FlitKind) (s : State) : (sendOnEdges n k s).startRest = s.startRest := by
  refine State.each_startRest (fun _ _ => ?_) _ s
  rfl

@[simp] theorem exitStepOn_startRest (k n : Nat) (s : State) : (exitStepOn k n s).startRest = s.startRest := by
  unfold exitStepOn
  dsimp only
  split
  · exact sendOnEdges_startRest ..
  · rfl

@[simp] theorem nextExitStep_startRest (s : State) : (nextExitStep s).startRest = s.startRest :=
  State.each_startRest (exitStepOn_startRest _) _ s

@[simp] theorem beginExit_startRest (s : State) : (beginExit s).startRest = s.startRest := by
  unfold beginExit
  dsimp only
  repeat' split
  all_goals simp

@[simp] theorem wake_startRest (i : Nat) (level : Bool) (s : State) : (wake i level s).startRest = s.startRest := by
  unfold wake
  repeat' split
  all_goals simp

/-! ### Links -/

@[simp] theorem goBack_startRest (i : Nat) (s : State) : (goBack i s).startRest = s.startRest := by
  unfold goBack
  split
  · rfl
  · exact State.each_startRest (fun _ _ => countPerf_startRest ..) _ _

@[simp] theorem changePath_startRest (i : Nat) (alt : Bool) (s : State) : (changePath i alt s).startRest = s.startRest := by
  simp [changePath]

@[simp] theorem leaveLink_startRest (m : Nat) (s : State) : (leaveLink m s).startRest = s.startRest := by
  refine State.each_startRest (fun c u => ?_) _ s
  repeat' split
  all_goals simp

@[simp] theorem downLinks_startRest (ms : List Nat) (s : State) : (downLinks ms s).startRest = s.startRest := by
  unfold downLinks
  split
  · rfl
  · simp [State.each_startRest leaveLink_startRest]

@[simp] theorem egressApply_startRest (old : StRegs) (s : State) : (egressApply old s).startRest = s.startRest := by
  simp [egressApply]

/-! ### Sluice lists, caches and operating points -/

@[simp] theorem bwApply_startRest (old : StRegs) (s : State) : (bwApply old s).startRest = s.startRest := rfl

@[simp] theorem sluCycle_startRest (k : Nat) (take : Bool) (t : Int) (s : State) : (sluCycle k take t s).startRest = s.startRest := by
  unfold sluCycle
  split
  · rfl
  · simp only [apply_ite State.startRest, setEv_startRest, State.modBw_startRest, ite_self]

@[simp] theorem sluApply_startRest (immediate : Bool) (old : StRegs) (s : State) :
    (sluApply immediate old s).startRest = s.startRest := by
  refine State.each_startRest (fun k t => ?_) _ s
  dsimp only
  repeat' split
  all_goals simp

@[simp] theorem sluStepStart_startRest (t0 : Int) (s : State) : (sluStepStart t0 s).startRest = s.startRest := by
  refine State.each_startRest (fun k t => ?_) _ s
  repeat' split
  all_goals simp

/-- A spilled sample that is dropped gives its units back: the map alone changes of the media. -/
@[simp] theorem keepSpill_startRest (n : Nat) (keep : List CacheEntry → List CacheEntry) (s : State) :
    (keepSpill n keep s).startRest = s.startRest := by
  unfold keepSpill
  split <;> rfl

@[simp] theorem updateThrottle_startRest (s : State) : (updateThrottle s).startRest = s.startRest := by
  unfold updateThrottle
  dsimp only
  split <;> simp

@[simp] theorem opSettle_startRest (s : State) : (opSettle s).startRest = s.startRest := by
  unfold opSettle
  split
  · simp
  · rfl

@[simp] theorem opRetarget_startRest (s : State) : (opRetarget s).startRest = s.startRest := by
  unfold opRetarget
  dsimp only
  split <;> simp

/-! ### The apply -/

@[simp] theorem timeSourceApply_startRest (old : Word) (s : State) : (timeSourceApply old s).startRest = s.startRest := by
  unfold timeSourceApply
  dsimp only
  split <;> rfl

@[simp] theorem groupEffect_startRest (g : Nat) (old : StRegs) (s : State) : (groupEffect g old s).startRest = s.startRest := by
  unfold groupEffect
  split
  case h_2 =>
    dsimp only
    split <;> simp [State.each_startRest fun n t => keepSpill_startRest n _ t]
  all_goals simp

@[simp] theorem guardCheck_startRest (s : State) : (guardCheck s).startRest = s.startRest := by
  obtain ⟨g, e, h, o, heq⟩ := guardCheck_eq s
  rw [heq]
  rfl

@[simp] theorem guardApply_startRest (s : State) : (guardApply s).startRest = s.startRest := by
  simp [guardApply]

/-- The copy itself changes the applied registers and the arms. -/
theorem copied_startRest (a : StRegs) (arms : List Arm) (s : State) : { s with applied := a, arms := arms }.startRest = s.startRest :=
  rfl

@[simp] theorem applyGroups_startRest (gs : List Nat) (s : State) : (applyGroups gs s).startRest = s.startRest := by
  have heffects (old : StRegs) (u : State) : (u.each gs fun g => groupEffect g old).startRest = u.startRest :=
    State.each_startRest (fun g t => groupEffect_startRest g old t) gs u
  unfold applyGroups
  dsimp only
  repeat' split
  all_goals simp [heffects, copied_startRest]

@[simp] theorem takeBoundaries_startRest (due : Arm → Bool) (s : State) : (takeBoundaries due s).startRest = s.startRest := by
  simp only [takeBoundaries, applyGroups_startRest]
  split <;> simp

/-! ### The start -/

theorem accepted_startRest (s : State) : (s.modRun fun r => { r with accepted := true }).startRest = s.startRest := rfl

@[simp] theorem acceptStart_startRest (step : Nat) (t : Int) (interval : Option Nat) (restart : Bool) (seq : Option Nat) (evt : Word)
    (s : State) : (acceptStart step t interval restart seq evt s).startRest = s.startRest := by
  simp [acceptStart, accepted_startRest]

@[simp] theorem rejectMark_startRest (s : State) : (rejectMark s).startRest = s.startRest := by
  simp [rejectMark]

@[simp] theorem judge_startRest (step : Nat) (t : Int) (restart : Bool) (seq : Option Nat) (s : State) :
    (judge step t restart seq s).startRest = s.startRest := by
  unfold judge
  dsimp only
  repeat' split
  all_goals simp

@[simp] theorem restartEstimator_startRest (s : State) : (restartEstimator s).startRest = s.startRest := rfl

@[simp] theorem receiveMark_startRest (ok : Bool) (msg : List Byte) (rx : Nat) (s : State) :
    (receiveMark ok msg rx s).startRest = s.startRest := by
  unfold receiveMark
  dsimp only
  repeat' split
  all_goals simp

@[simp] theorem releaseBarrier_startRest (t : Int) (s : State) : (releaseBarrier t s).startRest = s.startRest := by
  simp [releaseBarrier]

theorem stepMarkDatagram_startRest {d : MarkDatagram} {s t : State} (h : exec (.stepMarkDatagram d) s = .next t) :
    t.startRest = s.startRest := by
  simp only [exec, execStepMarkDatagram] at h
  split at h <;> cases h
  · exact receiveMark_startRest ..
  · rfl

theorem syncInEdge_startRest {c : Dword} {b : Bool} {s t : State} (h : exec (.syncInEdge c b) s = .next t) :
    t.startRest = s.startRest := by
  simp only [exec, execSyncInEdge] at h
  repeat' split at h
  all_goals
    cases h
    simp

theorem markPairWindowExpiry_startRest {s t : State} (h : exec .markPairWindowExpiry s = .next t) : t.startRest = s.startRest := by
  simp only [exec, execMarkPairWindowExpiry] at h
  split at h <;> cases h
  · simp
  · simp
  · rfl

/-- Settles O60. -/
theorem stepStartFrame : Obligations.StepStartFrame :=
  ⟨fun _ _ _ h => State.eq_of_startRest (stepMarkDatagram_startRest h),
    fun _ _ _ _ h => State.eq_of_startRest (syncInEdge_startRest h),
    fun _ _ h => State.eq_of_startRest (markPairWindowExpiry_startRest h)⟩

end Sys2Proof.Machine
end

section
/-! The flits of a Slipway edge (R16 to R18, R440, R441, R486). -/

namespace Sys2Proof.Machine

/-- A flit that arrives moves the arrival count of its class and pair. -/
theorem arriveFlit_eq (c : TrafficClass) (src dst place : Nat) (s : State) :
    ∃ fl, arriveFlit c src dst place s = { s with fab := { s.fab with flits := fl } } := by
  unfold arriveFlit
  split
  · exact ⟨_, rfl⟩
  · exact ⟨_, rfl⟩

/-- A flit that goes on is put out. -/
theorem forwardFlit_eq (here dst : Nat) (k : FlitKind) (s : State) : ∃ o, forwardFlit here dst k s = { s with out := o } := by
  unfold forwardFlit
  split
  · cases edgeBetween here _ with
    | none => exact ⟨_, rfl⟩
    | some e => exact ⟨_, rfl⟩
  · exact ⟨_, rfl⟩

section
variable {s : State} {e : Fin 42} {low : Bool} {k : FlitKind} (htest : testsEdge e s = false)
  (hclamp : s.clamped (if low then (edgeEnds e).1 else (edgeEnds e).2) = false)
include htest hclamp

/-- A flit with a bad CRC is an error of the edge's die. -/
theorem exec_slipwayFlitRx_bad : exec (.slipwayFlitRx e low k false) s =
    .next (countCorrected (edgeEnds e).1 (countPerf (edgeEnds e).1 0x903 s)) := by
  simp [exec, execSlipwayFlitRx, htest, hclamp]

/-- A good flit without traffic does what its edge hears. -/
theorem exec_slipwayFlitRx_sideband (hk : k = .idle ∨ k = .park ∨ k = .unpark) :
    exec (.slipwayFlitRx e low k true) s = .next (s.modEdge e (Edge.hear low k s.mono)) := by
  rcases hk with rfl | rfl | rfl <;> simp [exec, execSlipwayFlitRx, htest, hclamp]

/-- Good traffic arrives or goes on. -/
theorem exec_slipwayFlitRx_traffic (c : TrafficClass) (src dst : Fin 12) (place : Nat) :
    exec (.slipwayFlitRx e low (.traffic c src dst place) true) s =
      .next (if (if low then (edgeEnds e).2 else (edgeEnds e).1) = (dst : Nat)
        then arriveFlit c src dst place (s.modEdge e (Edge.hear low (.traffic c src dst place) s.mono))
        else forwardFlit (if low then (edgeEnds e).2 else (edgeEnds e).1) dst (.traffic c src dst place)
          (s.modEdge e (Edge.hear low (.traffic c src dst place) s.mono))) := by
  simp [exec, execSlipwayFlitRx, htest, hclamp]

/-- A good flit of any kind: its edge hears it, and beside that only the arrival counts and the output may move. -/
theorem exec_slipwayFlitRx_good : ∃ fl o, exec (.slipwayFlitRx e low k true) s = .next { s with
    fab := { s.fab with edges := updAt s.fab.edges e (Edge.hear low k s.mono), flits := fl }, out := o } := by
  cases k with
  | traffic c src dst place =>
    rw [exec_slipwayFlitRx_traffic htest hclamp]
    generalize (if low then (edgeEnds e).2 else (edgeEnds e).1) = here
    split
    · obtain ⟨fl, heq⟩ := arriveFlit_eq c src dst place (s.modEdge e (Edge.hear low (.traffic c src dst place) s.mono))
      exact ⟨fl, _, congrArg Host.Outcome.next heq⟩
    · obtain ⟨o, heq⟩ := forwardFlit_eq here dst (.traffic c src dst place)
        (s.modEdge e (Edge.hear low (.traffic c src dst place) s.mono))
      exact ⟨_, o, congrArg Host.Outcome.next heq⟩
  | idle => exact ⟨_, _, exec_slipwayFlitRx_sideband htest hclamp (.inl rfl)⟩
  | park => exact ⟨_, _, exec_slipwayFlitRx_sideband htest hclamp (.inr (.inl rfl))⟩
  | unpark => exact ⟨_, _, exec_slipwayFlitRx_sideband htest hclamp (.inr (.inr rfl))⟩

end

/-- After an arrival the count of its class and pair is one higher, every other as before. -/
theorem arrived_cons (f : Fabric) (c c' : TrafficClass) (src dst a b n : Nat) :
    Fabric.arrived { f with flits := ((c, src, dst), n) :: f.flits.filter (·.1 != (c, src, dst)) } c' a b =
      if (c', a, b) = (c, src, dst) then n else f.arrived c' a b := by
  by_cases h : (c', a, b) = (c, src, dst)
  · simp [Fabric.arrived, h]
  · have hne : ((c, src, dst) == (c', a, b)) = false := by simpa using Ne.symm h
    have hkeep : ∀ x : (TrafficClass × Nat × Nat) × Nat, (x.1 == (c', a, b)) = true → (x.1 != (c, src, dst)) = true := by
      rintro x hx
      rw [bne_iff_ne, eq_of_beq hx]
      exact h
    simp only [Fabric.arrived, List.find?_cons, hne, if_neg h]
    rw [List.find?_filter]
    congr 3
    funext x
    cases hx : x.1 == (c', a, b) with
    | false => simp
    | true => simp [hkeep x hx]

theorem arriveFlit_in_place {c : TrafficClass} {src dst place : Nat} {s : State} (h : place = s.fab.arrived c src dst) :
    arriveFlit c src dst place s =
      s.modFab fun f => { f with flits := ((c, src, dst), place + 1) :: f.flits.filter (·.1 != (c, src, dst)) } :=
  if_pos h

/-- The next edge of a route carries the flit on. -/
theorem forwardFlit_of_route {s : State} {here dst m x : Nat} {rest : List Nat} (k : FlitKind)
    (hroute : s.fab.route here dst = some (here :: m :: rest)) (hedge : edgeBetween here m = some x) :
    forwardFlit here dst k s = s.emit (.flit x (decide (here < m)) k) := by
  simp [forwardFlit, hroute, hedge]

/-- Settles O1. -/
theorem slipwayFlits : Obligations.SlipwayFlits := by
  refine ⟨fun s e low k htest hclamp => ?_, fun s e low k htest hclamp hk => ⟨_, exec_slipwayFlitRx_sideband htest hclamp hk, rfl, rfl⟩,
    fun s e low c src dst htest hclamp hend => ?_, fun s e low c src dst place here m x rest htest hclamp hend hne hroute hedge => ?_,
    fun s e low k htest hclamp => ⟨_, exec_slipwayFlitRx_bad htest hclamp, ?_⟩, fun s e low k ok h => if_pos h,
    fun s e low x hx hpark hclamp hup => ?_⟩
  · obtain ⟨fl, o, heq⟩ := exec_slipwayFlitRx_good (k := k) htest hclamp
    exact ⟨_, heq, rfl, rfl, rfl⟩
  · refine ⟨_, exec_slipwayFlitRx_traffic htest hclamp c src dst _, ?_⟩
    rw [if_pos hend, arriveFlit_in_place (place := s.fab.arrived c src dst) (s := s.modEdge e (Edge.hear low _ s.mono)) rfl]
    refine ⟨rfl, ?_, fun c' a b hne => ?_⟩
    · exact (arrived_cons _ c c src dst src dst _).trans (if_pos rfl)
    · refine (arrived_cons _ c c' src dst a b _).trans (if_neg fun h => hne ?_)
      simpa [Fin.val_inj] using h
  · refine ⟨_, exec_slipwayFlitRx_traffic htest hclamp c src dst place, ?_⟩
    rw [hend, if_neg hne,
      forwardFlit_of_route (s := s.modEdge e (Edge.hear low (.traffic c src dst place) s.mono)) _ hroute hedge]
    exact ⟨rfl, rfl⟩
  · have hcounts := countCorrected_counts (edgeEnds e).1 (countPerf (edgeEnds e).1 0x903 s)
    simp only [Health.counts, Prod.mk.injEq, countPerf_hlth, countPerf_aon] at hcounts
    obtain ⟨hcorr, -, -, -, hcorrections, -⟩ := hcounts
    exact ⟨hcorr, hcorrections, by simp⟩
  · simp [exec, execIdleFlitTimer, State.edgeWhere, hx, hpark, hclamp, hup, State.emit]

end Sys2Proof.Machine
end

section
/-! Edges judged silent, and the apply of a home-map rewrite (R17, R20, R27 to R29). -/

namespace Sys2Proof.Machine

/-- Nothing to do over an empty list, and nothing where no pass does anything. -/
@[simp] theorem State.each_nil {α : Type} (f : α → State → State) (s : State) : s.each [] f = s := rfl

theorem State.each_cons {α : Type} (a : α) (l : List α) (f : α → State → State) (s : State) : s.each (a :: l) f = (f a s).each l f :=
  rfl

theorem State.each_id {α : Type} {l : List α} {f : α → State → State} {s : State} (h : ∀ a ∈ l, f a s = s) : s.each l f = s := by
  induction l with
  | nil => rfl
  | cons a l ih =>
    obtain ⟨ha, hl⟩ := List.forall_mem_cons.mp h
    rw [State.each_cons, ha, ih hl]

theorem State.each_map {α β : Type} (g : α → β) (l : List α) (f : β → State → State) (s : State) :
    s.each (l.map g) f = s.each l fun a => f (g a) := List.foldl_map

/-- The model judges the edges by their numbers. -/
theorem filter_silent_eq (s : State) (es : List (Fin 42)) :
    ((do let a ← es; pure (a : Nat)) : List Nat).filter (fun e => s.edgeWhere (Edge.silent s.mono) e && !testsEdge e s) =
      (silentOf es s).map Fin.val := by
  have hmap : ((do let a ← es; pure (a : Nat)) : List Nat) = es.map Fin.val := List.flatMap_pure_eq_map ..
  rw [hmap, List.filter_map]
  rfl

theorem exec_edgeSilenceTimeout (s : State) (es : List (Fin 42)) : exec (.edgeSilenceTimeout es) s =
    .next (edgesReported (silentOf es s)
      ((edgesDown es s).each ((List.range 12).filter fun d => dieSilent d (edgesDown es s)) loseDie)) := by
  simp only [exec, execEdgeSilenceTimeout, filter_silent_eq, State.each_map]
  rfl

/-- Where every die keeps an edge, none is lost. -/
theorem filter_dieSilent_nil {s : State} (h : ∀ d < 12, dieSilent d s = false) : (List.range 12).filter (fun d => dieSilent d s) = [] :=
  List.filter_eq_nil_iff.mpr fun d hd => by simp [h d (List.mem_range.mp hd)]

/-! ### The rewrite of the home map -/

/-- The maps as a rewrite leaves them. -/
def rewritten (lost : Nat) (serving : List Nat) (rest : List (Nat × List Nat)) (s : State) : State :=
  s.modFab fun f => { f with rewrites := rest, homeMap := rewriteMap lost serving 0 f.homeMap, homes := serving }

/-- A batch whose home is lost, or serves no longer. -/
def homeGone (lost : Nat) (s : State) (b : Batch) : Bool := b.home == lost || !s.serving b.home

theorem any_homeGone_false {lost : Nat} {s : State} (h : ∀ b ∈ s.run.batches, b.home ≠ lost ∧ s.serving b.home = true) (p : Batch → Bool) :
    (s.run.batches.any fun b => p b && homeGone lost s b) = false := by
  rw [List.any_eq_false]
  intro b hb
  simp [homeGone, h b hb]

/-- What becomes of a batch: it starts over at its new home, or goes on there. -/
def rehomeBatch (lost : Nat) (serving : List Nat) (s : State) (b : Batch) : Batch :=
  if homeGone lost s b then b.startOver (serving.getD (b.num % serving.length) 0)
  else { b with home := serving.getD (b.num % serving.length) 0 }

/-- A batch is one of those that start over. -/
def startsOver (lost : Nat) (s : State) (b : Batch) : Bool :=
  s.run.batches.any fun x => x.stream == b.stream && x.num == b.num && homeGone lost s x

/-- Where no batch has lost its home and no request its SPD, every batch takes its home by the new list and all requests go on. -/
theorem exec_homeMapApply_quiet {s : State} {lost : Nat} {serving : List Nat} {rest : List (Nat × List Nat)}
    (hrw : s.fab.rewrites = (lost, serving) :: rest) (hbatch : ∀ b ∈ s.run.batches, b.home ≠ lost ∧ s.serving b.home = true)
    (hreq : ∀ r ∈ s.run.requests, r.spd ≠ lost) :
    exec .homeMapApply s = .next ((rewritten lost serving rest s).modRun fun x =>
      { x with batches := x.batches.map fun b => { b with home := serving.getD (b.num % serving.length) 0 } }) := by
  have hmap : s.run.batches.map (rehomeBatch lost serving s) =
      s.run.batches.map fun b => { b with home := serving.getD (b.num % serving.length) 0 } :=
    List.map_congr_left fun b hb => by simp [rehomeBatch, homeGone, hbatch b hb]
  have hrequests (f g : Request → State → State) (c : State) : (c.each s.run.requests fun r u =>
      if (s.run.batches.any fun b => (b.stream == (r.key.stream : Nat) && b.num == r.key.batch) && homeGone lost s b) then f r u
      else if r.spd = lost then g r u else u) = c :=
    State.each_id fun r hr => by simp [any_homeGone_false hbatch, hreq r hr]
  have hnone (l : List Batch) : l.filter (startsOver lost s) = [] :=
    List.filter_eq_nil_iff.mpr fun b _ => by simp [startsOver, any_homeGone_false hbatch]
  simp only [exec, execHomeMapApply, hrw]
  refine congrArg Host.Outcome.next ?_
  calc State.each _ _ _ = State.each [] _ _ := congrArg (fun l => State.each l _ _) (hnone _)
    _ = _ := hrequests _ _ _
    _ = _ := congrArg (fun l => (rewritten lost serving rest s).modRun fun x => { x with batches := l }) hmap

/-- The one batch of the device, whose home was lost, starts over at its new home and its slots enter again. -/
theorem exec_homeMapApply_rerun {s : State} {lost : Nat} {serving : List Nat} {rest : List (Nat × List Nat)} {b : Batch} {t : Stream}
    {p : Partition} (hrw : s.fab.rewrites = (lost, serving) :: rest) (hbatch : s.run.batches = [b]) (hhome : b.home = lost)
    (hreq : s.run.requests = []) (ht : s.stream? b.stream = some t) (hp : s.partFor t = some p) :
    exec .homeMapApply s = .next (enterSlots t p (b.startOver (serving.getD (b.num % serving.length) 0))
      ((rewritten lost serving rest s).modRun fun x =>
        { x with batches := [b.startOver (serving.getD (b.num % serving.length) 0)] })) := by
  have hgone : homeGone lost s b = true := by simp [homeGone, hhome]
  let n := b.startOver (serving.getD (b.num % serving.length) 0)
  let u := (rewritten lost serving rest s).modRun fun x => { x with batches := [n] }
  have hmap : ((rewritten lost serving rest s).modRun fun x => { x with batches := x.batches.map (rehomeBatch lost serving s) }) = u := by
    simp [State.modRun, rewritten, hbatch, hgone, rehomeBatch, u, n]
  have hagain : [n].filter (startsOver lost s) = [n] := by simp [startsOver, hbatch, hgone, n, Batch.startOver]
  have hstream : u.stream? n.stream = some t := ht
  have hpart : u.partFor t = some p := hp
  simp only [exec, execHomeMapApply, hrw]
  refine congrArg Host.Outcome.next ?_
  rw [hreq]
  calc State.each _ _ _ = State.each (u.run.batches.filter (startsOver lost s)) _ u := by rw [← hmap]; rfl
    _ = State.each [n] _ u := congrArg (fun l => State.each l _ u) hagain
    _ = enterSlots t p n u := by simp only [State.each_cons, State.each_nil, hstream, hpart]

/-- Settles O2. -/
theorem edgesAndHomes : Obligations.EdgesAndHomes := by
  refine ⟨fun s es hkeep => ?_, exec_edgeSilenceTimeout, fun s lost serving rest hrw hbatch hreq => exec_homeMapApply_quiet hrw hbatch hreq,
    fun s lost serving rest b t p hrw hbatch hhome hreq ht hp => exec_homeMapApply_rerun hrw hbatch hhome hreq ht hp⟩
  rw [exec_edgeSilenceTimeout, filter_dieSilent_nil hkeep, State.each_nil]

end Sys2Proof.Machine
end

section
/-! The time sources (R32, R33): Sync messages of the two ports, PPS edges, and the losses and returns of a source. -/

namespace Sys2Proof.Machine

/-! ### Sync messages -/

/-- What a Sync message does that the clock takes: it enters the counts of its port, and from there the state of time decides. -/
def syncTaken (alt : Bool) (offset : Int) (s : State) : State :=
  let t := s.modTide (·.judgeSync alt offset s.mono)
  let locked := ptpLocked (if alt then t.tide.lockAlt else t.tide.lockPrimary)
  if s.tide.timeState = .holdover then
    if locked && !(alt && s.tide.primaryMayLead s.mono) then leaveHoldover alt offset s.tide.onAlt t else t
  else if alt = s.tide.onAlt then
    if s.tide.timeState = .locked ∧ (1000 < offset ∨ offset < -1000) then losePtp (t.modTide fun d => { d with offset := satOffset offset })
    else disciplineTime offset (t.modTide fun d =>
      { d with timeState := if locked then .locked else if d.timeState = .locked then .locked else .acquiring })
  else t

/-- The message comes on the primary port, or on the alternative in use. -/
theorem exec_ptpSyncRx_of_takes {s : State} {port : Fin 8} {m : PtpSync} {alt : Bool} (hsrc : s.timeSrc = 1) (htakes : s.takesSync m = true)
    (hport : if alt then s.ptpPort ≠ port ∧ s.ptpAltEn = true ∧ s.ptpAlt = port else s.ptpPort = port) :
    exec (.ptpSyncRx port m) s = .next (syncTaken alt m.offset s) := by
  have hrefuse : ¬ (s.timeSrc ≠ 1 ∨ !s.takesSync m ∨ (¬ s.ptpPort = port ∧ ¬ (s.ptpAltEn ∧ s.ptpAlt = port))) := by
    cases alt <;> simp_all
  have halt : (!decide (s.ptpPort = port)) = alt := by cases alt <;> simp_all
  simp only [exec, execPtpSyncRx, if_neg hrefuse, halt, syncTaken]
  repeat' split
  all_goals rfl

theorem ite_syncFresh (last : Option Nat) (up n : Nat) : (if syncFresh last up then n else 0) =
    match last with | some l => if up < l + 3000000000 then n else 0 | none => 0 := by
  cases last with
  | none => rfl
  | some l => by_cases hup : up < l + 3000000000 <;> simp [syncFresh, hup]

/-- The counts of a port with its lock as R33 gives them. -/
theorem judgeSync_counts (d : Tide) (off : Int) (up : Nat) :
    (d.judgeSync false off up).lockPrimary = (if -100 ≤ off ∧ off ≤ 100 then
        min 16 ((match d.lastSyncPrimary with | some l => if up < l + 3000000000 then d.lockPrimary else 0 | none => 0) + 1) else 0) ∧
      (d.judgeSync false off up).lastSyncPrimary = some up ∧ (d.judgeSync true off up).lastSyncAlt = some up ∧
      (d.judgeSync true off up).lockAlt = (if -100 ≤ off ∧ off ≤ 100 then
        min 16 ((match d.lastSyncAlt with | some l => if up < l + 3000000000 then d.lockAlt else 0 | none => 0) + 1) else 0) := by
  rw [← ite_syncFresh, ← ite_syncFresh]
  simp [Tide.judgeSync]

/-- The state of time that a message on the port in use leaves, in the two ways of writing it. -/
theorem syncState_eq (lock : Nat) (ts : TimeState) :
    (if ptpLocked lock then TimeState.locked else if ts = .locked then .locked else .acquiring) =
      if 16 ≤ lock ∨ ts = .locked then .locked else .acquiring := by
  by_cases h : 16 ≤ lock <;> simp [ptpLocked, h]

theorem syncTaken_in_use {alt : Bool} {offset : Int} {s : State} (hhold : s.tide.timeState ≠ .holdover) (halt : s.tide.onAlt = alt)
    (hshort : ¬ (s.tide.timeState = .locked ∧ (1000 < offset ∨ offset < -1000))) : syncTaken alt offset s =
      disciplineTime offset (s.modTide fun d =>
        let j := d.judgeSync alt offset s.mono
        { j with timeState :=
            if 16 ≤ (if alt then j.lockAlt else j.lockPrimary) ∨ s.tide.timeState = .locked then .locked else .acquiring }) := by
  unfold syncTaken
  simp only [if_neg hhold, if_pos halt.symm, if_neg hshort, ← syncState_eq]
  cases alt <;> rfl

theorem syncTaken_lost {alt : Bool} {offset : Int} {s : State} (hlocked : s.tide.timeState = .locked) (halt : s.tide.onAlt = alt)
    (hoff : 1000 < offset ∨ offset < -1000) : syncTaken alt offset s =
      losePtp (s.modTide fun d => { d.judgeSync alt offset s.mono with offset := satOffset offset }) := by
  simp only [syncTaken, hlocked, if_pos halt.symm, hoff]
  rfl

theorem syncTaken_not_in_use {alt : Bool} {offset : Int} {s : State} (hhold : s.tide.timeState ≠ .holdover) (halt : s.tide.onAlt ≠ alt) :
    syncTaken alt offset s = s.modTide (·.judgeSync alt offset s.mono) := by
  simp only [syncTaken, if_neg hhold, if_neg halt.symm]

/-- Holdover ends on the primary port with the message that completes sixteen. -/
theorem syncTaken_holdover {offset : Int} {s : State} (hhold : s.tide.timeState = .holdover)
    (hlock : (s.tide.judgeSync false offset s.mono).lockPrimary = 16) : syncTaken false offset s =
      leaveHoldover false offset s.tide.onAlt (s.modTide (·.judgeSync false offset s.mono)) := by
  simp [syncTaken, hhold, ptpLocked, hlock]

/-! ### Losses -/

theorem losePtp_holdover {s : State} (h : s.tide.onAlt = true ∨ s.ptpAltEn = false ∨ syncFresh s.tide.lastSyncAlt s.tide.uptime = false) :
    losePtp s = setEv .tide 0x20 { s with tide := { s.tide.unlock s.tide.onAlt with timeState := .holdover } } := by
  have hno : ¬ (!s.tide.onAlt && s.ptpAltEn && syncFresh s.tide.lastSyncAlt s.mono) = true := by
    rcases h with h | h | h <;> simp [State.mono, h]
  exact if_neg hno

theorem losePtp_failover {s : State} (honAlt : s.tide.onAlt = false) (hen : s.ptpAltEn = true)
    (hfresh : syncFresh s.tide.lastSyncAlt s.tide.uptime = true) :
    losePtp s = setEv .tide 0x40 { s with tide := { s.tide with
      onAlt := true, lockPrimary := 0, primarySince := none, sourceSince := s.tide.uptime } } := by
  simp [losePtp, State.mono, honAlt, hen, hfresh, Tide.unlock, State.modTide]

/-- The source in use is PTP and has been silent for 3 s. -/
theorem exec_timeSourceLost_ptp {s : State} (hsrc : s.timeSrc = 1) (hheld : s.tide.timeState = .locked ∨ s.tide.timeState = .acquiring)
    (hsilent : syncFresh (if s.tide.onAlt then s.tide.lastSyncAlt else s.tide.lastSyncPrimary) s.tide.uptime = false)
    (hsince : s.tide.sourceSince + 3000000000 ≤ s.tide.uptime) : exec .timeSourceLost s = .next (losePtp s) := by
  have hquiet : (!syncFresh (if s.tide.onAlt then s.tide.lastSyncAlt else s.tide.lastSyncPrimary) s.tide.uptime) = true := by
    rw [hsilent, Bool.not_false]
  exact (if_pos ⟨hsrc, hheld⟩).trans (if_pos ⟨hquiet, hsince⟩)

/-! ### PPS -/

theorem satOffset_ppsOffset (c : Nat) : satOffset (ppsOffset c) =
    if c % 10 ^ 9 < 5 * 10 ^ 8 then -(c % 10 ^ 9 : Int) else 10 ^ 9 - (c % 10 ^ 9 : Int) := by
  have h9 : (10 : Nat) ^ 9 = 1000000000 := by norm_num
  have h8 : 5 * (10 : Nat) ^ 8 = 500000000 := by norm_num
  have hi : (10 : Int) ^ 9 = 1000000000 := by norm_num
  rw [h9, h8, hi]
  unfold satOffset ppsOffset
  dsimp only
  by_cases h : c % 1000000000 < 500000000
  · rw [if_pos h, if_pos (by omega)]
    omega
  · rw [if_neg h, if_neg (by omega)]
    omega

theorem ppsGood_eq (last : Option Nat) (c : Nat) :
    ((last.map fun l => decide (-1000 ≤ (c : Int) - l - 1000000000 ∧ (c : Int) - l - 1000000000 ≤ 1000)).getD false) =
      match last with | some l => decide (999999000 ≤ (c : Int) - l ∧ (c : Int) - l ≤ 1000001000) | none => false := by
  cases last with
  | none => rfl
  | some l =>
    refine decide_eq_decide.mpr ?_
    omega

/-- Settles O3. -/
theorem timeSources : Obligations.TimeSources := by
  refine ⟨?_, ?_, ?_, ?_, judgeSync_counts, ?_, ?_, ?_, ?_, ?_⟩
  · intro s port m alt hsrc htakes hport hhold halt hshort
    refine ⟨_, exec_ptpSyncRx_of_takes hsrc htakes hport, ?_⟩
    rw [syncTaken_in_use hhold halt hshort]
    cases alt <;> rfl
  · intro s port m hsrc htakes hport hlocked honAlt hoff
    rw [exec_ptpSyncRx_of_takes (alt := false) hsrc htakes hport, syncTaken_lost hlocked honAlt hoff]
    rfl
  · intro s port m hsrc htakes hport hen halt hhold honAlt
    rw [exec_ptpSyncRx_of_takes (alt := true) hsrc htakes ⟨hport, hen, halt⟩, syncTaken_not_in_use hhold (by simp [honAlt])]
    rfl
  · rintro s port m hsrc htakes hport hhold h15 ⟨l, hl, hlt⟩ hlo hhi
    have hlock : (s.tide.judgeSync false m.offset s.mono).lockPrimary = 16 := by
      simp [(judgeSync_counts _ _ _).1, hl, State.mono, hlt, hlo, hhi, h15]
    refine ⟨_, exec_ptpSyncRx_of_takes (alt := false) hsrc htakes hport, ?_⟩
    rw [syncTaken_holdover hhold hlock]
    exact ⟨rfl, rfl, hlock, rfl, rfl, rfl⟩
  · rintro s _ hsrc hheld rfl hsilent hsince hno
    rw [exec_timeSourceLost_ptp hsrc hheld hsilent hsince, losePtp_holdover hno]
    cases s.tide.onAlt <;> rfl
  · intro s hsrc hheld honAlt hsilent hsince hen hfresh
    rw [exec_timeSourceLost_ptp hsrc hheld (by rwa [honAlt]) hsince, losePtp_failover honAlt hen hfresh]
  · intro s hsrc hheld hheard hsince
    have hmax : max s.tide.ppsHeard s.tide.sourceSince + 1500000000 ≤ s.mono := by
      show _ ≤ s.tide.uptime
      omega
    have hptp : ¬ (s.timeSrc = 1 ∧ (s.tide.timeState = .locked ∨ s.tide.timeState = .acquiring)) := by simp [hsrc]
    exact (if_neg hptp).trans (if_pos ⟨hsrc, hheld, hmax⟩)
  · intro s t0 hsrc hen honAlt hlead hsince hfresh
    have hreturn : s.timeSrc = 1 ∧ s.ptpAltEn ∧ s.tide.onAlt ∧ t0 + 60000000000 ≤ s.mono ∧ syncFresh s.tide.lastSyncPrimary s.mono :=
      ⟨hsrc, hen, honAlt, hsince, hfresh⟩
    rw [exec, execPtpFailback, hlead]
    exact if_pos hreturn
  · intro s c hsrc
    refine ⟨_, if_neg (by simp [hsrc]), ?_⟩
    simp only [disciplineTime, ppsGood_eq, satOffset_ppsOffset]
    rfl

end Sys2Proof.Machine
end

section
/-! The control of the Tide (R38, R40, R41, R50, R57), peers asked again or given up (R74), and defects that become durable
(R78, R84, R103). -/

namespace Sys2Proof.Machine

/-! ### Tide control -/

theorem exec_tideSnap_of_heard {o : Owner} {s : State} (h : s.heard o = true) : exec (.tideSnap o) s = .next (takeSnap o s) :=
  congrArg Host.Outcome.next (State.byOwner_of_heard _ h)

theorem exec_tideCancel_of_heard {o : Owner} {s : State} (h : s.heard o = true) : exec (.tideCancel o) s = .next (cancelBarrier s) :=
  congrArg Host.Outcome.next (State.byOwner_of_heard _ h)

theorem exec_tideArm_of_heard {o : Owner} {s : State} (h : s.heard o = true) : exec (.tideArm o) s = .next (armBarrier s) :=
  congrArg Host.Outcome.next (State.byOwner_of_heard _ h)

/-- Settles O5. -/
theorem tideControl_completes : Obligations.TideControl := by
  refine ⟨fun s => ⟨exec_tideSnap_of_heard, exec_tideSnap_of_heard, exec_tideSnap_of_heard, exec_tideSnap_of_heard, rfl⟩,
    fun s o ho hb => ?_, fun s o ho hb => ?_, fun s o => exec_tideRestartEst_of_heard, fun s hb hacked => ?_,
    fun s hs hlost => if_pos ⟨hs, hlost⟩⟩
  · rw [exec_tideCancel_of_heard ho, cancelBarrier, if_neg hb]
    rfl
  · rw [exec_tideArm_of_heard ho, armBarrier, if_pos hb]
    rfl
  · have hall : s.run.batches.all (fun b => b.dlStep != s.startStep || b.headerAcked) = true := by
      rw [List.all_eq_true]
      intro b hbm
      by_cases hstep : b.dlStep = s.startStep <;> simp [hstep, hacked b hbm]
    exact if_pos ⟨hb, hall⟩

/-! ### Peers and defects -/

/-- Settles O7. -/
theorem peersAndDefects : Obligations.PeersAndDefects := by
  refine ⟨?_, ?_, ?_, fun s slot i g hqs => if_pos hqs⟩
  · rintro s k r t d ⟨hreq, -, hstream, hpart⟩ hphase hidx hsince
    simp only [exec, execPeerRoundRetry, hreq, hstream, hpart]
    exact if_pos ⟨hphase, hidx, hsince⟩
  · intro s k r b z hreq hbatch hlatest hphase hstrict hrerun hz hwr
    simp only [exec, execPeerReadGiveUp, hreq, hbatch, hlatest]
    exact if_pos ⟨hphase, by simp [hstrict], by simp [hrerun], hz, by simp [hwr]⟩
  · intro s slot i g hqs
    exact if_neg (by simp [hqs])

end Sys2Proof.Machine
end

section
/-! Step starts (R34 to R41, R45, R51, R52): what an accepted start leaves where no group is armed, and what marks, edges and passed
pairing windows judge. -/

namespace Sys2Proof.Machine

/-! ### An accepted start with nothing armed -/

/-- What the list cycles and the wake of a step start leave alone. -/
def State.markParts (s : State) : JobRun × Media × Egress × Tide × Word × List Arm := (s.run, s.media, s.egr, s.tide, s.ev.tide, s.arms)

theorem setEv_bw_markParts (b : Word) (s : State) : (setEv .bw b s).markParts = s.markParts := by
  have hev : (setEv .bw b s).ev.tide = s.ev.tide := setEv_get .bw .tide b s
  simp [State.markParts, hev]

theorem sluCycle_markParts (k : Nat) (take : Bool) (t : Int) (s : State) : (sluCycle k take t s).markParts = s.markParts := by
  unfold sluCycle
  split
  · rfl
  · simp only [apply_ite State.markParts, setEv_bw_markParts]
    exact ite_self _

theorem sluStepStart_markParts (t : Int) (s : State) : (sluStepStart t s).markParts = s.markParts := by
  refine State.each_keeps State.markParts (fun k u => ?_) _ s
  repeat' split
  all_goals simp only [sluCycle_markParts]

theorem sendOnEdges_markParts (n : Nat) (k : FlitKind) (s : State) : (sendOnEdges n k s).markParts = s.markParts := by
  refine State.each_keeps State.markParts (fun _ _ => ?_) _ s
  rfl

theorem exitStepOn_markParts (k n : Nat) (s : State) : (exitStepOn k n s).markParts = s.markParts := by
  unfold exitStepOn
  dsimp only
  split
  · exact sendOnEdges_markParts ..
  · rfl

theorem nextExitStep_markParts (s : State) : (nextExitStep s).markParts = s.markParts :=
  State.each_keeps State.markParts (exitStepOn_markParts _) _ s

theorem beginExit_markParts (s : State) : (beginExit s).markParts = s.markParts := by
  unfold beginExit
  dsimp only
  repeat' split
  · rfl
  · exact nextExitStep_markParts _
  · rfl

theorem wakeBit_markParts (i : Nat) (s : State) : (wakeBit i s).markParts = s.markParts := rfl

theorem wake_markParts (i : Nat) (level : Bool) (s : State) : (wake i level s).markParts = s.markParts := by
  unfold wake
  repeat' split
  all_goals simp only [wakeBit_markParts, beginExit_markParts]
  all_goals rfl

theorem takeBoundaries_of_no_arms (due : Arm → Bool) {s : State} (h : s.arms = []) : takeBoundaries due s = s := by
  simp [takeBoundaries, applyGroups, h]

/-- With no group armed an accepted start sets the Tide, its event and the acceptance of the job. -/
theorem acceptStart_markParts (step : Nat) (t : Int) (interval : Option Nat) (restart : Bool) (seq : Option Nat) (evt : Word) {s : State}
    (harms : s.arms = []) : (acceptStart step t interval restart seq evt s).markParts =
      ({ s.run with accepted := true }, s.media, s.egr, s.tide.accept step t interval restart seq s.period, s.ev.tide ||| evt, []) := by
  let a := (setEv .tide evt (s.modTide (·.accept step t interval restart seq s.period))).modRun fun r => { r with accepted := true }
  have ha : a.markParts =
      ({ s.run with accepted := true }, s.media, s.egr, s.tide.accept step t interval restart seq s.period, s.ev.tide ||| evt, []) := by
    have hev : (setEv .tide evt (s.modTide (·.accept step t interval restart seq s.period))).ev.tide = s.ev.tide ||| evt :=
      setEv_get .tide .tide evt _
    simp [State.markParts, a, hev, harms]
  have hcycles : (sluStepStart t a).markParts = a.markParts := sluStepStart_markParts t a
  have hnone : (sluStepStart t a).arms = [] := congrArg (fun x => x.2.2.2.2.2) (hcycles.trans ha)
  have hstart : acceptStart step t interval restart seq evt s =
      wake 2 true (takeBoundaries (fun x => x.boundary == 2 && stepDue (sluStepStart t a) x) (sluStepStart t a)) := rfl
  rw [hstart, takeBoundaries_of_no_arms _ hnone, wake_markParts, hcycles, ha]

/-- An accepted start answers a state of which its parts are known. -/
theorem completes_of_markParts {c : Instr} {s u : State} {step : Nat} {t : Int} {interval seq : Option Nat} {restart : Bool}
    {evt : Word} {post : State → Prop} (hexec : exec c s = .next (acceptStart step t interval restart seq evt u)) (harms : u.arms = [])
    (hpost : ∀ v : State, v.run = { u.run with accepted := true } → v.media = u.media → v.egr = u.egr →
      v.tide = u.tide.accept step t interval restart seq u.period → v.ev.tide = u.ev.tide ||| evt → post v) : Completes c s post := by
  have hparts := acceptStart_markParts step t interval restart seq evt harms
  simp only [State.markParts, Prod.mk.injEq] at hparts
  obtain ⟨hrun, hmedia, hegr, htide, hev, -⟩ := hparts
  exact ⟨_, hexec, hpost _ hrun hmedia hegr htide hev⟩

/-! ### What is judged -/

/-- The first start of a job is accepted whatever its step. -/
theorem judge_first {step : Nat} {t : Int} {seq : Option Nat} {s : State} (h : s.tide.stepState = .none) :
    judge step t false seq s = acceptStart step t none false seq 0 (s.modTide fun d => { d with afterRelease := false }) := by
  simp [judge, h]

/-- The next step, not too early, is accepted and its interval enters. -/
theorem judge_next {step : Nat} {t : Int} {seq : Option Nat} {s : State} (hnone : s.tide.stepState ≠ .none) (hlost : s.tide.stepState ≠ .lost)
    (hrel : s.tide.afterRelease = false) (hstep : step = s.tide.step + 1) (hgap : s.minInterval ≤ t - s.tide.startTime) :
    judge step t false seq s = acceptStart step t (some (t - s.tide.startTime).toNat) false seq 0
      (s.modTide fun d => { d with afterRelease := false }) := by
  have hj : (step : Int) - s.tide.step = 1 := by omega
  have hearly : ¬ t - s.tide.startTime < s.minInterval := by omega
  have hmin : (s.modTide fun d => { d with afterRelease := false }).minInterval = s.minInterval := rfl
  simp [judge, hnone, hlost, hrel, hj, hmin, hearly]

section
variable {s : State} {d : MarkDatagram} {j : Job} (hport : d.destPort = fieldOf s.applied.tideMarkPort 0 16) (hjob : s.run.job = some j)
  (hend : s.run.ending = false) (hclear : s.run.clearing = false)
include hport hjob hend hclear

theorem exec_stepMarkDatagram_rejected
    (hbad : j.coords.contains d.source = false ∨ parseMark s.applied.tideJobId d.payload = none) :
    exec (.stepMarkDatagram d) s = .next (rejectMark s) := by
  have hopen : s.jobOpen = true := by simp [State.jobOpen, hjob, hend, hclear]
  have hok : ((s.run.job.map fun j => j.coords.contains d.source)).getD false = j.coords.contains d.source := by rw [hjob]; rfl
  simp only [exec, execStepMarkDatagram, if_pos hport, receiveMark, hopen, hok, Bool.not_true]
  rcases hbad with hbad | hbad
  · cases parseMark s.applied.tideJobId d.payload <;> simp only [hbad] <;> rfl
  · rw [hbad]
    rfl

variable (hsource : j.coords.contains d.source = true) {step seq : Nat} {restart : Bool} {start : Option Nat}
  (hmark : parseMark s.applied.tideJobId d.payload = some (step, restart, start, seq))
include hsource hmark

/-- A good mark is received with the time it gives, or that of its arrival. -/
theorem exec_stepMarkDatagram_received : exec (.stepMarkDatagram d) s = .next
    (let t : Int := ((start.map (min d.rx.toNat)).getD d.rx.toNat : Nat)
     if s.stepSrc = 1 then (if restart then setEv .tide 8 (restartEstimator s) else s)
     else if s.stepSrc = 2 then
       match s.tide.edges.find? fun e => decide ((e.2 : Int) - d.rx.toNat ≤ pairWindow s ∧ (d.rx.toNat : Int) - e.2 ≤ pairWindow s) with
       | some e => judge step e.1 restart (some seq) (s.modTide fun d => { d with edges := d.edges.erase e })
       | none => s.modTide fun u => { u with marks := u.marks ++ [⟨step, restart, t, seq, d.rx.toNat⟩] }
     else judge step t restart (some seq) s) := by
  have hopen : s.jobOpen = true := by simp [State.jobOpen, hjob, hend, hclear]
  have hok : ((s.run.job.map fun j => j.coords.contains d.source)).getD false = true := by rw [hjob]; exact hsource
  simp only [exec, execStepMarkDatagram, if_pos hport, receiveMark, hopen, hok, hmark]
  rfl

/-- Without pairing it is judged at once. -/
theorem exec_stepMarkDatagram_judged (hsrc : s.stepSrc = 0) : exec (.stepMarkDatagram d) s = .next
    (judge step (((start.map (min d.rx.toNat)).getD d.rx.toNat : Nat) : Int) restart (some seq) s) := by
  rw [exec_stepMarkDatagram_received hport hjob hend hclear hsource hmark]
  simp [hsrc]

end

/-! ### Edges and passed windows -/

/-- A rising edge in the barrier releases it. -/
theorem exec_syncInEdge_released {s : State} (c : Dword) (h : s.tide.barrier ≠ .idle) : exec (.syncInEdge c true) s =
    .next (releaseBarrier ((c.toNat : Int) - s.applied.tideSyncDelay.toNat) (s.modTide fun d => { d with syncIn := true })) := by
  simp only [exec, execSyncInEdge, Bool.not_true, Bool.false_eq_true, if_false]
  exact if_pos h

/-- Outside the barrier an edge is judged as the next step, or waits for its mark. -/
theorem exec_syncInEdge_judged {s : State} (c : Dword) (hbar : s.tide.barrier = .idle) (hopen : s.jobOpen = true) (hsrc : s.stepSrc = 1) :
    exec (.syncInEdge c true) s = .next (judge s.nextStep ((c.toNat : Int) - s.applied.tideSyncDelay.toNat) false none
      (s.modTide fun d => { d with syncIn := true })) := by
  have hopen' : (s.modTide fun d => { d with syncIn := true }).jobOpen = true := hopen
  simp only [exec, execSyncInEdge, Bool.not_true, Bool.false_eq_true, if_false, hopen']
  refine (if_neg fun hne => hne hbar).trans (if_pos hsrc)

theorem exec_syncInEdge_waits {s : State} (c : Dword) (hbar : s.tide.barrier = .idle) (hopen : s.jobOpen = true) (hsrc : s.stepSrc = 2)
    (hmarks : s.tide.marks = []) : exec (.syncInEdge c true) s = .next { s with tide := { s.tide with
      syncIn := true, edges := s.tide.edges ++ [((c.toNat : Int) - s.applied.tideSyncDelay.toNat, c.toNat)] } } := by
  have hopen' : (s.modTide fun d => { d with syncIn := true }).jobOpen = true := hopen
  have hmarks' : (s.modTide fun d => { d with syncIn := true }).tide.marks = [] := hmarks
  simp only [exec, execSyncInEdge, Bool.not_true, Bool.false_eq_true, if_false, hopen', hmarks', List.find?_nil]
  refine (if_neg fun hne => hne hbar).trans ((if_neg fun h1 => ?_).trans (if_pos hsrc))
  exact absurd (hsrc.symm.trans h1) (by decide)

/-- A mark whose window passes alone is judged, with MARK_UNPAIRED. -/
theorem exec_markPairWindowExpiry_mark {s : State} {a : PendMark} (hedges : s.tide.edges = []) (hmarks : s.tide.marks = [a])
    (hpast : a.arrived + s.period / 4 < s.tide.time) : exec .markPairWindowExpiry s = .next (judge a.step a.t a.restart (some a.seq)
      (setEv .tide 0x80 (s.modTide fun d => { d with marks := [] }))) := by
  have hpassed : decide (a.arrived + pairWindow s < s.now) = true := decide_eq_true hpast
  simp [exec, execMarkPairWindowExpiry, hedges, hmarks, hpassed, State.modTide]

/-- An edge whose window passes alone is judged as the next step. -/
theorem exec_markPairWindowExpiry_edge {s : State} {t0 : Int} {e : Nat} (hedges : s.tide.edges = [(t0, e)]) (hmarks : s.tide.marks = [])
    (hpast : e + s.period / 4 < s.tide.time) : exec .markPairWindowExpiry s = .next (judge s.nextStep t0 false none
      (s.modTide fun d => { d with edges := [] })) := by
  have hpassed : decide (e + pairWindow s < s.now) = true := decide_eq_true hpast
  simp [exec, execMarkPairWindowExpiry, hedges, hmarks, hpassed, State.modTide]

/-- Settles O4: every clause is the answer of its command, then what an accepted start leaves where nothing is armed. -/
theorem stepStarts : Obligations.StepStarts := by
  refine ⟨?_, ?_, ?_, ?_, ?_, ?_, ?_, ?_, ?_, ?_, ?_, ?_⟩
  · intro s d j step seq start hport hjob hend hclear hsource hmark hsrc hnone harms
    have hexec := exec_stepMarkDatagram_judged hport hjob hend hclear hsource hmark hsrc
    rw [judge_first hnone] at hexec
    refine completes_of_markParts hexec harms fun v hrun hmedia hegr htide hev => ⟨hrun, hmedia, ?_⟩
    rw [htide]
    cases start <;> rfl
  · intro s d j step seq start hport hjob hend hclear hsource hmark hsrc harms
    have hexec := exec_stepMarkDatagram_judged hport hjob hend hclear hsource hmark hsrc
    rw [judge_restart] at hexec
    refine completes_of_markParts hexec harms fun v hrun hmedia hegr htide hev => ⟨hrun, hmedia, ?_⟩
    rw [htide, hev]
    exact ⟨rfl, rfl, rfl, rfl, rfl, rfl⟩
  · intro s d j hport hjob hend hclear hbad
    exact exec_stepMarkDatagram_rejected hport hjob hend hclear hbad
  · intro s d j step seq start restart hport hjob hend hclear hsource hmark hsrc hedges
    rw [exec_stepMarkDatagram_received hport hjob hend hclear hsource hmark, hsrc, hedges]
    cases start <;> rfl
  · intro s d j step seq e t0 start restart hport hjob hend hclear hsource hmark hsrc hedges hafter hbefore
    have hnear : [(t0, e)].find? (fun e => decide ((e.2 : Int) - d.rx.toNat ≤ pairWindow s ∧ (d.rx.toNat : Int) - e.2 ≤ pairWindow s)) =
        some (t0, e) := List.find?_cons_of_pos (decide_eq_true ⟨hafter, hbefore⟩)
    rw [exec_stepMarkDatagram_received hport hjob hend hclear hsource hmark, hsrc, hedges]
    simp only [hnear]
    simp [State.modTide, hedges]
  · intro s c hbar hopen hsrc hnone hlost hrel harms hstep hgap
    have hexec := exec_syncInEdge_judged c hbar hopen hsrc
    have hnext : s.nextStep = s.tide.step + 1 := by
      rw [State.nextStep, if_neg hnone, Nat.mod_eq_of_lt hstep]
    rw [judge_next (s := s.modTide fun d => { d with syncIn := true }) hnone hlost hrel hnext hgap] at hexec
    refine completes_of_markParts hexec harms fun v hrun hmedia hegr htide hev => ?_
    rw [htide, hnext]
    exact ⟨rfl, rfl, rfl, rfl, rfl, rfl, hrun, hegr, hmedia⟩
  · intro s c hbar hopen hsrc hmarks
    exact exec_syncInEdge_waits c hbar hopen hsrc hmarks
  · intro s c hbar harms
    have hexec := exec_syncInEdge_released c hbar
    rw [releaseBarrier] at hexec
    refine completes_of_markParts hexec harms fun v hrun hmedia hegr htide hev => ?_
    rw [htide, hev]
    exact ⟨rfl, rfl, rfl, rfl, rfl, rfl, rfl, rfl, hrun, hmedia, rfl⟩
  · intro s c
    rfl
  · intro s a hedges hmarks hrestart hpast hnone harms
    have hexec := exec_markPairWindowExpiry_mark hedges hmarks hpast
    have htide : (setEv .tide 0x80 (s.modTide fun d => { d with marks := [] })).tide = { s.tide with marks := [] } := setEv_tide ..
    have hev : (setEv .tide 0x80 (s.modTide fun d => { d with marks := [] })).ev.tide = s.ev.tide ||| 0x80 := setEv_get .tide .tide ..
    have hrun : (setEv .tide 0x80 (s.modTide fun d => { d with marks := [] })).run = s.run := setEv_run ..
    have harms' : (setEv .tide 0x80 (s.modTide fun d => { d with marks := [] })).arms = [] := (setEv_arms ..).trans harms
    generalize setEv .tide 0x80 (s.modTide fun d => { d with marks := [] }) = u at *
    rw [hrestart, judge_first (by rw [htide]; exact hnone)] at hexec
    refine completes_of_markParts hexec harms' fun v hrun' hmedia hegr htide' hev' => ?_
    rw [htide', hrun', hev', ← hev, ← hrun]
    exact ⟨congrArg Tide.marks htide, rfl, rfl, rfl, BitVec.or_zero, rfl⟩
  · intro s t0 e hedges hmarks hpast hnone harms
    have hexec := exec_markPairWindowExpiry_edge hedges hmarks hpast
    have hnext : s.nextStep = s.startStep := if_pos hnone
    rw [hnext, judge_first (s := s.modTide fun d => { d with edges := [] }) hnone] at hexec
    refine completes_of_markParts hexec harms fun v hrun hmedia hegr htide hev => ?_
    rw [htide, hev]
    exact ⟨rfl, rfl, rfl, rfl, BitVec.or_zero, hrun⟩
  · intro s hpilots hdue
    have hsome : ¬ (!s.tide.recomputeDue && !s.tide.recomputeOp) = true := by
      rcases hdue with h | h <;> simp [h]
    simp only [exec, execDeadlineRecomputeDone, hpilots, Bool.not_true, Bool.false_eq_true, if_false]
    exact if_neg hsome

end Sys2Proof.Machine
end

section
/-! The performance counters (R489 to R495). -/

namespace Sys2Proof.Machine

/-- A window has ended. -/
theorem bwWindow_ended {s : State} {n : Nat} (hwin : s.rw.pmcBwWin ≠ 0)
    (hn : n = s.pmc.bwSince + min 1000000 s.rw.pmcBwWin.toNat * 1000) (hdue : n ≤ s.mono) :
    ¬ (s.rw.pmcBwWin = 0 ∨ s.mono < s.pmc.bwSince + bwWindowNs s) := by
  have hns : bwWindowNs s = min 1000000 s.rw.pmcBwWin.toNat * 1000 := rfl
  rw [hns]
  rintro (h | h)
  · exact hwin h
  · omega

/-- Settles O38: each command is its effect on the counter banks, and a window ends at its own time. -/
theorem countersComplete : Obligations.CountersComplete := by
  refine ⟨fun s => rfl, fun s => rfl, ?_, ?_, ?_, fun s => rfl, fun s v => rfl, ?_, ?_, ?_⟩
  · rintro s a ok m hidle rfl rfl
    simp only [exec, execPmcSnap, pmcSnap, hidle]
    rfl
  · intro s a hbusy
    simp only [exec, execPmcSnap, pmcSnap, hbusy, if_true]
  · intro s hbusy
    simp only [exec, execPmcSnapDone, hbusy]
    rfl
  · rintro s bs n hwin rfl hdue hlive
    simp only [exec, execPmcBwWindowEnd, hlive]
    exact if_neg (bwWindow_ended hwin rfl hdue)
  · rintro s bs n hwin rfl hdue hfrozen
    simp only [exec, execPmcBwWindowEnd, hfrozen]
    exact if_neg (bwWindow_ended hwin rfl hdue)
  · intro s bs hnone
    exact if_pos hnone

end Sys2Proof.Machine
end

section
/-! Dusk, Night and the temperature samples (R434 to R448). -/

namespace Sys2Proof.Machine

/-! ### Night entry, die by die -/

theorem spd?_modPower (n m : Nat) (f : SpdPower → SpdPower) (s : State) :
    (s.modPower m f).spd? n = if m = n then (s.spd? n).map fun d => { d with power := f d.power } else s.spd? n := by
  have h : (s.modPower m f).spd? n = _ := List.getElem?_modify ..
  rw [h]
  split <;> cases hn : s.fab.spds[n]? <;> simp [State.spd?, hn]

theorem spd?_sendOnEdges (n m : Nat) (k : FlitKind) (s : State) : (sendOnEdges m k s).spd? n = s.spd? n :=
  State.each_keeps (f := fun e t => (t.emit (.flit e ((edgeEnds e).1 == m) k)).modFab fun f =>
    { f with edges := updAt f.edges e fun x => { x with parked := k == .park, lowHeard := s.mono, highHeard := s.mono } })
    (State.spd? n) (fun _ _ => rfl) _ s

/-- A step of Night entry on die `m` changes the supplies of die `m` alone; the flits of step 2 change none. -/
theorem spd?_entryStepOn (k n m : Nat) (s : State) : (entryStepOn k m s).spd? n =
    if m = n then (s.spd? n).map fun d => { d with power := d.power.entryStep k } else s.spd? n := by
  unfold entryStepOn
  split
  case isFalse => exact spd?_modPower ..
  case isTrue hk =>
    rw [spd?_sendOnEdges, hk]
    cases s.spd? n <;> simp [SpdPower.entryStep]

/-- A step on every die of a list without repetition is one step on each of its dies. -/
theorem spd?_each_entryStepOn (k n : Nat) {l : List Nat} (hl : l.Nodup) (s : State) : (s.each l (entryStepOn k)).spd? n =
    if n ∈ l then (s.spd? n).map fun d => { d with power := d.power.entryStep k } else s.spd? n := by
  induction l generalizing s with
  | nil => rfl
  | cons m l ih =>
    obtain ⟨hm, hl⟩ := List.nodup_cons.mp hl
    rw [State.each_cons, ih hl, spd?_entryStepOn]
    by_cases hmn : m = n
    · subst hmn
      simp [hm]
    · simp [hmn, Ne.symm hmn]

theorem nodup_servingList (s : State) : s.servingList.Nodup := List.nodup_range.filter _

theorem mem_servingList {s : State} {n : Nat} : n ∈ s.servingList ↔ n < 8 ∧ s.serving n = true := by
  simp [State.servingList]

/-- The supplies of a serving die after steps of Night entry. -/
theorem spd?_each_each_entryStepOn {n : Nat} {l : List Nat} (hl : l.Nodup) (hn : n ∈ l) (ks : List Nat) (s : State) :
    (s.each ks fun k t => t.each l (entryStepOn k)).spd? n =
      (s.spd? n).map fun d => { d with power := ks.foldl (fun p k => p.entryStep k) d.power } := by
  induction ks generalizing s with
  | nil => simp
  | cons k ks ih =>
    rw [State.each_cons, ih, spd?_each_entryStepOn k n hl, if_pos hn, Option.map_map]
    rfl

/-! ### What stands until a state is entered -/

theorem entryStepOn_pwr (k n : Nat) (s : State) : (entryStepOn k n s).pwr = s.pwr := by
  unfold entryStepOn
  split
  · exact State.each_keeps State.pwr (fun _ _ => by rfl) _ s
  · rfl

theorem nightEntry_pwr (s : State) : (nightEntry s).pwr = s.pwr :=
  State.each_keeps State.pwr (fun k t => State.each_keeps State.pwr (entryStepOn_pwr k) _ t) _ s

theorem each_modPower_pwr (f : SpdPower → SpdPower) (l : List Nat) (s : State) : (s.each l fun n t => t.modPower n f).pwr = s.pwr :=
  State.each_keeps State.pwr (fun _ _ => by rfl) l s

/-! ### What a temperature sample does -/

/-- A sample is recorded, a crossing is a wake, and the first hot sample moves the point. -/
def sampled (l : List (Nat × Int)) (s : State) : State :=
  let b := (recordSample l s).onlyIf (recordSample l s).pwr.crossed (wake 4 true)
  if s.pwr.hotSince.isNone && b.pwr.hotSince.isSome then moveThermal true b else b

theorem exec_thermalSample {s : State} (x : Sensors) (hon : s.pwr.off = false) : exec (.thermalSample x) s =
    if tripsAt (validReadings s x) then .next (thermalTrip (sampled (validReadings s x) s))
    else match (critical s (validReadings s x)).head? with
      | some k => .next (assertTherm k.1 (sampled (validReadings s x) s))
      | none => .next (if released s (validReadings s x) then releaseTherm (sampled (validReadings s x) s)
          else sampled (validReadings s x) s) := by
  simp only [exec, execThermalSample, hon]
  rfl

/-! ### When the point moves -/

/-- Within `d` of its last move, or with none to count from, the point stands. -/
theorem due_eq_false {since : Option Nat} {now d : Nat} (h : ((since.map fun t => decide (now < t + d)).getD true) = true) :
    ((since.map fun t => decide (t + d ≤ now)).getD false) = false := by
  cases since with
  | none => rfl
  | some t => simpa using h

theorem due_eq_true {since : Option Nat} {t now d : Nat} (h : since = some t) (hdue : t + d ≤ now) :
    ((since.map fun t => decide (t + d ≤ now)).getD false) = true := by
  simpa [h] using hdue

theorem exec_throttleStep (s : State) : exec .throttleStep s =
    if ((s.pwr.hotSince.map fun t => decide (t + 10000000 ≤ s.mono)).getD false) = true then
      .next (moveThermal true (s.modPwr fun p => { p with hotSince := some s.mono }))
    else if (((s.pwr.coolSince.map fun t => decide (t + 100000000 ≤ s.mono)).getD false) && !s.pwr.therm) = true then
      .next (moveThermal false (s.modPwr fun p => { p with coolSince := some s.mono }))
    else .next s := by
  simp only [exec, execThrottleStep, Nat.reduceMul]

/-- Settles O39: entries and exits by their states, Night entry die by die, and a sample by the readings in it. -/
theorem powerStatesComplete : Obligations.PowerStatesComplete := by
  refine ⟨fun s h => if_pos h, ?_, ?_, fun s h => if_pos h, ?_, ?_, fun s => rfl, fun s => rfl, ?_, ?_, ?_, ?_, ?_, ?_, ?_, ?_, ?_, ?_⟩
  · intro s n h
    simp only [exec, execEntryCommit, h]
  · rintro s a h rfl
    have hheld := congrArg Power.heldWake (each_modPower_pwr SpdPower.doze s.servingList s)
    rcases h with h | h <;> simp only [exec, execDuskEntryDone, h, entered, State.onlyIf, State.modPwr, hheld]
  · rintro s a h rfl
    simp only [exec, execNightEntryDone, h, entered, State.onlyIf, nightEntry_pwr]
  · intro s n d hd hserves
    have hn : (n : Nat) ∈ s.servingList := mem_servingList.mpr ⟨n.isLt, by simp [State.serving, hd, hserves]⟩
    rw [nightEntry, spd?_each_each_entryStepOn (nodup_servingList s) hn, hd]
    rfl
  · intro s t h hdue
    simp only [exec, execTideWakeTimer, h]
    exact if_pos hdue
  · intro s hdusk hexit hentry
    exact if_pos ⟨hdusk, hexit, by rw [hentry]; rfl⟩
  · intro s hnight hexit hentry
    exact if_pos ⟨hnight, hexit, by rw [hentry]; rfl⟩
  · intro s
    refine ⟨fun h => if_neg (by simp [h]), fun h => if_neg (by simp [h]), fun h => ?_, fun h => ?_, fun h => ?_⟩
    · simp only [exec, execEntryCommit, execDuskEntryDone, execNightEntryDone, h, and_self]
    · exact ⟨if_neg (by simp [h]), if_neg (by simp [h])⟩
    · cases ht : s.pwr.tideTimer with
      | none => simp only [exec, execTideWakeTimer, ht]
      | some t =>
        simp only [exec, execTideWakeTimer, ht]
        exact if_neg (by simpa [ht] using h)
  · rintro s a b c x hon rfl rfl rfl htrip hcrit
    rw [exec_thermalSample x hon, htrip, hcrit]
    rfl
  · rintro s a b c x k l hon rfl rfl rfl htrip hcrit
    rw [exec_thermalSample x hon, htrip, hcrit]
    rfl
  · rintro s a b c x hon rfl rfl rfl htrip
    rw [exec_thermalSample x hon, htrip]
    rfl
  · intro s t hhot hdue
    rw [exec_throttleStep, due_eq_true hhot hdue, if_pos rfl]
  · intro s t hhot hcool hdue htherm
    rw [exec_throttleStep, due_eq_false hhot, due_eq_true hcool hdue, htherm]
    rfl
  · intro s hhot hcool
    rw [exec_throttleStep, due_eq_false hhot]
    refine (if_neg Bool.false_ne_true).trans (if_neg ?_)
    rcases hcool with hcool | htherm
    · rw [due_eq_false hcool]
      exact Bool.false_ne_true
    · rw [htherm]
      simp

end Sys2Proof.Machine
end

section
/-! Frames, pauses, rates, residence and slices (R273, R302 to R316). -/

namespace Sys2Proof.Machine

theorem frameTx_of_linkUp {s : State} (m : Fin 16) (hon : s.egr.txOff = false) (hlink : bitOf s.egr.linksUp m = true) :
    ¬ (s.egr.txOff || !bitOf s.egr.linksUp m) = true := by
  simp [hon, hlink]

/-! ### The places of a context -/

/-- A place is sought from an SPD on, around the ring of eight. -/
theorem ring_find_mem {l : List Nat} {k n : Nat} {p : Nat → Bool}
    (h : (((List.range 8).map fun j => (k + j) % 8).find? fun n => l.contains n && p n) = some n) : n ∈ l := by
  have hn := List.find?_some h
  simp only [Bool.and_eq_true, List.contains_iff_mem] at hn
  exact hn.1

theorem ring_find_self {l : List Nat} {k : Nat} (hk : k < 8) (h : k ∈ l) :
    (((List.range 8).map fun j => (k + j) % 8).find? fun n => l.contains n && (none : Option Nat) != some n) = some k := by
  have hring : (List.range 8).map (fun j => (k + j) % 8) = k :: ((List.range 7).map fun j => (k + (j + 1)) % 8) := by
    rw [show (8 : Nat) = 7 + 1 from rfl, List.range_succ_eq_map, List.map_cons, List.map_map, Nat.add_zero, Nat.mod_eq_of_lt hk]
    rfl
  rw [hring]
  exact List.find?_cons_of_pos (by simpa using h)

theorem mem_contextPlace {i n : Nat} {l : List Nat} (h : n ∈ contextPlace i l) : n ∈ l := by
  simp only [contextPlace, List.mem_filterMap, List.mem_cons, List.not_mem_nil, or_false, id_eq] at h
  obtain ⟨a, hfirst | hsecond, rfl⟩ := h
  · exact ring_find_mem hfirst.symm
  · exact ring_find_mem hsecond.symm

theorem head?_contextPlace {i : Nat} {l : List Nat} (h : i % 8 ∈ l) : (contextPlace i l).head? = some (i % 8) := by
  simp only [contextPlace, ring_find_self (Nat.mod_lt i (by decide)) h]
  rfl

/-- What a slice boundary does once the slice clock has moved. -/
theorem exec_sliceBoundary {s : State} (h : s.bw.slice < s.tide.uptime / 2000) :
    exec .sliceBoundary s = sliceBoundary { s with bw := { s.bw with slice := s.tide.uptime / 2000 } } :=
  if_neg (Nat.not_le.mpr h)

section
variable {s : State} {i : Nat} {c : Conn} (hawake : s.asleep = false) (hc : s.conn? i = some c) (hactive : c.active = true)
  (hres : c.resident = false) (hload : c.loading = false) (hcopies : c.copies ≠ [])
include hawake hc hactive hres hload hcopies

/-- A context that may load goes where there is a place, or into that of an inactive one. -/
theorem exec_contextLoadDone : exec (.contextLoadDone i) s =
    if s.residents.length < 4096 then .next (becomeResident i s)
    else match s.residents.find? fun x => !x.active with
      | some x => .next (becomeResident i (s.modConn x.idx fun x => { x with resident := false, loading := false }))
      | none => .next s := by
  have hcopies' : c.copies.isEmpty = false := by simpa using hcopies
  simp only [exec, execContextLoadDone, hawake, hc, hactive, hres, hload, hcopies']
  rfl

end

/-- Settles O17: each command is its case of the model; the places of a context are sought around the ring of SPDs. -/
theorem breakwaterCompletes : Obligations.BreakwaterCompletes := by
  refine ⟨?_, ?_, fun s m pr on => rfl, ?_, fun s m k => rfl, ?_, ?_, ?_, ?_, ?_, ?_⟩
  · rintro s u m k ds c w j len hon hlink hturn hclass rfl
    simp only [exec, execFrameTxDone, hturn, hclass]
    exact if_neg (frameTx_of_linkUp m hon hlink)
  · rintro s m hon hlink hturn
    simp only [exec, execFrameTxDone, hturn]
    exact if_neg (frameTx_of_linkUp m hon hlink)
  · intro s i c hc herror hrate hdue
    simp only [exec, execCcRateRecover, hc]
    exact if_pos ⟨by simp [herror], hrate, hdue⟩
  · intro s i c hawake hc hactive hres hload hcopies hroom
    rw [exec_contextLoadDone hawake hc hactive hres hload hcopies, if_pos hroom]
  · intro s i c x hawake hc hactive hres hload hcopies hfull hx
    rw [exec_contextLoadDone hawake hc hactive hres hload hcopies, if_neg (Nat.not_lt.mpr hfull), hx]
  · rintro s a u hdue rfl rfl hfew
    rw [exec_sliceBoundary hdue, sliceBoundary, decide_eq_true hfew]
    rfl
  · rintro s a u v w hdue rfl rfl hmany rfl rfl
    rw [exec_sliceBoundary hdue, sliceBoundary, decide_eq_false (Nat.not_le.mpr hmany)]
    simp only [State.onlyIf, decide_eq_true_eq]
    rfl
  · intro s n h
    refine (if_pos h).trans ?_
    simp only [Bool.not_eq_true', List.isEmpty_eq_false_iff]
    rfl
  · exact fun l _ _ i n hn => ⟨mem_contextPlace hn, head?_contextPlace⟩

end Sys2Proof.Machine
end

section
/-! Programs, erases and verifies of the flash media (R92 to R117). -/

namespace Sys2Proof.Machine

section
variable {s a : State} {die blk page n : Nat} {src : ProgramSource} {u : UnitSource} {m : Media} {x : Stripe} {drawn : Bool}
  (hsource : s.media.sourceOf src = some u) (hstream : s.media.streamFor u (((s.media.block? die blk).map (·.stream)).getD 3) = n)
  (htarget : s.media.target die blk n s.tide.uptime u = some (m, x)) (hwritable : s.media.writable = true)
  (huntested : s.dieTested die = false) (hpage : page = (m.slotsIn die blk).length) (hroom : page < m.slotsPer (n != 3))
  (hcredit : s.media.limited die u = false ∨ s.media.creditOf die ≠ 0) (hcopy : copyBuffer u s = (drawn, a))
include hsource hstream htarget hwritable huntested hpage hroom hcredit hcopy

/-- A program that the media manager may issue, by whether its copy has a buffer and whether it succeeds. -/
theorem exec_programDone (ok : Bool) : exec (.programDone die blk page src ok) s =
    if !drawn then .next a
    else if !ok then .next (failBlock die blk (a.modMedia fun _ => if s.media.limited die u then m.useCredit die else m))
    else .next (programMedia (fun k => (k.program u x (k.puaAt die blk page) page n).foldCheck.stagingCheck)
      (programPerf die n u (a.modMedia fun _ => if s.media.limited die u then m.useCredit die else m))) := by
  subst hstream
  have hmay : ¬ (¬ s.media.writable = true ∨ s.dieTested die = true ∨ page ≠ (m.slotsIn die blk).length ∨
      m.slotsPer (s.media.streamFor u (((s.media.block? die blk).map (·.stream)).getD 3) != 3) ≤ page ∨
        (s.media.limited die u = true ∧ s.media.creditOf die = 0)) := by
    rintro (h | h | h | h | ⟨hl, hz⟩)
    · exact h hwritable
    · exact Bool.false_ne_true (huntested.symm.trans h)
    · exact h hpage
    · exact Nat.not_le.mpr hroom h
    · rcases hcredit with h | h
      · exact Bool.false_ne_true (h.symm.trans hl)
      · exact h hz
  have hmono : s.mono = s.tide.uptime := rfl
  simp only [exec, execProgramDone, hsource, hmono, htarget, hcopy]
  simp only [Bool.not_eq_true', ← Bool.not_eq_true]
  exact if_neg hmay

end

/-- A block that may be erased is no block under test. -/
theorem erase_allowed {s : State} {die blk : Nat} (hwritable : s.media.writable = true) (herasable : s.media.erasable die blk = true)
    (huntested : s.dieTested die = false) : ¬ ((!(s.media.writable && s.media.erasable die blk) || s.dieTested die) = true) := by
  simp [hwritable, herasable, huntested]

section
variable {s : State} {g n : Nat} {bad : List Nat} {x : Stripe}
  (hx : (s.media.stripes.find? fun x => x.group == g && x.number == n && x.state == .closing) = some x)
  (huntested : (x.members.any fun y => s.dieTested y.1) = false)
include hx huntested

/-- The verify of a closing stripe, by the blocks named bad. -/
theorem exec_stripeVerifyDone : exec (.stripeVerifyDone g n bad) s =
    let bs := x.members.filter fun y => bad.contains y.1 && y.1 != x.parity
    if bs.isEmpty then
      if s.media.copiesVerified x then .next (s.modMedia fun m => m.modStripe x fun y => { y with state := .verified }) else .next s
    else .next (s.modMedia fun m => bs.foldl (fun (n : Media) (d, b) => n.modBlock d b fun y => { y with rewrite := true })
      (m.modStripe x fun y => { y with waiting := (y.waiting ++ bs).eraseDups })) := by
  simp only [exec, execStripeVerifyDone, hx, huntested]
  rfl

end

/-- Settles O18: a program by what it may do, an erase by its outcome, a verify by the blocks named. -/
theorem programsAndErases : Obligations.ProgramsAndErases := by
  refine ⟨?_, ?_, ?_, ?_, ?_, ?_, ?_⟩
  · intro s a die blk page n src ok u m x hsource hstream htarget hwritable huntested hpage hroom hcredit hcopy
    refine ⟨_, (exec_programDone hsource hstream htarget hwritable huntested hpage hroom hcredit hcopy ok).trans ?_, rfl⟩
    cases ok <;> rfl
  · intro s a die blk page n src ok u m x hsource hstream htarget hwritable huntested hpage hroom hcredit hcopy
    exact exec_programDone hsource hstream htarget hwritable huntested hpage hroom hcredit hcopy ok
  · intro s die blk hwritable herasable huntested
    exact if_neg (erase_allowed hwritable herasable huntested)
  · intro s die blk hwritable herasable huntested
    exact if_neg (erase_allowed hwritable herasable huntested)
  · intro s g n bad x hx huntested hnone hverified
    rw [exec_stripeVerifyDone hx huntested, hnone, hverified]
    rfl
  · intro s g n bad x hx huntested hnone hwaits
    rw [exec_stripeVerifyDone hx huntested, hnone, hwaits]
    rfl
  · rintro s g n bad x bs hx huntested rfl hsome
    rw [exec_stripeVerifyDone hx huntested]
    exact if_neg (by simpa using hsome)

end Sys2Proof.Machine
end

section
/-! Staging, collection, relocation, rewriting and failed dies of the flash media (R86 to R119). -/

namespace Sys2Proof.Machine

section
variable {s : State} {die : Nat} {b : Block} (hawake : s.asleep = false) (hwritable : s.media.writable = true)
  (huntested : s.dieTested die = false)
include hawake hwritable huntested

/-- Collection on a die short of free blocks, with no rewrite waiting. -/
theorem exec_gcStart (hshort : 100 * s.media.freeBlocks die < 3 * s.media.geom.blocks) (hnone : s.media.rewriteWaits die = false)
    (hleast : leastBy (fun b => (s.media.validIn die b.block).length) ((s.media.victims die).filter (Block.collectable s.tide.uptime)) =
      some b) : exec (.gcStart die) s = .next (drainBlock die b.block .gc s) := by
  have hmay : ¬ ((!s.media.writable) = true ∨ s.dieTested die = true ∨ 3 * s.media.geom.blocks ≤ 100 * s.media.freeBlocks die ∨
      s.media.rewriteWaits die = true) := by
    simp [hwritable, huntested, hnone, hshort]
  have hmono : s.mono = s.tide.uptime := rfl
  simp only [exec, execGcStart, hawake, hmono, hleast]
  exact if_neg hmay

/-- Relocation of the least worn block where the wear spreads and the last was 10 s ago. -/
theorem exec_staticRelocation {es : List Nat} {low : Nat} (hes : (s.media.blocks.filter (·.die == die) |>.map (·.erases)) = es)
    (hlow : low = (if es.length < s.media.geom.blocks then 0 else es.foldl min (es.headD 0)))
    (hspread : s.media.geom.rated < 10 * (es.foldl max 0 - low)) (hkeeps : s.media.keepsBack = true)
    (hlast : ∀ t, (s.media.relocAt.find? (·.1 == die)).map (·.2) = some t → t + 10000000000 ≤ s.tide.uptime)
    (hleast : leastBy (·.erases) (s.media.victims die) = some b) :
    exec (.staticRelocation die) s = .next (drainBlock die b.block .relocate (s.modMedia fun m =>
      { m with relocAt := (die, s.tide.uptime) :: m.relocAt.filter (·.1 != die) })) := by
  subst hes hlow
  have hrest : (((s.media.relocAt.find? (·.1 == die)).map (·.2)).map fun t => decide (s.tide.uptime < t + 10000000000)).getD false =
      false := by
    cases ht : (s.media.relocAt.find? (·.1 == die)).map (·.2) with
    | none => rfl
    | some t =>
      rw [Option.map_some, Option.getD_some]
      exact decide_eq_false (Nat.not_lt.mpr (hlast t ht))
  have hmono : s.mono = s.tide.uptime := rfl
  simp only [exec, execStaticRelocation, hawake, hmono, hrest, hleast]
  refine (if_neg Bool.false_ne_true).trans (if_neg ?_)
  rintro (h | h | h | h | h)
  · simp [hwritable] at h
  · exact Bool.false_ne_true (huntested.symm.trans h)
  · exact Nat.not_lt.mpr h hspread
  · simp [hkeeps] at h
  · exact Bool.false_ne_true h

end

/-- Settles O19: each command is its case of the media manager. -/
theorem mediaUpkeep : Obligations.MediaUpkeep := by
  refine ⟨fun s h => if_neg (Nat.not_lt.mpr h), ?_, ?_, ?_, ?_, ?_, ?_, fun s a b => rfl⟩
  · intro s hawake hwritable hfold
    simp only [exec, execFoldStart, hawake]
    exact (if_neg Bool.false_ne_true).trans (if_pos ⟨hwritable, hfold⟩)
  · intro s die b hawake hwritable huntested hshort hnone hleast
    exact exec_gcStart hawake hwritable huntested hshort hnone hleast
  · intro s die b es low hawake hwritable huntested hes hlow hspread hkeeps hlast hleast
    exact exec_staticRelocation hawake hwritable huntested hes hlow hspread hkeeps hlast hleast
  · intro s die blk b hb hwritable hrewrite hclosed huntested
    simp only [exec, execBlockRewriteStart, hb, hwritable, hrewrite, hclosed, huntested]
    cases b.lastRewrite with
    | none => rfl
    | some n => by_cases hn : b.erases < n + 50 <;> simp [hn]
  · intro s c l hmounted
    refine (if_pos hmounted).trans ?_
    simp only [dropDie, Bool.not_eq_true']
  · intro s die r hmounted hdie hsound hwhy
    refine (if_pos ⟨hmounted, hwhy⟩).trans (congrArg Host.Outcome.next (if_pos ⟨hdie, ?_⟩))
    rw [hsound]
    rfl

end Sys2Proof.Machine
end

section
/-! The write buffer, the journal, checkpoints and recovery (R88 to R115, R360). -/

namespace Sys2Proof.Machine

/-! ### What the media manager's own programs leave of the roots -/

/-- The roots of a medium and the checkpoint under way. -/
def Media.rootParts (m : Media) : List (Nat × Nat × Checkpoint) × Option Checkpoint := (m.roots, m.pendingCheckpoint)

theorem foldl_keeps {σ α β : Type} (part : σ → β) {f : σ → α → σ} (h : ∀ m a, part (f m a) = part m) (l : List α) (m : σ) :
    part (l.foldl f m) = part m := by
  induction l generalizing m with
  | nil => rfl
  | cons a l ih => rw [List.foldl_cons, ih, h]

theorem Media.closeFull_rootParts (m : Media) (x : Stripe) : (m.closeFull x).rootParts = m.rootParts := by
  unfold Media.closeFull
  split
  · exact foldl_keeps Media.rootParts (fun _ _ => by rfl) _ _
  · rfl

theorem Media.program_rootParts (m : Media) (src : UnitSource) (x : Stripe) (pua page stream : Nat) :
    (m.program src x pua page stream).rootParts = m.rootParts := by
  unfold Media.program
  rw [Media.closeFull_rootParts]
  cases src <;> split_ifs <;> rfl

theorem Media.setBlock_rootParts (die block : Nat) (f : Block → Block) (m : Media) :
    (m.setBlock die block f).rootParts = m.rootParts := by
  unfold Media.setBlock
  split <;> rfl

theorem Media.openNew_rootParts {m n : Media} {die block stream now : Nat} (h : m.openNew die block stream now = some n) :
    n.rootParts = m.rootParts := by
  unfold Media.openNew at h
  dsimp only at h
  split at h
  case h_1 => exact absurd h (by simp)
  case h_2 par hpar =>
    split at h
    · exact absurd h (by simp)
    split at h
    · exact absurd h (by simp)
    cases h
    exact foldl_keeps Media.rootParts (fun _ _ => by exact Media.setBlock_rootParts ..) _ m

theorem Media.place_rootParts {m n : Media} {src : UnitSource} {groups : List Nat} {stream now d b : Nat} {x : Stripe}
    (h : m.place src groups stream now = some (n, x, d, b)) : n.rootParts = m.rootParts := by
  unfold Media.place at h
  split at h
  · cases h
    rfl
  · obtain ⟨g, -, hg⟩ := List.exists_of_findSome?_eq_some h
    split at hg
    · exact absurd hg (by simp)
    · obtain ⟨d', -, hd⟩ := Option.bind_eq_some_iff.mp hg
      obtain ⟨b', -, hb⟩ := Option.bind_eq_some_iff.mp hd
      obtain ⟨n', hn, hx⟩ := Option.bind_eq_some_iff.mp hb
      obtain ⟨x', -, hx'⟩ := Option.map_eq_some_iff.mp hx
      cases hx'
      exact Media.openNew_rootParts (Option.filter_eq_some_iff.mp hn).1

theorem Media.append_rootParts (src : UnitSource) (groups : List Nat) (now : Nat) (m : Media) :
    (m.append src groups now).rootParts = m.rootParts := by
  unfold Media.append
  dsimp only
  split
  · rfl
  · next hplace =>
    split
    · rfl
    · rw [Media.program_rootParts, Media.place_rootParts hplace]

/-- A root that is written joins the others. -/
theorem Media.writeRoot_keeps (k now : Nat) (c : Checkpoint) (m : Media) :
    (m.writeRoot k now c).pendingCheckpoint = m.pendingCheckpoint ∧ ∀ x ∈ m.roots, x ∈ (m.writeRoot k now c).roots := by
  have happend := Media.append_rootParts (.metadata 3 (rootLua k) (Config.metaUnit 3 c.fields)) (m.groupsOf k) now m
  obtain ⟨hroots, hpending⟩ := Prod.mk.inj happend
  unfold Media.writeRoot
  split
  · exact ⟨rfl, fun _ hx => hx⟩
  dsimp only
  split
  · exact ⟨rfl, fun _ hx => hx⟩
  · exact ⟨hpending, fun x hx => List.mem_cons_of_mem _ (hroots ▸ hx)⟩

/-- The roots of the two media dies, where they are written. -/
def Media.withRoots (med0 med1 : Bool) (now : Nat) (c : Checkpoint) (m : Media) : Media :=
  let a := if med0 then m.writeRoot 0 now c else m
  if med1 then a.writeRoot 1 now c else a

theorem Media.withRoots_keeps (med0 med1 : Bool) (now : Nat) (c : Checkpoint) (m : Media) :
    (m.withRoots med0 med1 now c).pendingCheckpoint = m.pendingCheckpoint ∧ ∀ x ∈ m.roots, x ∈ (m.withRoots med0 med1 now c).roots := by
  obtain ⟨hpending, hroots⟩ := Media.writeRoot_keeps 0 now c m
  cases med0 <;> cases med1
  · exact ⟨rfl, fun _ hx => hx⟩
  · exact Media.writeRoot_keeps 1 now c m
  · exact ⟨hpending, hroots⟩
  · obtain ⟨hpending1, hroots1⟩ := Media.writeRoot_keeps 1 now c (m.writeRoot 0 now c)
    exact ⟨hpending1.trans hpending, fun x hx => hroots1 x (hroots x hx)⟩

/-- The checkpoint has ended, and its journal pages are freed. -/
def Media.checkpointEnded (c : Checkpoint) (m : Media) : Media :=
  let gone := (m.journalDone.take c.pages).map (·.pua)
  { m with pendingCheckpoint := none, pagesFreed := max m.pagesFreed c.pages
           map := m.map.filter fun e => !(gone.contains e.2 && decide (metaLua ≤ e.1)) }

theorem Media.rootDone_eq {m : Media} {c : Checkpoint} (h : m.pendingCheckpoint = some c) (med0 med1 : Bool) (now : Nat) :
    m.rootDone med0 med1 now =
      if (m.withRoots med0 med1 now c).hasRoot 0 c ∧ (m.withRoots med0 med1 now c).hasRoot 1 c then
        (m.withRoots med0 med1 now c).checkpointEnded c
      else m.withRoots med0 med1 now c := by
  simp only [Media.rootDone, h]
  rfl

/-- A checkpoint has ended exactly when its root stands on both media dies; earlier roots stay. -/
theorem Media.rootDone_ends {m : Media} {c : Checkpoint} (h : m.pendingCheckpoint = some c) (med0 med1 : Bool) (now : Nat) :
    ((m.rootDone med0 med1 now).pendingCheckpoint = none ↔
      (m.rootDone med0 med1 now).hasRoot 0 c = true ∧ (m.rootDone med0 med1 now).hasRoot 1 c = true) ∧
    ∀ x ∈ m.roots, x ∈ (m.rootDone med0 med1 now).roots := by
  obtain ⟨hpending, hroots⟩ := Media.withRoots_keeps med0 med1 now c m
  rw [Media.rootDone_eq h]
  split
  case isTrue hboth => exact ⟨⟨fun _ => hboth, fun _ => rfl⟩, hroots⟩
  case isFalse hmissing =>
    refine ⟨⟨fun hnone => ?_, fun hboth => absurd hboth hmissing⟩, hroots⟩
    rw [hpending, h] at hnone
    cases hnone

/-! ### The commands that wait -/

/-- A held write, found by its command (R108). -/
theorem exec_writeBufferAdmit {s : State} {id : CmdId} {c : Cmd} {n sh f : Nat} {xs : List (List Byte)}
    (hc : (s.cmd? id fun c => match c.run with | .writeHeld .. => true | _ => false) = some c) (hrun : c.run = .writeHeld n sh f xs) :
    exec (.writeBufferAdmit id) s = match s.partSlot n with
      | none => .next (finish c 0x0207 [] s)
      | some p => match writeStatus p f xs s with
        | some st => .next (finish c st [] s)
        | none => .next (match shardIn n sh f xs s with
          | (some w, t) => finish c stSuccess (natBytes 4 w) t
          | (none, t) => t) := by
  simp only [exec, execWriteBufferAdmit]
  split
  case h_1 hnone => exact absurd (hnone.symm.trans hc) (by simp)
  case h_2 c' hsome =>
    obtain rfl : c' = c := Option.some.inj (hsome.symm.trans hc)
    simp only [hrun]
    cases s.partSlot n with
    | none => rfl
    | some p =>
      dsimp only
      cases writeStatus p f xs s with
      | some st => rfl
      | none =>
        rcases shardIn n sh f xs s with ⟨_ | w, t⟩ <;> rfl

/-- A flush whose covered write is lost (R124). -/
theorem exec_flushComplete_lost {s : State} {id : CmdId} {c : Cmd} {n w d : Nat} {sealing : Bool}
    (hc : (s.cmd? id fun c => match c.run with | .flush .. => true | _ => false) = some c)
    (hrun : c.run = .flush n w sealing (some d)) : exec (.flushComplete id) s = .next (finish c 0x0103 (natBytes 4 d) s) := by
  simp only [exec, execFlushComplete]
  split
  case h_1 hnone => exact absurd (hnone.symm.trans hc) (by simp)
  case h_2 c' hsome =>
    obtain rfl : c' = c := Option.some.inj (hsome.symm.trans hc)
    simp only [hrun]

/-- A flush whose units are programmed, by the WSEQ it is held to. -/
theorem exec_flushComplete {s : State} {id : CmdId} {c : Cmd} {n w0 w : Nat} {sealing : Bool}
    (hc : (s.cmd? id fun c => match c.run with | .flush .. => true | _ => false) = some c) (hrun : c.run = .flush n w0 sealing none)
    (hw : w = if sealing then max w0 (((s.partSlot n).map (·.completed)).getD 0) else w0) (hflushed : s.media.flushed n w = true)
    (hfree : s.ltOn 3 = false) {st d : Nat} {a : State} (hpart : flushPart n w s = (st, d, a)) :
    exec (.flushComplete id) s =
      if st ≠ stSuccess then .next (finish c st (natBytes 4 d) a)
      else
        let (st2, b) := if sealing then sealPart n d a else (st, a)
        if b.media.journal.isEmpty then .next (finish c st2 (natBytes 4 d) b) else .next s := by
  subst hw
  simp only [exec, execFlushComplete]
  split
  case h_1 hnone => exact absurd (hnone.symm.trans hc) (by simp)
  case h_2 c' hsome =>
    obtain rfl : c' = c := Option.some.inj (hsome.symm.trans hc)
    simp only [hrun, hflushed, hfree, hpart]
    exact if_neg (by decide)

/-- Recovery may begin. -/
theorem recovery_may_begin {s : State} (hmounted : s.media.mounted = false) (hsupported : s.media.unsupported = none)
    (hready : s.host.fwReady = true) (hrecovery : s.sec.recovery = false) (hup : s.host.broughtUp = true) (hfree : s.ltOn 3 = false) :
    ¬ (s.media.mounted = true ∨ s.media.unsupported.isSome = true ∨ (!s.host.fwReady) = true ∨ s.sec.recovery = true ∨
      (!s.host.broughtUp) = true ∨ s.ltOn 3 = true) := by
  simp [hmounted, hsupported, hready, hrecovery, hup, hfree]

/-- Settles O20: the waiting commands by what they find, the journal and its checkpoints, and recovery. -/
theorem metadataAndBuffer : Obligations.MetadataAndBuffer := by
  refine ⟨?_, ?_, ?_, ?_, ?_, ?_, ?_, ?_, ?_, ?_, ?_, ?_, ?_, ?_⟩
  · intro s u id c n sh f w xs p hc hrun hpart hstatus hshard
    simp only [exec_writeBufferAdmit hc hrun, hpart, hstatus, hshard]
  · intro s u id c n sh f xs p hc hrun hpart hstatus hshard
    simp only [exec_writeBufferAdmit hc hrun, hpart, hstatus, hshard]
  · intro s id c n sh f st xs p hc hrun hpart hstatus
    simp only [exec_writeBufferAdmit hc hrun, hpart, hstatus]
  · intro s id c n sh f xs hc hrun hgone
    simp only [exec_writeBufferAdmit hc hrun, hgone]
  · intro s a id c n w st d hc hrun hflushed hfree hpart
    rw [exec_flushComplete hc hrun rfl hflushed hfree hpart]
    by_cases hst : st = stSuccess
    · rw [if_neg (not_not.mpr hst)]
      cases hj : a.media.journal <;> simp [hj, hst]
    · rw [if_pos hst, if_neg fun h => hst h.1]
  · intro s id c n w d sl hc hrun
    exact exec_flushComplete_lost hc hrun
  · intro s a b id c n w0 w st st2 d hc hrun hw hflushed hfree hpart hseal
    rw [exec_flushComplete hc hrun hw hflushed hfree hpart, hseal]
    by_cases hst : st = stSuccess
    · rw [if_neg (not_not.mpr hst), if_neg (not_not.mpr hst)]
      cases hj : b.media.journal <;> simp [hj]
    · rw [if_pos hst, if_pos hst]
  · intro s hwritable hfree
    exact if_pos (by simp [hwritable, hfree])
  · intro s hawake hwritable hfree hdue hnone
    simp only [exec, execCheckpointStart, hawake]
    refine (if_neg Bool.false_ne_true).trans (if_neg ?_)
    rintro (h | h | h | h)
    · simp [hwritable] at h
    · exact Bool.false_ne_true (hfree.symm.trans h)
    · exact Nat.not_lt.mpr hdue h
    · simp [hnone] at h
  · intro s a b hfree
    refine ⟨congrArg Host.Outcome.next (if_neg (by simp [hfree])), fun c hc => ?_⟩
    exact Media.rootDone_ends hc a b s.tide.uptime
  · intro s n hfree
    exact congrArg Host.Outcome.next (if_neg (by simp [hfree]))
  · intro s n hfree
    exact congrArg Host.Outcome.next (if_pos (by simp [hfree]))
  · intro s a roots torn wiped hmounted hsupported hready hrecovery hup hfree ha
    have hmono : s.mono = s.tide.uptime := rfl
    simp only [exec, execRecoveryDone, if_neg (recovery_may_begin hmounted hsupported hready hrecovery hup hfree), hmono, ← ha]
    cases s.media.mountFail <;> rfl
  · intro s roots torn wiped h
    exact if_pos (h.imp_right Or.inl)

end Sys2Proof.Machine
end

section
/-! Memory errors, lost stacks, caches and the end of a job (R123 to R136, R359, R407). -/

namespace Sys2Proof.Machine

/-- What a command of a clocked SPD does. -/
theorem ite_clocked {s : State} {n : Nat} (h : s.clocked n = true) (x y : Answer) : (if !s.clocked n then x else y) = y :=
  if_neg (by simp [h])

/-- A correctable error of a row, by how often the row had one within a day. -/
theorem exec_memoryCe_row {s : State} {n : Fin 8} (hclocked : s.clocked n = true) (r : HbmRow) : exec (.memoryCe n (some r)) s =
    if 2 ≤ ((s.fab.rowCe.filter fun x => decide (s.mono < x.2 + dayNs)).filter (·.1 == r)).length then
      .next (retireRow r ((countCorrected n (countPerf n 0x902 s)).modFab fun f => { f with
        rowCe := s.fab.rowCe.filter fun x => decide (s.mono < x.2 + dayNs) }))
    else .next ((countCorrected n (countPerf n 0x902 s)).modFab fun f => { f with
      rowCe := (s.fab.rowCe.filter fun x => decide (s.mono < x.2 + dayNs)) ++ [(r, s.mono)] }) := by
  simp only [exec, execMemoryCe, ite_clocked hclocked, Option.isSome_some, if_true, countCorrected_fab, countPerf_fab]

/-- What a place of a list becomes depends on what it held alone. -/
theorem modify_congr {α : Type} {l : List α} {n : Nat} {a : α} {f g : α → α} (ha : l[n]? = some a) (h : f a = g a) :
    l.modify n f = l.modify n g := by
  refine List.ext_getElem? fun i => ?_
  rw [List.getElem?_modify, List.getElem?_modify]
  by_cases hi : n = i
  · subst hi
    simp [ha, h]
  · simp [hi]

theorem State.modSpd_congr {s : State} {n : Nat} {d : Spd} {f g : Spd → Spd} (hd : s.spd? n = some d) (h : f d = g d) :
    s.modSpd n f = s.modSpd n g :=
  congrArg (fun l => { s with fab := { s.fab with spds := l } }) (modify_congr hd h)

/-- Settles O21: each command is its case of the memory's upkeep. -/
theorem memoryAndCaches : Obligations.MemoryAndCaches := by
  refine ⟨?_, ?_, ?_, ?_, ?_, ?_, ?_, ?_, ?_, ?_⟩
  · intro s n row hclocked hfew
    cases row with
    | none => exact ite_clocked hclocked ..
    | some r =>
      rw [exec_memoryCe_row hclocked]
      exact if_neg (Nat.not_le.mpr (hfew r rfl))
  · intro s n r hclocked hmany
    rw [exec_memoryCe_row hclocked]
    exact if_pos hmany
  · rintro s a u p row hclocked rfl rfl
    refine (ite_clocked hclocked ..).trans ?_
    cases row <;> cases p <;> rfl
  · rintro s hbm n k hpilots rfl
    refine (if_neg (by simp [hpilots])).trans ?_
    cases hbm <;> rfl
  · intro s n hclocked
    exact ite_clocked hclocked ..
  · intro s k hclocked
    exact ite_clocked hclocked ..
  · intro s k hclocked
    exact ite_clocked hclocked ..
  · rintro s n d upd hclocked hd hsweep rfl
    simp only [exec, execKeySweepDone, hd, hsweep]
    exact ite_clocked hclocked ..
  · rintro s t n d dec raw hclocked hd hsplit rfl rfl rfl
    simp only [exec, execCacheSplitDone, hd, hsplit, ite_clocked hclocked]
    exact (if_neg (by decide)).trans (congrArg
      (fun t : State => Host.Outcome.next (if t.fab.spds.any (·.splitting) then t else setEv .mem 0x40 t)) (State.modSpd_congr hd rfl))
  · intro s u a hclearing hu ha
    simp only [exec, execJobClearDone, hclearing, ← hu, ← ha]
    rfl

end Sys2Proof.Machine
end

section
/-! Groups armed, cancelled and applied, and the guard (R49, R376 to R387). -/

namespace Sys2Proof.Machine

/-- What an owner whose accesses are heard does. -/
theorem State.byOwner_heard {s : State} {o : Owner} (h : s.heard o = true) (f : State → State) : s.byOwner o f = f s := if_pos h

/-! ### Arming -/

/-- The arm of a group is refused. -/
def armRefusal (g : Nat) (s : State) : Prop :=
  isArmed g s = true ∨ fieldOf s.rw.grpBnd (2 * g) 2 = 3 ∨ (fieldOf s.rw.grpBnd (2 * g) 2 = 0 ∧ quiescent g s = false) ∨
    (fieldOf s.rw.grpBnd (2 * g) 2 = 1 ∧ (s.run.streams.any fun t => t.num == fieldOf s.rw.applyStream 0 6) = false)

/-- The model's test of a refusal. -/
theorem armRefusal_iff (g : Nat) (s : State) : armRefusal g s ↔
    (isArmed g s || boundaryOf g s == 3 || (boundaryOf g s == 0 && !quiescent g s) ||
      (boundaryOf g s == 1 && !(s.run.streams.any fun t => t.num == fieldOf s.rw.applyStream 0 6))) = true := by
  have hb : boundaryOf g s = fieldOf s.rw.grpBnd (2 * g) 2 := rfl
  simp only [armRefusal, hb, Bool.or_eq_true, Bool.and_eq_true, beq_iff_eq, Bool.not_eq_true', or_assoc]

theorem armGroup_refused {g : Nat} {s : State} (h : armRefusal g s) : armGroup g s = setEv .cfg 0x10000 s :=
  if_pos ((armRefusal_iff g s).mp h)

theorem armGroup_armed {g : Nat} {s : State} (h : ¬ armRefusal g s) : armGroup g s = { s with
    arms := s.arms ++ [⟨g, fieldOf s.rw.grpBnd (2 * g) 2, fieldOf s.rw.applyStream 0 6,
      s.rw.applyBatchLo.toNat + s.rw.applyBatchHi.toNat * 2 ^ 32,
      s.rw.tideApplyStepLo.toNat + fieldOf s.rw.tideApplyStepHi 0 16 * 2 ^ 32, s.rw.tideApplyPhase.toNat,
      (s.run.batches.filter fun x => x.stream == fieldOf s.rw.applyStream 0 6 && x.begun).map (·.num), s.tide.accepts⟩] } :=
  if_neg fun hr => h ((armRefusal_iff g s).mpr hr)

/-! ### Applies and the guard -/

/-- Some arm is held back exactly where the guard freezes one. -/
theorem isEmpty_filter_frozen (fall : List Arm) (s : State) : (fall.filter (frozen s)).isEmpty = !(fall.any (frozen s)) := by
  cases hany : fall.any (frozen s) with
  | false =>
    rw [List.any_eq_false] at hany
    rw [List.filter_eq_nil_iff.mpr hany]
    rfl
  | true =>
    obtain ⟨a, ha, hf⟩ := List.any_eq_true.mp hany
    exact List.isEmpty_eq_false_iff.mpr (List.ne_nil_of_mem (List.mem_filter.mpr ⟨ha, hf⟩))

theorem takeBoundaries_eq (due : Arm → Bool) (s : State) : takeBoundaries due s =
    applyGroups (((s.arms.filter due).filter fun a => !frozen s a).map (·.group))
      (if ((s.arms.filter due).any (frozen s)) = true then setEv .grd 4 s else s) := by
  simp only [takeBoundaries, isEmpty_filter_frozen]
  cases (s.arms.filter due).any (frozen s) <;> rfl

/-- The comparison of a guard whose computation is done. -/
theorem guardCheck_of_done {s : State} {m old : Bool} (hold : s.guard.mismatch = old)
    (hm : m = (s.guard.refValid && !s.guard.pending && s.guard.done && s.guard.crc != s.guard.committed)) :
    guardCheck s = (if m && !old then setEv .grd 1 else fun t => t) { s with guard := { s.guard with mismatch := m } } := by
  subst hm hold
  unfold guardCheck
  dsimp only
  split <;> rfl

/-- Settles O22: an arm by its refusal, an apply by what the guard freezes, a comparison by its difference. -/
theorem stagedRegistersApply : Obligations.StagedRegistersApply := by
  refine ⟨?_, fun s g h => armGroup_refused h, ?_, ?_, ?_, ?_, fun s a => rfl, fun s => rfl, ?_, ?_, ?_⟩
  · intro s w m hheard
    exact congrArg Host.Outcome.next (State.byOwner_heard hheard _)
  · intro s g harmed hbnd hquiet hstream
    refine armGroup_armed ?_
    rintro (h | h | ⟨h, hq⟩ | ⟨h, hs⟩)
    · exact Bool.false_ne_true (harmed.symm.trans h)
    · exact hbnd h
    · exact Bool.false_ne_true (hq.symm.trans (hquiet h))
    · exact Bool.false_ne_true (hs.symm.trans (hstream h))
  · intro s w g hheard
    exact congrArg Host.Outcome.next (State.byOwner_heard hheard _)
  · rintro s m fall rfl
    exact congrArg Host.Outcome.next (takeBoundaries_eq ..)
  · rintro s fall rfl
    exact congrArg Host.Outcome.next (takeBoundaries_eq ..)
  · rintro s v m hcomputing rfl rfl
    refine (if_pos hcomputing).trans (congrArg Host.Outcome.next (guardCheck_of_done rfl ?_))
    exact congrArg (· && _) (Bool.and_true _).symm
  · rintro s w m hheard hnone rfl
    refine congrArg Host.Outcome.next ((State.byOwner_heard hheard _).trans ?_)
    refine (if_neg (by simp [hnone])).trans (guardCheck_of_done rfl ?_)
    rfl
  · intro s w hheard harmed
    refine congrArg Host.Outcome.next ((State.byOwner_heard hheard _).trans (if_pos ?_))
    simpa using harmed

end Sys2Proof.Machine
end

section
/-! Mailboxes (R326 to R338). -/

namespace Sys2Proof.Machine

/-! ### Who acquires a lock -/

theorem readers_single (a : Owner) : [Owner.portA, .portB, .harbourmaster, .debug].filter [a].contains = [a] := by
  cases a <;> rfl

/-- Two readers stand in the order of their numbers. -/
theorem readers_pair {a b : Owner} (h : a.number < b.number) :
    [Owner.portA, .portB, .harbourmaster, .debug].filter [a, b].contains = [a, b] ∧
      [Owner.portA, .portB, .harbourmaster, .debug].filter [b, a].contains = [a, b] := by
  cases a <;> cases b <;> revert h <;> decide

theorem rsGrant_held (rs : List Owner) (x : Owner) (last : Option Owner) : rsGrant rs (some x) last = (none, some x, last) := rfl

theorem rsGrant_single (a : Owner) (last : Option Owner) : rsGrant [a] none last = (some a, some a, last) := by
  simp only [rsGrant, readers_single]

theorem rsGrant_pair {a b : Owner} (h : a.number < b.number) (last : Option Owner) :
    rsGrant [a, b] none last = (if last = some a then (some b, some b, some b) else (some a, some a, some a)) ∧
      rsGrant [b, a] none last = rsGrant [a, b] none last := by
  obtain ⟨hab, hba⟩ := readers_pair h
  simp only [rsGrant, hab, hba, and_true]
  split <;> rfl

/-! ### What the holder and others do -/

section
variable {s : State} {m : MbxId} {o : Owner}

/-- The holder, in a state that fits, acts. -/
theorem mbxAct_holder (fits : Mailbox → Bool) (act : State → State) (hreach : reaches o m.set s = true)
    (hlock : (s.mbx m).lock = some o) (hfits : fits (s.mbx m) = true) : mbxAct o m fits act s = act s := by
  simp [mbxAct, hreach, hlock, hfits]

/-- Another owner that reaches the set, or the holder in another state, sets IGNORED. -/
theorem mbxAct_ignored (fits : Mailbox → Bool) (act : State → State) (hreach : reaches o m.set s = true)
    (h : (s.mbx m).lock ≠ some o ∨ fits (s.mbx m) = false) : mbxAct o m fits act s = mbxEvent m 3 s := by
  have hnot : ((s.mbx m).lock == some o && fits (s.mbx m)) = false := by
    rcases h with h | h <;> simp [h]
  simp only [mbxAct, hreach, hnot]
  rfl

theorem mbxAct_other_port (fits : Mailbox → Bool) (act : State → State) (hreach : reaches o m.set s = false) :
    mbxAct o m fits act s = s := if_pos (by simp [hreach])

theorem mbxRelease_holder (hreach : reaches o m.set s = true) (hlock : (s.mbx m).lock = some o) : mbxRelease o m 0 s =
    match (s.mbx m).state with
    | .idle => s.modMbx m fun b => { b with lock := freeLock s }
    | .reply | .aborted => s.modMbx m fun b => { b.acknowledge with lock := freeLock s }
    | .posted | .taken => mbxEvent m evtIgnored s :=
  if_neg (by simp [hreach, hlock])

theorem mbxRelease_other {v : Word} (h : reaches o m.set s = false ∨ (s.mbx m).lock ≠ some o ∨ v ≠ 0) : mbxRelease o m v s = s := by
  refine if_pos ?_
  simpa [or_assoc] using h

end

/-- Settles O23: the readers of a lock in the order of their numbers, the acts of the holder by the state of the mailbox. -/
theorem mailboxesComplete : Obligations.MailboxesComplete := by
  refine ⟨?_, ?_, ?_, ?_, ?_, ?_, ?_, ?_, ?_, ?_, ?_, ?_, ?_, ?_⟩
  · intro s rs m w h l hgrant
    simp only [exec, execMbxLockRead, hgrant]
    rfl
  · intro a b held last
    exact ⟨rsGrant_single a last, fun x rs => rsGrant_held rs x last, fun h => rsGrant_pair h last⟩
  · intro s m o hreach hlock hidle
    exact congrArg Host.Outcome.next ((mbxRelease_holder hreach hlock).trans (by rw [hidle]; rfl))
  · rintro s m o hreach hlock (hstate | hstate) <;>
      exact congrArg Host.Outcome.next ((mbxRelease_holder hreach hlock).trans (by rw [hstate]; rfl))
  · rintro s m o hreach hlock (hstate | hstate) <;>
      exact congrArg Host.Outcome.next ((mbxRelease_holder hreach hlock).trans (by rw [hstate]; rfl))
  · intro s m o v h
    exact congrArg Host.Outcome.next (mbxRelease_other h)
  · intro s m o i v hreach hlock hidle
    exact congrArg Host.Outcome.next (mbxAct_holder _ _ hreach hlock (by rw [hidle]; rfl))
  · intro s m o hreach hlock hidle
    exact congrArg Host.Outcome.next (mbxAct_holder _ _ hreach hlock (by rw [hidle]; rfl))
  · rintro s m o hreach hlock (hstate | hstate) <;>
      exact congrArg Host.Outcome.next (mbxAct_holder _ _ hreach hlock (by rw [hstate]; rfl))
  · intro s m o i v
    refine ⟨fun hreach => ?_, fun hreach h => ?_, fun hreach h => ?_⟩
    · exact ⟨congrArg Host.Outcome.next (mbxAct_other_port _ _ hreach), congrArg Host.Outcome.next (mbxAct_other_port _ _ hreach),
        congrArg Host.Outcome.next (mbxAct_other_port _ _ hreach)⟩
    · have hnot := h.imp_right fun hidle => (beq_eq_false_iff_ne.mpr hidle : ((s.mbx m).state == .idle) = false)
      exact ⟨congrArg Host.Outcome.next (mbxAct_ignored _ _ hreach hnot), congrArg Host.Outcome.next (mbxAct_ignored _ _ hreach hnot)⟩
    · refine congrArg Host.Outcome.next (mbxAct_ignored _ _ hreach (h.imp_right fun ⟨hreply, habort⟩ => ?_))
      simp [hreply, habort]
  · intro s m n k hbell hposted hserves
    simp only [exec, execMbxTake, hbell]
    exact if_pos ⟨hposted, trivial, hserves⟩
  · rintro s u m x hx horphan rfl htaken
    simp only [exec, execMbxReply, hx, horphan]
    exact (if_neg Bool.false_ne_true).trans (if_pos htaken)
  · intro s m x hx horphan
    simp only [exec, execMbxReply, hx, horphan]
    rfl
  · rintro s u m x hx horphan rfl htaken
    simp only [exec, execMbxReply, hx, horphan]
    exact (if_neg Bool.false_ne_true).trans (if_neg htaken)

end Sys2Proof.Machine
end

section
/-! Semaphores, port resets and the PCIe ports (R322 to R338, R500, R503). -/

namespace Sys2Proof.Machine

/-- Settles O24: a semaphore by its reader or writer, a port by its link. -/
theorem semaphoresAndPorts : Obligations.SemaphoresAndPorts := by
  refine ⟨?_, ?_, ?_, ?_, fun s p => rfl, ?_, fun s p d hup => if_pos hup, ?_, fun s h => if_neg h⟩
  · intro s rs k w h l hgrant
    simp only [exec, execSemRead, hgrant]
    rfl
  · intro s k o howner hheard
    exact congrArg Host.Outcome.next (if_pos (by simp [howner, hheard]))
  · intro s k o v h
    exact congrArg Host.Outcome.next (if_neg (by simp; tauto))
  · rintro s a b p c rfl rfl
    rfl
  · intro s p hperst hon htest hlink hdie hfree
    refine if_neg ?_
    rintro (h | h | h | h | h | h)
    · exact Bool.false_ne_true (hperst.symm.trans h)
    · exact Bool.false_ne_true (hon.symm.trans h)
    · exact Bool.false_ne_true (htest.symm.trans h)
    · exact Bool.false_ne_true (hlink.symm.trans h)
    · exact Bool.false_ne_true ((congrArg Bool.not hdie).symm.trans h)
    · exact Bool.false_ne_true (hfree.symm.trans h)
  · intro s hrestart
    refine (if_pos hrestart).trans ?_
    simp only [firmwareReady, Bool.not_eq_true']

end Sys2Proof.Machine
end

section
/-! Salsia commands that start, and the doorbells, fetches and completions of the Quays (R322, R348 to R353, R365). -/

namespace Sys2Proof.Machine

/-! ### A command that starts -/

/-- A command that is next to start, and that the checks made first let through, runs. -/
theorem runCmd_starts {id : CmdId} {op : Nat} {c : Cmd} {bad : Bool} {sec : Option Nat} {s : State} (h : Starts id op c bad sec s)
    {fieldBad : Cmd → Bool} {secBad : Cmd → Option Nat} (hbad : fieldBad c = bad) (hsec : secBad c = sec) {body : Cmd → State → State} :
    runCmd id op fieldBad secBad body s = .next (body c s) := by
  obtain ⟨hqueued, hturn, hchecks⟩ := h
  subst hbad hsec
  simp only [runCmd, hqueued, hturn, hchecks]
  rfl

/-! ### Doorbells -/

section
variable {s : State} {q : QuayId} {y : Quay} (hy : s.quay? q = some y)
include hy

theorem ringSq_eq (tail : Nat) : ringSq q tail s =
    if y.sqN ≤ tail then quayError q 1 s
    else if y.error.isSome || deleting q s || tail == y.sqTail then s
    else ringBell (.quay q) tail (s.modQuay q fun y => { y with sqTail := tail }) := by
  simp only [ringSq, hy]

theorem ringCq_eq (head : Nat) : ringCq q head s =
    if y.cqN ≤ head then quayError q 2 s
    else if y.unconsumed < (head + y.cqN - y.cqHead) % y.cqN then quayError q 3 s
    else s.modQuay q fun y => { y with cqHead := head } := by
  simp only [ringCq, hy]

/-! ### Fetches and completions -/

theorem exec_quayFetch {v : Via} {n k : Nat} (hbell : s.host.bells.find? (·.1 == .quay q) = some (v, n, k))
    (hserves : s.firmwareServes = true) (hawake : bellAsleep v s = false) (hreached : s.portReached q.port = true)
    (entry : Option (BitVec 512)) : exec (.quayFetch q entry) s =
      match entry with
      | none => .next (quayError q 4 s)
      | some e => .next (countPerf 8 0x20A (takeEntry q e n
          (if (y.sqHead + 1) % y.sqN = k then
            (s.modQuay q fun z => { z with sqHead := (y.sqHead + 1) % y.sqN }).modHost fun h =>
              { h with bells := h.bells.filter (·.2.1 != n) }
          else s.modQuay q fun z => { z with sqHead := (y.sqHead + 1) % y.sqN }))) := by
  simp only [exec, execQuayFetch, hy, hbell, hserves, hawake, hreached]
  cases entry <;> rfl

theorem exec_completionWrite {x : Completion} {xs : List Completion} (hwaiting : y.waiting = x :: xs) (hroom : y.full = false)
    (hdma : (s.host.port q.port).dmaOff = false) (hreached : s.portReached q.port = true) (linkOk : Bool) :
    exec (.completionWrite q linkOk) s = .next (finishDelete q (targetDone x.order
      (if linkOk then writeCompletion q y x (s.modQuay q fun z => { z with waiting := xs })
        else quayError q 4 (s.modQuay q fun z => { z with waiting := xs })))) := by
  simp only [exec, execCompletionWrite, hy, hwaiting, hroom, hdma, hreached]
  rfl

theorem exec_cqCoalesceTimer (hheld : 1 ≤ y.sinceMsg) (hdue : y.msgSince + y.coalTime * 1000 ≤ s.mono) :
    exec (.cqCoalesceTimer q) s = .next (sendMsix q.port y.vec (s.modQuay q fun y => { y with sinceMsg := 0 })) := by
  simp only [exec, execCqCoalesceTimer, quayMessage, hy]
  exact if_pos ⟨hheld, hdue⟩

end

/-- Settles O25: a doorbell by where it points, a fetch and a completion by the link, creation and deletion as commands that
start. -/
theorem quaysComplete : Obligations.QuaysComplete := by
  refine ⟨?_, ?_, ?_, ?_, ?_, ?_, ?_, ?_, ?_, ?_, ?_, ?_, ?_, ?_⟩
  · intro s q v y hheard hy hfits herror hkeeps hmoves
    refine congrArg Host.Outcome.next ((State.byOwner_heard hheard _).trans ?_)
    rw [ringSq_eq hy, if_neg (Nat.not_le.mpr hfits), if_neg (by simp [herror, hkeeps, hmoves])]
    rfl
  · intro s q v y hheard hy hout
    exact congrArg Host.Outcome.next ((State.byOwner_heard hheard _).trans ((ringSq_eq hy _).trans (if_pos hout)))
  · intro s q v y hheard hy hfits hnothing
    refine congrArg Host.Outcome.next ((State.byOwner_heard hheard _).trans ?_)
    rw [ringSq_eq hy, if_neg (Nat.not_le.mpr hfits), if_pos (by simpa [or_assoc] using hnothing)]
  · intro s q v y hheard hy hfits hroom
    refine congrArg Host.Outcome.next ((State.byOwner_heard hheard _).trans ?_)
    rw [ringCq_eq hy, if_neg (Nat.not_le.mpr hfits), if_neg (Nat.not_lt.mpr hroom)]
  · intro s q v y hheard hy hout
    exact congrArg Host.Outcome.next ((State.byOwner_heard hheard _).trans ((ringCq_eq hy _).trans (if_pos hout)))
  · intro s q v y hheard hy hfits hover
    refine congrArg Host.Outcome.next ((State.byOwner_heard hheard _).trans ?_)
    rw [ringCq_eq hy, if_neg (Nat.not_le.mpr hfits), if_pos hover]
  · intro s q y v n k hy hbell hserves hawake hreached
    exact exec_quayFetch hy hbell hserves hawake hreached none
  · intro s q e y v n k hy hbell hserves hawake hreached hmore
    rw [exec_quayFetch hy hbell hserves hawake hreached, if_neg hmore]
  · rintro s q e y v n k hy hbell hserves hawake hreached rfl
    rw [exec_quayFetch hy hbell hserves hawake hreached, if_pos rfl]
  · intro s q y x xs hy hwaiting hroom hdma hreached
    exact exec_completionWrite hy hwaiting hroom hdma hreached true
  · intro s q y x xs hy hwaiting hroom hdma hreached
    exact exec_completionWrite hy hwaiting hroom hdma hreached false
  · intro s q y hy hheld hdue
    exact exec_cqCoalesceTimer hy hheld hdue
  · intro s id c hstarts hnone
    apply runCmd_starts hstarts
    · rw [hnone]
      rfl
    · rfl
  · intro s id c hstarts hsome hother hkeeps
    apply runCmd_starts hstarts
    · obtain ⟨y, hy⟩ := Option.isSome_iff_exists.mp hsome
      simp [hy, hother, hkeeps]
    · rfl

end Sys2Proof.Machine
end

section
/-! An opcode not listed, and a command that repeats its tag (R347, R353). -/

namespace Sys2Proof.Machine

/-- An entry of opcode 0xFF, which is not listed. -/
def unlistedEntry : BitVec 512 := 0xFF

/-- An entry of a Quay, and a second one that was fetched under the tag of the first, which had not completed. -/
def tagFirst : Cmd := ⟨⟨.quay ⟨.a, 0⟩, 0⟩, unlistedEntry, 0, 0, .queued, false, false⟩
def tagAgain : Cmd := ⟨⟨.quay ⟨.a, 0⟩, 0⟩, unlistedEntry, 0, 1, .queued, false, true⟩

/-- The firmware serves, and both entries have been fetched. -/
def tagRepeated : State :=
  { State.reset with host := { State.reset.host with cmds := [tagFirst, tagAgain], fwReady := true, hm := .running } }

theorem tagFirst_starts : starts tagFirst tagRepeated = true := by decide +kernel

/-- The one that repeats the tag is refused first (R347): it is the one that ends. -/
theorem exec_invalidOpcode_tagRepeated :
    exec (.invalidOpcode tagFirst.id) tagRepeated = .next (finish tagAgain stInvalidOpcode [] tagRepeated) := by
  have hqueued : (tagRepeated.queuedCmd tagFirst.id fun c => !opcodeKnown c.opcode) = some tagAgain := by decide +kernel
  have hturn : starts tagAgain tagRepeated = true := by decide +kernel
  simp only [exec, execInvalidOpcode, hqueued, hturn, if_true]

/-- Which commands are still held tells the two ends apart. -/
theorem finish_tagFirst_ne :
    finish tagAgain stInvalidOpcode [] tagRepeated ≠ finish tagFirst stInvalidOpcode [] tagRepeated := by
  intro h
  exact absurd (congrArg (fun s : State => s.host.cmds.map (·.order)) h) (by decide +kernel)

/-- Refutes O26 in its clause (1): where an entry whose opcode is not listed has repeated the tag of another such entry that is
still queued, INVALID_OPCODE ends the one that repeats the tag, and not, as the clause says, the first that is queued. -/
theorem not_commandsOfTheQueues : ¬ Obligations.CommandsOfTheQueues := by
  rintro ⟨hinvalid, -⟩
  have hfirst := hinvalid tagRepeated tagFirst.id tagFirst (by decide +kernel) tagFirst_starts (by decide +kernel)
  exact finish_tagFirst_ne (Host.Outcome.next.inj (exec_invalidOpcode_tagRepeated.symm.trans hfirst))

end Sys2Proof.Machine
end

section
/-! Requests of the hosts: the register window, the MSI-X table, configuration space and the always-on block (R371 to R401). -/

namespace Sys2Proof.Machine

/-! ### The register window -/

/-- A write to the register of a source clears there. -/
theorem evWrite_source {o : Nat} {k : Source} (hk : sourceAt (regOffset o) = some k) (w : Owner) (v : Word) (s : State) :
    evWrite w o v s = some (clearEv k v s) := by
  simp only [evWrite, hk]

section
variable {s : State} {w : Owner} (hheard : s.heard w = true)
include hheard

theorem exec_evClear {o : Nat} (hplain : o / 0x4000 % 16 ≠ 15) (v : Word) :
    exec (.evClear w o v) s = .next ((evWrite w o v s).getD (mixedEvWrite o v s)) :=
  congrArg Host.Outcome.next ((State.byOwner_heard hheard _).trans (if_neg hplain))

theorem windowWrite_eq {o : Nat} {v : Word} (hplain : o / 0x4000 % 16 ≠ 15) (hev : evWrite w o v s = none) : windowWrite w o v s =
    match rwReg (regOffset o) with
    | some (m, set) => s.modRw (set (v &&& m))
    | none => blockWrite w (regOffset o) v s := by
  simp only [windowWrite, hheard, if_neg hplain, hev]
  rfl

/-- A write of the window by its shape. -/
theorem hostWrite_window {x : HostWrite} (hspace : x.space = .window) : hostWrite w x s =
    if wholeWords x 4 then windowWrite w x.addr (wordOf x 0) s
    else if wholeWords x 8 then windowWrite w (x.addr + 4) (wordOf x 1) (windowWrite w x.addr (wordOf x 0) s)
    else if oversized x.addr x.bytes.length then abortRequest w s
    else setEv .win 1 s := by
  simp only [hostWrite, hspace, hheard]
  rfl

theorem hostRead_window {r : HostRead} (hspace : r.space = .window) : hostRead w r s =
    if oversized r.addr r.len then abortRequest w s
    else (readWords w ((r.addr + r.len + 3) / 4 - r.addr / 4) (4 * (r.addr / 4)) s).2.emit
      (.readData w (((readWords w ((r.addr + r.len + 3) / 4 - r.addr / 4) (4 * (r.addr / 4)) s).1.drop (r.addr % 4)).take r.len)) := by
  simp only [hostRead, hspace, hheard]
  rfl

end

/-- What an owner that is not heard asks for has no effect. -/
theorem State.byOwner_unheard {s : State} {o : Owner} (h : s.heard o = false) (f : State → State) : s.byOwner o f = s :=
  if_neg (by simp [h])

theorem hostWrite_unheard {s : State} {w : Owner} {x : HostWrite} (hspace : x.space = .window) (h : s.heard w = false) :
    hostWrite w x s = s := by
  simp only [hostWrite, hspace, h]
  rfl

theorem hostRead_unheard {s : State} {w : Owner} {r : HostRead} (hspace : r.space = .window) (h : s.heard w = false) :
    hostRead w r s = s := by
  simp only [hostRead, hspace, h]
  rfl

/-! ### The MSI-X table and configuration space -/

theorem hostWrite_vectors {s : State} {w : Owner} {p : Port} {x : HostWrite} (hport : ownerPort w = some p)
    (hmapped : (s.host.port p).mapped = true) (hspace : x.space = .vectors) (hword : wholeWords x 4 = true) :
    hostWrite w x s = vectorWrite p x.addr (wordOf x 0) s := by
  simp only [hostWrite, hspace, hport, hmapped, hword]
  rfl

theorem hostWrite_config {s : State} {w : Owner} {p : Port} {x : HostWrite} {k : CfgReg} {old : Word} (hport : ownerPort w = some p)
    (hlink : (s.host.port p).linkUp = true) (hspace : x.space = .config k)
    (hold : old = (if k = .aerUncorrectable ∨ k = .aerCorrectable then 0 else configWord (s.host.port p) k)) :
    hostWrite w x s = flushMsix p (s.modPort p
      (configWrite k (mergeWord old (List.replicate (x.addr % 4) (0, false) ++ x.bytes)))) := by
  subst hold
  simp only [hostWrite, hspace, hport, hlink]
  cases k <;> rfl

theorem abortRequest_port (p : Port) (s : State) : abortRequest p.owner s = setEv .win 4 ((s.modPort p fun h =>
    { h with cfg := { h.cfg with aerUnc := h.cfg.aerUnc ||| 0x8000 } }).emit (.abortTlp p)) := by
  cases p <;> rfl

/-! ### The shadows -/

theorem blockWrite_shadow {s : State} {a g : Nat} {m : Word} {get : StRegs → Word} {set : Word → StRegs → StRegs} (ha : a < 0x1000)
    (hreg : stReg s.rw a = some (g, m, get, set)) (w : Owner) (v : Word) :
    blockWrite w (0x10000 + a) v s = if isArmed g s then setEv .cfg 0x20000 s else { s with shadow := set (v &&& m) s.shadow } := by
  have hblock : regBlock (0x10000 + a) = 4 := by
    unfold regBlock
    omega
  have hplace : regPlace (0x10000 + a) = a := by
    unfold regPlace
    omega
  simp only [blockWrite, hblock, hplace, writeConfig, hreg]
  rfl

/-- Settles O27: a request by the space it names, the registers it touches and its shape; an owner that is not heard does nothing. -/
theorem windowWritesComplete : Obligations.WindowWritesComplete := by
  refine ⟨?_, ?_, ?_, ?_, ?_, ?_, ?_, ?_, ?_, ?_, ?_, ?_, ?_, ?_, fun s p => abortRequest_port p s, ?_, ?_, ?_, fun s => rfl, ?_⟩
  · intro s w o v k hheard hplain hk
    rw [exec_evClear hheard hplain, evWrite_source hk]
    rfl
  · intro s t w o v hheard hplain ht
    rw [exec_evClear hheard hplain, ht]
    rfl
  · intro s w o v hheard hplain hnone
    rw [exec_evClear hheard hplain, hnone]
    rfl
  · intro s w o v hheard halias
    exact congrArg Host.Outcome.next ((State.byOwner_heard hheard _).trans (if_pos halias))
  · intro s w p v hheard
    refine congrArg Host.Outcome.next ((State.byOwner_heard hheard _).trans ?_)
    cases p <;> rfl
  · rintro s w x o v m f hheard hspace rfl hword rfl hplain hev hreg
    refine congrArg Host.Outcome.next ((hostWrite_window hheard hspace).trans ?_)
    rw [if_pos hword, windowWrite_eq hheard hplain hev, hreg]
  · rintro s w x o v hheard hspace rfl hword rfl hplain hev hreg
    refine congrArg Host.Outcome.next ((hostWrite_window hheard hspace).trans ?_)
    rw [if_pos hword, windowWrite_eq hheard hplain hev, hreg]
  · intro s w a g v m get set ha hreg
    exact blockWrite_shadow ha hreg w v
  · intro s w x hheard hspace hword htwo
    refine congrArg Host.Outcome.next ((hostWrite_window hheard hspace).trans ?_)
    rw [if_neg (by simp [hword]), if_pos htwo]
  · intro s w p x hport hmapped hspace hword
    exact congrArg Host.Outcome.next (hostWrite_vectors hport hmapped hspace hword)
  · intro s w p x k old hport hlink hspace hold
    exact congrArg Host.Outcome.next (hostWrite_config hport hlink hspace hold)
  · intro s w o v hheard
    exact congrArg Host.Outcome.next (State.byOwner_heard hheard _)
  · intro s p x hheard hspace hword htwo hsize
    refine congrArg Host.Outcome.next ((hostWrite_window hheard hspace).trans ?_)
    rw [if_neg (by simp [hword]), if_neg (by simp [htwo]), if_neg (by simp [hsize])]
  · intro s p x r hheard hspace hword htwo hsize hrspace hrsize
    constructor
    · refine congrArg Host.Outcome.next ((hostWrite_window hheard hspace).trans ?_)
      rw [if_neg (by simp [hword]), if_neg (by simp [htwo]), if_pos hsize]
    · exact congrArg Host.Outcome.next ((hostRead_window hheard hrspace).trans (if_pos hrsize))
  · intro s t p r bs hheard hspace hsize hread
    refine congrArg Host.Outcome.next ((hostRead_window hheard hspace).trans ?_)
    rw [if_neg (by simp [hsize]), hread]
  · intro s w o v hheard hblock hplace
    refine congrArg Host.Outcome.next ((State.byOwner_heard hheard _).trans ((if_pos hblock).trans (if_pos hplace)))
  · intro s hpower
    exact congrArg Host.Outcome.next (if_pos hpower)
  · intro s w o v p q x r y hspace hrspace hw hq hy
    exact ⟨congrArg Host.Outcome.next (State.byOwner_unheard hw _), congrArg Host.Outcome.next (State.byOwner_unheard hw _),
      congrArg Host.Outcome.next (hostWrite_unheard hspace hw), congrArg Host.Outcome.next (State.byOwner_unheard hw _),
      congrArg Host.Outcome.next (hostWrite_unheard hspace hq), congrArg Host.Outcome.next (hostRead_unheard hrspace hq),
      congrArg Host.Outcome.next (State.byOwner_unheard hw _), congrArg Host.Outcome.next (State.byOwner_unheard hy _),
      congrArg Host.Outcome.next (State.byOwner_unheard hy _)⟩

end Sys2Proof.Machine
end

section
/-! Calculations of the check-value units, the gate lists and the operating point (R309 to R312, R418 to R431). -/

namespace Sys2Proof.Machine

/-! ### Check-value units -/

theorem State.modCvu_congr {s : State} {n : Nat} {c : Cvu} {f : Cvu → Cvu} (hc : s.cvu[n]? = some c) :
    s.modCvu n f = s.modCvu n fun _ => f c :=
  congrArg (fun l => { s with cvu := l }) (modify_congr (g := fun _ => f c) hc rfl)

theorem Cvu.data_active {c : Cvu} (h : c.active = true) (v : Word) :
    c.data v = { c.feed (leBytes (if c.tail = 0 then 4 else c.tail) v) with tail := 0 } := if_pos h

theorem Cvu.data_idle {c : Cvu} (h : c.active = false) (v : Word) : c.data v = { c with evt := c.evt ||| 4 } := if_neg (by simp [h])

/-- The end of a calculation by whether its comparison fails. -/
theorem Cvu.finish_eq {c : Cvu} {bad : Bool} (hbad : bad = (bitOf c.cfg 10 && c.result != c.maskTo c.expect)) : c.finish =
    { c with active := false, matched := if bitOf c.cfg 10 then !bad else c.matched, evt := c.evt ||| 2 ||| (if bad then 1 else 0) } := by
  subst hbad
  unfold Cvu.finish
  cases bitOf c.cfg 10 <;> by_cases h : c.result = c.maskTo c.expect <;> simp [h]

section
variable {s : State} {n : Nat} {c : Cvu} (hc : s.cvu[n]? = some c)
include hc

theorem cvuFinish_active (hactive : c.active = true) {bad : Bool} (hbad : bad = (bitOf c.cfg 10 && c.result != c.maskTo c.expect)) :
    cvuFinish n s = (if bad && bitOf c.cfg 11 then cvuMessages c else id) (s.modCvu n fun _ =>
      { c with active := false, matched := if bitOf c.cfg 10 then !bad else c.matched, evt := c.evt ||| 2 ||| (if bad then 1 else 0) }) := by
  have htest : (bitOf c.cfg 10 && bitOf c.cfg 11 && c.result != c.maskTo c.expect) = (bad && bitOf c.cfg 11) := by
    rw [hbad, Bool.and_assoc, Bool.and_assoc, Bool.and_comm (bitOf c.cfg 11)]
  simp only [cvuFinish, hc, hactive, htest, Cvu.finish_eq hbad]
  cases bad && bitOf c.cfg 11 <;> rfl

theorem cvuFinish_idle (hidle : c.active = false) : cvuFinish n s = s.modCvu n fun _ => { c with evt := c.evt ||| 4 } := by
  simp only [cvuFinish, hc]
  exact (if_neg (by simp [hidle])).trans (State.modCvu_congr hc)

end

/-- A parity error of a unit of a media die, or of an SPD whose core is clocked. -/
theorem exec_cvuParityError {s : State} {x : CheckUnit} (hgated : unitGated s x = false) (hwindow : ∀ n, x ≠ .window n) (k : Option ReqKey) :
    exec (.cvuParityError x k) s = .next (match k with
      | none => countContained s
      | some k => (countContained s).modReq k fun q => { q with chunks := 0, tok := .start }) := by
  cases x with
  | window n => exact absurd rfl (hwindow n)
  | spd n u =>
    simp only [exec, execCvuParityError, hgated]
    rfl
  | media e f =>
    simp only [exec, execCvuParityError, hgated]
    rfl

/-! ### Gate lists -/

section
variable {s : State} {k : Fin 4} {r : SluRun} (hr : s.bw.lists[(k : Nat)]? = some r)
include hr

theorem exec_sluiceEntryChange_ptp (hlen : r.len ≠ 0) (hptp : r.stepAligned = false) : exec (.sluiceEntryChange k) s =
    .next (if r.cycleStart s.now = r.origin then
      s.modBw fun b => { b with lists := b.lists.set k ((r.begin r.origin s.period).advance s.now 257) }
    else sluCycle k false (r.cycleStart s.now) s) := by
  simp only [exec, execSluiceEntryChange, sluEntryChange, hr, if_neg hlen, hptp]
  rfl

theorem exec_sluiceEntryChange_step (hlen : r.len ≠ 0) (hstep : r.stepAligned = true) : exec (.sluiceEntryChange k) s =
    .next (if (s.tide.stepState == .none || s.tide.stepState == .lost) = true ∧ r.origin + s.period ≤ (s.now : Int) then
      s.modBw fun b => { b with lists := b.lists.set k (r.begin (r.origin + s.period) s.period) }
    else if r.hold then s
    else if (s.now : Int) < r.since + r.dur r.idx then s
    else match r.entryFrom (r.idx + 1) with
      | some j => s.modBw fun b => { b with lists := b.lists.set k { r with idx := j, since := r.since + r.dur r.idx } }
      | none => s.modBw fun b => { b with lists := b.lists.set k { r with hold := true, since := r.since + r.dur r.idx } }) := by
  simp only [exec, execSluiceEntryChange, sluEntryChange, hr, if_neg hlen, hstep, Bool.true_and]
  rfl

theorem exec_sluiceListTakeover {n : SluList} (hn : s.applied.slu[(k : Nat)]? = some n) : exec (.sluiceListTakeover k) s =
    if r.pending.any (fun t => decide (t ≤ (r.replaced n).cycleStart s.now)) && !bitOf n.list 9 then
      .next (sluCycle k true ((r.replaced n).cycleStart s.now) s)
    else .next s := by
  simp only [exec, execSluiceListTakeover, hr, hn]

end

/-- No start is predicted. -/
theorem not_predicted {b : Bool} {p : Prop} [Decidable p] (h : (b && decide p) = false) : ¬ (b = true ∧ p) := by
  simpa using h

/-- Settles O28: a unit by whether it is active, a list by what it is aligned to, a step of the operating point. -/
theorem checkValueUnitsComplete : Obligations.CheckValueUnitsComplete := by
  refine ⟨fun s n => rfl, fun s n k => rfl, ?_, ?_, ?_, ?_, fun s n k => rfl, ?_, ?_, ?_, ?_, ?_, ?_, ?_, ?_, ?_, ?_, ?_⟩
  · intro s n v c hc hactive
    exact congrArg Host.Outcome.next ((State.modCvu_congr hc).trans (by rw [Cvu.data_active hactive]))
  · intro s n v c hc hidle
    exact congrArg Host.Outcome.next ((State.modCvu_congr hc).trans (by rw [Cvu.data_idle hidle]))
  · intro s n c bad hc hactive hbad
    exact congrArg Host.Outcome.next (cvuFinish_active hc hactive hbad)
  · intro s n c hc hidle
    exact congrArg Host.Outcome.next (cvuFinish_idle hc hidle)
  · intro s d u e f hclocked
    exact ⟨exec_cvuParityError (by simp [unitGated, hclocked]) (by simp) none, exec_cvuParityError rfl (by simp) none⟩
  · intro s d u e f k hclocked
    exact ⟨exec_cvuParityError (by simp [unitGated, hclocked]) (by simp) (some k), exec_cvuParityError rfl (by simp) (some k)⟩
  · intro s k r hr hlen hptp hcycle
    rw [exec_sluiceEntryChange_ptp hr hlen hptp, if_pos hcycle]
  · intro s k r hr hlen hptp hcycle
    rw [exec_sluiceEntryChange_ptp hr hlen hptp, if_neg hcycle]
  · intro s k r j hr hlen hhold hstep hpredicted hend hnext
    rw [exec_sluiceEntryChange_step hr hlen hstep, if_neg (not_predicted hpredicted), hhold, if_neg Bool.false_ne_true,
      if_neg (Int.not_lt.mpr hend), hnext]
  · intro s k r hr hlen hhold hstep hpredicted hend hnext
    rw [exec_sluiceEntryChange_step hr hlen hstep, if_neg (not_predicted hpredicted), hhold, if_neg Bool.false_ne_true,
      if_neg (Int.not_lt.mpr hend), hnext]
  · intro s k r hr hlen hstep hpredicted hdue
    rw [exec_sluiceEntryChange_step hr hlen hstep, if_pos ⟨hpredicted, hdue⟩]
  · rintro s k r hr (hlen | ⟨hstep, hpredicted, hstands⟩)
    · simp only [exec, execSluiceEntryChange, sluEntryChange, hr, if_pos hlen]
    · by_cases hlen : r.len = 0
      · simp only [exec, execSluiceEntryChange, sluEntryChange, hr, if_pos hlen]
      rw [exec_sluiceEntryChange_step hr hlen hstep, if_neg (not_predicted hpredicted)]
      rcases hstands with hhold | hbefore
      · rw [if_pos hhold]
      · rw [if_pos hbefore, ite_self]
  · rintro s k r new n at' start hr hn hpending hptp rfl hstart hdue
    have hcycle : start = (r.replaced n).cycleStart s.now := hstart
    rw [exec_sluiceListTakeover hr hn, ← hcycle]
    exact if_pos (by rw [hpending, hptp]; simpa using hdue)
  · rintro s k r new n start hr hn rfl hstart hstands
    have hcycle : start = (r.replaced n).cycleStart s.now := hstart
    rw [exec_sluiceListTakeover hr hn, ← hcycle]
    refine if_neg ?_
    rcases hstands with hnone | hstep | ⟨at', hpending, hbefore⟩
    · simp [hnone]
    · simp [hstep]
    · simp [hpending, Int.not_le.mpr hbefore]
  · rintro s n d e f hd hserves haclk hon hmoves rfl
    have hmay : ¬ (!d.serving || !(d.power.aclk == .pll || d.power.aclk == .gated) || s.pwr.off ||
        (d.freqPt == s.pwr.opTarget && d.voltPt == s.pwr.opTarget)) = true := by
      simp only [hserves, hon]
      simp
      tauto
    simp only [exec, execOpStepDone, hd, if_neg hmay]
    cases ((d.opStep s.pwr.opTarget f).freqHeld && !d.freqHeld) || ((d.opStep s.pwr.opTarget f).voltHeld && !d.voltHeld) <;> rfl

end Sys2Proof.Machine
end

section
/-! Datasets are created, written, flushed, sealed and deleted (R65, R88, R107 to R110, R360, R361, R465). -/

namespace Sys2Proof.Machine

/-! ### Commands with data, and commands of a partition -/

theorem runPlain_starts {id : CmdId} {op : Nat} {c : Cmd} {s : State} (h : Starts id op c false none s) {body : Cmd → State → State} :
    runPlain id op body s = .next (body c s) :=
  runCmd_starts h rfl rfl

/-- A command whose data have been read runs on them. -/
theorem runDataSec_starts {id : CmdId} {op : Nat} {c : Cmd} {s : State} (h : Starts id op c false none s) {d : HostData}
    {bs : List Byte} (hlist : c.listBad d = false) (hfetched : c.fetched d = some bs) {bad : Cmd → Option (List Byte) → Bool}
    {sec : Cmd → Option (List Byte) → Option Nat} (hbad : bad c (some bs) = false) (hsec : sec c (some bs) = none)
    {body : Cmd → List Byte → State → State} : runDataSec id op d bad sec body s = .next (body c bs s) := by
  refine (runCmd_starts h ?_ ?_).trans ?_
  · rw [hlist, hfetched, hbad]
    rfl
  · rw [hfetched, hsec]
  · rw [hfetched]

section
variable {c : Cmd} {s : State}

theorem onMedia_of_supported (h : s.media.unsupported = none) (f : Cmd → State → State) : onMedia f c s = f c s := if_neg (by simp [h])

theorem onMedia_of_refused (h : s.media.unsupported.isSome = true) (f : Cmd → State → State) : onMedia f c s = finish c stUnsupported [] s :=
  if_pos h

variable {p : Partition}

theorem onPart_of_part (h : s.media.unsupported = none) (hp : c.part s = some p) (f : Cmd → Partition → State → State) :
    onPart f c s = f c p s := by
  refine (onMedia_of_supported h _).trans ?_
  rw [hp]

theorem onPart_of_none (h : s.media.unsupported = none) (hp : c.part s = none) (f : Cmd → Partition → State → State) :
    onPart f c s = finish c stUnknown [] s := by
  refine (onMedia_of_supported h _).trans ?_
  rw [hp]

end

/-! ### Each of the five -/

section
variable {s : State} {id : CmdId} {c : Cmd} {d : HostData} {bs : List Byte}

theorem exec_datasetCreate (hstarts : Starts id 0x20 c false none s) (hkey : s.sec.jobKey.isSome = true) (hlist : c.listBad d = false)
    (hlen : c.dlen % 4 = 0) (hfetched : c.fetched d = some bs) (hmedia : s.media.unsupported = none) :
    exec (.datasetCreate id d) s = .next (match createStatus c s with
      | some st => finish c st [] s
      | none =>
        let p := newPartition c s.media.freeSlot (wordsOf bs (c.dlen / 4)) (((s.sec.jobKey).map keyCheck).getD 0)
          (drawBytes 64 s).1 (((s.sec.jobKey).map fun k => aesWrap (leBytes 32 k) (drawBytes 64 s).1).getD [])
        finish c stSuccess [] (programMedia (fun m =>
          Media.describe p.dsSlot s.mono { m with partitions := m.partitions ++ [p] }) (drawBytes 64 s).2)) := by
  simp only [exec, execDatasetCreate]
  rw [runDataSec_starts hstarts hlist hfetched (by simp [hlen]) (if_neg (by simp [Option.isSome_iff_ne_none.mp hkey])),
    onMedia_of_supported hmedia] <;> rfl

variable {p : Partition}

/-- A WRITE that names a partition whose key is loaded, by its samples. -/
theorem exec_write (hstarts : Starts id 0x21 c false none s) (hkey : keyReason (c.part s) s = none) (hlist : c.listBad d = false)
    (hfetched : c.fetched d = some bs) (hbad : writeBad c (some bs) s = false) (hmedia : s.media.unsupported = none)
    (hp : c.part s = some p) : exec (.write id d) s = .next
      (if 2 ^ 24 < c.arg 48 4 then finish c 0x0205 [] s
      else if (wordsOf bs (c.arg 48 4)).any (decide <| maxSample < ·) then finish c 0x0206 [] s
      else match writeStatus p (c.arg 40 8) (cutSamples (wordsOf bs (c.arg 48 4)) (bs.drop (4 * c.arg 48 4))) s with
        | some st => finish c st [] s
        | none =>
          match shardIn p.dsSlot (c.arg 36 4) (c.arg 40 8) (cutSamples (wordsOf bs (c.arg 48 4)) (bs.drop (4 * c.arg 48 4))) s with
          | (some w, a) => finish c stSuccess (natBytes 4 w) a
          | (none, a) => a.setRun c (.writeHeld p.dsSlot (c.arg 36 4) (c.arg 40 8)
              (cutSamples (wordsOf bs (c.arg 48 4)) (bs.drop (4 * c.arg 48 4))))) := by
  simp only [exec, execWrite]
  rw [runDataSec_starts hstarts hlist hfetched hbad hkey, onPart_of_part hmedia hp] <;> rfl

/-- No length is over the limit where all are within it. -/
theorem any_over_eq (ls : List Nat) : (ls.any (decide <| maxSample < ·)) = !(ls.all (decide <| · ≤ maxSample)) := by
  rw [List.not_all_eq_any_not]
  simp only [← Nat.not_le, decide_not]

theorem exec_flush (hstarts : Starts id 0x22 c false none s) : exec (.flush id) s = .next
    (onPart (fun c p t => if t.media.qsLayout then finish c stLayout (natBytes 4 p.durable) t
      else t.setRun c (.flush p.dsSlot p.completed false none)) c s) :=
  runPlain_starts hstarts

theorem exec_sealPartition (hstarts : Starts id 0x23 c false none s) (hkey : keyReason (c.part s) s = none)
    (hmedia : s.media.unsupported = none) (hp : c.part s = some p) : exec (.sealPartition id) s = .next
      (if p.sealed then finish c stSuccess (natBytes 4 p.sealWseq) s
      else if s.media.qsLayout then finish c stLayout (natBytes 4 p.durable) s
      else s.setRun c (.flush p.dsSlot p.completed true none)) := by
  simp only [exec, execSealPartition]
  rw [runCmd_starts hstarts rfl hkey, onPart_of_part hmedia hp]

theorem exec_datasetDelete (hstarts : Starts id 0x24 c false none s) : exec (.datasetDelete id) s = .next
    (onPart (fun c p t => if t.run.streams.any (·.dsSlot == p.dsSlot) then finish c 0x0307 [] t
      else if t.media.qsLayout then finish c stLayout [] t
      else finish c stSuccess [] (deletePartition p t)) c s) :=
  runPlain_starts hstarts

end

/-- Settles O29: each command that starts, by the media, its partition and its own checks. -/
theorem datasetsAreCreatedAndWritten : Obligations.DatasetsAreCreatedAndWritten := by
  refine ⟨?_, ?_, ?_, ?_, ?_, ?_, ?_, ?_, ?_, ?_, ?_, ?_, ?_, ?_, ?_, ?_⟩
  · rintro s a id c d bs key k p hstarts hkey hlist hlen hfetched hmedia hstatus hdraw rfl
    rw [exec_datasetCreate hstarts (by rw [hkey]; rfl) hlist hlen hfetched hmedia, hstatus, hdraw, hkey]
    rfl
  · intro s id c d bs n hstarts hkey hlist hlen hfetched hmedia hstatus
    rw [exec_datasetCreate hstarts hkey hlist hlen hfetched hmedia, hstatus]
  · rintro s a id c d bs p xs w hstarts hkey hlist hfetched hbad hmedia hp hfew hshort rfl hstatus hshard
    rw [exec_write hstarts hkey hlist hfetched hbad hmedia hp, any_over_eq, hshort, hstatus, hshard, if_neg (Nat.not_lt.mpr hfew)]
    rfl
  · rintro s a id c d bs p xs hstarts hkey hlist hfetched hbad hmedia hp hfew hshort rfl hstatus hshard
    rw [exec_write hstarts hkey hlist hfetched hbad hmedia hp, any_over_eq, hshort, hstatus, hshard, if_neg (Nat.not_lt.mpr hfew)]
    rfl
  · rintro s id c d bs p xs n hstarts hkey hlist hfetched hbad hmedia hp hfew hshort rfl hstatus
    rw [exec_write hstarts hkey hlist hfetched hbad hmedia hp, any_over_eq, hshort, hstatus, if_neg (Nat.not_lt.mpr hfew)]
    rfl
  · intro s id c d bs p hstarts hkey hlist hfetched hbad hmedia hp hmany
    rw [exec_write hstarts hkey hlist hfetched hbad hmedia hp, if_pos hmany]
  · intro s id c d bs p hstarts hkey hlist hfetched hbad hmedia hp hfew hlong
    rw [exec_write hstarts hkey hlist hfetched hbad hmedia hp, any_over_eq, hlong, if_neg (Nat.not_lt.mpr hfew)]
    rfl
  · intro s id c p hstarts hmedia hp hlayout
    rw [exec_flush hstarts, onPart_of_part hmedia hp, if_neg (by simp [hlayout])]
  · intro s id c p hstarts hkey hmedia hp hopen hlayout
    rw [exec_sealPartition hstarts hkey hmedia hp, if_neg (by simp [hopen]), if_neg (by simp [hlayout])]
  · intro s id c p hstarts hkey hmedia hp hsealed
    rw [exec_sealPartition hstarts hkey hmedia hp, if_pos hsealed]
  · intro s id c p hmedia hp hlayout
    refine ⟨fun hstarts => ?_, fun hstarts hkey hopen => ?_⟩
    · rw [exec_flush hstarts, onPart_of_part hmedia hp, if_pos hlayout]
    · rw [exec_sealPartition hstarts hkey hmedia hp, if_neg (by simp [hopen]), if_pos hlayout]
  · intro s id c p hstarts hmedia hp hunread hlayout
    rw [exec_datasetDelete hstarts, onPart_of_part hmedia hp, if_neg (by simp only [hunread, Bool.false_eq_true, not_false_eq_true]),
      if_neg (by simp [hlayout])]
  · intro s id c p hstarts hmedia hp hread
    rw [exec_datasetDelete hstarts, onPart_of_part hmedia hp, if_pos hread]
  · intro s id c p hstarts hmedia hp hunread hlayout
    rw [exec_datasetDelete hstarts, onPart_of_part hmedia hp, if_neg (by simp only [hunread, Bool.false_eq_true, not_false_eq_true]),
      if_pos hlayout]
  · intro s id c hmedia hp
    refine ⟨fun hstarts => ?_, fun hstarts => ?_⟩
    · rw [exec_flush hstarts, onPart_of_none hmedia hp]
    · rw [exec_datasetDelete hstarts, onPart_of_none hmedia hp]
  · intro s id c hrefused
    refine ⟨fun hstarts => ?_, fun hstarts => ?_⟩
    · rw [exec_flush hstarts, onPart, onMedia_of_refused hrefused]
    · rw [exec_datasetDelete hstarts, onPart, onMedia_of_refused hrefused]

end Sys2Proof.Machine
end

section
/-! FORMAT and the reports on datasets and media (R88, R117, R119, R360, R362). -/

namespace Sys2Proof.Machine

section
variable {id : CmdId} {op : Nat} {c : Cmd} {s : State} (h : Starts id op c false none s) {d : HostData} (hlist : c.listBad d = false)
include h hlist

/-- A report whose buffer has been read. -/
theorem runData_starts {bs : List Byte} (hfetched : c.fetched d = some bs) {body : Cmd → List Byte → State → State} :
    runData id op d (fun _ _ => false) body s = .next (body c bs s) :=
  runDataSec_starts h hlist hfetched rfl rfl

/-- A command whose buffer cannot be read or written. -/
theorem runData_fault (hfetched : c.fetched d = none) {body : Cmd → List Byte → State → State} :
    runData id op d (fun _ _ => false) body s = .next (finish c stDataTransfer [] s) := by
  rw [runData, runDataSec, runCmd_starts h (by rw [hlist]; rfl) rfl, hfetched]

end

/-- FORMAT of media that are supported, by whether a job is active. -/
theorem exec_format {id : CmdId} {c : Cmd} {s : State} (hstarts : Starts id 0x0A c false none s) (hmedia : s.media.unsupported = none) :
    exec (.format id) s = .next (if s.jobActive then finish c stJobActive [] s
      else finish c stSuccess [] (mediaReasons (clearReason 0x12 0 (clearReason 0x11 0
        (((setMedia Media.formatted s).each (s.media.partitions.map (·.dsSlot)) fun i u => clearReason 0x15 i u).each s.media.failedDies
          fun i u => clearReason 0x13 i u))))) := by
  simp only [exec, execFormat]
  rw [runPlain_starts hstarts, onMedia_of_supported hmedia]

/-- Settles O30: each command that starts, by the media and by its buffer. -/
theorem mediaCommandsComplete : Obligations.MediaCommandsComplete := by
  refine ⟨?_, ?_, ?_, ?_, ?_, ?_, ?_⟩
  · intro s id c hstarts hmedia hidle
    rw [exec_format hstarts hmedia, if_neg (by simp [hidle])]
  · intro s id c hstarts hmedia hactive
    rw [exec_format hstarts hmedia, if_pos hactive]
  · rintro s id c d bs p es hstarts hlist hfetched hmedia hp rfl
    simp only [exec, execDefectList]
    rw [runData_starts hstarts hlist hfetched, onPart_of_part hmedia hp]
  · rintro s id c d bs out hstarts hlist hfetched hmedia rfl
    simp only [exec, execMediaStatus]
    rw [runData_starts hstarts hlist hfetched, onMedia_of_supported hmedia]
  · intro s id c d bs hstarts hlist hfetched
    simp only [exec, execMediaHealth]
    rw [runData_starts hstarts hlist hfetched]
  · intro s id c d hlist hfetched
    simp only [exec, execDefectList, execMediaStatus, execMediaHealth]
    exact ⟨fun hstarts => runData_fault hstarts hlist hfetched, fun hstarts => runData_fault hstarts hlist hfetched,
      fun hstarts => runData_fault hstarts hlist hfetched⟩
  · intro s id c d bs hrefused hlist hfetched
    refine ⟨fun hstarts => ?_, fun hstarts => ?_, fun hstarts => ?_⟩
    · simp only [exec, execFormat]
      rw [runPlain_starts hstarts, onMedia_of_refused hrefused]
    · simp only [exec, execDefectList]
      rw [runData_starts hstarts hlist hfetched, onPart, onMedia_of_refused hrefused]
    · simp only [exec, execMediaStatus]
      rw [runData_starts hstarts hlist hfetched, onMedia_of_refused hrefused]

end Sys2Proof.Machine
end

section
/-! IDENTIFY, PORT_CONFIG and the commands of a job (R35, R354 to R359, R526). -/

namespace Sys2Proof.Machine

/-! ### The shards of a COPY_FROM_PEER -/

section
variable {s : State} {c : Cmd} {p : Partition} {x : Fetch}

/-- A shard that has arrived is written as WRITE writes it. -/
theorem copyOn_arrived {w n first : Nat} {ls : List Nat} {rest : List (Nat × Nat × List Nat)} (aborted : Bool)
    (hfetch : s.egr.fetches.find? (·.id == .shard c.id) = some x) (harrived : x.state = .complete)
    (hstatus : writeStatus p first (cutSamples ls x.bytes) s = none) (hsize : first + (cutSamples ls x.bytes).length ≤ p.size) :
    copyOn c p w ((n, first, ls) :: rest) aborted s = (match shardIn p.dsSlot n first (cutSamples ls x.bytes) s with
      | (some v, t) => copyNext c p v rest aborted (dropFetch (.shard c.id) t)
      | (none, t) => t) := by
  simp only [copyOn, hfetch, harrived, copyShard, hstatus]
  exact if_neg (Nat.not_lt.mpr hsize)

theorem copyOn_failed {w : Nat} {y : Nat × Nat × List Nat} {rest : List (Nat × Nat × List Nat)} (aborted : Bool)
    (hfetch : s.egr.fetches.find? (·.id == .shard c.id) = some x) (hfailed : x.state = .failed) :
    copyOn c p w (y :: rest) aborted s = finish c 0x0607 (natBytes 4 w) (dropFetch x.id s) := by
  simp only [copyOn, hfetch, hfailed]

end

/-- A command of a partition whose key is loaded. -/
theorem runCmd_onPart {id : CmdId} {op : Nat} {c : Cmd} {s : State} {p : Partition} (hstarts : Starts id op c false none s)
    (hkey : keyReason (c.part s) s = none) (hmedia : s.media.unsupported = none) (hp : c.part s = some p)
    {body : Cmd → Partition → State → State} :
    runCmd id op (fun _ => false) (fun c => keyReason (c.part s) s) (onPart body) s = .next (body c p s) := by
  rw [runCmd_starts hstarts rfl hkey, onPart_of_part hmedia hp]

/-- A copy that is under way goes on over its partition, or ends where that has gone. -/
theorem exec_copyFromPeer_running {s : State} {id : CmdId} {c : Cmd} {w : Nat} {rest : List (Nat × Nat × List Nat)} {ab : Bool}
    (hc : (s.cmd? id fun c => match c.run with | .copying .. => true | _ => false) = some c) (hrun : c.run = .copying w rest ab)
    (xs : List (Nat × Nat × List Nat)) : exec (.copyFromPeer id xs) s = .next (jobEndOn (match c.part s with
      | some p => copyOn c p w rest ab s
      | none => finish c stUnknown (natBytes 4 w) (dropFetch (.shard c.id) s))) := by
  simp only [exec, execCopyFromPeer]
  split
  case h_1 c' hsome =>
    obtain rfl : c' = c := Option.some.inj (hsome.symm.trans hc)
    simp only [hrun]
    cases c'.part s <;> rfl
  case h_2 hnone => exact absurd (hnone.symm.trans hc) (by simp)

/-- A copy that begins over a partition that stands, by its connection. -/
theorem exec_copyFromPeer_new {s : State} {id : CmdId} {c : Cmd} {p : Partition}
    (hnew : (s.cmd? id fun c => match c.run with | .copying .. => true | _ => false) = none) (hstarts : Starts id 0x28 c false none s)
    (hkey : keyReason (c.part s) s = none) (hmedia : s.media.unsupported = none) (hp : c.part s = some p)
    (xs : List (Nat × Nat × List Nat)) : exec (.copyFromPeer id xs) s = .next (match s.conn? (c.arg 36 4) with
      | none => finish c 0x0603 (natBytes 4 0) s
      | some k =>
        if !k.peer then finish c 0x0603 (natBytes 4 0) s
        else if k.error.isSome then finish c 0x0607 (natBytes 4 0) (setEv .egr 0x200 s)
        else copyNext c p 0 xs false s) := by
  simp only [exec, execCopyFromPeer]
  split
  case h_1 c' hsome => exact absurd (hnew.symm.trans hsome) (by simp)
  case h_2 =>
    refine (runCmd_onPart hstarts hkey hmedia hp).trans ?_
    cases s.conn? (c.arg 36 4) <;> rfl

/-- Settles O31: a command that starts runs its body, and a copy under way goes on with the read of its shard. -/
theorem jobCommandsComplete : Obligations.JobCommandsComplete := by
  refine ⟨?_, ?_, ?_, ?_, ?_, ?_, ?_, ?_, ?_, ?_, ?_, ?_, ?_, ?_, ?_⟩
  · intro s id c hstarts
    exact runPlain_starts hstarts
  · intro s id c hstarts hmode
    simp only [exec, execPortConfig]
    exact runCmd_starts hstarts (by rw [hmode]; rfl) rfl
  · intro s id c d bs hstarts hlist hfetched hgood hstatus
    simp only [exec, execJobSetup, runData]
    rw [runDataSec_starts hstarts hlist hfetched hgood rfl, hstatus]
  · intro s id c d bs n hstarts hlist hfetched hgood hstatus
    simp only [exec, execJobSetup, runData]
    rw [runDataSec_starts hstarts hlist hfetched hgood rfl, hstatus]
  · intro s id c d hstarts hlist hfetched
    simp only [exec, execJobSetup, runData, runDataSec]
    rw [runCmd_starts hstarts (by rw [hlist, hfetched]; rfl) rfl, hfetched]
  · intro s id c hstarts hjob
    simp only [exec, execJobEnd]
    rw [runPlain_starts hstarts, if_neg (by simpa [Option.isSome_iff_ne_none] using hjob)]
  · intro s id c hstarts
    simp only [exec, execStepMark]
    exact runPlain_starts hstarts
  · intro s id c xs p n hnew hstarts hkey hmedia hp hconn hpeer herror
    simp only [exec_copyFromPeer_new hnew hstarts hkey hmedia hp, hconn, herror, hpeer]
    rfl
  · intro s id c xs rest ab w p hc hrun hp
    simp only [exec_copyFromPeer_running hc hrun, hp]
  · rintro s c p w n first ls rest ab x xs hfetch harrived rfl hstatus hsize
    exact copyOn_arrived ab hfetch harrived hstatus hsize
  · intro s c p w y rest ab x hfetch hfailed
    exact copyOn_failed ab hfetch hfailed
  · intro s c p w n first ls rest ab
    exact ⟨rfl, rfl⟩
  · intro s id c xs p hnew hstarts hkey hmedia hp hnone
    rw [exec_copyFromPeer_new hnew hstarts hkey hmedia hp]
    cases hconn : s.conn? (c.arg 36 4) with
    | none => rfl
    | some n =>
      have hpeer : n.peer = false := by simpa [hconn] using hnone
      simp [hpeer]
  · intro s id c xs p n hnew hstarts hkey hmedia hp hconn hpeer herror
    simp only [exec_copyFromPeer_new hnew hstarts hkey hmedia hp, hconn, herror, hpeer]
    rfl
  · intro s id c xs rest ab w hc hrun hp
    simp only [exec_copyFromPeer_running hc hrun, hp]

end Sys2Proof.Machine
end

section
/-! Streams are set up, started, stopped, moved and reported; tables are loaded; tokens become text (R66 to R75, R209 to R230, R363,
R364). -/

namespace Sys2Proof.Machine

/-! ### Commands of a stream -/

section
variable {id : CmdId} {op : Nat} {c : Cmd} {s : State} (hstarts : Starts id op c false none s)
include hstarts

/-- A command of a stream that is held runs on it, and of one that is not it answers that it is unknown. -/
theorem runPlain_onStream {t : Stream} (ht : s.stream? (c.arg 24 1) = some t) {body : Cmd → Stream → State → State} :
    runPlain id op (onStream body) s = .next (body c t s) := by
  rw [runPlain_starts hstarts, onStream, ht]

theorem runPlain_onStream_none (ht : s.stream? (c.arg 24 1) = none) {body : Cmd → Stream → State → State} :
    runPlain id op (onStream body) s = .next (finish c stStreamUnknown [] s) := by
  rw [runPlain_starts hstarts, onStream, ht]

end

section
variable {s : State} {id : CmdId} {c : Cmd}

/-- A setup whose records name a partition whose key is loaded. -/
theorem exec_streamSetup {d : HostData} {bs : List Byte} {rs : List Rec} {p : Partition} (hstarts : Starts id 0x30 c false none s)
    (hlist : c.listBad d = false) (hfetched : c.fetched d = some bs) (hrecs : parseRecs bs.length bs = some rs)
    (hgood : setupFieldBad (c.arg 24 1) bs s = false) (hkey : keyReason (setupPart rs s) s = none) (hp : setupPart rs s = some p) :
    exec (.streamSetup id d) s = .next (if 64 ≤ s.run.streams.length then finish c 0x0301 [] s
      else match streamStatus rs (streamOf (c.arg 24 1) rs p) p s with
        | some e => finish c e [] s
        | none => finish c stSuccess [] (loseDead (c.arg 24 1) (addStream (streamOf (c.arg 24 1) rs p) s))) := by
  have hrs : (parseRecs bs.length bs).getD [] = rs := by rw [hrecs]; rfl
  simp only [exec, execStreamSetup]
  rw [runDataSec_starts hstarts hlist hfetched, hrs, hp]
  · rfl
  · exact hgood
  · rw [← hkey, ← hrs]
    rfl

variable {t : Stream} (ht : s.stream? (c.arg 24 1) = some t)
include ht

theorem exec_streamStart (hstarts : Starts id 0x31 c false none s) : exec (.streamStart id) s = .next (match t.state with
    | .ended => finish c 0x0308 [] s
    | .running => finish c stSuccess [] s
    | .stopped =>
      if (((endIfDone t.num s).stream? t.num).map (·.state)) = some .ended then finish c 0x0308 [] (endIfDone t.num s)
      else finish c stSuccess [] (dueKeys t.dsSlot (fun _ => true) (s.modStream t.num fun x =>
        { x with state := .running, issued := some ((x.next * x.b : Nat) - 1 : Int) }))) := by
  simp only [exec, execStreamStart]
  rw [runPlain_onStream hstarts ht] <;> rfl

theorem exec_seek (hstarts : Starts id 0x33 c false none s) {p : Partition} (hp : s.partFor t = some p) {g : Nat}
    (hg : g = c.arg 32 4 * t.epochLen p + c.arg 40 8) : exec (.seek id) s = .next
      (if g % t.b ≠ 0 then finish c 0x0305 [] s
      else if t.total p ≤ g then finish c 0x0306 [] s
      else if t.state = .running ∨ !streamIdle t.num s then finish c 0x0307 [] s
      else finish c stSuccess [] (staleKeys t.dsSlot (loseDead t.num (s.modStream t.num fun x =>
        { x with state := .stopped, next := g / t.b, b0 := g / t.b, groups := x.groups.map fun q =>
          { q with members := q.members.map fun m => { m with lost := false, returns := [] } } })))) := by
  subst hg
  simp only [exec, execSeek]
  rw [runPlain_onStream hstarts ht, hp]

/-- Tokens that lie in the buffer of a stream of text. -/
theorem exec_detokenise (hstarts : Starts id 0x41 c false none s) {d : HostData} {bs : List Byte} (hlist : c.listBad d = false)
    (hfetched : c.fetched d = some bs) (htext : t.cls = 4) (hlen : 4 * c.arg 28 4 ≤ c.dlen) : exec (.detokenise id d) s = .next
      (match ((wordsOf bs (c.arg 28 4)).map (detokenise1 s t.txt)).findIdx? Option.isNone with
      | some i => finish c stInvalidField (natBytes 8 0 ++ natBytes 4 i) s
      | none =>
        let bytes := (((wordsOf bs (c.arg 28 4)).map (detokenise1 s t.txt)).flatMap fun o => o.getD []).take c.dlen
        finish c stSuccess (natBytes 8 bytes.length) (c.writeData d bytes s)) := by
  simp only [exec, execDetokenise, runData]
  rw [runDataSec_starts hstarts hlist hfetched (by simp [ht, htext, hlen]) rfl, onStream, ht] <;> rfl

end

/-- A stop that waits ends once nothing of its stream is in flight (R283). -/
theorem exec_streamStopComplete {s : State} {id : CmdId} {c : Cmd} {n : Nat}
    (hc : (s.cmd? id fun c => match c.run with | .streamStop _ => true | _ => false) = some c) (hrun : c.run = .streamStop n)
    (hidle : streamIdle n s = true) : exec (.streamStopComplete id) s = .next (jobEndOn (finish c stSuccess [] s)) := by
  simp only [exec, execStreamStopComplete]
  split
  case h_1 hnone => exact absurd (hnone.symm.trans hc) (by simp)
  case h_2 c' hsome =>
    obtain rfl : c' = c := Option.some.inj (hsome.symm.trans hc)
    simp only [hrun]
    exact if_pos hidle

/-- Settles O32: a command of a stream by the state of the stream, a load and a detokenisation by their data. -/
theorem streamCommandsComplete : Obligations.StreamCommandsComplete := by
  refine ⟨?_, ?_, ?_, ?_, ?_, ?_, ?_, ?_, ?_, ?_, ?_, ?_, ?_, ?_, ?_, ?_, ?_, ?_⟩
  · intro s id c d bs rs p hstarts hlist hfetched hrecs hgood hkey hp hroom hstatus
    rw [exec_streamSetup hstarts hlist hfetched hrecs hgood hkey hp, if_neg (Nat.not_le.mpr hroom), hstatus]
  · intro s id c d bs rs p n hstarts hlist hfetched hrecs hgood hkey hp hroom hstatus
    rw [exec_streamSetup hstarts hlist hfetched hrecs hgood hkey hp, if_neg (Nat.not_le.mpr hroom), hstatus]
  · intro s id c d bs rs p hstarts hlist hfetched hrecs hgood hkey hp hfull
    rw [exec_streamSetup hstarts hlist hfetched hrecs hgood hkey hp, if_pos hfull]
  · intro s e id c t hstarts ht hstate he
    rw [exec_streamStart ht hstarts, hstate, he]
  · intro s id c t hstarts ht hstate
    rw [exec_streamStart ht hstarts, hstate]
  · intro s id c t hstarts ht hstate
    rw [exec_streamStart ht hstarts, hstate]
  · intro s u id c t hstarts ht hstate hu
    simp only [exec, execStreamStop]
    rw [runPlain_onStream hstarts ht, if_pos hstate, hu]
  · intro s id c t hstarts ht hstate
    simp only [exec, execStreamStop]
    rw [runPlain_onStream hstarts ht, if_neg hstate]
  · intro s id c n hc hrun hidle
    exact exec_streamStopComplete hc hrun hidle
  · intro s id c t p g hstarts ht hp hg hstart hin hrest hidle
    rw [exec_seek ht hstarts hp hg, if_neg (not_not.mpr hstart), if_neg (Nat.not_le.mpr hin), if_neg (by simp [hrest, hidle])]
  · intro s id c t p g hstarts ht hp hg hrefused
    rw [exec_seek ht hstarts hp hg]
    by_cases hstart : g % t.b ≠ 0
    · rw [if_pos hstart, if_pos hstart]
    by_cases hend : t.total p ≤ g
    · rw [if_neg hstart, if_neg hstart, if_pos hend, if_pos hend]
    have hmoves : t.state = .running ∨ (!streamIdle t.num s) = true := by
      rcases hrefused with h | h | h | h
      · exact absurd h hstart
      · exact absurd h hend
      · exact .inl h
      · exact .inr (by rw [h]; rfl)
    rw [if_neg hstart, if_neg hstart, if_neg hend, if_neg hend, if_pos hmoves]
  · intro s id c t p hstarts ht hp
    simp only [exec, execStreamStatus]
    rw [runPlain_onStream hstarts ht, hp]
    rfl
  · intro s id c d bs x hstarts hlist hfetched hx hstatus
    simp only [exec, execTableLoad]
    rw [runData_starts hstarts hlist hfetched, hx]
    simp only [hstatus]
  · intro s id c d bs hstarts hlist hfetched hx
    simp only [exec, execTableLoad]
    rw [runData_starts hstarts hlist hfetched, hx]
  · intro s id c d bs x n hstarts hlist hfetched hx hstatus
    simp only [exec, execTableLoad]
    rw [runData_starts hstarts hlist hfetched, hx]
    simp only [hstatus]
  · rintro s id c d bs out t xs hstarts hlist hfetched ht htext hlen rfl hall rfl
    rw [exec_detokenise ht hstarts hlist hfetched htext hlen, hall]
  · intro s id c d bs t i hstarts hlist hfetched ht htext hlen hbad
    rw [exec_detokenise ht hstarts hlist hfetched htext hlen, hbad]
  · intro s id c ht
    simp only [exec, execStreamStart, execStreamStop, execSeek, execStreamStatus]
    exact ⟨fun hstarts => runPlain_onStream_none hstarts ht, fun hstarts => runPlain_onStream_none hstarts ht,
      fun hstarts => runPlain_onStream_none hstarts ht, fun hstarts => runPlain_onStream_none hstarts ht⟩

end Sys2Proof.Machine
end

section
/-! Connections and keys are made and withdrawn (R272 to R279, R295, R299, R407). -/

namespace Sys2Proof.Machine

section
variable {s : State} {id : CmdId} {c : Cmd}

/-- A CONNECT whose fields and key hold, by the connections there are. -/
theorem exec_connect {d : HostData} {bs : List Byte} (hstarts : Starts id 0x50 c false none s) (hlist : c.listBad d = false)
    (hfetched : c.fetched d = some bs) (hgood : bs.length = 64 → connectReserved bs = false) (hkey : noConnKey bs s = false) :
    exec (.connect id d) s = .next
      (if 262144 ≤ s.egr.conns.length then finish c 0x0601 [] s
      else if bs.length ≠ 64 ∨ 262144 ≤ c.arg 24 4 ∨ (s.conn? (c.arg 24 4)).isSome ∨ connectRange bs s then finish c 0x0602 [] s
      else finish c stSuccess (natBytes 4 (deviceQpn (c.arg 24 4))) ((firstHeartbeat (c.arg 24 4) s).2.modEgr fun e =>
        { e with conns := e.conns ++ [newConn (c.arg 24 4) (firstHeartbeat (c.arg 24 4) s).1 bs s] })) := by
  simp only [exec, execConnect]
  rw [runDataSec_starts hstarts hlist hfetched]
  · by_cases hlen : bs.length = 64 <;> simp [hlen, hgood]
  · simp [hkey]

/-- A grant whose protection domain and rights are in range. -/
theorem exec_mooringGrant (hstarts : Starts id 0x54 c false none s) (hlow : 1 ≤ c.arg 24 2) (hhigh : c.arg 24 2 ≤ 1023)
    (hrights : c.arg 26 1 ≤ 3) : exec (.mooringGrant id) s = .next
      (if c.arg 26 1 = 0 then
        match s.mooring? (spaceKey + c.arg 24 2) with
        | none => finish c stSuccess (natBytes 4 ((spaceKey + c.arg 24 2) * 65536 + 1)) s
        | some m => finish c stSuccess (leBytes 4 m.key) (if m.state = .valid then revoke m s else s)
      else if ((s.mooring? (spaceKey + c.arg 24 2)).map (·.state)) = some .revoking then finish c stMooringUnknown [] s
      else if ((s.mooring? (spaceKey + c.arg 24 2)).map (·.state)) = some .valid then
        finish c stSuccess (leBytes 4 (((s.mooring? (spaceKey + c.arg 24 2)).map (·.key)).getD 0))
          (s.modMooring (spaceKey + c.arg 24 2) fun m => { m with rights := c.arg 26 1 })
      else
        finish c stSuccess (leBytes 4 (putMooring (spaceKey + c.arg 24 2) (c.arg 24 2) 0 s.spaceBytes (c.arg 26 1) s).1.key)
          (putMooring (spaceKey + c.arg 24 2) (c.arg 24 2) 0 s.spaceBytes (c.arg 26 1) s).2) := by
  simp only [exec, execMooringGrant]
  rw [runCmd_starts hstarts (by simp [hlow, hhigh, hrights]) rfl] <;> rfl

/-- A revocation of a key that is held. -/
theorem exec_mooringRevoke {m : Mooring} (hstarts : Starts id 0x53 c false none s)
    (hm : s.keyed (BitVec.ofNat 32 (c.arg 24 4)) = some m) : exec (.mooringRevoke id) s = .next
      (if m.serve ∨ m.state = .free then finish c stMooringUnknown [] s
      else if m.state = .revoking then s.setRun c (.revoke (BitVec.ofNat 32 (c.arg 24 4)))
      else if m.inflight.isEmpty then finish c stSuccess [] (revoke m s)
      else (revoke m s).setRun c (.revoke (BitVec.ofNat 32 (c.arg 24 4)))) := by
  simp only [exec, execMooringRevoke]
  rw [runPlain_starts hstarts, hm]

end

/-- Settles O33: a command that starts, by the connection or the key it names. -/
theorem connectionCommandsComplete : Obligations.ConnectionCommandsComplete := by
  refine ⟨?_, ?_, ?_, ?_, ?_, ?_, ?_, ?_, ?_, ?_, ?_, ?_, ?_, ?_, ?_, ?_, ?_⟩
  · intro s id c d bs hstarts hlist hfetched hlen hgood hkey hroom hidx hnew hrange
    rw [exec_connect hstarts hlist hfetched (fun _ => hgood) hkey, if_neg (Nat.not_le.mpr hroom),
      if_neg (by simp [hlen, hidx, hnew, hrange])]
  · intro s id c d bs hstarts hlist hfetched hgood hkey hfull
    rw [exec_connect hstarts hlist hfetched hgood hkey, if_pos hfull]
  · intro s id c d bs hstarts hlist hfetched hgood hkey hroom hbad
    rw [exec_connect hstarts hlist hfetched hgood hkey, if_neg (Nat.not_le.mpr hroom), if_pos hbad]
  · intro s id c k hstarts hk
    simp only [exec, execDisconnect]
    rw [runPlain_starts hstarts, hk]
    rfl
  · rintro s id c i m hstarts hgood hfree rfl
    simp only [exec, execMooringCreate]
    rw [runCmd_starts hstarts hgood rfl, hfree]
    rfl
  · intro s id c hstarts hgood hfree
    simp only [exec, execMooringCreate]
    rw [runCmd_starts hstarts hgood rfl, hfree]
  · rintro s id c m hstarts hlow hhigh hsome hrights hfree rfl
    rw [exec_mooringGrant hstarts hlow hhigh hrights, if_neg (Nat.one_le_iff_ne_zero.mp hsome), if_neg, if_neg]
    · rfl
    · intro h
      simp [h] at hfree
    · intro h
      simp [h] at hfree
  · intro s id c m hstarts hlow hhigh hsome hrights hm hvalid
    rw [exec_mooringGrant hstarts hlow hhigh hrights, if_neg (Nat.one_le_iff_ne_zero.mp hsome), hm]
    simp [hvalid]
  · rintro s id c i hstarts hlow hhigh hnone rfl
    rw [exec_mooringGrant hstarts hlow hhigh (by omega), if_pos hnone] <;> rfl
  · intro s id c m hstarts hlow hhigh hsome hrights hm hrevoking
    rw [exec_mooringGrant hstarts hlow hhigh hrights, if_neg (Nat.one_le_iff_ne_zero.mp hsome), hm]
    exact congrArg Host.Outcome.next (if_pos (by simp [hrevoking]))
  · intro s id c m hstarts hm hserve hvalid
    rw [exec_mooringRevoke hstarts hm, if_neg (by simp [hserve, hvalid]), if_neg (by simp [hvalid])]
    cases hflight : m.inflight.isEmpty <;> simp [revoke, hflight]
  · intro s id c m hstarts hm hserve hrevoking
    rw [exec_mooringRevoke hstarts hm, if_neg (by simp [hserve, hrevoking]), if_pos hrevoking]
  · intro s id c m hstarts hm hgone
    rw [exec_mooringRevoke hstarts hm, if_pos hgone]
  · intro s key m hm hrevoking hnone
    simp only [exec, execRevokeComplete, hm]
    exact if_pos ⟨hrevoking, by simp [hnone]⟩
  · rintro s a key m hm hrevoking hsome hdue rfl
    simp only [exec, execRevokeTimeout, hm]
    exact if_pos ⟨hrevoking, by simpa using hsome, hdue⟩
  · intro s id c d bs k hstarts hlist hfetched hk
    simp only [exec, execQueueStats]
    rw [runData_starts hstarts hlist hfetched, hk]
    rfl
  · intro s id c d bs hlist hfetched hconn hkey
    simp only [exec, execDisconnect, execMooringRevoke, execQueueStats]
    refine ⟨fun hstarts => ?_, fun hstarts => ?_, fun hstarts => ?_⟩
    · rw [runPlain_starts hstarts, hconn]
    · rw [runPlain_starts hstarts, hkey]
    · rw [runData_starts hstarts hlist hfetched, hconn]

end Sys2Proof.Machine
end

section
/-! Firmware is staged and activated, and fuses are programmed (R453 to R461, R474). -/

namespace Sys2Proof.Machine

/-! ### A command that its own security state refuses -/

theorem firstChecks_security {c : Cmd} {bad : Bool} {s : State} (h : firstChecks c bad none s = none) (r : Nat) :
    firstChecks c bad (some r) s = some (stSecurity, [BitVec.ofNat 8 r]) := by
  unfold firstChecks at h ⊢
  dsimp only at h ⊢
  split_ifs at h with hknown hfields htag hrecovery hfailed
  rw [if_neg hknown, if_neg hfields, if_neg htag, if_neg hrecovery, if_neg hfailed]

/-- A command that passes every check but that of its own security state. -/
theorem runCmd_refused {id : CmdId} {op : Nat} {c : Cmd} {bad : Bool} {s : State} (h : Starts id op c bad none s) {r : Nat}
    {fieldBad : Cmd → Bool} {secBad : Cmd → Option Nat} (hbad : fieldBad c = bad) (hsec : secBad c = some r)
    {body : Cmd → State → State} : runCmd id op fieldBad secBad body s = .next (finish c stSecurity [BitVec.ofNat 8 r] s) := by
  obtain ⟨hqueued, hturn, hchecks⟩ := h
  simp only [runCmd, hqueued, hturn, hbad, hsec, firstChecks_security hchecks]
  rfl

/-! ### Staging -/

/-- A chunk, by whether it follows what is staged and whether it completes the image. -/
theorem exec_fwStage {s : State} {id : CmdId} {c : Cmd} {d : HostData} {bs : List Byte} (hstarts : Starts id 0x07 c false none s)
    (hlist : c.listBad d = false) (hfetched : c.fetched d = some bs) : exec (.fwStage id d) s = .next
      (if !chunkFollows c s.sec then finish c stInvalidField (natBytes 1 10) (s.modSec fun x => { x with staged := none })
      else if (s.sec.stagedWith (c.arg 24 4) bs).length < c.arg 28 4 then
        finish c stSuccess [] (s.modSec fun x => { x with staged := some ⟨c.arg 28 4, s.sec.stagedWith (c.arg 24 4) bs, false⟩ })
      else match imageReason s.sec (c.arg 28 4) (s.sec.stagedWith (c.arg 24 4) bs) with
        | some r => finish c stInvalidField (natBytes 1 r) (setEv .sec 4 (s.modSec fun x => { x with staged := none }))
        | none => finish c stSuccess []
            (s.modSec fun x => { x with staged := some ⟨c.arg 28 4, s.sec.stagedWith (c.arg 24 4) bs, true⟩ })) := by
  simp only [exec, execFwStage]
  rw [runData_starts hstarts hlist hfetched]
  rfl

/-- The write of an activated image has ended, by whether it reads back right (R456). -/
theorem exec_fwNorWriteDone {s : State} {id : CmdId} {c : Cmd}
    (hc : (s.cmd? id fun c => match c.run with | .fwActivate _ => true | _ => false) = some c) (matched : Bool) :
    exec (.fwNorWriteDone id matched) s = .next
      (if matched then finish c stSuccess (natBytes 1 (flag s.jobActive)) (s.modSec fun x =>
        { x with nor := x.activated.getD [], activated := none
                 restart := x.activated.map fun g => (s.mono + if s.jobActive then 0 else 1000000, g) })
      else if c.run = .fwActivate false then s.setRun c (.fwActivate true)
      else refuseField c 9 (s.modSec fun x => { x with activated := none })) := by
  simp only [exec, execFwNorWriteDone]
  split
  case h_1 hnone => exact absurd (hnone.symm.trans hc) (by simp)
  case h_2 c' hsome =>
    obtain rfl : c' = c := Option.some.inj (hsome.symm.trans hc)
    split
    · rfl
    · split <;> rfl

/-- Settles O34: a command that starts by its own checks, and what the NOR and the restart make of an activation. -/
theorem firmwareAndFuses : Obligations.FirmwareAndFuses := by
  refine ⟨?_, ?_, ?_, ?_, ?_, ?_, ?_, ?_, ?_, ?_, ?_, ?_, ?_, ?_, ?_, ?_, ?_⟩
  · intro s id c hstarts
    exact runPlain_starts hstarts
  · rintro s id c d bs g hstarts hlist hfetched hfollows rfl hshort
    rw [exec_fwStage hstarts hlist hfetched, if_neg (by simp [hfollows]), if_pos hshort]
  · rintro s id c d bs g hstarts hlist hfetched hfollows rfl hwhole himage
    rw [exec_fwStage hstarts hlist hfetched, if_neg (by simp [hfollows]), if_neg (Nat.not_lt.mpr hwhole), himage]
  · rintro s id c d bs g r hstarts hlist hfetched hfollows rfl hwhole himage
    rw [exec_fwStage hstarts hlist hfetched, if_neg (by simp [hfollows]), if_neg (Nat.not_lt.mpr hwhole), himage]
  · intro s id c d bs hstarts hlist hfetched hfollows
    rw [exec_fwStage hstarts hlist hfetched, if_pos (by simp [hfollows])]
  · intro s id c n g hstarts hstaged
    simp only [exec, execFwActivate]
    rw [runPlain_starts hstarts, hstaged]
  · intro s id c hstarts hstaged
    simp only [exec, execFwActivate]
    rw [runPlain_starts hstarts]
    cases hs : s.sec.staged with
    | none => rfl
    | some x =>
      obtain ⟨n, g, verified⟩ := x
      have hv : verified = false := by simpa [hs] using hstaged
      subst hv
      rfl
  · intro s id c hc
    exact exec_fwNorWriteDone hc true
  · intro s id c hc hrun
    rw [exec_fwNorWriteDone hc, if_neg Bool.false_ne_true, if_pos hrun]
  · intro s id c hc hrun
    rw [exec_fwNorWriteDone hc, if_neg Bool.false_ne_true, if_neg (by simp [hrun])]
    rfl
  · intro s n g hrestart hdue hidle
    simp only [exec, execFwActivateRestart, hrestart]
    exact if_neg (by simp [hidle, hdue])
  · intro s n g hrestart hwaits
    simp only [exec, execFwActivateRestart, hrestart]
    exact if_pos hwaits
  · intro s id c d bs hstarts hlist hfetched hslot hlen hlife hfree
    simp only [exec, execSlotProgram]
    rw [runDataSec_starts hstarts hlist hfetched (by simp [hslot, hlen]) (if_pos ⟨hlife, hfree⟩)]
  · intro s id c d hstarts hlist hslot hlen hrefused
    have hnot : ¬ (s.sec.lifecycle = .provisioning ∧ s.sec.keyOf (c.arg 24 1) = 0) := by tauto
    simp only [exec, execSlotProgram, runDataSec]
    rw [runCmd_refused hstarts (by simp [hlist, hslot, hlen]) (if_neg hnot)]
    rfl
  · intro s id c hstarts
    simp only [exec, execSvnCommit]
    exact runPlain_starts hstarts
  · intro s id c hstarts hlife hslots hcert
    simp only [exec, execLifecycleSecure]
    rw [runCmd_starts hstarts rfl (if_pos ⟨hlife, hslots, hcert⟩)]
  · intro s id c hstarts hrefused
    have hnot : ¬ (s.sec.lifecycle = .provisioning ∧ (List.range 4).any s.sec.programmed = true ∧ s.sec.cert.isSome = true) := by
      rintro ⟨hlife, hslots, hcert⟩
      rcases hrefused with h | h | h
      · exact h hlife
      · exact Bool.false_ne_true (h.symm.trans hslots)
      · simp [h] at hcert
    simp only [exec, execLifecycleSecure]
    rw [runCmd_refused hstarts rfl (if_neg hnot)]
    rfl

end Sys2Proof.Machine
end

section
/-! What an error of a connection leaves of the security data: nothing that it does reaches them. The operations stand in
the order of their definitions. -/

namespace Sys2Proof.Machine

@[simp] theorem State.modPort_sec (p : Port) (f : HostPort → HostPort) (s : State) : (State.modPort p f s).sec = s.sec := rfl

@[simp] theorem State.modSpd_sec (n : Nat) (f : Spd → Spd) (s : State) : (State.modSpd n f s).sec = s.sec := rfl

@[simp] theorem State.modConn_sec (i : Nat) (f : Conn → Conn) (s : State) : (State.modConn i f s).sec = s.sec := rfl

@[simp] theorem overcommitRise_sec (s : State) : (overcommitRise s).sec = s.sec := by
  unfold overcommitRise
  repeat' split
  all_goals simp

@[simp] theorem postWr_sec (i : Nat) (wr : Wr) (s : State) : (postWr i wr s).sec = s.sec := by
  unfold postWr
  repeat' split
  all_goals simp

@[simp] theorem postWrite_sec (i : Nat) (owner : WrFor) (addr : Nat) (rkey : Word) (bytes : List Byte) (wait : Option
    (Nat × Nat)) (budget : Nat) (s : State) :
    (postWrite i owner addr rkey bytes wait budget s).sec = s.sec := by
  unfold postWrite
  split <;> simp

@[simp] theorem postSend_sec (i : Nat) (owner : WrFor) (bytes : List Byte) (s : State) : (postSend i owner bytes s).sec = s.sec := by
  unfold postSend
  split <;> simp

@[simp] theorem openQuiet_sec (i : Nat) (s : State) : (openQuiet i s).sec = s.sec := rfl

@[simp] theorem State.modPart_sec (slot : Nat) (f : Partition → Partition) (s : State) : (State.modPart slot f s).sec = s.sec := rfl

@[simp] theorem State.modStream_sec (n : Nat) (f : Stream → Stream) (s : State) : (State.modStream n f s).sec = s.sec := rfl

@[simp] theorem releaseBerths_sec (n : Nat) (req : ReqKey) (s : State) : (releaseBerths n req s).sec = s.sec := rfl

@[simp] theorem cacheHit_sec (n : Nat) (dec : Bool) (dsSlot index : Nat) (remote : Bool) (stream : Nat) (g : Nat) (s : State) :
    (cacheHit n dec dsSlot index remote stream g s).sec = s.sec := rfl

@[simp] theorem cacheUnpin_sec (n : Nat) (dec : Bool) (dsSlot index : Nat) (remote : Bool) (s : State) :
    (cacheUnpin n dec dsSlot index remote s).sec = s.sec := rfl

@[simp] theorem markKeys_sec (dsSlot : Nat) (f : CacheEntry → CacheEntry) (s : State) : (markKeys dsSlot f s).sec = s.sec := rfl

@[simp] theorem dueKeys_sec (dsSlot : Nat) (which : CacheEntry → Bool) (s : State) : (dueKeys dsSlot which s).sec = s.sec := rfl

@[simp] theorem State.modBatch_sec (stream num : Nat) (f : Batch → Batch) (s : State) :
    (State.modBatch stream num f s).sec = s.sec := rfl

@[simp] theorem State.modReq_sec (k : ReqKey) (f : Request → Request) (s : State) : (State.modReq k f s).sec = s.sec := rfl

@[simp] theorem dropReq_sec (k : ReqKey) (s : State) : (dropReq k s).sec = s.sec := rfl

@[simp] theorem replan_sec (k : ReqKey) (hit : Bool) (s : State) : (replan k hit s).sec = s.sec := by
  unfold replan
  repeat' split
  all_goals simp

@[simp] theorem releaseEngines_sec (n : Nat) (req : ReqKey) (s : State) : (releaseEngines n req s).sec = s.sec := rfl

@[simp] theorem releaseAll_sec (r : Request) (s : State) : (releaseAll r s).sec = s.sec := rfl

@[simp] theorem unpinReq_sec (r : Request) (s : State) : (unpinReq r s).sec = s.sec := by
  unfold unpinReq
  split <;> simp

@[simp] theorem recordDefect_sec (k : ReqKey) (t : Stream) (d : Partition) (r : Request) (detail : Nat) (s : State) :
    (recordDefect k t d r detail s).sec = s.sec := by
  unfold recordDefect
  dsimp only
  repeat' split
  all_goals simp

@[simp] theorem maskSlot_sec (key : ReqKey) (t : Stream) (s : State) : (maskSlot key t s).sec = s.sec := rfl

@[simp] theorem serveCandidate_sec (key : ReqKey) (t : Stream) (d : Partition) (k v : Nat) (s : State) :
    (serveCandidate key t d k v s).sec = s.sec := by
  unfold serveCandidate
  split
  simp

@[simp] theorem waitForUnit_sec (key : ReqKey) (k : Option Nat) (s : State) : (waitForUnit key k s).sec = s.sec := rfl

@[simp] theorem chainAt_sec (key : ReqKey) (t : Stream) (d : Partition) (fuel k : Nat) (s : State) :
    (chainAt key t d fuel k s).sec = s.sec := by
  induction fuel generalizing k s with
  | zero => exact maskSlot_sec ..
  | succ n ih =>
    unfold chainAt
    dsimp only
    repeat' split
    · exact waitForUnit_sec ..
    · exact ih ..
    · exact serveCandidate_sec ..

@[simp] theorem endWalk_sec (key : ReqKey) (t : Stream) (d : Partition) (k : Option Nat) (v : Nat) (s : State) :
    (endWalk key t d k v s).sec = s.sec := by
  unfold endWalk
  dsimp only
  repeat' split
  all_goals simp

@[simp] theorem applyDecision_sec (k : ReqKey) (t : Stream) (d : Partition) (x : Decision) (s : State) :
    (applyDecision k t d x s).sec = s.sec := by
  unfold applyDecision
  repeat' split
  all_goals simp

@[simp] theorem enterSlot_sec (t : Stream) (d : Partition) (b : Batch) (slot : Nat) (s : State) :
    (enterSlot t d b slot s).sec = s.sec := by
  unfold enterSlot
  dsimp only
  repeat' split
  all_goals simp

@[simp] theorem unplace_sec (k : ReqKey) (s : State) : (unplace k s).sec = s.sec := by
  unfold unplace
  dsimp only
  repeat' split
  all_goals try rfl
  exact State.each_keeps State.sec (enterSlot_sec _ _ _) _ _

@[simp] theorem backToReady_sec (k : ReqKey) (s : State) : (backToReady k s).sec = s.sec := by
  unfold backToReady
  split <;> simp

@[simp] theorem chainFrom_sec (key : ReqKey) (from_ : Nat) (s : State) : (chainFrom key from_ s).sec = s.sec := by
  unfold chainFrom
  repeat' split
  all_goals simp

@[simp] theorem chainNext_sec (key : ReqKey) (s : State) : (chainNext key s).sec = s.sec := by
  unfold chainNext
  split <;> simp

@[simp] theorem failSample_sec (key : ReqKey) (detail : Nat) (soft : Bool) (s : State) :
    (failSample key detail soft s).sec = s.sec := by
  unfold failSample
  repeat' split
  all_goals simp

@[simp] theorem peersExhausted_sec (k : ReqKey) (s : State) : (peersExhausted k s).sec = s.sec := by
  unfold peersExhausted
  dsimp only
  repeat' split
  all_goals simp

@[simp] theorem askPeers_sec (k : ReqKey) (fuel : Nat) (s : State) : (askPeers k fuel s).sec = s.sec := by
  induction fuel generalizing s with
  | zero => exact peersExhausted_sec ..
  | succ n ih =>
    unfold askPeers
    dsimp only
    repeat' split
    all_goals simp [ih]

@[simp] theorem peerFailed_sec (k : ReqKey) (soft : Bool) (s : State) : (peerFailed k soft s).sec = s.sec := by
  unfold peerFailed
  simp

@[simp] theorem dropBatch_sec (stream num : Nat) (s : State) : (dropBatch stream num s).sec = s.sec := by
  refine State.each_keeps State.sec (fun r u => ?_) _ s
  simp

@[simp] theorem endIfDone_sec (stream : Nat) (s : State) : (endIfDone stream s).sec = s.sec := by
  unfold endIfDone
  repeat' split
  all_goals simp

@[simp] theorem settleBatch_sec (stream num : Nat) (s : State) : (settleBatch stream num s).sec = s.sec := by
  unfold settleBatch
  repeat' split
  all_goals simp

@[simp] theorem headerAck_sec (stream num : Nat) (s : State) : (headerAck stream num s).sec = s.sec := by
  unfold headerAck
  dsimp only
  repeat' split
  all_goals simp

@[simp] theorem loseMember_sec (stream group i : Nat) (s : State) : (loseMember stream group i s).sec = s.sec := by
  unfold loseMember
  dsimp only
  rw [endIfDone_sec, State.each_keeps State.sec (fun x u => by simp)]
  simp

@[simp] theorem headerOwed_sec (stream num i : Nat) (s : State) : (headerOwed stream num i s).sec = s.sec := rfl

@[simp] theorem reissue_sec (i : Nat) (lane : Nat) (w : Wr) (s : State) : (reissue i lane w s).sec = s.sec := by
  unfold reissue
  split <;> simp

@[simp] theorem failWaits_sec (lost : Nat) (s : State) : (failWaits lost s).sec = s.sec := by
  refine State.each_keeps State.sec (fun c u => ?_) _ s
  dsimp only
  split
  · rfl
  · refine State.each_keeps State.sec (fun w v => ?_) _ _
    repeat' split
    all_goals simp

@[simp] theorem laneLost_sec (lane : Nat) (ws : List Wr) (s : State) : (laneLost lane ws s).sec = s.sec := by
  refine State.each_keeps State.sec (fun t u => State.each_keeps State.sec (fun g v =>
    State.each_keeps State.sec (fun m x => ?_) _ v) _ u) _ s
  dsimp only
  repeat' split
  · rfl
  · exact loseMember_sec ..
  · rw [openQuiet_sec, State.each_keeps State.sec (fun w y => reissue_sec _ _ w y)]

@[simp] theorem State.modFetches_sec (f : List Fetch → List Fetch) (s : State) : (State.modFetches f s).sec = s.sec := rfl

@[simp] theorem State.modFetch_sec (id : FetchId) (f : Fetch → Fetch) (s : State) : (State.modFetch id f s).sec = s.sec := rfl

@[simp] theorem dropFetch_sec (id : FetchId) (s : State) : (dropFetch id s).sec = s.sec := rfl

@[simp] theorem askFetch_sec (x : Fetch) (c : Nat) (s : State) : (askFetch x c s).sec = s.sec := by
  unfold askFetch
  simp

@[simp] theorem fetchExhausted_sec (x : Fetch) (s : State) : (fetchExhausted x s).sec = s.sec := by
  unfold fetchExhausted
  split <;> simp

@[simp] theorem pumpFetches_sec (fuel : Nat) (s : State) : (pumpFetches fuel s).sec = s.sec := by
  induction fuel generalizing s with
  | zero => rfl
  | succ n ih =>
    unfold pumpFetches
    repeat' split
    all_goals simp [ih]

@[simp] theorem goFetch_sec (s : State) : (goFetch s).sec = s.sec := by
  unfold goFetch
  simp

@[simp] theorem fetchFailed_sec (x : Fetch) (s : State) : (fetchFailed x s).sec = s.sec := by
  unfold fetchFailed
  simp

@[simp] theorem fetchConnFailed_sec (i : Nat) (s : State) : (fetchConnFailed i s).sec = s.sec := by
  exact State.each_keeps State.sec fetchFailed_sec _ s

@[simp] theorem State.modMooring_sec (i : Nat) (f : Mooring → Mooring) (s : State) : (State.modMooring i f s).sec = s.sec := rfl

@[simp] theorem returnBuffers_sec (n o size : Nat) (s : State) : (returnBuffers n o size s).sec = s.sec := by
  unfold returnBuffers
  split <;> simp

@[simp] theorem freeMooring_sec (i : Nat) (s : State) : (freeMooring i s).sec = s.sec := by
  unfold freeMooring
  split <;> simp

@[simp] theorem peerConnFailed_sec (i : Nat) (s : State) : (peerConnFailed i s).sec = s.sec := by
  refine State.each_keeps State.sec (fun r u => ?_) _ s
  repeat' split
  all_goals simp

@[simp] theorem dropServes_sec (c : Conn) (s : State) : (dropServes c s).sec = s.sec := by
  refine State.each_keeps State.sec (fun v u => ?_) _ s
  split <;> simp

@[simp] theorem connErrorOne_sec (i reason : Nat) (s : State) : (connErrorOne i reason s).sec = s.sec := by
  unfold connErrorOne
  repeat' split
  all_goals simp

theorem connErrors_sec (fuel : Nat) (l : List (Nat × Nat)) (s : State) : (connErrors fuel l s).sec = s.sec := by
  induction fuel generalizing l s with
  | zero => simp only [connErrors]
  | succ n ih =>
    cases l with
    | nil => rfl
    | cons x l => exact (ih ..).trans (connErrorOne_sec ..)

@[simp] theorem connError_sec (i reason : Nat) (s : State) : (connError i reason s).sec = s.sec :=
  connErrors_sec _ _ s

end Sys2Proof.Machine
end

section
/-! Keys are loaded, cleared and revoked, and debug is granted and ended (R459 to R472). -/

namespace Sys2Proof.Machine

/-! ### Keys -/

section
variable {s : State} {id : CmdId} {c : Cmd} {d : HostData} {bs : List Byte}

/-- A key of 32 bytes that a session of a port loads, and that is not in use. -/
theorem exec_keyLoad {p : Port} (hvia : id.via = .doe p) (hstarts : Starts id 0x64 c false none s) (hlist : c.listBad d = false)
    (hfetched : c.fetched d = some bs) (hfields : keyFieldBad c = false) (hlen : c.dlen = 32) (hunused : keyInUse c s = false) :
    exec (.keyLoad id d) s = .next (if keyNoJob c s then finish c stNoJob [] s
      else finish c stSuccess [] (s.modSec fun x =>
        if c.arg 24 1 = 1 then { x with jobKey := some (BitVec.ofNat 256 (bytesNat bs)) } else { x with
          connKeys := (c.arg 25 1, BitVec.ofNat 256 (bytesNat bs), BitVec.ofNat 32 (c.arg 28 4)) ::
            x.connKeys.filter (·.1 != c.arg 25 1) })) := by
  simp only [exec, execKeyLoad]
  rw [runDataSec_starts hstarts hlist hfetched (by simp [hfields, hlen]) (by simp [hvia, hunused])]

theorem exec_keyClear (hstarts : Starts id 0x65 c false none s) (hfields : keyFieldBad c = false) (hunused : keyInUse c s = false) :
    exec (.keyClear id) s = .next (if keyNoJob c s then finish c stNoJob [] s
      else finish c stSuccess [] (s.modSec fun x =>
        if c.arg 24 1 = 1 then { x with jobKey := none } else { x with connKeys := x.connKeys.filter (·.1 != c.arg 25 1) })) := by
  simp only [exec, execKeyClear]
  rw [runCmd_starts hstarts hfields (by simp [hunused])]

/-- A revocation record, by its length, the slot it names and its own checks. -/
theorem exec_keyRevoke (hstarts : Starts id 0x66 c false none s) (hlist : c.listBad d = false) (hfetched : c.fetched d = some bs) :
    exec (.keyRevoke id d) s = .next (if bs.length ≠ 1024 then finish c stInvalidField (natBytes 1 2) s
      else if s.sec.lastSlot (byteField bs 12 1) then finish c stSecurity [8] s
      else match (revokeReason bs).orElse fun _ => signerReason s.sec (byteField bs 13 1) bs with
        | some r => finish c stInvalidField (natBytes 1 r) s
        | none => finish c stSuccess [] (revokeSlot (byteField bs 12 1) s)) := by
  simp only [exec, execKeyRevoke]
  rw [runData_starts hstarts hlist hfetched]
  rfl

/-! ### Debug -/

/-- A grant outside OPEN, by its own checks. -/
theorem exec_debugResponse (hstarts : Starts id 0x68 c false none s) (hlist : c.listBad d = false) (hfetched : c.fetched d = some bs)
    (hlocked : s.sec.debug ≠ .openAll) : exec (.debugResponse id d) s = .next
      (match (grantReason s.sec bs).orElse fun _ => signerReason s.sec (byteField bs 29 1) bs with
      | some r => finish c stInvalidField (natBytes 1 r) (setEv .sec 2 (s.modSec fun x =>
          { x with nonce := none, debugFails := x.debugFails + 1 }))
      | none => finish c stSuccess [] (setEv .sec 1 (s.modSec fun x => { x with
          debug := .auth (natBits (byteField bs 28 1) 0 1 == 1) (natBits (byteField bs 28 1) 1 1 == 1)
            (natBits (byteField bs 28 1) 2 1 == 1) (some (s.mono + byteField bs 30 4 * 1000000000))
          nonce := none, debugFails := 0 }))) := by
  simp only [exec, execDebugResponse]
  rw [runDataSec_starts hstarts hlist hfetched rfl (if_neg hlocked)]
  rfl

end

/-- A challenge is of a mailbox, before eight failures. -/
theorem isMbx_eq_false {v : Via} (h : ∀ m, v ≠ .mbx m) : Via.isMbx v = false := by
  cases v with
  | mbx m => exact absurd rfl (h m)
  | quay q => rfl
  | doe p => rfl

/-- The first step of zeroising takes the keys and nothing else of the security data. -/
theorem zeroiseStep_one_sec (s : State) :
    (zeroiseStep 1 s).sec = { s.sec with jobKey := none, connKeys := [], spillKey := none } := by
  simp only [zeroiseStep]
  rw [State.each_keeps (f := fun (c : Conn) t => connError c.idx 9 t) State.sec (fun c t => connError_sec c.idx 9 t)]
  rfl

/-- Settles O35: a command that starts by its security state, its fields and what it verifies. -/
theorem keysAndDebug : Obligations.KeysAndDebug := by
  refine ⟨?_, ?_, ?_, ?_, ?_, ?_, ?_, ?_, ?_, ?_, ?_, ?_, ?_, ?_, ?_, ?_, ?_, ?_, ?_, ?_, ?_, ?_⟩
  · intro s id p c d bs hvia hstarts hlist hfetched hfields hlen hunused hjob
    rw [exec_keyLoad hvia hstarts hlist hfetched hfields hlen hunused, if_neg (by simp [hjob])]
  · intro s id c d hvia hstarts hlist hfields hlen
    simp only [exec, execKeyLoad, runDataSec]
    rw [runCmd_refused hstarts (by simp [hlist, hfields, hlen]) (r := 3) rfl]
    rfl
  · intro s id p c d hvia hstarts hlist hfields hlen hused
    simp only [exec, execKeyLoad, runDataSec]
    rw [runCmd_refused hstarts (by simp [hlist, hfields, hlen]) (r := 6) (by simp [hvia, hused])]
    rfl
  · intro s id c hstarts hfields hunused hjob
    rw [exec_keyClear hstarts hfields hunused, if_neg (by simp [hjob])]
  · intro s id c hstarts hfields hused
    simp only [exec, execKeyClear]
    rw [runCmd_refused hstarts hfields (if_pos hused)]
    rfl
  · intro s id p c d bs hfields hunused hjob
    refine ⟨fun hstarts => ?_, fun hvia hstarts hlist hfetched hlen => ?_⟩
    · rw [exec_keyClear hstarts hfields hunused, if_pos hjob]
    · rw [exec_keyLoad hvia hstarts hlist hfetched hfields hlen hunused, if_pos hjob]
  · intro s id c d bs hstarts hlist hfetched hlen hmore hrecord hsigner
    rw [exec_keyRevoke hstarts hlist hfetched, if_neg (not_not.mpr hlen), if_neg (by simp [hmore]), hrecord, hsigner]
    simp only [revokeSlot, beq_iff_eq]
    rfl
  · rintro s id c d bs r hstarts hlist hfetched (⟨hlen, rfl⟩ | ⟨hlen, hmore, hreason⟩)
    · rw [exec_keyRevoke hstarts hlist hfetched, if_pos hlen]
    · rw [exec_keyRevoke hstarts hlist hfetched, if_neg (not_not.mpr hlen), if_neg (by simp [hmore]), hreason]
  · intro s id c d bs hstarts hlist hfetched hlen hlast
    rw [exec_keyRevoke hstarts hlist hfetched, if_neg (not_not.mpr hlen), if_pos hlast]
  · rintro s id m c n hvia hstarts hfew rfl
    simp only [exec, execDebugChallenge]
    rw [runCmd_starts hstarts rfl (if_neg (by simp [hvia, Via.isMbx, hfew]))]
    rfl
  · intro s id c hstarts hrefused
    have hno : Via.isMbx id.via = false ∨ 8 ≤ s.sec.debugFails := by
      rcases hrefused with hmany | hvia
      · exact .inr hmany
      · exact .inl (isMbx_eq_false hvia)
    simp only [exec, execDebugChallenge]
    rw [runCmd_refused hstarts rfl (if_pos (by simpa using hno))]
    rfl
  · intro s id c d bs hstarts hlist hfetched hlocked hgrant hsigner
    rw [exec_debugResponse hstarts hlist hfetched hlocked, hgrant, hsigner]
    rfl
  · intro s id c d bs r hstarts hlist hfetched hlocked hreason
    rw [exec_debugResponse hstarts hlist hfetched hlocked, hreason]
  · intro s id c d hstarts hlist hopen
    simp only [exec, execDebugResponse, runDataSec]
    rw [runCmd_refused hstarts (by simp [hlist]) (if_pos hopen)]
    rfl
  · intro s id c hstarts hauth
    simp only [exec, execDebugExit]
    rw [runCmd_starts hstarts rfl (if_pos hauth), endDebug]
  · intro s w c z t hauth hdue
    simp only [exec, execDebugGrantExpiry, hauth, if_pos hdue, endDebug]
  · intro s id c hstarts hreason
    simp only [exec, execZeroise]
    rw [runCmd_starts hstarts rfl hreason]
  · intro s
    have hsec : (zeroiseStep 1 s).sec = { s.sec with jobKey := none, connKeys := [], spillKey := none } := zeroiseStep_one_sec s
    rw [hsec]
    exact ⟨rfl, rfl, rfl, rfl, rfl⟩
  · intro s id c r hstarts hreason
    simp only [exec, execZeroise]
    rw [runCmd_refused hstarts rfl hreason]
  · intro s id c hstarts hlife
    simp only [exec, execDebugOpen]
    rw [runCmd_starts hstarts rfl (if_pos hlife)]
  · intro s id c hstarts hlife
    simp only [exec, execDebugOpen]
    rw [runCmd_refused hstarts rfl (if_neg hlife)]
    rfl
  · intro s id c hstarts hauth
    simp only [exec, execDebugExit]
    rw [runCmd_refused hstarts rfl (if_neg (by simp [hauth]))]
    rfl

end Sys2Proof.Machine
end

section
/-! The attestation responder and the debug port (R462 to R473): every request goes through `spdmAsk`, and its answer rests
on whether the responder is ready and on the session, the slot or the index it names. -/

namespace Sys2Proof.Machine

section
variable {t : SpdmTransport} {s : State}

theorem spdmAsk_reaches (h : spdmReaches t s = true) (f : State → State) : spdmAsk t f s = .next (f s) :=
  congrArg Host.Outcome.next (if_pos h)

theorem spdmAsk_unreached (h : spdmReaches t s = false) (f : State → State) : spdmAsk t f s = .next s :=
  congrArg Host.Outcome.next (if_neg fun hreach => Bool.false_ne_true (h.symm.trans hreach))

theorem spdmError_open (h : spdmOpen s = true) : spdmError s = s.emit (.spdm false []) := by
  simp [spdmError, h]

theorem spdmError_closed (h : spdmOpen s = false) : spdmError s = s.emit (.spdm false [0x05]) := by
  simp [spdmError, h]

theorem spdmReply_open (h : spdmOpen s = true) (code : Nat) :
    spdmReply code true s = spdmFree code s ∧ spdmReply code false s = s.emit (.spdm false []) := by
  simp [spdmReply, spdmError, h]

theorem spdmReply_closed (h : spdmOpen s = false) (code : Nat) (ok : Bool) : spdmReply code ok s = s.emit (.spdm false [0x05]) := by
  simp [spdmReply, spdmError, h]

theorem certReply_chain {g : List Byte} (h : spdmOpen s = true) (hcert : s.sec.cert = some g) (f : List Byte → List Byte) :
    certReply true f s = s.emit (.spdm true (f (certChain g))) := by
  simp [certReply, h, hcert]

theorem certReply_refused {ok : Bool} (h : spdmOpen s = true) (hno : s.sec.cert = none ∨ ok = false) (f : List Byte → List Byte) :
    certReply ok f s = s.emit (.spdm false []) := by
  cases hcert : s.sec.cert with
  | none => simp [certReply, spdmError, h, hcert]
  | some g => simp [certReply, spdmError, h, hcert, hno.resolve_left (by simp [hcert])]

theorem certReply_closed (h : spdmOpen s = false) (ok : Bool) (f : List Byte → List Byte) :
    certReply ok f s = s.emit (.spdm false [0x05]) := by
  cases hcert : s.sec.cert <;> simp [certReply, spdmError, h, hcert]

/-- Every request is `spdmAsk` of its own answer. -/
theorem exec_spdm_unreached (h : spdmReaches t s = false) (k n o l : Nat) (c : BitVec 256) (v : Bool) (x : Option Nat)
    (e : BitVec 512) : ∀ i ∈ [Instr.getVersion t, .getCapabilities t, .negotiateAlgorithms t, .getDigests t,
      .getCertificate t k o l, .challenge t k c, .getMeasurements t k, .keyExchange t k, .finish t n v, .heartbeat t n,
      .keyUpdate t n, .endSession t n, .vendorDefinedRequest t x e], exec i s = .next s := by
  intro i hi
  simp only [List.mem_cons, List.not_mem_nil, or_false] at hi
  rcases hi with rfl | rfl | rfl | rfl | rfl | rfl | rfl | rfl | rfl | rfl | rfl | rfl | rfl <;>
    simp only [exec, execGetVersion, execGetCapabilities, execNegotiateAlgorithms, execGetDigests, execGetCertificate,
      execChallenge, execGetMeasurements, execKeyExchange, execFinish, execHeartbeat, execKeyUpdate, execEndSession,
      execVendorDefinedRequest, spdmAsk_unreached h]

/-- An entry sent outside a finished session, or on MCTP, is an error. -/
theorem exec_vendorDefinedRequest_refused (h : spdmReaches t s = true) (x : Option Nat) (e : BitVec 512)
    (hno : ∀ n, x = some n → (spdmOpen s && session? t n true s) = false) :
    exec (.vendorDefinedRequest t x e) s = .next (spdmError s) := by
  simp only [exec, execVendorDefinedRequest, spdmAsk_reaches h]
  cases t with
  | mctp => rfl
  | doe p =>
    cases x with
    | none => rfl
    | some n => simp [hno n rfl]

/-- Before the responder is ready every request but GET_VERSION is answered with an error. -/
theorem exec_spdm_closed (h : spdmReaches t s = true) (hclosed : spdmOpen s = false) (k n o l : Nat) (c : BitVec 256) (v : Bool)
    (x : Option Nat) (e : BitVec 512) : ∀ i ∈ [Instr.getCapabilities t, .negotiateAlgorithms t, .getDigests t,
      .getCertificate t k o l, .challenge t k c, .getMeasurements t k, .keyExchange t k, .finish t n v, .heartbeat t n,
      .keyUpdate t n, .endSession t n, .vendorDefinedRequest t x e], exec i s = .next (s.emit (.spdm false [0x05])) := by
  intro i hi
  simp only [List.mem_cons, List.not_mem_nil, or_false] at hi
  have herror := spdmError_closed hclosed
  rcases hi with rfl | rfl | rfl | rfl | rfl | rfl | rfl | rfl | rfl | rfl | rfl | rfl
  · simp [exec, execGetCapabilities, spdmAsk_reaches h, hclosed, herror]
  · simp [exec, execNegotiateAlgorithms, spdmAsk_reaches h, hclosed, herror]
  · simp [exec, execGetDigests, spdmAsk_reaches h, certReply_closed hclosed]
  · simp [exec, execGetCertificate, spdmAsk_reaches h, certReply_closed hclosed]
  · simp [exec, execChallenge, spdmAsk_reaches h, spdmReply_closed hclosed]
  · simp [exec, execGetMeasurements, spdmAsk_reaches h, hclosed, herror]
  · simp [exec, execKeyExchange, spdmAsk_reaches h, hclosed, herror]
  · simp [exec, execFinish, spdmAsk_reaches h, hclosed, herror]
  · simp [exec, execHeartbeat, spdmAsk_reaches h, hclosed, herror]
  · simp [exec, execKeyUpdate, spdmAsk_reaches h, hclosed, herror]
  · simp [exec, execEndSession, spdmAsk_reaches h, hclosed, herror]
  · rw [exec_vendorDefinedRequest_refused h x e (fun n _ => by simp [hclosed]), herror]

/-- A slot other than 0 is an error of the requests that name one. -/
theorem exec_spdm_otherSlot {k : Nat} (h : spdmReaches t s = true) (hopen : spdmOpen s = true) (hk : k ≠ 0) (o l : Nat)
    (c : BitVec 256) : ∀ i ∈ [Instr.getCertificate t k o l, .challenge t k c, .keyExchange t k],
      exec i s = .next (s.emit (.spdm false [])) := by
  have hslot : (k == 0) = false := beq_eq_false_iff_ne.mpr hk
  intro i hi
  simp only [List.mem_cons, List.not_mem_nil, or_false] at hi
  rcases hi with rfl | rfl | rfl
  · simp [exec, execGetCertificate, spdmAsk_reaches h, hslot, certReply_refused hopen (.inr rfl)]
  · simp [exec, execChallenge, spdmAsk_reaches h, hslot, spdmReply_open hopen]
  · simp [exec, execKeyExchange, spdmAsk_reaches h, hk, spdmError_open hopen]

/-- A session that is not there, or not finished, is an error of the requests of a session. -/
theorem exec_spdm_noSession {n : Nat} (h : spdmReaches t s = true) (hopen : spdmOpen s = true)
    (hno : session? t n true s = false) (e : BitVec 512) :
    ∀ i ∈ [Instr.heartbeat t n, .keyUpdate t n, .endSession t n, .vendorDefinedRequest t (some n) e],
      exec i s = .next (s.emit (.spdm false [])) := by
  have herror := spdmError_open hopen
  intro i hi
  simp only [List.mem_cons, List.not_mem_nil, or_false] at hi
  rcases hi with rfl | rfl | rfl | rfl
  · simp [exec, execHeartbeat, spdmAsk_reaches h, hno, herror]
  · simp [exec, execKeyUpdate, spdmAsk_reaches h, hno, herror]
  · simp [exec, execEndSession, spdmAsk_reaches h, hno, herror]
  · rw [exec_vendorDefinedRequest_refused h (some n) e (fun m hm => by simp [← Option.some.inj hm, hno]), herror]

end

/-- Settles O36: the answer of each request once it reaches the responder. -/
theorem attestationCompletes : Obligations.AttestationCompletes := by
  refine ⟨?_, ?_, ?_, ?_, ?_, ?_, ?_, ?_, ?_, ?_, ?_, ?_, ?_, ?_, ?_, ?_, ?_⟩
  · intro s hon hiod hboot hseed hlife
    simp [exec, execAttestReady, hon, hiod, hboot, hseed, hlife]
  · intro s hno
    simp only [exec, execAttestReady]
    refine if_pos ?_
    simp only [Bool.not_eq_true']
    tauto
  · intro s t h
    exact spdmAsk_reaches h _
  · intro s t o n k g h hopen hcert
    refine ⟨?_, ?_, ?_, ?_, ?_⟩
    · simp [exec, execGetCapabilities, spdmAsk_reaches h, hopen]
    · simp [exec, execNegotiateAlgorithms, spdmAsk_reaches h, hopen]
    · simp only [exec, execGetDigests, spdmAsk_reaches h, certReply_chain hopen hcert]
    · simp only [exec, execGetCertificate, spdmAsk_reaches h, beq_self_eq_true, certReply_chain hopen hcert]
    · simp only [exec, execChallenge, spdmAsk_reaches h, beq_self_eq_true, spdmReply_open hopen]
  · intro s t i h hopen hi
    simp only [exec, execGetMeasurements, spdmAsk_reaches h]
    exact congrArg Host.Outcome.next (if_neg (by simp only [hopen, Bool.not_true, Bool.false_eq_true, false_or]; omega))
  · intro s t h hopen hfew
    simp only [exec, execKeyExchange, spdmAsk_reaches h]
    exact congrArg Host.Outcome.next (if_neg (by simp only [hopen, Bool.not_true, Bool.false_eq_true, false_or]; omega))
  · intro s t n h hopen hsession
    simp [exec, execFinish, spdmAsk_reaches h, hopen, hsession]
  · intro s t n h hopen hsession
    simp only [exec, execFinish, spdmAsk_reaches h, hopen, hsession, Bool.not_true, Bool.false_eq_true, or_self, if_false]
    have hdropped : spdmOpen (dropSession t n s) = true := hopen
    rw [spdmError_open hdropped]
    rfl
  · intro s t n h hopen hsession
    simp [exec, execHeartbeat, spdmAsk_reaches h, hopen, hsession]
  · intro s t n h hopen hsession
    simp [exec, execKeyUpdate, spdmAsk_reaches h, hopen, hsession]
  · intro s t n h hopen hsession
    simp [exec, execEndSession, spdmAsk_reaches h, hopen, hsession, dropSession]
  · intro s p n e h hopen hsession hready
    simp [exec, execVendorDefinedRequest, spdmAsk_reaches h, hopen, hsession, hready]
  · intro s t k n o l c v x e h hclosed
    exact exec_spdm_closed h hclosed k n o l c v x e
  · intro s t k n o l c v e h hopen
    refine ⟨fun hk => exec_spdm_otherSlot h hopen hk o l c, fun hk => ?_, fun hmany => ?_, fun hno => ?_,
      fun hno => exec_spdm_noSession h hopen hno e, fun hcert => ⟨?_, ?_⟩, ?_⟩
    · simp [exec, execGetMeasurements, spdmAsk_reaches h, hk, spdmError_open hopen]
    · simp [exec, execKeyExchange, spdmAsk_reaches h, hmany, spdmError_open hopen]
    · simp [exec, execFinish, spdmAsk_reaches h, hno, spdmError_open hopen]
    · simp only [exec, execGetDigests, spdmAsk_reaches h, certReply_refused hopen (.inl hcert)]
    · simp only [exec, execGetCertificate, spdmAsk_reaches h, certReply_refused hopen (.inl hcert)]
    · rw [exec_vendorDefinedRequest_refused h none e nofun, spdmError_open hopen]
  · intro s t k n o l c v x e h
    exact exec_spdm_unreached h k n o l c v x e
  · intro s cls o hiod hallowed
    simp [exec, execJtagAccess, hiod, hallowed]
  · intro s cls o hiod hrefused
    simp [exec, execJtagAccess, hiod, hrefused]

end Sys2Proof.Machine
end

section
/-! The health interface and the link tests (R477, R480, R485, R486). -/

namespace Sys2Proof.Machine

section
variable {s : State} {w : Owner}

theorem exec_ltStart (hheard : s.heard w = true) (hnone : ltRefusal w s.rw.ltCfg s = none) :
    exec (.ltStart w) s = .next (ltBegin s) := by
  simp only [exec, execLtStart, State.byOwner_heard hheard, ltStart, hnone]

theorem exec_ltStart_refused {r : Nat} (hheard : s.heard w = true) (hsome : ltRefusal w s.rw.ltCfg s = some r) :
    exec (.ltStart w) s = .next ((s.modLt fun l => { l with state := .refused, refuse := r }).modEv fun e =>
      { e with lt := e.lt ||| 4 }) := by
  simp only [exec, execLtStart, State.byOwner_heard hheard, ltStart, hsome]

/-- What a test's start does to its target, by the target's type. -/
theorem ltBegin_port (htype : ltType s.rw.ltCfg = 1) :
    ltBegin s = (s.modLt fun _ => ⟨.sync, true, 0, s.rw.ltCfg, 0, List.replicate 32 0, 0⟩).modPort
      (if ltIndex s.rw.ltCfg = 0 then .a else .b) fun h => { h with linkUp := false } := if_pos htype

theorem ltBegin_edge (htype : ltType s.rw.ltCfg = 2) :
    ltBegin s = (s.modLt fun _ => ⟨.sync, true, 0, s.rw.ltCfg, 0, List.replicate 32 0, 0⟩).modEdge (ltIndex s.rw.ltCfg)
      fun e => { e with tested := true } :=
  (if_neg (by simp [htype])).trans (if_pos htype)

theorem ltBegin_other (hport : ltType s.rw.ltCfg ≠ 1) (hedge : ltType s.rw.ltCfg ≠ 2) :
    ltBegin s = s.modLt fun _ => ⟨.sync, true, 0, s.rw.ltCfg, 0, List.replicate 32 0, 0⟩ :=
  (if_neg hport).trans (if_neg hedge)

/-- A test that ends, before its target returns. -/
def ltStopped (s : State) : State :=
  (s.draw.2.modLt fun l => { l with state := .stopped, active := false, bits := s.draw.1.toNat % 2 ^ 48 }).modEv fun e =>
    { e with lt := e.lt ||| 1 }

theorem exec_ltStop (hheard : s.heard w = true) (hactive : s.lt.active = true) : exec (.ltStop w) s = .next
    (if ltType s.lt.cfg = 1 then resetPort (if ltIndex s.lt.cfg = 0 then .a else .b) .linkDown (ltStopped s)
    else if ltType s.lt.cfg = 2 then (ltStopped s).modEdge (ltIndex s.lt.cfg) fun e =>
      { e with tested := false, lowHeard := s.mono, highHeard := s.mono }
    else ltStopped s) := by
  simp only [exec, execLtStop, State.byOwner_heard hheard, ltStop, hactive, Bool.not_true, Bool.false_eq_true, if_false, ltStopped]

theorem State.byOwner_of_eq {f : State → State} (h : f s = s) : s.byOwner w f = s := by
  cases hheard : s.heard w with
  | true => rw [State.byOwner_heard hheard, h]
  | false => exact State.byOwner_unheard hheard f

end

/-- Settles O37: the record and the alert by whether the management interface answers, the tests by the type of target. -/
theorem healthAndLinkTests : Obligations.HealthAndLinkTests := by
  refine ⟨?_, ?_, ?_, ?_, ?_, ?_, ?_, ?_, ?_, ?_, ?_, ?_, ?_, ?_, ?_, ?_, ?_⟩
  · intro s h
    exact congrArg Host.Outcome.next (if_pos h)
  · intro s h
    exact congrArg Host.Outcome.next (if_pos h)
  · intro s h
    simp only [exec, execSmbusAra, h, Bool.true_and]
  · intro s h
    refine ⟨congrArg Host.Outcome.next (if_neg (by simp [h])), congrArg Host.Outcome.next (if_neg (by simp [h])), ?_⟩
    exact congrArg Host.Outcome.next (if_neg (by simp [h]))
  · intro s e hup hsince
    simp only [exec, execHealthReasonTimer, hup, decide_eq_true hsince, Bool.and_self, if_true]
  · intro s n
    exact ⟨rfl, rfl, rfl⟩
  · intro s w hheard hnone hport hedge
    rw [exec_ltStart hheard hnone, ltBegin_other hport hedge]
  · intro s w hheard hnone htype
    rw [exec_ltStart hheard hnone, ltBegin_port htype]
  · intro s w hheard hnone htype
    rw [exec_ltStart hheard hnone, ltBegin_edge htype]
  · intro s w r hheard hsome
    exact exec_ltStart_refused hheard hsome
  · intro s a w hheard hactive hport hedge ha
    rw [exec_ltStop hheard hactive, if_neg hport, if_neg hedge, ltStopped, ha]
  · intro s a w hheard hactive htype ha
    rw [exec_ltStop hheard hactive, if_pos htype, ltStopped, ha]
  · intro s a w hheard hactive htype ha
    rw [exec_ltStop hheard hactive, if_neg (by simp [htype]), if_pos htype, ltStopped, ha]
  · intro s w hheard hactive
    simp only [exec, execLtInject, State.byOwner_heard hheard, ltInject, hactive, lockedLane, Bool.not_true, Bool.false_eq_true, if_false]
    rfl
  · intro s n k hactive hlane hk
    simp only [exec, execLtLaneLock, hk]
    exact if_neg (by simp [hactive, hlane])
  · intro s n hactive hlocked
    simp only [exec, execLtLockLost]
    exact if_neg (by simp [hactive, lockedLane, hlocked])
  · intro s w n hidle
    refine ⟨?_, ?_, if_pos (.inl (by simp [hidle])), if_pos (.inl (by simp [hidle]))⟩
    · exact congrArg Host.Outcome.next (State.byOwner_of_eq (if_pos (by simp [hidle])))
    · exact congrArg Host.Outcome.next (State.byOwner_of_eq (if_pos (by simp [hidle])))

end Sys2Proof.Machine
end

section
/-! Supplies, resets, faults of clocks and cores, and the boot (R447, R449, R475, R496, R497, R502, R512, R515, R516). -/

namespace Sys2Proof.Machine

section
variable {s a : State}

/-- A pulse of at least 10 µs always acts, one under 1 µs never (R496). -/
theorem pulseActs_of_le {n : Nat} (h : 10000 ≤ n) (k : Nat) : pulseActs n k = true := by
  simp [pulseActs, h]

theorem pulseActs_of_lt {n : Nat} (h : n < 1000) (k : Nat) : pulseActs n k = false := by
  simp only [pulseActs, Bool.or_eq_false_iff, Bool.and_eq_false_iff, decide_eq_false_iff_not]
  omega

theorem tripsAt_eq_false {l : List (Nat × Int)}
    (h : l.all (fun y => if y.1 < 80 then decide (y.2 < 115) else decide (y.2 < 105)) = true) : tripsAt l = false := by
  rw [List.all_eq_true] at h
  rw [tripsAt, List.any_eq_false]
  intro y hy
  have hcool := h y hy
  split at hcool
  · next hdie => simpa [hdie] using hcool
  · next hstack => simpa [hstack] using hcool

/-- A rail that goes takes the device off; the supply that loses 3.3 V loses the others too (R497). -/
theorem exec_railLost (r : Rail) {d : Power} (hgood : (match r with
      | .vin48 => s.pwr.vin48 | .v1p8 => s.pwr.v1p8 | .v3p3 => s.pwr.v3p3) = true)
    (hd : { s.pwr with v3p3 := s.pwr.v3p3 && r != .v3p3, vin48 := s.pwr.vin48 && r == .v1p8, v1p8 := s.pwr.v1p8 && r == .vin48 } = d) :
    exec (.railLost r) s = .next (resetCore (s.modPwr fun _ => { d with off := true, warmDue := true })) := by
  subst hd
  simp only [exec, execRailLost]
  have hkeeps : (s.pwr.v3p3 && r != .v3p3) = (if r = .v3p3 then false else s.pwr.v3p3) ∧
      (s.pwr.vin48 && r == .v1p8) = (if r = .v1p8 then s.pwr.vin48 else false) ∧
      (s.pwr.v1p8 && r == .vin48) = (if r = .vin48 then s.pwr.v1p8 else false) := by
    cases r <;> simp
  obtain ⟨h3, h48, h1⟩ := hkeeps
  rw [h3, h48, h1]
  cases r <;> exact if_pos hgood

theorem lockstepRestart_of_boot (h : s.host.hm = .boot) (n : Nat) : lockstepRestart n s = s := if_pos h

theorem lockstepRestart_of_running (h : s.host.hm ≠ .boot) (n : Nat) : lockstepRestart n s = restartHarbourmaster
    (lockstepReason n (s.modHlth fun h => { h with mismatches := windowed dayNs s.aon.clock h.mismatches ++ [s.aon.clock] })) :=
  if_neg h

/-- The boot of an image that is in the buffer: it starts where it passes every check and no strap asks for recovery (R453). -/
theorem exec_bootImageVerified (b : Bool) {g : List Byte} (hboot : booting s = true) (hg : s.sec.norImage = g)
    (ha : a = (((repeatZeroise s).modPower 0 fun p => { p with hbm := p.hbm.set 0 .active }).modSec fun x =>
      { x with bootBuffer := g, bootFuses := fuseBytes x })) : exec (.bootImageVerified b) s =
      if b || (imageReason a.sec g.length g).isSome then .next (enterRecovery a) else .next (startSpds (a.modSec (startImage g))) := by
  simp only [exec, execBootImageVerified, hg, ← ha]
  exact if_neg (by simp [hboot])

end

/-- Settles O40: each reset, fault or step of the start by the state that lets it act. -/
theorem resetsComplete : Obligations.ResetsComplete := by
  refine ⟨?_, ?_, ?_, ?_, ?_, ?_, ?_, ?_, ?_, ?_, ?_, ?_, ?_, ?_, ?_, ?_, ?_, ?_, ?_, ?_, ?_⟩
  · intro s
    rfl
  · intro s e hgood
    exact if_pos hgood
  · intro s r d hgood hd
    exact exec_railLost r hgood hd
  · intro s n e hon hn
    simp only [exec, execWarmReset]
    exact if_neg (by simp [hon, pulseActs_of_le hn])
  · intro s n e hno
    simp only [exec, execWarmReset]
    exact if_pos (hno.imp id fun hn => by simp [pulseActs_of_lt hn])
  · intro s
    rfl
  · intro s e
    simp only [exec, execWarmReset]
    split <;> rfl
  · intro s b x hon htrips hb
    simp only [exec, execThermalTrip, thermalTrip, hb]
    exact if_neg (by simp only [hon, tripsAt, htrips]; simp)
  · intro s x hno
    simp only [exec, execThermalTrip]
    exact if_pos (hno.imp id fun hcool => by simp [tripsAt_eq_false hcool])
  · intro s x htripped hcool
    exact if_pos ⟨htripped, hcool⟩
  · intro s
    rfl
  · intro s p
    rfl
  · intro s
    rfl
  · intro s
    rfl
  · intro s
    rfl
  · intro s a n hrun ha
    have hrestart : lockstepRestart n s = a := (lockstepRestart_of_running hrun n).trans ha
    exact ⟨congrArg Host.Outcome.next hrestart, congrArg Host.Outcome.next hrestart⟩
  · intro s n hboot
    have hstay := lockstepRestart_of_boot hboot n
    exact ⟨congrArg Host.Outcome.next hstay, congrArg Host.Outcome.next hstay⟩
  · intro s a g hboot hg ha hpass
    rw [exec_bootImageVerified false hboot hg ha, if_neg (by simp [hpass])]
    rfl
  · intro s a g b hboot hg ha hfail
    rw [exec_bootImageVerified b hboot hg ha, if_pos (by simpa using hfail)]
  · intro s a b hverified hrecovery hbrought hon ha
    simp only [exec, execBringupDone, ha]
    exact if_neg (by simp [hverified, hrecovery, hbrought, hon])
  · intro s b hno
    simp only [exec, execBringupDone]
    exact if_pos (by simpa using hno)

end Sys2Proof.Machine
end

section
/-! Positions are admitted and walked, requests are issued, and a latest-start time arrives (R44 to R48, R68 to R82). -/

namespace Sys2Proof.Machine

section
variable {s : State} {k : ReqKey} {r : Request} {t : Stream} {p : Partition}

/-- Admission where no batch is formed first. -/
theorem exec_permPositionAdmit_formed (hs : Serves k r t p s) (hform : mayForm k t s = false) (n : Fin 8) (pl : Plan) :
    exec (.permPositionAdmit k n pl) s = .next (s.onlyIf (mayAdmit r n s) (beginWalk k n)) := by
  simp only [exec, execPermPositionAdmit, hs.stream, hs.part, hform, Bool.false_eq_true, if_false, hs.request]

theorem beginWalk_waits {c : Option Nat} (hs : Serves k r t p s) (hphase : r.phase = .waitUnit c) (n : Nat) :
    beginWalk k n s = s.modReq k fun q => { q with phase := .walking c (t.input p (reqPlace t p k).2) 0 false, spd := n } := by
  simp only [beginWalk, hs.request, hs.stream, hs.part, hphase]

/-! ### Passes of the permutation -/

section
variable {c : Option Nat} {x n : Nat} {again : Bool}
  (hs : Serves k r t p s) (hphase : r.phase = .walking c x n again) (hclocked : s.clocked r.spd = true)
include hs hphase hclocked

theorem exec_permPassDone_disagree : exec (.permPassDone k false) s = .next
    (if again then permUnitFails r.spd (countPerf r.spd 0x802 s)
    else countCorrected r.spd ((countPerf r.spd 0x802 s).modReq k fun q => { q with phase := .walking c x n true })) := by
  simp only [exec, execPermPassDone, hs.request, hs.stream, hphase, hs.part, hclocked]
  cases again <;> rfl

theorem exec_permPassDone_agree {y : Nat}
    (hy : (reqWalk s.seed t p (reqPlace t p k).1 (reqPlace t p k).2 c).pass (halfWidth (t.space p)) x = y) :
    exec (.permPassDone k true) s = .next (if y < t.space p then endWalk k t p c y (countPerf r.spd 0x800 s)
      else (if n + 1 = 32 then fun u => countFixed r.spd 14 (countPerf r.spd 0x801 u) else fun u => u)
        ((countPerf r.spd 0x800 s).modReq k fun q => { q with phase := .walking c y (n + 1) again })) := by
  simp only [exec, execPermPassDone, hs.request, hs.stream, hphase, hs.part, hclocked, hy, Bool.not_true, Bool.false_eq_true, if_false]
  split
  · rfl
  · split <;> rfl

end

/-! ### Issue -/

theorem exec_requestIssue (hs : Serves k r t p s) (hissue : mayIssue r s = true) : exec (.requestIssue k) s = .next
    (if r.form.isNone && !r.given && p.listed r.sample r.remote (reqPlace t p k).1 then
      if r.tryIdx.isNone then failSample k 0x0900 false (beginBatch k s) else chainNext k s
    else issueNow t p r s) := by
  simp only [exec, execRequestIssue, hs.request, hs.stream, hs.part, hissue, Bool.not_true, Bool.false_eq_true, if_false]
  split <;> rfl

/-- An issue without an entry in effect against the sample, or with a form, goes on. -/
theorem exec_requestIssue_now (hs : Serves k r t p s) (hissue : mayIssue r s = true)
    (hfree : r.form.isSome = true ∨ r.given = true ∨ p.listed r.sample r.remote (reqPlace t p k).1 = false) :
    exec (.requestIssue k) s = .next (issueNow t p r s) := by
  have hnot : ¬ (r.form.isNone && !r.given && p.listed r.sample r.remote (reqPlace t p k).1) = true := by
    rcases hfree with hform | hgiven | hlisted
    · simp [Option.isNone_eq_false_iff.mpr hform]
    · simp [hgiven]
    · simp [hlisted]
  rw [exec_requestIssue hs hissue, if_neg hnot]

/-- The issue of a request on an SPD, by how its draw ends. -/
theorem issueNow_eq {d : Spd} (hspd : (beginBatch r.key s).spd? r.spd = some d) : issueNow t p r s =
    match issueDraw t p r (lookupSample t p r d) s with
    | .error part => drawFailed r.spd part s
    | .ok a =>
      if (r.form.map Form.size).isSome then startStage r.key .decode ((issueTakes t p r a).modReq r.key fun q =>
        { q with phase := .cacheRead })
      else startFound t p r (lookupSample t p r d) (countFound r.spd (lookupSample t p r d) (issueTakes t p r a)) := by
  simp only [issueNow, hspd]
  rfl

theorem issueNow_error {d : Spd} {part : Nat} (hspd : (beginBatch r.key s).spd? r.spd = some d)
    (hdraw : issueDraw t p r (lookupSample t p r d) s = .error part) : issueNow t p r s = drawFailed r.spd part s := by
  simp only [issueNow_eq hspd, hdraw]

theorem issueNow_form {d : Spd} {f : Form} {u : State} (hform : r.form = some f) (hspd : (beginBatch r.key s).spd? r.spd = some d)
    (hdraw : issueDraw t p r (lookupSample t p r d) s = .ok u) : issueNow t p r s =
      startStage r.key .decode ((issueTakes t p r u).modReq r.key fun q => { q with phase := .cacheRead }) := by
  simp only [issueNow_eq hspd, hdraw]
  exact if_pos (by simp [hform])

theorem issueNow_found {d : Spd} {u : State} (hform : r.form = none) (hspd : (beginBatch r.key s).spd? r.spd = some d)
    (hdraw : issueDraw t p r (lookupSample t p r d) s = .ok u) : issueNow t p r s =
      startFound t p r (lookupSample t p r d) (countFound r.spd (lookupSample t p r d) (issueTakes t p r u)) := by
  simp only [issueNow_eq hspd, hdraw]
  exact if_neg (by simp [hform])

/-! ### Latest-start times -/

/-- A latest-start time that arrives for the first time (R45). -/
theorem exec_latestStartReached {g : Stage} {b : Batch} {z : Int} (hs : Serves k r t p s)
    (hbatch : s.batch? k.stream k.batch = some b) (hz : r.latest[stageIndex g]? = some z) (hdue : z ≤ s.tide.time)
    (hnew : r.arrived.contains g = false) {u v : State} (hu : u = s.modReq k fun q => { q with arrived := g :: q.arrived })
    (hv : v = if !stageRuns t.cls r.cacheHit (stageIndex g) || r.started g || decide (z = s.tide.time) then u else markRisk k u) :
    exec (.latestStartReached k g) s = .next (if g = .pack ∧ !b.strictNow s ∧ !b.rerun ∧ !r.masked ∧ r.undecoded then
      deadlineSub t p k r v else v) := by
  simp only [exec, execLatestStartReached, hs.request, hs.stream, hbatch, hz, hs.part, State.now, hv, hu]
  refine (if_neg ?_).trans ?_
  · rw [hnew]
    simp only [Bool.false_eq_true, or_false, not_lt]
    exact hdue
  · split <;> rfl

/-- A request that is not decoded has not started the pack stage. -/
theorem started_pack_of_undecoded (h : r.undecoded = true) : r.started .pack = false := by
  simp only [Request.undecoded] at h
  simp only [Request.started]
  split at h <;> simp_all

end

/-- Settles O6: each command of a position or request by the phase and the state it finds. -/
theorem positionsAndIssue : Obligations.PositionsAndIssue := by
  refine ⟨?_, ?_, ?_, ?_, ?_, ?_, ?_, ?_, ?_, ?_, ?_, ?_, ?_, ?_, ?_⟩
  · intro s k n pl r t d c hs hform hphase hadmit
    rw [exec_permPositionAdmit_formed hs hform, hadmit, ← beginWalk_waits hs hphase]
    rfl
  · intro s u k n pl r t d hstream hpart hform hu hreq
    simp only [exec, execPermPositionAdmit, hstream, hpart, hform, if_true, ← hu, hreq]
    rfl
  · intro s k r t d x n c hs hphase hclocked
    exact exec_permPassDone_disagree hs hphase hclocked
  · intro s k r t d x n c hs hphase hclocked
    exact exec_permPassDone_disagree hs hphase hclocked
  · intro s k r t d x y n again c hs hphase hclocked hy hout
    rw [exec_permPassDone_agree hs hphase hclocked hy, if_neg (not_lt.mpr hout)]
  · intro s k r t d x y n again c hs hphase hclocked hy hin
    rw [exec_permPassDone_agree hs hphase hclocked hy, if_pos hin]
  · intro s u k r t p d f hs hissue hform hfree hspd hf hdraw
    obtain rfl := hs.own
    subst hf
    rw [exec_requestIssue_now hs hissue (.inr hfree), issueNow_found hform hspd hdraw]
  · intro s u k r t p d f hs hissue hform hspd hdraw
    obtain rfl := hs.own
    rw [exec_requestIssue_now hs hissue (.inl (by simp [hform])), issueNow_form hform hspd hdraw]
  · intro s k r t p d part hs hissue hfree hspd hdraw
    obtain rfl := hs.own
    rw [exec_requestIssue_now hs hissue hfree, issueNow_error hspd hdraw]
  · intro s k r t p hs hissue hform hgiven hlisted htry
    rw [exec_requestIssue hs hissue, if_pos (by simp [hform, hgiven, hlisted]), if_pos (by simp [htry])]
  · intro s k r t p j hs hissue hform hgiven hlisted htry
    rw [exec_requestIssue hs hissue, if_pos (by simp [hform, hgiven, hlisted]), if_neg (by simp [htry])]
  · intro s u k r t p f hs hphase hform hu
    simp only [exec, execCacheReadDone, hs.request, hs.stream, hs.part, hform, ← hu]
    refine (if_neg (not_not.mpr hphase)).trans ?_
    simp only [takeForm, hs.own]
  · intro s u k g r t b p z hs hbatch hz hdue hnew hu hno
    rw [exec_latestStartReached hs hbatch hz hdue hnew hu rfl, if_neg]
    rintro ⟨hpack, -, -, hmasked, hundecoded⟩
    rcases hno with hg | hd | hm
    · exact hg hpack
    · simp [hd] at hundecoded
    · simp [hm] at hmasked
  · intro s u v k r t b p z hs hbatch hz hdue hnew hstrict hrerun hmasked hundecoded hu hv
    have hv' : v = if !stageRuns t.cls r.cacheHit (stageIndex .pack) || r.started .pack || decide (z = s.tide.time) then u
        else markRisk k u := by
      simp only [hv, started_pack_of_undecoded hundecoded, stageIndex, stageRuns, Bool.not_true, Bool.false_or, decide_eq_true_eq]
    rw [exec_latestStartReached (g := .pack) hs hbatch hz hdue hnew hu hv', if_pos (by simp [hstrict, hrerun, hmasked, hundecoded])]
    rfl
  · intro s u k r t b p z hs hbatch hz hdue hnew hstrict hu
    rw [exec_latestStartReached (g := .pack) hs hbatch hz hdue hnew hu rfl, if_neg]
    · rfl
    · rintro ⟨-, hno, hnew, -⟩
      rcases hstrict with h | h
      · simp [h] at hno
      · simp [h] at hnew

end Sys2Proof.Machine
end

section
/-! The decode stage: flash reads, decodes in each outcome, and the faults and resets of engines (R104, R123 to R161). -/

namespace Sys2Proof.Machine

/-! ### Engines -/

section
variable {s : State} {n i : Nat} {k : EngineKind} {d : Spd} {e : Engine}

theorem updAt_congr {α : Type} {l : List α} {a : α} {f g : α → α} (ha : l[i]? = some a) (h : f a = g a) :
    updAt l i f = updAt l i g := modify_congr ha h

/-- Two changes of an engine that agree on the engine that stands are one. -/
theorem State.setEngine_congr {f g : Engine → Engine} (hd : s.spd? n = some d) (he : (d.engines k)[i]? = some e) (h : f e = g e) :
    s.setEngine n k i f = s.setEngine n k i g :=
  State.modSpd_congr hd (by rw [updAt_congr he h])

theorem engine?_eq (hd : s.spd? n = some d) (he : (d.engines k)[i]? = some e) :
    ((s.spd? n).bind fun d => (d.engines k)[i]?) = some e := by rw [hd]; exact he

/-- An engine that is out, or resetting, faults no more. -/
theorem engineFault_gone (hd : s.spd? n = some d) (he : (d.engines k)[i]? = some e) (h : e.state = .out ∨ e.state = .resetting) :
    engineFault n k i s = (none, s) := by
  simp only [engineFault, engine?_eq hd he]
  rcases h with h | h <;> rw [h]

/-- A fault of an engine in service short of the third within 24 h resets it. -/
theorem engineFault_short (hd : s.spd? n = some d) (he : (d.engines k)[i]? = some e) (hout : e.state ≠ .out)
    (hreset : e.state ≠ .resetting) (hfew : (within24h s.tide.uptime e.faults).length < 3) :
    engineFault n k i s = ((match e.state with | .held q => some q | _ => none), countContained (s.setEngine n k i fun e =>
      { e with faults := within24h s.tide.uptime e.faults, state := .resetting })) := by
  have hthird : decide (3 ≤ (within24h s.mono e.faults).length) = false := decide_eq_false (by rw [not_le]; exact hfew)
  have hset : (s.setEngine n k i fun x => { x with faults := within24h s.mono e.faults, state := .resetting }) =
      s.setEngine n k i fun e => { e with faults := within24h s.tide.uptime e.faults, state := .resetting } :=
    State.setEngine_congr hd he rfl
  simp only [engineFault, engine?_eq hd he]
  cases hstate : e.state with
  | out => exact absurd hstate hout
  | resetting => exact absurd hstate hreset
  | free => simp only [hthird, Bool.false_eq_true, if_false, hset]
  | held q => simp only [hthird, Bool.false_eq_true, if_false, hset]

/-- Where the reset test of an engine ends. -/
theorem exec_engineResetDone {n : Fin 8} (hd : s.spd? n = some d) (he : (d.engines k)[i]? = some e) (hstate : e.state = .resetting)
    (hclocked : s.clocked n = true) (passed : Bool) : exec (.engineResetDone n k i passed) s = .next
      (if passed then (s.setEngine n k i fun e => { e with state := .free }).each
        (s.run.requests.filter fun r => k == .pe && r.spd == (n : Nat)) fun r => packTakes r.key
      else engineOut n k i (s.setEngine n k i fun e => { e with state := .out })) := by
  simp only [exec, execEngineResetDone, engine?_eq hd he]
  refine (if_neg (by simp [hclocked])).trans ((if_neg (not_not.mpr hstate)).trans ?_)
  cases passed <;> rfl

end

section
variable {s u : State} {n : Fin 8} {k : ReqKey} {r : Request}

/-- A fault of a Decode Engine, by the request that held it. -/
theorem exec_decodeEngineFault {held : Option ReqKey} {e : Fin 48} (hclocked : s.clocked n = true)
    (hfault : engineFault n .de e s = (held, u)) : exec (.decodeEngineFault n e) s = .next
      (match held.bind (setEv .dec 8 u).req? with
      | none => setEv .dec 8 u
      | some r => if 1 ≤ r.deFaults then decodeFail r 0x209 (setEv .dec 8 u)
        else (backToReady r.key (setEv .dec 8 u)).modReq r.key fun q => { q with deFaults := q.deFaults + 1, avoid := some e }) := by
  simp only [exec, execDecodeEngineFault, hfault]
  refine (if_neg (by simp [hclocked])).trans ?_
  cases held.bind (setEv .dec 8 u).req? with
  | none => rfl
  | some r =>
    dsimp only
    split <;> rfl

/-- A fault of a Tokeniser Engine, by the request that held it. -/
theorem exec_txtEngineFault {held : Option ReqKey} {e : Fin 8} (hclocked : s.clocked n = true)
    (hfault : engineFault n .ke e s = (held, u)) : exec (.txtEngineFault n e) s = .next
      (match held.bind (setEv .txt 8 u).req? with
      | none => setEv .txt 8 u
      | some r => if 1 ≤ r.deFaults then txtFail r 0x20A (setEv .txt 8 u)
        else (backToReady r.key (setEv .txt 8 u)).modReq r.key fun q => { q with deFaults := q.deFaults + 1, avoid := some e }) := by
  simp only [exec, execTxtEngineFault, hfault]
  refine (if_neg (by simp [hclocked])).trans ?_
  cases held.bind (setEv .txt 8 u).req? with
  | none => rfl
  | some r =>
    dsimp only
    split <;> rfl

end

section
variable {s u : State} {k : ReqKey} {r : Request} {t : Stream} {p : Partition}

/-! ### Flash reads -/

section
variable {cs : List CodewordResult} {us : List (Nat × List CodewordResult)}

/-- A flash read whose map segments stand counts its units; then it goes by what was read. -/
theorem exec_flashReadDone (hs : Serves k r t p s) (hphase : r.phase = .flash) (hus : (readUnits p r).zip (cutGroups 8 cs) = us)
    (hmap : ((readUnits p r).any fun l => s.media.reloadSegments.contains (segmentOfLua l)) = false) (hu : unitsCounted us s = u) :
    exec (.flashReadDone k cs) s = match r.spill with
      | some e =>
        if readGood (readUnits p r) us s then
          .next (takeForm { r with spill := none, form := some e.form, decDigest := e.digest } t p e.form
            (u.modReq k fun q => { q with spill := none, form := some e.form, decDigest := e.digest }))
        else
          let b := (keepSpill r.spd (fun es => es.filter fun x => !x.isFor e.dsSlot e.index e.remote) u).modReq k fun q =>
            { q with spill := none }
          .next (if r.remote then askPeers k 1024 (b.modReq k fun q => { q with phase := .peerWait }) else b)
      | none =>
        if !readGood (readUnits p r) us s then .next (failSample k 0x0100 false u)
        else .next (enterPhase k (if t.cls = 4 then .tokenise else .decode) (if t.cls = 4 then .transform else .decode)
          ((cacheAdmit r.spd false p.dsSlot r.sample false ⟨[], p.sampleBytes r.sample⟩ 0 none u).modReq k
            fun q => { q with encoded := p.sampleBytes r.sample })) := by
  have hnot : ¬ (r.phase ≠ .flash ∨ ((readUnits p r).any fun l => s.media.reloadSegments.contains (segmentOfLua l)) = true) := by
    rw [hmap]
    simp [hphase]
  simp only [exec, execFlashReadDone, hs.request, hs.stream, hs.part, hus, ← hu]
  exact if_neg hnot

theorem readUnits_spill {e : CacheEntry} (h : r.spill = some e) : readUnits p r = e.luas := by
  simp only [readUnits, h]

end

/-! ### Decodes -/

section
variable {i : DecodeInput}

/-- A decode that has bytes goes by what its wrappers give. -/
theorem exec_decodeDone {x : Unwrapped} (hs : Serves k r t p s) (hx : Unwraps r t p s x u) : exec (.decodeDone k i) s = .next
    (match x with
    | .fails d => decodeFail r d u
    | .noRoom => berthRetry k u
    | .payload bs => decodePayload r t p bs i u) := by
  have hbytes : ¬ r.encoded.isEmpty = true := by simpa using hx.notEmpty
  simp only [exec, execDecodeDone, hs.request, hs.stream, hs.part, hx.wraps]
  refine (if_neg (not_not.mpr hx.phase)).trans ((if_neg hbytes).trans ?_)
  cases x <;> rfl

variable {bs : List Byte} {h q : Parsed} {x : Option Region} {v w : State}

/-- A payload whose header parses, by its limits. -/
theorem decodePayload_parsed (hhead : headPayload t.dec bs i.moreFrames = .ok h)
    (hq : indexedHdr (keptIndex r.spd p.dsSlot r.sample r.remote u) h = q) (hv : keepIndex r.spd p.dsSlot r.sample r.remote q.hdr u = v)
    (hx : videoWindow t (slotDraw u.seed t p r.key) q.hdr = x) : decodePayload r t p bs i u =
      match headLimits t.dec (roiOf u x) ((slotDraw u.seed t p r.key 1 0xF0 0).word 0) i.working q.hdr with
      | some d => decodeFail r d v
      | none => finishDecode r t p x q bs i v := by
  simp only [decodePayload, hhead, hq, hv, hx] <;> rfl

theorem finishDecode_noRoom (hdraw : reqDrawBerths r t p (decodeDraws t.dec (roiOf v x) q.hdr i.working) v = (false, w)) :
    finishDecode r t p x q bs i v = berthRetry r.key w := by
  simp only [finishDecode, hdraw]
  rfl

theorem finishDecode_error {d : Nat} (hdraw : reqDrawBerths r t p (decodeDraws t.dec (roiOf v x) q.hdr i.working) v = (true, w))
    (hvalues : payloadValues t.dec (roiOf v x) ((slotDraw v.seed t p r.key 1 0xF0 0).word 0) q bs i = .error d) :
    finishDecode r t p x q bs i v = decodeFail r d w := by
  simp only [finishDecode, hdraw, hvalues]
  rfl

theorem finishDecode_form {vs : List Int} {f : Form}
    (hdraw : reqDrawBerths r t p (decodeDraws t.dec (roiOf v x) q.hdr i.working) v = (true, w))
    (hvalues : payloadValues t.dec (roiOf v x) ((slotDraw v.seed t p r.key 1 0xF0 0).word 0) q bs i = .ok vs)
    (hform : decodeForm t.dec (roiOf v x) ((slotDraw v.seed t p r.key 1 0xF0 0).word 0) q.hdr i.content vs = f) :
    finishDecode r t p x q bs i v =
      let b := (w.onlyIf (roiFallback v t.dec (roiOf v x) ((slotDraw v.seed t p r.key 1 0xF0 0).word 0) q.hdr i.units)
        (setEv .dec 0x10)).modReq r.key fun q => { q with form := some f, decDigest := crc64 (f.desc ++ f.data), window := x }
      takeForm { r with window := x } t p f (if x.isSome then b
        else cacheAdmit r.spd true p.dsSlot r.sample r.remote f (crc64 (f.desc ++ f.data)) t.formParams b) := by
  simp only [finishDecode, hdraw, hvalues, hform]
  rfl

end

end

/-- Settles O8: what was read or decoded, and which engine faulted, decide how the request goes on. -/
theorem decodeStageCompletes : Obligations.DecodeStageCompletes := by
  refine ⟨?_, ?_, ?_, ?_, ?_, ?_, ?_, ?_, ?_, ?_, ?_, ?_, ?_, ?_, ?_, ?_, ?_, ?_, ?_, ?_, ?_⟩
  · intro s u k cs r t p us hs hphase hspill hus hmap hgood hu
    rw [exec_flashReadDone hs hphase hus hmap hu, hspill]
    exact if_neg (by simp [hgood])
  · intro s u k cs r t p us hs hphase hspill hus hmap hbad hu
    rw [exec_flashReadDone hs hphase hus hmap hu, hspill]
    exact if_pos (by simp [hbad])
  · intro s u k cs r t p us e hs hphase hspill hus hmap hgood hu
    rw [← readUnits_spill (p := p) hspill] at hus hmap hgood
    rw [exec_flashReadDone hs hphase hus hmap hu, hspill]
    exact if_pos hgood
  · intro s u v k cs r t p us e hs hphase hspill hus hmap hbad hu hv
    rw [← readUnits_spill (p := p) hspill] at hus hmap hbad
    rw [exec_flashReadDone hs hphase hus hmap hu, hspill]
    simp only [← hv]
    exact if_neg (by simp [hbad])
  · intro s k i r t p hs hphase hempty
    simp only [exec, execDecodeDone, hs.request, hs.stream, hs.part]
    exact (if_neg (not_not.mpr hphase)).trans (if_pos (by simp [hempty]))
  · intro s u k i r t p d hs hx
    exact exec_decodeDone hs hx
  · intro s u k i r t p hs hx
    exact exec_decodeDone hs hx
  · intro s u k i r t p bs d hs hx hhead
    rw [exec_decodeDone hs hx]
    simp only [decodePayload, hhead]
  · intro s u v k i r t p bs h q d hs hx hhead hq hv hlimit
    obtain rfl := hs.own
    rw [exec_decodeDone hs hx]
    simp only [decodePayload_parsed hhead hq hv rfl, hlimit]
  · intro s u v w k i r t p bs h q x hs hx hhead hq hv hwindow hlimit hdraw
    obtain rfl := hs.own
    rw [exec_decodeDone hs hx]
    simp only [decodePayload_parsed hhead hq hv hwindow, hlimit, finishDecode_noRoom hdraw]
  · intro s u v w k i r t p bs h q x d hs hx hhead hq hv hwindow hlimit hdraw hvalues
    obtain rfl := hs.own
    rw [exec_decodeDone hs hx]
    simp only [decodePayload_parsed hhead hq hv hwindow, hlimit, finishDecode_error hdraw hvalues]
  · intro s u v w k i r t p bs h q x vs f hs hx hhead hq hv hwindow hlimit hdraw hvalues hform
    obtain rfl := hs.own
    refine ⟨_, exec_decodeDone hs hx, ?_⟩
    simp only [decodePayload_parsed hhead hq hv hwindow, hlimit, finishDecode_form hdraw hvalues hform]
  · intro s n k i d e m hd he hm
    subst hm
    refine ⟨fun hgone => engineFault_gone hd he hgone, fun hfree hfew => ?_, fun q hheld hfew => ?_⟩
    · rw [engineFault_short hd he (by simp [hfree]) (by simp [hfree]) hfew, hfree]
    · rw [engineFault_short hd he (by simp [hheld]) (by simp [hheld]) hfew, hheld]
  · intro s u n e hclocked hfault
    exact exec_decodeEngineFault hclocked hfault
  · intro s u n e k r hclocked hfault hreq hfirst
    rw [exec_decodeEngineFault hclocked hfault]
    simp only [Option.bind_some, hreq]
    rw [if_neg (by simp [hfirst])]
  · intro s u n e k r hclocked hfault hreq hsecond
    rw [exec_decodeEngineFault hclocked hfault]
    simp only [Option.bind_some, hreq]
    rw [if_pos hsecond]
  · intro s u n e hclocked hfault
    exact exec_txtEngineFault hclocked hfault
  · intro s u n e k r hclocked hfault hreq hfirst
    rw [exec_txtEngineFault hclocked hfault]
    simp only [Option.bind_some, hreq]
    rw [if_neg (by simp [hfirst])]
  · intro s u n e k r hclocked hfault hreq hsecond
    rw [exec_txtEngineFault hclocked hfault]
    simp only [Option.bind_some, hreq]
    rw [if_pos hsecond]
  · intro s n k i d e hd he hstate hclocked
    exact exec_engineResetDone hd he hstate hclocked true
  · intro s n k i d e hd he hstate hclocked
    exact exec_engineResetDone hd he hstate hclocked false

end Sys2Proof.Machine
end

section
/-! The transform stage: its end, residue mismatches, engine faults and the wait for an engine (R176, R195 to R203). -/

namespace Sys2Proof.Machine

section
variable {s u : State} {n : Fin 8} {k : ReqKey} {r : Request}

theorem exec_transformDone {t : Stream} {p : Partition} {f : Form} (hs : Serves k r t p s) (hform : r.form = some f)
    (hphase : r.phase = .transform) : exec (.transformDone k) s = .next (enterPack k ((freeSecond r .te s).modReq k fun q =>
      { q with xfForm := some (transformForm t.xf (slotDraw s.seed t p k) r.window f)
               xfDigest := crc64 ((transformForm t.xf (slotDraw s.seed t p k) r.window f).desc ++
                 (transformForm t.xf (slotDraw s.seed t p k) r.window f).data) })) := by
  simp only [exec, execTransformDone, hs.request, hs.stream, hs.part, hform]
  exact if_neg (not_not.mpr hphase)

/-- A residue mismatch of an engine that a request holds, by the stage of the request (R195). -/
theorem exec_residueMismatch {i : Fin 32} {d : Spd} {e : Engine} (hd : s.spd? n = some d) (he : d.te[(i : Nat)]? = some e)
    (hclocked : s.clocked n = true) (hheld : e.state = .held k) (hu : mismatched n i e s = u) :
    exec (.residueMismatch n i) s = .next (match u.req? k with
      | none => u
      | some r =>
        if r.phase ≠ .transform then u
        else if 1 ≤ r.resMism then xfFail r 0x701 u
        else restartTransform k (some i) (u.modReq k fun q => { q with resMism := q.resMism + 1 })) := by
  have hengine : ((s.spd? n).bind fun d => d.te[(i : Nat)]?) = some e := by rw [hd]; exact he
  simp only [exec, execResidueMismatch, hengine, hheld]
  refine (if_neg (by simp [hclocked])).trans ?_
  change (match (mismatched n i e s).req? k with
    | none => Host.Outcome.next (mismatched n i e s)
    | some r =>
      if r.phase ≠ Phase.transform then .next (mismatched n i e s)
      else if 1 ≤ r.resMism then .next (xfFail r 0x701 (mismatched n i e s))
      else .next (restartTransform k (some i) ((mismatched n i e s).modReq k fun q => { q with resMism := q.resMism + 1 }))) = _
  rw [hu]
  cases u.req? k with
  | none => rfl
  | some r =>
    dsimp only
    split
    · rfl
    · split <;> rfl

/-- A fault of a Transform Engine, by the request that held it. -/
theorem exec_xfEngineFault {held : Option ReqKey} {e : Fin 32} (hclocked : s.clocked n = true)
    (hfault : engineFault n .te e s = (held, u)) : exec (.xfEngineFault n e) s = .next
      (match held.bind (setEv .xf 4 u).req? with
      | none => setEv .xf 4 u
      | some r =>
        if 1 ≤ r.xfFaults then xfFail r 0x702 (setEv .xf 4 u)
        else
          let c := (setEv .xf 4 u).modReq r.key fun q => { q with xfFaults := q.xfFaults + 1 }
          if r.phase = .transform then restartTransform r.key (some (e : Nat)) c
          else c.modReq r.key fun q => { q with te := none, avoidTe := some e }) := by
  simp only [exec, execXfEngineFault, hfault]
  refine (if_neg (by simp [hclocked])).trans ?_
  cases held.bind (setEv .xf 4 u).req? with
  | none => rfl
  | some r =>
    dsimp only
    split <;> rfl

end

/-- Settles O9: the end of the stage, and what the request that held the engine was doing. -/
theorem transformStageCompletes : Obligations.TransformStageCompletes := by
  refine ⟨?_, ?_, ?_, ?_, ?_, ?_, ?_, ?_, ?_, ?_, ?_⟩
  · intro s k r t p f o hs hform hphase ho
    subst ho
    exact exec_transformDone hs hform hphase
  · intro s n i d e hd he _ hfree
    have hengine : ((s.spd? n).bind fun d => d.te[(i : Nat)]?) = some e := by rw [hd]; exact he
    simp only [exec, execResidueMismatch, hengine]
    exact ite_self _
  · intro s n i e
    simp only [mismatched, decide_eq_true_eq]
    rfl
  · intro s u n i k d e r hd he hclocked hheld hu hreq hphase hfirst
    rw [exec_residueMismatch hd he hclocked hheld hu]
    simp only [hreq]
    rw [if_neg (not_not.mpr hphase), if_neg (by simp [hfirst])]
  · intro s u n i k d e r hd he hclocked hheld hu hreq hphase hsecond
    rw [exec_residueMismatch hd he hclocked hheld hu]
    simp only [hreq]
    rw [if_neg (not_not.mpr hphase), if_pos hsecond]
  · intro s u n i k d e hd he hclocked hheld hu hother
    rw [exec_residueMismatch hd he hclocked hheld hu]
    cases hreq : u.req? k with
    | none => rfl
    | some r => exact congrArg Host.Outcome.next (if_pos (hother r hreq))
  · intro s k i r d hreq hphase hd hfree havoid
    simp only [exec, execTransformRestart, hreq, hd]
    exact if_pos ⟨hphase, hfree, havoid⟩
  · intro s u n e hclocked hfault
    exact exec_xfEngineFault hclocked hfault
  · intro s u n e k r hclocked hfault hreq hfirst hphase
    rw [exec_xfEngineFault hclocked hfault]
    simp only [Option.bind_some, hreq]
    rw [if_neg (by simp [hfirst]), if_pos hphase]
  · intro s u n e k r hclocked hfault hreq hfirst hphase
    rw [exec_xfEngineFault hclocked hfault]
    simp only [Option.bind_some, hreq]
    rw [if_neg (by simp [hfirst]), if_neg hphase]
  · intro s u n e k r hclocked hfault hreq hsecond
    rw [exec_xfEngineFault hclocked hfault]
    simp only [Option.bind_some, hreq]
    rw [if_pos hsecond]

end Sys2Proof.Machine
end

section
/-! Tokenisation by chunks, vocabulary lines, and the placement of segments in slot order (R211 to R234). -/

namespace Sys2Proof.Machine

section
variable {s a u : State} {k : ReqKey} {r : Request} {t : Stream} {p : Partition}

/-- The end of a tokenisation whose chunks have all passed, by what the text gives. -/
theorem exec_tokeniseDone (hs : Serves k r t p s) (hphase : r.phase = .tokenise) (hchunks : chunkCount r ≤ r.chunks)
    (htables : textWaits r.spd s = false)
    (ha : a = if 0 < (r.tok.finish t.txt).2 then setEv .txt 1 (rawReadDone r s) else rawReadDone r s) :
    exec (.tokeniseDone k) s = match tokenise s t.txt r.encoded (r.tok.finish t.txt).1 (r.tok.finish t.txt).2 with
      | .error d => .next (txtFail r d a)
      | .ok run =>
        let drawn := reqDrawBerths r t p [4 * run.normBytes + 32] a
        let form := tokenForm t.txt r.encoded.length run
        let digest := crc64 (form.desc ++ form.data)
        if !drawn.1 then .next (berthRetry k drawn.2)
        else .next (takeForm r t p form (cacheAdmit r.spd true p.dsSlot r.sample r.remote form digest none
          (drawn.2.modReq k fun q => { q with form := some form, decDigest := digest }))) := by
  have hraw : ((rawReadDone r s).onlyIf (decide (0 < (r.tok.finish t.txt).2)) (setEv .txt 1)) = a := by
    rw [ha]
    simp only [State.onlyIf, decide_eq_true_eq]
  have hgo : ¬ (r.phase ≠ .tokenise ∨ r.chunks < chunkCount r ∨ textWaits r.spd s = true) := by
    rw [htables]
    simp [hphase, hchunks]
  simp only [exec, execTokeniseDone, hs.request, hs.stream, hs.part, hraw]
  exact if_neg hgo

end

/-- Settles O10: each command of the stage by the phase of the request and what the text gives. -/
theorem textStageCompletes : Obligations.TextStageCompletes := by
  refine ⟨?_, ?_, ?_, ?_, ?_, ?_⟩
  · intro s k r t hreq hstream hphase hchunks htables
    simp only [exec, execTokeniseChunk, hreq, hstream]
    exact if_pos ⟨hphase, hchunks, by simp [htables]⟩
  · intro s n e l d hd hclocked hmiss
    simp only [exec, execVocabLineFill, hd]
    exact (if_neg (by simp [hclocked])).trans (if_neg (by simpa using hmiss))
  · intro s a u k r t p x f hs hcls hphase hchunks htables ha hrun hdraw hf
    rw [exec_tokeniseDone hs hphase hchunks htables ha, hrun]
    subst hf
    simp only [hdraw, takeForm, hcls, hs.own]
    rfl
  · intro s a u k r t p x hs hphase hchunks htables ha hrun hdraw
    rw [exec_tokeniseDone hs hphase hchunks htables ha, hrun]
    simp only [hdraw]
    rfl
  · intro s a k r t p d hs hphase hchunks htables ha hrun
    rw [exec_tokeniseDone hs hphase hchunks htables ha, hrun]
  · intro s k r t b g x hreq hstream hbatch hphase hplaced hg hx
    subst hg
    subst hx
    simp only [exec, execTextPlacement, hreq, hstream, hbatch]
    exact if_neg (by simp [hphase, hplaced])

end Sys2Proof.Machine
end

section
/-! The pack stage: its end, engine faults and the wait for an engine (R255 to R264). -/

namespace Sys2Proof.Machine

section
variable {s u : State} {k : ReqKey} {r : Request}

/-- A packed slot, with an engine or masked in its turn: what the slot gives decides. -/
theorem exec_packDone {t : Stream} {b : Batch} {p : Partition} (hs : Serves k r t p s) (hbatch : s.batch? k.stream k.batch = some b)
    (hphase : r.phase = .pack) (hready : packReady r t p b s = true) {o : SlotOut} (ho : packSlot s.seed t p b r = o) : exec (.packDone k) s = .next
      (match o.detail with
      | some d => packFail r d s
      | none => countFixed r.spd 3 (dropReq k (releaseAll r (sendSlot t p b k.slot o (r.budgets.getD 6 0)
        ((reportDecision r (packEvents t.cls o (startStage k .egress (beginBatch k s)))).modBatch
          k.stream k.batch fun b => { b with entries := b.entries ++ [(k.slot, o.entry)] }))))) := by
  have hengine : ¬ (r.phase = .pack ∧ (!r.masked) = true ∧ r.pe.isNone = true) := by
    rintro ⟨-, hmasked, hnone⟩
    rw [Bool.not_eq_true'] at hmasked
    simp [packReady, hmasked, Option.isNone_iff_eq_none.mp hnone] at hready
  have hgo : ¬ (r.phase ≠ .pack ∨ (r.masked = true ∧ (!(slotsFree t p k.batch s && timeOpen b s)) = true)) := by
    rintro (hother | ⟨hmasked, hclosed⟩)
    · exact hother hphase
    · have hkey : r.key.batch = k.batch := by rw [hs.own]
      simp_all [packReady]
  simp only [exec, execPackDone, hs.request, hs.stream, hbatch, hs.part, ho]
  refine (if_neg hengine).trans ((if_neg hgo).trans ?_)
  cases o.detail <;> rfl

/-- The other engine of a stage divided in two: what is left of it after a fault. -/
def otherPack (r : Request) (e : Nat) : Option Nat :=
  ([r.pe, r.pe2].find? fun x => x.isSome && x != some e).getD none

theorem otherPack_of_second {e i : Nat} (hpe : r.pe = some e) (hpe2 : r.pe2 = some i) (hi : i ≠ e) : otherPack r e = some i := by
  have hne : (some i != some e) = true := by simpa using hi
  simp [otherPack, hpe, hpe2, List.find?, hne]

theorem otherPack_of_single {e : Nat} (hpe : r.pe = none ∨ r.pe = some e) (hpe2 : r.pe2 = none) : otherPack r e = none := by
  rcases hpe with hpe | hpe <;> simp [otherPack, hpe, hpe2, List.find?]

/-- A fault of a Pack Engine, by the request that held it. -/
theorem exec_packEngineFault {n : Fin 8} {held : Option ReqKey} {e : Fin 16} (hclocked : s.clocked n = true)
    (hfault : engineFault n .pe e s = (held, u)) : exec (.packEngineFault n e) s = .next
      (match held.bind (setEv .pack 0x10 u).req? with
      | none => setEv .pack 0x10 u
      | some r =>
        if 1 ≤ r.packFaults then packFail r 0x703 (setEv .pack 0x10 u)
        else
          let c := (setEv .pack 0x10 u).modReq r.key fun q =>
            { q with pe := otherPack r e, pe2 := none, packFaults := q.packFaults + 1, avoidPe := some e }
          match otherPack r e, freeOther r .pe (some e) (setEv .pack 0x10 u) with
          | none, some i => (takeRestart r.spd .pe r.key i c).modReq r.key fun q => { q with pe := some i }
          | _, _ => c) := by
  simp only [exec, execPackEngineFault, hfault]
  refine (if_neg (by simp [hclocked])).trans ?_
  cases held.bind (setEv .pack 0x10 u).req? with
  | none => rfl
  | some r =>
    dsimp only
    split
    · rfl
    · simp only [otherPack]
      cases ([r.pe, r.pe2].find? fun x => x.isSome && x != some (e : Nat)).getD none with
      | some i => rfl
      | none => cases freeOther r .pe (some (e : Nat)) (setEv .pack 0x10 u) <;> rfl

end

/-- Settles O11: what the slot gives, and which engines the request is left with. -/
theorem packStageCompletes : Obligations.PackStageCompletes := by
  refine ⟨?_, ?_, ?_, ?_, ?_, ?_, ?_, ?_, ?_⟩
  · intro s k r t b p o hs hbatch hphase hready ho hgood
    simp only [exec_packDone hs hbatch hphase hready ho, hgood]
  · intro s k r t b p o d hs hbatch hphase hready ho hbad
    simp only [exec_packDone hs hbatch hphase hready ho, hbad]
  · intro s u n e hclocked hfault
    exact exec_packEngineFault hclocked hfault
  · intro s u n e k r i hclocked hfault hreq hfirst hpe hpe2 hi
    rw [exec_packEngineFault hclocked hfault]
    simp only [Option.bind_some, hreq, otherPack_of_second hpe hpe2 hi]
    rw [if_neg (by simp [hfirst])]
  · intro s u n e k r i hclocked hfault hreq hfirst hpe hpe2 hfree
    rw [exec_packEngineFault hclocked hfault]
    simp only [Option.bind_some, hreq, otherPack_of_single hpe hpe2, hfree]
    rw [if_neg (by simp [hfirst])]
  · intro s u n e k r hclocked hfault hreq hfirst hpe hpe2 hnone
    rw [exec_packEngineFault hclocked hfault]
    simp only [Option.bind_some, hreq, otherPack_of_single hpe hpe2, hnone]
    rw [if_neg (by simp [hfirst])]
  · intro s u n e k r hclocked hfault hreq hsecond
    rw [exec_packEngineFault hclocked hfault]
    simp only [Option.bind_some, hreq]
    rw [if_pos hsecond]
  · intro s k r t b p hs hbatch hphase hmasked hpe
    simp only [exec, execPackDone, hs.request, hs.stream, hbatch, hs.part]
    exact if_pos ⟨hphase, by simp [hmasked], by simp [hpe]⟩
  · intro s k r i hreq hphase hmasked hpe hfree
    simp only [packTakes, hreq, hfree]
    exact if_pos (by simp [hphase, hmasked, hpe])

end Sys2Proof.Machine
end

section
/-! Waits of a connection: a satisfied wait is looked for on every connection of the index, each with its own queue (R280),
where the statement gives every one of them the queue of the first. -/

namespace Sys2Proof.Machine

/-- A connection of index 0 as it is made, and a WRITE of two bytes. -/
def lane0 : Conn := newConn 0 10000000 (List.replicate 64 0) State.reset

def aWrite : Wr := ⟨.write, .data 3 0 0, 0x1000, 0x10000, [1, 2], 1, 0, some 0, none, 0, 0, 2⟩

/-- Two connections of index 0, the first with nothing to send and the second with a WRITE. -/
def twoConns : State :=
  { State.reset with egr := { Egress.reset with conns := [lane0, { lane0 with queue := [aWrite] }] } }

/-- How many work requests each connection holds. -/
def queueLengths (s : State) : List Nat := s.egr.conns.map (·.queue.length)

theorem queueLengths_waitSatisfied {t : State} (h : exec (.waitSatisfied 0) twoConns = .next t) : queueLengths t = [0, 1] := by
  cases h
  decide +kernel

/-- Refutes O12, by its clause on satisfied waits: of two connections with one index, the second keeps its own queue, where
the clause leaves it that of the first, which is empty. -/
theorem not_requesterCompletes : ¬ Obligations.RequesterCompletes := by
  rintro ⟨-, -, -, -, -, -, -, -, -, -, -, -, -, -, -, -, -, hwait, -⟩
  obtain ⟨t, hexec, ht⟩ := hwait twoConns 0 (lane0) [] rfl rfl
  have hmodel : queueLengths t = [0, 1] := queueLengths_waitSatisfied hexec
  have hclaim : queueLengths t = [0, 0] := by
    rw [ht]
    decide +kernel
  rw [hmodel] at hclaim
  exact absurd hclaim (by decide)

end Sys2Proof.Machine
end

section
/-! What arrives on a connection that takes it, and RDMA WRITE, READ, CNP and refused packets at the responder (R269 to R282). -/

namespace Sys2Proof.Machine

/-! ### Arrival -/

section
variable {s : State} {c : Conn} {p : RxPacket}

/-- A wake from Noon or Dawn, with no entry under way, does nothing. -/
theorem wake_of_awake (h : s.asleep = false) (i : Nat) (level : Bool) : wake i level s = s := by
  simp only [State.asleep, Bool.or_eq_false_iff, Option.isSome_eq_false_iff, Option.isNone_iff_eq_none] at h
  obtain ⟨⟨hentry, hdusk⟩, hnight⟩ := h
  simp only [wake, hentry]
  cases hstate : s.pwr.state <;> simp_all

theorem packetIn_asleep (c : Conn) (s : State) : (packetIn c s).asleep = s.asleep := by
  simp only [State.asleep, packetIn, countPerf_pwr]

theorem packetIn_conn? (c : Conn) (i : Nat) (s : State) : (packetIn c s).conn? i = s.conn? i := by
  simp only [State.conn?, packetIn, countPerf_egr]

/-- On a connection that hears, with the SPDs that the packet needs awake, the packet is delivered. -/
theorem receive_of_hears (h : Hears c s) (hawake : p.needsSpd = false ∨ s.asleep = false) (hfits : p.size c ≤ 9216) :
    receive c.idx p s = restoreCredits c.idx (deliver c.idx p (packetIn c s)) := by
  have hgo : ¬ (c.error.isSome || s.egr.txOff || !bitOf s.egr.linksUp c.onLink || decide (9216 < p.size c)) = true := by
    simp [h.noError, h.powered, h.linkUp, hfits]
  have hcounted : (packetIn c s).onlyIf (p.needsSpd || !c.resident) (wake 3 true) = packetIn c s := by
    rcases hawake with hneeds | hs
    · simp [State.onlyIf, hneeds, h.resident]
    · simp only [State.onlyIf, wake_of_awake ((packetIn_asleep c s).trans hs), ite_self]
  have htake : (c.resident && !((p.needsSpd || !c.resident) && (packetIn c s).asleep)) = true := by
    rcases hawake with hneeds | hs
    · simp [hneeds, h.resident]
    · simp [packetIn_asleep, hs, h.resident]
  simp only [receive, h.here]
  refine (if_neg hgo).trans ?_
  rw [← packetIn, hcounted]
  exact if_pos htake

/-- A packet that a connection takes is processed. -/
theorem receive_of_takes {a : State} {d : Conn} (h : Takes c p s a d) : receive c.idx p s = restoreCredits c.idx (process d p a) := by
  have hconn : (sendCnp c p.ce ((packetIn c s).modConn c.idx fun c => if p.protected then { c with tagFails := 0 } else c)).conn?
      c.idx = some d := by
    have htaken := h.taken
    rw [packetTaken] at htaken
    rw [htaken, h.conn]
  rw [receive_of_hears h.hears h.awake h.fits, deliver]
  simp only [packetIn_conn?, h.hears.here, h.hears.noError, h.tag, hconn]
  rw [← h.taken]
  rfl

/-- Every packet comes by its own command. -/
theorem exec_arrival (i : Nat) (p : RxPacket) (s : State) : exec (arrival i p) s = .next (receive i p s) := by
  cases p <;> rfl

theorem exec_arrival_takes {a : State} {d : Conn} (h : Takes c p s a d) :
    exec (arrival c.idx p) s = .next (restoreCredits c.idx (process d p a)) := by
  rw [exec_arrival, receive_of_takes h]

end

/-! ### Writes and reads -/

section
variable {a : State} {d : Conn} {w : Wire} {key : Word} {va len : Nat} {f l : Bool} {bs : List Byte}

theorem landWrite_fits (i : Nat) (psn : BitVec 24) (at_ : Nat) {left : Nat} (hle : bs.length ≤ left) (hlast : l = true → bs.length = left) :
    landWrite i psn key at_ left l bs a =
      let b := (writeJob at_ bs a).modConn i fun c =>
        { c with rxMsg := if l then none else some (key, at_ + bs.length, left - bs.length), msn := c.msn + flag l }
      advanceRq i 1 (if l then answer i 0 psn (endMessage i key b) else b) :=
  if_neg (by
    rintro (hlt | ⟨hl, hne⟩)
    · omega
    · exact hne (hlast hl))

/-- The packet of a WRITE that is next, by whether it begins a message and whether one is under way. -/
theorem rxWrite_expected (hplace : psnPlace d w.psn = .expected) : rxWrite d w key va len f l bs a =
    if f then
      if d.rxMsg.isSome then invalidRequest d.idx w.psn a
      else if mayAccess d key va len 2 a then
        landWrite d.idx w.psn key va len l bs (a.modMooring (fieldOf key 16 16) fun m => { m with inflight := m.inflight ++ [d.idx] })
      else refuseAccess d.idx w.psn a
    else match d.rxMsg with
      | some (k, at_, left) => landWrite d.idx w.psn k at_ left l bs a
      | none => invalidRequest d.idx w.psn a := by
  simp only [rxWrite, hplace] <;> rfl

/-- A READ that is next, outside a message. -/
theorem rxRead_expected (hplace : psnPlace d w.psn = .expected) (hidle : d.rxMsg = none) : rxRead d w key va len a =
    if mayAccess d key va len 1 a then
      match a.keyed key with
      | none => a
      | some m => advanceRq d.idx (d.packets len) (postResponse d d.rqPsn va key (mooringBytes m va len a)
          ((a.modMooring m.idx fun m => { m with inflight := m.inflight ++ [d.idx] }).modConn d.idx fun c => { c with msn := c.msn + 1 }))
    else refuseAccess d.idx w.psn a := by
  simp only [rxRead, hplace, hidle] <;> rfl

end

/-- Settles O13: a packet taken is processed by its place and what the key admits. -/
theorem responderCompletes : Obligations.ResponderCompletes := by
  refine ⟨?_, ?_, ?_, ?_, ?_, ?_, ?_, ?_, ?_, ?_, ?_⟩
  · intro s a c d w key va len l bs h hidx hplace hidle hmay hle hlast
    refine ⟨_, exec_arrival_takes h, ?_⟩
    simp only [process, rxWrite_expected hplace, hidle, hmay, landWrite_fits _ _ _ hle hlast, hidx]
    rfl
  · intro s a c d w key k va len at_ left l bs h hidx hplace hmsg hle hlast
    refine ⟨_, exec_arrival_takes h, ?_⟩
    simp only [process, rxWrite_expected hplace, hmsg, landWrite_fits _ _ _ hle hlast, hidx]
    rfl
  · intro s a c d w key va len l bs h hidx hplace hidle hmay
    refine (exec_arrival_takes h).trans ?_
    simp only [process, rxWrite_expected hplace, hidle, hmay, hidx]
    rfl
  · intro s a c d w key va len h hidx hplace hidle hmay
    refine (exec_arrival_takes h).trans ?_
    simp only [process, rxRead_expected hplace hidle, hmay, hidx]
    rfl
  · intro s a c d w key va len x f l bs hidx hplace
    refine ⟨fun h => (exec_arrival_takes h).trans ?_, fun h => (exec_arrival_takes h).trans ?_⟩
    · simp only [process, rxWrite, hplace, hidx]
    · simp only [process, rxRead, hplace, hidx] <;> rfl
  · intro s a c d w key va len f l bs hidx hplace
    refine ⟨fun h => (exec_arrival_takes h).trans ?_, fun h => (exec_arrival_takes h).trans ?_⟩
    · simp only [process, rxWrite, hplace, hidx]
    · simp only [process, rxRead, hplace, hidx]
  · intro s a c d w key va len m h hidx hplace hidle hmay hkeyed
    refine (exec_arrival_takes h).trans ?_
    simp only [process, rxRead_expected hplace hidle, hmay, hkeyed, hidx]
    rfl
  · intro s a c d w key va len f l bs h hidx hplace hf
    refine (exec_arrival_takes h).trans ?_
    simp only [process, rxWrite_expected hplace, hf, hidx]
    cases hmsg : d.rxMsg <;> rfl
  · intro s a c d ce h hidx
    refine ⟨_, exec_arrival_takes h, ?_⟩
    simp only [process, rxCnp, hidx]
    rfl
  · intro s a c d k ce h hk
    refine (exec_arrival_takes h).trans ?_
    rcases hk with rfl | rfl <;> rfl
  · intro s a c d k ce h hidx hother hmad
    refine (exec_arrival_takes h).trans ?_
    simp only [process, rxBad, hidx]
    cases k with
    | otherTransport => exact absurd rfl hother
    | qp1Mad => exact absurd rfl hmad
    | atomic | writeImm | sendImmOrInv | memWindow | sendTooLong => rfl

end Sys2Proof.Machine
end

section
/-! Messages, returns and the peer-read protocol, as responder and as requester (R271, R278, R288 to R297). -/

namespace Sys2Proof.Machine

section
variable {s a : State} {c d : Conn} {w : Wire} {bs : List Byte}

/-! ### Messages -/

/-- The four commands that bring a message. -/
theorem exec_message {q : Instr} (i : Nat) (w : Wire) (bs : List Byte) (s : State)
    (hq : q = .returnRx i w bs ∨ q = .peerReqRx i w bs ∨ q = .peerRspRx i w bs ∨ q = .peerDoneRx i w bs) :
    exec q s = .next (receive i (.message w bs) s) := by
  rcases hq with rfl | rfl | rfl | rfl <;> rfl

theorem exec_message_takes {q : Instr} (h : Takes c (.message w bs) s a d)
    (hq : q = .returnRx c.idx w bs ∨ q = .peerReqRx c.idx w bs ∨ q = .peerRspRx c.idx w bs ∨ q = .peerDoneRx c.idx w bs) :
    exec q s = .next (restoreCredits c.idx (rxMessage d w bs a)) := by
  rw [exec_message c.idx w bs s hq, receive_of_takes h, process]

/-- A message that is next, of at most 64 bytes, outside a WRITE and with a credit, is acknowledged and acted on. -/
theorem rxMessage_taken (hplace : psnPlace d w.psn = .expected) (hlen : bs.length ≤ 64) (hidle : d.rxMsg = none) (hcredit : d.credits ≠ 0) :
    rxMessage d w bs a = takeMessage d bs (acknowledged d w a) := by
  have hfits : ¬ 64 < bs.length := not_lt.mpr hlen
  simp only [rxMessage, hplace, hfits, if_false, hidle, hcredit]
  rfl

theorem rxMessage_noCredit (hplace : psnPlace d w.psn = .expected) (hlen : bs.length ≤ 64) (hidle : d.rxMsg = none)
    (hcredit : d.credits = 0) : rxMessage d w bs a = answer d.idx 4 w.psn a := by
  have hfits : ¬ 64 < bs.length := not_lt.mpr hlen
  simp only [rxMessage, hplace, hfits, if_false, hidle, hcredit]
  rfl

/-- A message that is too long, or within a WRITE, is an invalid request. -/
theorem rxMessage_invalid (hplace : psnPlace d w.psn = .expected) (hbad : 64 < bs.length ∨ d.rxMsg ≠ none) :
    rxMessage d w bs a = invalidRequest d.idx w.psn (if 64 < bs.length then countRefused a else a) := by
  simp only [rxMessage, hplace]
  by_cases hlong : 64 < bs.length
  · simp only [if_pos hlong]
  · simp only [if_neg hlong, Option.isSome_iff_ne_none.mpr (hbad.resolve_left hlong), if_true]

/-- What a peer's message asks, by its magic, length and CRC. -/
theorem takeMessage_request (hpeer : d.peer = true) (hlen : bs.length = 64) (hmagic : byteField bs 0 4 = 0x51525051)
    (hcrc : byteField bs 60 4 = (crc32c (bs.take 60)).toNat) (u : State) : takeMessage d bs u = takePeerReq d bs u := by
  simp [takeMessage, hpeer, hlen, hmagic, hcrc]

theorem takeMessage_response (hpeer : d.peer = true) (hlen : bs.length = 64) (hmagic : byteField bs 0 4 = 0x53525051)
    (hcrc : byteField bs 60 4 = (crc32c (bs.take 60)).toNat) (u : State) : takeMessage d bs u = takePeerRsp d bs u := by
  simp [takeMessage, hpeer, hlen, hmagic, hcrc]

theorem takeMessage_done (hpeer : d.peer = true) (hlen : bs.length = 32) (hmagic : byteField bs 0 4 = 0x4E445051)
    (hcrc : byteField bs 28 4 = (crc32c (bs.take 28)).toNat) (u : State) : takeMessage d bs u = takePeerDone d bs u := by
  simp [takeMessage, hpeer, hlen, hmagic, hcrc]

theorem takeMessage_lane (hlane : d.peer = false) (u : State) : takeMessage d bs u = takeReturn d.idx bs u := by
  simp [takeMessage, hlane]

/-! ### Peer reads -/

/-- The oldest of a peer's requests that is not served yet, named by its tag. -/
theorem exec_peerServeReady {i : Nat} {v : Serve} {tag : Half} (hconn : s.conn? i = some c)
    (holdest : (c.serves.find? fun v => !v.ready) = some v) (htag : v.tag = tag.toNat) (failed : Bool) :
    exec (.peerServeReady i tag failed) s = .next
      (let dropped := (returnBuffers v.spd 3 v.bytes.length s).modConn i fun c => { c with serves := c.serves.erase v }
      if failed then peerRefuse i v.tag 2 dropped
      else match freeIndex s with
        | some n => serveMooring i n v s
        | none => peerRefuse i v.tag 3 dropped) := by
  simp only [exec, execPeerServeReady, hconn, holdest]
  refine (if_neg (not_not.mpr htag)).trans ?_
  cases failed with
  | true => rfl
  | false => cases freeIndex s <;> rfl

/-- The end of a peer read of a request, by whether the range is whole. -/
theorem exec_peerReadDone {i : Nat} {tag : Half} {r : Request} {t : Stream} (hreq : peerRequest i tag.toNat s = some r)
    (hstream : s.stream? r.key.stream = some t) (complete : Bool) : exec (.peerReadDone i tag complete) s = .next
      (if !complete then
        peerFailed r.key true (postSend i .peerDone (peerDoneBytes tag.toNat) (s.modConn i fun c =>
          { c with queue := c.queue.filter fun w => w.owner != .peerRead r.key }))
      else if s.anyWr (· == .peerRead r.key) ∨ s.anyWr (· == .peerReq r.key) then s
      else if crc32c r.encoded ≠ r.peerCrc then peerFailed r.key false (postSend i .peerDone (peerDoneBytes tag.toNat) s)
      else enterPhase r.key (if t.cls = 4 then .tokenise else .decode) (if t.cls = 4 then .transform else .decode)
        (cacheAdmit r.spd false t.dsSlot r.sample true ⟨[], r.encoded⟩ 0 none (postSend i .peerDone (peerDoneBytes tag.toNat) s))) := by
  simp only [exec, execPeerReadDone, hreq, hstream]
  repeat' split
  all_goals rfl

end

/-- Settles O14: a message goes by its place and length, a peer read by its range and CRC. -/
theorem messagesComplete : Obligations.MessagesComplete := by
  refine ⟨?_, ?_, ?_, ?_, ?_, ?_, ?_, ?_, ?_, ?_, ?_, ?_, ?_⟩
  · intro s a c d w bs h hidx hlane hplace hlen hidle hcredit
    rw [exec_message_takes h (.inl rfl), rxMessage_taken hplace hlen hidle hcredit, takeMessage_lane hlane, hidx]
  · intro s a c d w bs h hidx hpeer hplace hlen hidle hcredit hmagic hcrc
    rw [exec_message_takes h (.inr (.inl rfl)), rxMessage_taken hplace hlen.le hidle hcredit, takeMessage_request hpeer hlen hmagic hcrc]
  · intro s a c d w bs h hidx hpeer hplace hlen hidle hcredit hmagic hcrc
    rw [exec_message_takes h (.inr (.inr (.inl rfl))), rxMessage_taken hplace hlen.le hidle hcredit,
      takeMessage_response hpeer hlen hmagic hcrc]
  · intro s a c d w bs h hidx hpeer hplace hlen hidle hcredit hmagic hcrc
    rw [exec_message_takes h (.inr (.inr (.inr rfl))), rxMessage_taken hplace (by omega) hidle hcredit,
      takeMessage_done hpeer hlen hmagic hcrc]
  · intro s a c d w bs q h hidx hq
    rw [exec_message_takes h hq]
    refine ⟨fun x hplace => ?_, fun hplace => ?_, fun hplace hlen hidle hcredit => ?_⟩
    · simp only [rxMessage, hplace, hidx]
    · simp only [rxMessage, hplace, hidx]
    · rw [rxMessage_noCredit hplace hlen hidle hcredit, hidx]
  · intro s a c d w bs q h hidx hq hplace hbad
    rw [exec_message_takes h hq, rxMessage_invalid hplace hbad, hidx]
    rfl
  · intro s i c v tag n hconn holdest htag hfree
    simp only [exec_peerServeReady hconn holdest htag, hfree]
    rfl
  · intro s i c v tag hconn holdest htag
    exact exec_peerServeReady hconn holdest htag true
  · intro s i c v tag hconn holdest htag hfull
    simp only [exec_peerServeReady hconn holdest htag, hfull]
    rfl
  · intro s i c v tag hconn hserve hhold
    have hfound : ((s.conn? i).bind fun c => c.serves.find? fun v => v.ready && v.tag == tag.toNat) = some v := by
      rw [hconn]
      exact hserve
    simp only [exec, execPeerHoldExpiry, hfound]
    exact if_pos hhold
  · intro s i tag r t hreq hstream hread hasked hcrc
    rw [exec_peerReadDone hreq hstream, if_neg (by simp), if_neg (by simp [hread, hasked]), if_neg (not_not.mpr hcrc)]
  · intro s i tag r t hreq hstream hread hasked hcrc
    rw [exec_peerReadDone hreq hstream, if_neg (by simp), if_neg (by simp [hread, hasked]), if_pos hcrc]
  · intro s i tag r t hreq hstream
    exact exec_peerReadDone hreq hstream false

end Sys2Proof.Machine
end

section
/-! A link that goes down: the model raises the reason of the health record before it clears the link and sets its event, so
that the message of the health source goes out before that of the egress source (R376, R480). The statement has them the
other way round. -/

namespace Sys2Proof.Machine

/-- A port that sends MSI-X messages. -/
def sendingPort : HostPort :=
  { HostPort.reset with linkUp := true, vecMask := 0, cfg := { PciConfig.reset with busMaster := true, msixOn := true } }

/-- Link 0 is up; Port A is told of egress events and Port B of health events. -/
def linkZeroUp : State :=
  { State.reset with
    rw := { State.reset.rw with irqEnA := 0x40, irqEnB := 0x2000 }
    egr := { Egress.reset with linksUp := 1 }
    host := { State.reset.host with portA := sendingPort, portB := sendingPort } }

/-- The ports that messages went to, the last first. -/
def messagePorts (s : State) : List Port :=
  s.out.filterMap fun o => match o with
    | .msix p _ _ => some p
    | _ => none

theorem messagePorts_linkDown {t : State} (h : exec (.linkDown 0 true) linkZeroUp = .next t) : messagePorts t = [.a, .b] := by
  cases h
  decide +kernel

/-- Refutes O15, by its first clause: with egress events enabled on Port A and health events on Port B, the message on Port B
goes out first, and not the one on Port A. -/
theorem not_linksComplete : ¬ Obligations.LinksComplete := by
  rintro ⟨hdown, -⟩
  have hmodel : messagePorts _ = [.a, .b] := messagePorts_linkDown (hdown linkZeroUp 0 true (by decide +kernel))
  exact absurd hmodel (by decide +kernel)

end Sys2Proof.Machine
end

section
/-! Release tokens: the return that a token answers is named by the slot of the receiver it goes to (R288). The statement takes
the slot from each member that it changes. -/

namespace Sys2Proof.Machine

/-- A receiver of lane 0 with one slot of the buffer. -/
def oneSlot : Member := ⟨[0], 1, 0x1000, 0x9000, 0x800, 0x10000, 0x10001, false, []⟩

/-- A stream with two groups of one number, the second receiver with two slots and with the return of batch 1 in slot 1. -/
def twoGroups : Stream :=
  ⟨3, 5, 0, 1, 0, 0, 2, false, 10, ⟨0, [], [], 1, 1, 1, 0⟩,
    ⟨0, 8, 8, 100, 100, 100, 0, 8, 8, 0, 0, 0, 0, 0, 0, 0, 0, 0, 0, 0, [0, 0, 0], [1, 1, 1]⟩,
    ⟨0, 0, 0, 0, 0, 0, 0, 0, 0, 0, 0, 1, 2, 0, 16, 16, 1, 0, 0⟩, ⟨[⟨0, 0, 0, 0⟩], 0, 0, 3, 0, 0, 0, 0⟩, [0],
    [⟨0, false, [oneSlot]⟩, ⟨0, false, [{ oneSlot with d := 2, returns := [(1, 1)] }]⟩], [], .running, 0, 0, none, []⟩

/-- Four samples in one partition. -/
def fourSamples : Partition := ⟨0, 5, 4, 1, 0, 1, [], true, 4, 5, 4, 4, none, [(0, 0, 4)], [], [], 0, [], []⟩

/-- Batch 1 of the stream, its header sent. -/
def headerOut : Batch := { newBatch 3 1 ⟨9, 0⟩ 0 with headers := [0], headerSent := true }

/-- The stream, its partition and its lane, with SPD 0 serving. -/
def tokenDue : State :=
  { State.reset with
    run := { JobRun.reset with streams := [twoGroups], batches := [headerOut] }
    media := { Media.reset with partitions := [fourSamples] }
    fab := { Fabric.reset with spds := [{ Spd.reset with serving := true }] }
    egr := { Egress.reset with conns := [lane0] } }

/-- The returns that the members of each group of each stream hold. -/
def returnsHeld (s : State) : List (List (List (List (Nat × Nat)))) :=
  s.run.streams.map fun t => t.groups.map fun g => g.members.map (·.returns)

theorem returnsHeld_releaseTokenSend {t : State} (h : exec (.releaseTokenSend 3 1 0) tokenDue = .next t) :
    returnsHeld t = [[[[]], [[(1, 1)]]]] := by
  cases h
  decide +kernel

/-- Refutes O16, by its clause on release tokens: the token of slot 0 leaves the second group its return in slot 1, which the
clause takes away. -/
theorem not_deliveryCompletes : ¬ Obligations.DeliveryCompletes := by
  rintro ⟨-, -, -, htoken⟩
  have hexec := htoken tokenDue 3 1 0 twoGroups headerOut fourSamples ⟨0, false, [oneSlot]⟩ oneSlot 0 (0, oneSlot)
    (by decide +kernel) (by decide +kernel) (by decide +kernel) (by decide +kernel) (by decide +kernel) rfl (by decide +kernel) rfl
    (by decide +kernel) (by decide +kernel)
  have hmodel : returnsHeld _ = [[[[]], [[(1, 1)]]]] := returnsHeld_releaseTokenSend hexec
  exact absurd hmodel (by decide +kernel)

end Sys2Proof.Machine
end
